-- ==== Sys2Proof/Word.lean ====
section
/-! DEFINITION. Words of the K980: the widths of 00_scope.md's numbers (R11) and the table type that holds sparse state. -/

namespace Sys2Proof

/-- A byte. -/
abbrev Byte := BitVec 8
/-- A two-byte field. -/
abbrev U16 := BitVec 16
/-- A four-byte field. -/
abbrev U32 := BitVec 32
/-- An eight-byte field. -/
abbrev U64 := BitVec 64

/-- A context number, 0 to 255 (R329). -/
abbrev CtxId := BitVec 8
/-- A host port, 0 or 1 (R361). -/
abbrev HostPort := BitVec 1
/-- A Selyn port, SL0 to SL9 (R390). -/
abbrev SelynPort := Fin 10
/-- A run of bytes: a command block, a descriptor, a payload. -/
abbrev Bytes := List Byte

/-- Sparse plain data by number: keys rising, an absent key reads as a default the reader gives. -/
abbrev Tab (α : Type) := List (Nat × α)

end Sys2Proof
end

