-- ==== Sys2Proof/Syntax.lean ====
section
/-! DEFINITION. The commands of the K980: one constructor of `Instr` per row of spec/opcode_table.json, with the row's operands. -/

namespace Sys2Proof

/-- The twelve sequencers, in the order of their IDs (R20, R30). -/
inductive SeqId where
  | steppeW | steppeE | gorgeW | gorgeE | glenScanW | glenScanE
  | glenRefine | glenWalk | text | serving | packer | maint
deriving DecidableEq, Repr

/-- A descriptor as the dispatch unit holds it: the ring it came from, its index there and its 64 bytes (R375). -/
structure Desc where
  ctx   : CtxId
  ring  : BitVec 2
  index : U16
  bytes : Bytes
deriving DecidableEq, Repr

/-- The name of a place an error is counted at (R432): kind, bytes a, b and c, and the row. -/
structure Location where
  kind : BitVec 4
  a    : Byte
  b    : Byte
  c    : Byte
  row  : U32
deriving DecidableEq, Repr

/-- What detected an error (the rows of R428). -/
inductive Detection where
  | descriptorCrc          -- R377
  | imageDigest            -- R32
  | uncorrectableRead      -- R319, R422
  | hostCheck              -- R327, R424
  | residueSteppe          -- R86
  | residueGorgeGlen       -- R85 in Gorge or Glen
  | selectorOrder          -- R426
  | mergeConflict          -- R241
  | malformedList          -- R242
  | corrected              -- a read that returned corrected data: no error in the sense of R428 and no replay, but counted (R320)
deriving DecidableEq, Repr

/-- What a read was reading when it found an uncorrectable parcel (the rows of R325), beyond what the object itself tells. -/
inductive ReadUse where
  | fetch                  -- an instruction fetch from step memory
  | kvPage (slot : U16)    -- a KV page of a request
  | slotStore (slot : U16) -- a request's slot store
  | saveRestore            -- a save area at restore
  | dmaSource              -- a DMA command's source
  | dmaMerge               -- a destination parcel that a DMA transfer writes in part (R514)
  | other                  -- any other reader
deriving DecidableEq, Repr

/-- One error episode (R428 to R431): what was detected, where it is counted, whose work it was, the range read, and whether
the one replay passed. -/
structure Episode where
  what     : Detection
  ctx      : CtxId
  use      : ReadUse
  isImage  : Bool          -- the range lies in a step image, not a placement object
  object   : U32
  offset   : U64
  length   : U32
  loc      : Location
  passed   : Bool
  loc2     : Option Location  -- a second place, when the replay itself detected an error elsewhere (R431)
  direct   : Option (BitVec 2 × U16)  -- ring and index of the direct descriptor whose operation met it; of a failed ring read, the ring (R429)
deriving DecidableEq, Repr

/-- What scrub finds in a code word or parcel (R323). -/
inductive ScrubFind where
  | clean | corrected | uncorrectable
deriving DecidableEq, Repr

/-- A request presented to an arbiter (R338): who, its base priority, whether it is urgent (R339), the sequencer whose command it serves, if one does
(R58, R344), and whether it is withdrawn once granted and before its first transfer (R343; log 152). -/
structure ArbReq where
  who    : Nat
  base   : BitVec 4
  urgent : Bool
  work   : Option (CtxId × SeqId)
  leaves : Bool
deriving DecidableEq, Repr

/-- A configuration write of a port's MSI-X Enable and Function Mask bits (R383). -/
structure MsixControl where
  port : HostPort
  on   : Bool
  mask : Bool
deriving DecidableEq, Repr

/-- How the retrain of a port ends in a link loss: in time, or because the far end has lost its training (R398, R405). -/
structure RetrainEnd where
  port    : SelynPort
  farLost : Bool
deriving DecidableEq, Repr

/-- The first fields of a LOST or REJOIN parcel: the index that the parcel comes from and the lowest index of its range (R405). -/
structure RangeFrom where
  origin : U16
  low    : U16
deriving DecidableEq, Repr

/-- The header fields of a received frame (R395). -/
structure FrameHdr where
  last    : Bool
  seq     : BitVec 12
  ack     : BitVec 12
  vc      : BitVec 2
  cvc     : BitVec 2
  credits : BitVec 6
  dest    : BitVec 10
  ctx     : CtxId
  stream  : U16
deriving DecidableEq, Repr

/-- The fields of an ARRIVE parcel (R405). -/
structure ArriveRec where
  origin   : U16
  pass     : U32
  counter  : U16
  ctx      : CtxId
  reduced  : Bool
  own      : U64
  earliest : U64
  latest   : U64
  latestIx : U16
  earliestIx : U16
deriving DecidableEq, Repr

/-- The fields of a training record (R392): the far end's identity and its LINK.TREE fields. -/
structure TrainRec where
  member   : U16
  stepping : Byte
  port     : BitVec 4
  uplink   : BitVec 4
  children : BitVec 10
  size     : BitVec 10
  treeId   : U16
deriving DecidableEq, Repr

/-- A register image kept on the card (R471): BAR0 offset and value. -/
structure RtRecord where
  offset : U32
  value  : U64
deriving DecidableEq, Repr

/-- One location counter entry (R433). -/
structure Counter where
  loc      : Location
  selftest : Bool
  restored : Bool
  count    : U32
  next     : U32
  time     : U64
deriving DecidableEq, Repr

/-- A resident shard's record on the card (R471). -/
structure ShardRecord where
  shard  : BitVec 6
  record : Bytes           -- the 64-byte GLEN class record (R387)
  object : U32
  vobj   : U32
  gobj   : U32
deriving DecidableEq, Repr

/-- A checkpoint as the card holds it (R471, R472): its header fields and payload sections. -/
structure Ckpt where
  seq        : U64
  deviceId   : Bytes
  tagOk      : Bool        -- magic, version and tag pass under R473
  time       : U64
  fwid       : U64
  blocks     : List Nat
  rt         : List RtRecord
  detected   : List Counter
  correctable : List Counter
  manifests  : Tab (List (U32 × U64))
  dropped    : Bool        -- flag [0] of the manifest section: some manifests did not fit
  shards     : List ShardRecord
  bundle     : Bytes
  wear       : Tab U32
  remaining  : BitVec 14
  days       : U16
deriving DecidableEq, Repr

/-- What the Vesper socket holds at Dawn (R469, R470). -/
structure Socket where
  present : Bool
  genuine : Bool
  serial  : BitVec 128
  ckpts   : List Ckpt
deriving DecidableEq, Repr

/-- The commands. Operands common to many: `c` the context, `q` the sequencer that executes or issued it, `b` a command block's
bytes as the engine's queue holds it (parameter substitutions applied, R93, R518), `w` and `e` the two copies of a Steppe
command, `d` a descriptor, `p` the host port of a write or event, `n` a Selyn port, `h` a frame's header. -/
inductive Instr where
  -- sequencer instructions (R38)
  | nop (c : CtxId) (q : SeqId)
  | issue (c : CtxId) (q : SeqId) (engine : Byte) (len : Byte) (b : Bytes)
  | queueClaim (c : CtxId) (q : SeqId)
  | waitdone (c : CtxId) (q : SeqId) (engine : Byte) (most : U32)
  | signal (c : CtxId) (q : SeqId) (counter : U16) (inc : U32)
  | wait (c : CtxId) (q : SeqId) (counter : U16) (threshold : U32)
  | acquire (c : CtxId) (q : SeqId) (counter : U16)
  | release (c : CtxId) (q : SeqId) (counter : U16)
  | setp (c : CtxId) (q : SeqId) (r : BitVec 4) (imm : U32)
  | ldp (c : CtxId) (q : SeqId) (r : BitVec 4) (word : BitVec 3)
  | addi (c : CtxId) (q : SeqId) (r : BitVec 4) (imm : U32)
  | brz (c : CtxId) (q : SeqId) (r : BitVec 4) (target : U32)
  | brnz (c : CtxId) (q : SeqId) (r : BitVec 4) (target : U32)
  | jmp (c : CtxId) (q : SeqId) (target : U32)
  | stepend (c : CtxId) (q : SeqId)
  | saddle (c : CtxId) (q : SeqId) (entry : U16)
  | halt (c : CtxId) (q : SeqId)
  | trap (c : CtxId) (q : SeqId) (code : U32)
  -- Steppe and rim units, engine 0x00
  | loadr (c : CtxId) (w e : Bytes)
  | matmul (c : CtxId) (w e : Bytes)
  | grouped (c : CtxId) (w e : Bytes)
  | rimAdd (c : CtxId) (w e : Bytes)
  | rimMul (c : CtxId) (w e : Bytes)
  | scaleBias (c : CtxId) (w e : Bytes)
  | convert (c : CtxId) (w e : Bytes)
  | gelu (c : CtxId) (w e : Bytes)
  | geluTanh (c : CtxId) (w e : Bytes)
  | silu (c : CtxId) (w e : Bytes)
  | softmax (c : CtxId) (w e : Bytes)
  | layernorm (c : CtxId) (w e : Bytes)
  | rmsnorm (c : CtxId) (w e : Bytes)
  | l2norm (c : CtxId) (w e : Bytes)
  | meanpool (c : CtxId) (w e : Bytes)
  | rope (c : CtxId) (w e : Bytes)
  | siluMul (c : CtxId) (w e : Bytes)
  | route (c : CtxId) (w e : Bytes)
  | sample (c : CtxId) (w e : Bytes)
  | dropr (c : CtxId) (w e : Bytes)
  -- Gorge, engine 0x01
  | lookup (c : CtxId) (q : SeqId) (b : Bytes)
  | update (c : CtxId) (q : SeqId) (b : Bytes)
  -- Glen, engines 0x02 to 0x05; `copies` are the blocks its engines hold (R203)
  | searchCommand (c : CtxId) (copies : List Bytes)
  | writeInsert (c : CtxId) (q : SeqId) (b : Bytes)
  | writeDelete (c : CtxId) (q : SeqId) (b : Bytes)
  -- selector, engine 0x06
  | topk (c : CtxId) (q : SeqId) (b : Bytes)
  | merge (c : CtxId) (q : SeqId) (b : Bytes)
  -- text engine, engines 0x07 to 0x09
  | tokenizeCommand (c : CtxId) (q : SeqId) (b : Bytes)
  | detokenizeCommand (c : CtxId) (q : SeqId) (b : Bytes)
  | grammarReset (c : CtxId) (q : SeqId) (b : Bytes)
  | grammarMask (c : CtxId) (q : SeqId) (b : Bytes)
  | grammarAdvance (c : CtxId) (q : SeqId) (b : Bytes)
  -- packer, engine 0x0A
  | pack (c : CtxId) (q : SeqId) (b : Bytes)
  -- serving unit, engine 0x0B
  | list (c : CtxId) (q : SeqId) (b : Bytes)
  | accept (c : CtxId) (q : SeqId) (b : Bytes)
  | commit (c : CtxId) (q : SeqId) (b : Bytes)
  | summary (c : CtxId) (q : SeqId) (b : Bytes)
  -- DMA, engine 0x0C
  | copy (c : CtxId) (q : SeqId) (b : Bytes)
  | wfill (c : CtxId) (q : SeqId) (b : Bytes)
  -- maintenance lane, engine 0x0D
  | start (c : CtxId) (q : SeqId) (b : Bytes)
  -- link unit, engine 0x0E
  | send (c : CtxId) (q : SeqId) (b : Bytes)
  | recv (c : CtxId) (q : SeqId) (b : Bytes)
  -- descriptors (R378)
  | query (d : Desc)
  | embed (d : Desc)
  | search (d : Desc)
  | rerank (d : Desc)
  | generate (d : Desc)
  | pause (d : Desc)
  | resume (d : Desc)
  | cancel (d : Desc)
  | insert (d : Desc)
  | delete (d : Desc)
  | trainStep (d : Desc)
  | load (d : Desc)
  | loadImage (d : Desc)
  | loadComplete (isImage : Bool) (object : U32)
  | relocationProceed (object : U32)
  | evict (d : Desc)
  | evictFree (object : U32)
  | evictImage (d : Desc)
  | mergeBuild (d : Desc)
  | mergeInstall (d : Desc)
  | installProceed (shard : BitVec 6)
  | mergeAbort (d : Desc)
  | hotRowRefresh (d : Desc)
  | maintActivityComplete (activity : Byte) (target : U32)
  | syncAdd (d : Desc)
  | syncSet (d : Desc)
  | syncRead (d : Desc)
  | stats (d : Desc)
  | step (d : Desc)
  | stepUnbind (d : Desc)
  | bindEffect (c : CtxId)
  | stepStart (c : CtxId)
  | tokenize (d : Desc)
  | detokenize (d : Desc)
  | fence (d : Desc)
  | attest (d : Desc)
  | checkpoint (d : Desc)
  | testSetpend (d : Desc)
  | testEcho (d : Desc)
  | unknownOpcode (d : Desc)
  | descriptorPlaced (c : CtxId) (r : BitVec 2)
  -- arbitration and pre-emption
  | arbiterGrant (arbiter : Nat) (reqs : List ArbReq)
  | enginePreemption (queue : Nat)
  | steppeSaveComplete
  | contextSaveComplete (c : CtxId)
  | contextRestoreComplete (c : CtxId)
  | inheritanceBudgetExpiry (c : CtxId)
  -- integrity, maintenance and checkpoints
  | replayOutcome (ep : Episode)
  | scrubRead (tier : BitVec 2) (object : Option U32) (isImage : Bool) (offset : U64) (found : ScrubFind) (loc : Location)
  | checkpointTimer
  | checkpointWritten (ok : Bool) (bad : List Nat)
  -- host ports
  | portPoll (p : HostPort)
  | portIdle (p : HostPort)
  | ptmExchange (p : HostPort) (master : U64) (roundTrip : U32)
  | msixModerationTime (p : HostPort) (v : BitVec 6)
  | msixResend (p : HostPort) (v : BitVec 6)
  | msixUnmask (p : HostPort) (v : BitVec 6)
  | msixEnable (p : MsixControl)
  | pcieDlDown (p : HostPort)
  | pcieCompletionTimeout (p : HostPort)
  | functionLevelReset (p : HostPort)
  | d3hotEntry (p : HostPort)
  | perst (p : HostPort)
  | portLinkTrained (p : HostPort)
  -- register writes with behaviour of their own
  | ownerClaim (p : HostPort)
  | ownerRelease (p : HostPort)
  | ctxSuspend (p : HostPort) (c : CtxId)
  | suspendWithdraw (p : HostPort) (c : CtxId)
  | ctxClear (p : HostPort) (c : CtxId)
  | ringReset (p : HostPort) (c : CtxId) (r : BitVec 2)
  | ctxDusk (p : HostPort) (c : CtxId)
  | graceExpiry (c : CtxId)
  | cqWrite (p : HostPort) (c : CtxId) (value : U64)
  | swset (p : HostPort) (bits : U64)
  | swpendClear (p : HostPort) (bits : U64)
  | dmahaltRelease (p : HostPort) (bits : U32)
  | attnRingWrite (p : HostPort) (value : U64)
  | integThreshWrite (p : HostPort) (kind : BitVec 4) (value : U32)
  | integClear (p : HostPort) (value : U32)
  | syncClear (p : HostPort) (base count : U16)
  | linkPortWrite (p : HostPort) (n : SelynPort) (value : U32)
  | levelWrite (p : HostPort) (level : BitVec 2)
  | rampEnd
  | trimWrite (p : HostPort) (dom : Fin 7) (value : U32)
  | autotrim (dom : Fin 7)
  | duskStart (p : HostPort)
  | deviceDuskDone
  | bootWindowWrite (p : HostPort) (offset : BitVec 26) (data : Bytes)
  | bootGo (p : HostPort)
  | imageVerified
  | bootLock (p : HostPort)
  | certload (p : HostPort)
  | cardWipe (p : HostPort)
  | registerWrite (p : HostPort) (offset : BitVec 21) (size : Byte) (value : U64)
  -- power-up, reset and power control
  | vinRise
  | railsInRegulation
  | resetRelease (failed : List Location)
  | dawnBringup (hbm : BitVec 20)
  | retainedStateRestore (trained : U16) (dimms : U32) (socket : Socket)
  | resetAssert
  | vinLow
  | vinReturn
  | powerSample (milliwatts : Nat) (vinMv : U32) (sensors : List U16)
  | powerControlTick
  | junctionCritical (die : BitVec 2) (reading : U16)
  | thermalTrip
  | thermtripLatchClear
  | mgmtIndexWrite (index : Byte)
  | mgmtRead (count : Byte)
  -- Selyn
  | lanesLocked (n : SelynPort) (good : Byte)
  | trainingRecord (n : SelynPort) (tr : TrainRec)
  | laneLockLoss (n : SelynPort)
  | retrainTimeout (n : RetrainEnd)
  | linkRetryTimer (n : SelynPort)
  | dataFrame (n : SelynPort) (h : FrameHdr) (payload : Bytes)
  | replayRequest (n : SelynPort) (ack : BitVec 12)
  | idleFrame (n : SelynPort) (ack : BitVec 12) (cvc : BitVec 2) (credits : BitVec 6)
  | arrive (n : SelynPort) (h : FrameHdr) (a : ArriveRec)
  | releaseParcel (n : SelynPort) (h : FrameHdr) (pass : U32) (counter : U16) (c : CtxId)
  | abandon (n : SelynPort) (h : FrameHdr) (pass : U32) (counter : U16) (c : CtxId) (device : U16) (why : Byte)
  | timeReq (n : SelynPort) (h : FrameHdr) (t1 : U64)
  | timeResp (n : SelynPort) (h : FrameHdr) (t1 t2 t3 : U64)
  | timeExchange
  | rollcall (n : SelynPort) (h : FrameHdr) (low high : U16) (depth : Byte) (treeId size : U16)
  | formed (n : SelynPort) (h : FrameHdr) (treeId size : U16)
  | lost (n : SelynPort) (h : FrameHdr) (low : RangeFrom) (high : U16) (why : Byte)
  | rejoin (n : SelynPort) (h : FrameHdr) (low : RangeFrom) (high : U16)
  | relay (n : SelynPort) (h : FrameHdr) (origin : U16) (code : Byte) (seq : U32) (detail : Bytes)
  | saddleTimeout (counter : U16)
  | failedFrame (n : SelynPort)
  | pwrgdResetDelay
deriving DecidableEq, Repr

end Sys2Proof
end

