-- ==== Sys2Proof/Decode.lean ====
section
/-! DEFINITION. The command that a word spells.  No row of the table gives bits, so no word spells a command. -/

namespace Sys2Proof

/-- The command of a word: none, since the opcode table gives none of its rows bits. -/
def decodeTableWord (_nbits _w : Nat) : Option Instr := none

end Sys2Proof
end

