-- ==== Sys2Proof/Config.lean ====
section
/-! DEFINITION. What an implementation or an outside standard fixes, and the free values: constants without a body, of which nothing can be
proved (log 4 and log 12), and the part's fixed sizes. -/

namespace Sys2Proof.Config

/-- A byte the manual leaves undefined: the free value number and a position in it (log 4). -/
opaque freeByte : Nat → Nat → Byte
/-- A word the manual leaves open. -/
opaque freeWord : Nat → U32
/-- A byte of a result that the manual leaves open: a function of the operands alone, as R44 asks of a result (log 121). -/
opaque freeOf : List (BitVec 8) → Nat → BitVec 8
/-- A choice the manual leaves to a mutual-exclusion element (R340, R485; log 15). -/
opaque freeChoice : Nat → Nat
/-- How far past the end of its pools a table's optimizer state begins: "an offset the runtime sets" (R180; log 21). -/
opaque stateSkip : U32 → Nat

/-- The number of a context's first step since its bind (R51; log 78). -/
opaque firstStep : Nat
/-- Where a step image keeps the staged KV row of a slot, a region and a position: the object and the offset in it (R108, R258, log 4). -/
opaque stagingPlace : Nat → Nat → Nat → Nat → Nat × Nat
/-- The store record that another device's passage store holds for a passage, by device index and ID; none where it holds none (R286; log 131). -/
opaque storeRecord : Nat → Nat → Option Bytes
/-- The parcel of tier 1 where step memory holds parcel k of an image: R516 says only that it is interleaved over the stacks (log 149). -/
opaque imageParcel : Nat → Nat → Nat
/-- The accumulator entry that a GROUPED's sums pass through (R120; log 28). -/
opaque groupedEntry : Nat
/-- The dimensions of the encoder output that a step image declares, by image ID (R282; log 67). -/
opaque encoderDims : Nat → Nat

/-- FIPS 205 verification under SLH-DSA-SHAKE-256s: key, signature, message (R461, R462; log 12). -/
opaque slhVerify256s : Bytes → Bytes → Bytes → Bool
/-- FIPS 205 signing under SLH-DSA-SHAKE-128f: seeds, message, index of the signature byte (R466; log 12). -/
opaque slhSign128f : Bytes → Bytes → Nat → Byte
/-- The root half of the identity public key from the identity seeds: byte index (R458; log 12). -/
opaque slhRoot128f : Bytes → Nat → Byte

/-- Contexts (R329). -/
def contexts : Nat := 256
/-- Request slots (R247). -/
def slots : Nat := 16384
/-- Steppe rows of a pass (R82). -/
def rows : Nat := 1024
/-- Steppe columns (R87). -/
def columns : Nat := 2048
/-- Pass slots of a cell (R87). -/
def passSlots : Nat := 128
/-- Accumulator entries of a column (R87). -/
def accEntries : Nat := 512
/-- Lanes of the rim units, the chunk of R112. -/
def lanes : Nat := 2048
/-- Bytes of a parcel. -/
def parcel : Nat := 256
/-- First general counter that is not (R345). -/
def generalCounters : Nat := 64512
/-- First ID of request page lists (R35). -/
def pageListBase : Nat := 0xFFFFC000
/-- Largest count of a sync counter (R346). -/
def maxCount : Nat := 0x7FFFFFFF
/-- Location counter entries of a class (R432). -/
def counterRoom : Nat := 32768
/-- Words of an engine's command queue, one queue per engine or per die (R333). -/
def queueDepth (engine : Nat) : Nat :=
  match engine with
  | 0x00 | 0x0C => 2048
  | 0x01 | 0x0B | 0x0E => 1024
  | 0x02 | 0x03 | 0x06 | 0x08 => 512
  | _ => 256

end Sys2Proof.Config
end

