-- ==== Sys2Proof/Machine/State.lean ====
section
/-! DEFINITION. The state of the K980 as plain data: everything spec/ gives the part, its reset values, and the reasons a step can stop.
INVENTORY.md lists every field with the rule that names it; log entries 1, 2, 19 and 20 name the reset values the spec does not give. -/

namespace Sys2Proof.Machine

/-- Byte storage of every space (log 8): cells with rising keys, none equal to 0, which is what an unlisted byte reads as (log 3). -/
abbrev Memory := List Host.Cell

/-- Completion codes (R381). -/
inductive Code where
  | ok | short | cancelled | lateCancel | grammarDeadEnd | fallbackUsed | noPages | integrity | uncorrectable | faulted
  | protocol | linkLost | deadline | stopString | lengthLimit | endOfSequence | busy | inheritTimeout | approx
deriving DecidableEq, Repr

/-! ### Sequencers -/

/-- What a sequencer is doing (R38, R42, R58). -/
inductive SeqStatus where
  | running
  | halted
  | stopped                                     -- stopped with its context's step (R42)
  | queue (engine : Byte) (len : Nat) (b : Bytes)  -- ISSUE waits for room
  | done (engine : Byte) (most : Nat)           -- WAITDONE waits
  | counter (k : U16) (threshold : U32)         -- WAIT waits
  | lock (k : U16)                              -- ACQUIRE waits
  | boundary                                    -- STEPEND waits (R43)
  | saddle (entry : U16)                        -- SADDLE waits (R408)
deriving DecidableEq, Repr

/-- One cause of a lag record (R58): bucket counts and the total wait in ns. -/
structure LagCause where
  buckets : Tab Nat
  total   : Nat
deriving DecidableEq, Repr

/-- A wait that an engine command is in (R58): its cause, the buffer it waits on (0 for none), and its start. -/
structure CmdWait where
  cause : Nat
  buf   : Nat
  since : U64
deriving DecidableEq, Repr

/-- A sequencer's part for one context: program position, p0 to p15, status, unfinished commands per engine, the start of
its wait, its arrival time at an open Saddle, its lag record by cause (0 token to 6 saddle) with the total wait by buffer, and the waits that
its commands are in, by engine. -/
structure Seq where
  pos        : Nat
  regs       : Tab U64
  status     : SeqStatus
  unfinished : Tab Nat
  since      : U64
  arrived    : U64
  lag        : Tab LagCause
  tokenBuf   : Tab Nat
  creditBuf  : Tab Nat
  waits      : Tab CmdWait
deriving DecidableEq, Repr

/-! ### Contexts -/

/-- The states of a context (R331). -/
inductive CtxState where
  | idle | ready | suspended | faulted | drained
deriving DecidableEq, Repr

/-- CTX.MODE: determinism relaxed, search graph, training merge (R329). -/
structure Mode where
  relaxed : Bool
  graph   : Bool
  merge   : Bool
deriving DecidableEq, Repr

/-- A ring register: log2size and base (R371). -/
structure RingReg where
  log2size : BitVec 5
  base     : U64
deriving DecidableEq, Repr

/-- A pair at a re-rank device (R287, R288): the device, the pair's tokens and its Gorge bag. -/
structure RerankPair where
  device : Nat
  tokens : List Nat
  bag    : List Nat
deriving DecidableEq, Repr

/-- What a QUERY's step holds of one query (R283 to R289): its tokens and whether they were cut, its search list, the record of its final merge and
whether that met an error (R241, R242), the store record of each of its first ntop entries (none for a missing one), the pairs by rank, and its re-ranked
list. -/
structure QueryWork where
  tokens    : List Nat
  cut       : Bool
  list      : List Bytes
  record    : Bytes
  integrity : Bool
  found     : List (Option Bytes)
  pairs     : List (Option RerankPair)
  ranked    : List Bytes
deriving DecidableEq, Repr

/-- A query of which its step holds nothing yet. -/
def QueryWork.init : QueryWork :=
  { tokens := [], cut := false, list := [], record := [], integrity := false, found := [], pairs := [], ranked := [] }

/-- A record that a SEARCH or MERGE of the step has written (R207, R243): its place, whether it is SHORT and whether it has boundary ties. -/
structure RankOut where
  obj   : U32
  off   : Nat
  short : Bool
  ties  : Bool
deriving DecidableEq, Repr

/-- The step in progress: its descriptor, the outcomes that reach it (R515), its completion flags and its result (R378, R381). -/
structure StepRun where
  d        : Desc
  no       : Nat           -- steps started since the bind, this one with them (R51)
  codes    : List Code
  ranks    : List RankOut  -- records of its SEARCHes and MERGEs that no later MERGE has taken in (R208, R243, R295)
  toks     : Nat           -- TOKENIZE commands it has run (R283, R301)
  work     : Tab QueryWork -- a QUERY's queries, by index
  replayed : Bool
  fallback : Bool
  result   : U64
  left     : Tab Nat       -- commands not finished when its programs halted, by 16 × sequencer + engine
  passed   : Bool          -- it has reached its local step boundary (R452)
  released : Bool          -- a Saddle of it has completed here (R418)
deriving DecidableEq, Repr

/-- One entry of the running GENERATE's slot list with what the boundary and ACCEPT decided for it (R252, R257). -/
structure SlotStep where
  slot     : U16
  join     : Bool
  code     : Option Code   -- the outcome taken at the boundary
  terminal : Bool          -- the request ended at the boundary
  skip     : Bool          -- takes no part in the step's model work
  prefill  : Bool          -- a joining slot's or a switched slot's first step
  drafted  : Nat           -- effective draft length d (R264)
  ready    : Bool          -- ACCEPT has run
  accepted : Nat           -- draft tokens accepted (R263)
  ending   : Option Code   -- the end that ACCEPT or an error found (R261, R267, R280)
  replayed : Bool          -- an operation of its step was replayed (R280)
  tag      : U32           -- the tag of a refused JOIN's record
  dropped  : Nat           -- bytes that the stream of a request which ended at the boundary had held (R149)
deriving DecidableEq, Repr

/-- A QUERY's prompt waiting to join (R293): its descriptor, slot, request record and result area. -/
structure Handoff where
  d      : Desc
  slot   : U16
  record : U64
  result : U64
  area   : Nat             -- bytes of the result area
deriving DecidableEq, Repr

/-- A PAUSE the serving unit holds: whether its slot is PAUSING for it, and the bytes of the summary once written (R274). -/
structure Pausing where
  d       : Desc
  taken   : Bool
  written : Option Nat
deriving DecidableEq, Repr

/-- A RESUME the serving unit holds: whether its pages were granted, and whether its summary is loaded (R277). -/
structure Resuming where
  d       : Desc
  granted : Bool
  loaded  : Bool
deriving DecidableEq, Repr

/-- The serving unit's progress for a context (R257, R258, R274, R277). -/
structure Serving where
  entries  : List SlotStep
  cursor   : Nat
  listed   : Bool          -- LIST has run in this step
  staged   : List (U16 × Nat × Nat)   -- slot, first and past-the-last row committed and not yet moved into pages (R258)
  pauses   : List Pausing
  resumes  : List Resuming
  cancels  : List Desc     -- CANCELs whose latch acts at a commit (R269)
  ends     : List (U16 × Code × Nat)  -- requests that a boundary without a GENERATE ended, with the bytes their streams dropped (R267, R269)
deriving DecidableEq, Repr

/-- A slot's counts for the SERVING class: proposals, acceptances and the projected T (R387). -/
structure SlotStat where
  proposals   : Nat
  acceptances : Nat
  projected   : Int
deriving DecidableEq, Repr

/-- An entry of an engine command queue (R333 to R337). -/
structure QEntry where
  ctx      : CtxId
  src      : SeqId
  b        : Bytes
  words    : Nat
  ready    : Bool
  consumed : Bool
deriving DecidableEq, Repr

/-- A stored inbound parcel of a context (R353, R403). -/
structure Inbound where
  stream  : U16
  last    : Bool
  payload : Bytes
deriving DecidableEq, Repr

/-- A posted RECV (R402). -/
structure Recv where
  ctx      : CtxId
  src      : SeqId
  stream   : U16
  object   : U32
  offset   : U64
  capacity : U32
  robj     : U32
  since    : U64           -- device time at which it was posted (R58)
  taken    : Nat           -- parcels written or dropped so far
  received : Nat           -- bytes received
  overflow : Bool
deriving DecidableEq, Repr

/-- A frame kept in a port's replay buffer (R397): virtual channel, whether data, its header fields and payload. -/
structure Frame where
  seq     : BitVec 12
  vc      : BitVec 2
  data    : Bool
  last    : Bool
  dest    : BitVec 10
  ctx     : CtxId
  stream  : U16
  payload : Bytes
  src     : Option SelynPort   -- the port a forwarded parcel came in on: its slot there frees when the next hop accepts it (R396)
  own     : Option CtxId       -- the context of this device whose command sends it (R338, R353)
deriving DecidableEq, Repr

/-- A frame as it goes on the lanes (R395): its kind, the data or control frame it is if any, and the ack and credits it carries. -/
structure WireFrame where
  kind    : BitVec 4       -- 0 idle, 1 data, 2 control, 3 replay request
  frame   : Option Frame
  ack     : BitVec 12
  cvc     : BitVec 2
  credits : BitVec 6
deriving DecidableEq, Repr

/-- An inheritance episode (R355): its start, its budget in µs and the counter waited on. -/
structure Episode355 where
  start   : U64
  budget  : U16
  counter : U16
deriving DecidableEq, Repr

/-- The record of one context (R329, R331, R489) with its rings, step and parts in the units. -/
structure Ctx where
  state      : CtxState
  broken     : Bool
  stopped    : BitVec 4
  suspendReq : Bool
  suspending : Bool        -- a suspension's state is being written (R351)
  resuming   : Bool        -- a restore is running (R352)
  draining   : Bool        -- Dusk for the context has begun (R452)
  port       : HostPort
  prio       : BitVec 3
  raise      : Option (BitVec 3)    -- priority inherited (R355)
  episode    : Option Episode355
  mode       : Mode
  modeNow    : Mode        -- in force since the last boundary or bind (R330)
  slotBase   : BitVec 14
  slotCount  : BitVec 15
  syncBase   : U16
  syncCount  : U16
  dma        : BitVec 5
  save       : U32
  irq        : BitVec 6
  cq         : RingReg
  sq         : Tab RingReg
  fetchedN   : Tab U32     -- F of each ring (R372)
  tail       : Tab U32     -- the tails last read
  writtenT   : U32         -- T (R373)
  reserved   : Nat         -- completion entries reserved and not written
  cqHead     : U32         -- the head last read
  irqLast    : Option U32  -- count past the last entry written with IRQ (R382)
  waiting    : Tab (List (Desc × Bool))   -- fetched and not expanded, per ring; the flag marks a re-fetch (R377)
  outstanding : List (Desc × Bool)        -- expanded and not completed, in expansion order
  steps      : List Desc   -- step descriptors expanded and not started (R376)
  run        : Option StepRun
  finishing  : List StepRun               -- steps all of whose programs have halted, writes outstanding (R376)
  image      : Option U32
  stepNo     : Nat         -- steps started since the bind (R51)
  steppeW    : Nat         -- Steppe commands issued by steppe.w since bind (R93)
  steppeE    : Nat
  seqs       : Tab Seq
  serving    : Serving
  handoffs   : List Handoff
  inbound    : List Inbound
  contribs   : List Inbound               -- stream 0xFFFF parcels held for UPDATE with HOME (R404)
  outbound   : List (SelynPort × Frame)   -- parcels withdrawn from an egress and saved with their commands (R353)
  refined    : U32         -- refinements of the last SEARCH (R387 GLEN)
  occupancy  : U32
deriving DecidableEq, Repr

/-! ### Host ports -/

/-- A vector's MSI-X table entry, moderation registers and send state (R363, R382, R383). -/
structure Vector383 where
  address : U64
  data    : U32
  masked  : Bool
  count   : Byte
  time    : U16
  resend  : U16
  pending : Bool           -- its bit of the PBA
  n       : Nat            -- assertions since the last message
  first   : Option U64     -- device time of the earliest of them
  sent    : Option U64     -- device time of the last message
  idle    : Byte           -- its byte of the idle page as last polled
deriving DecidableEq, Repr

/-- Counters of a link (R387 LINK). -/
structure LinkStats where
  sent      : Nat
  resent    : Nat
  retrains  : Nat
  withheld  : Nat
  discarded : Nat
deriving DecidableEq, Repr

/-- A host port: its banked registers, its MSI-X function, its rings' state and its polling (R361 to R389). -/
structure Port where
  dbpage     : U64
  hdpage     : U64
  idlepage   : U64
  pollActive : BitVec 14
  pollIdle   : U16
  pollMax    : BitVec 10
  ptm        : BitVec 10
  attnLog    : BitVec 4
  attnVector : BitVec 6
  attnBase   : U64
  swpend     : U64
  vectors    : Tab Vector383
  msixEnable : Bool
  funcMask   : Bool
  attnT      : U32         -- records written
  attnSeq    : U32         -- sequence numbers spent
  attnHead   : U32
  linkUp     : Bool
  lanes      : Nat         -- trained width, 8 or 4; 0 until trained (R361)
  rate       : Nat         -- trained lane rate in Mb/s (R361)
  lost       : Bool
  perstN     : Bool        -- PERST# released
  idle       : Bool
  interval   : Nat         -- the present poll interval, ns
  lastChange : U64         -- device time of the last tail change
  stats      : LinkStats
  report     : Option (List CtxId)   -- lost, and the contexts whose Dusk the loss began: reported once all are DRAINED (R367)
deriving DecidableEq, Repr

/-! ### Objects, images, transfers -/

/-- Residence of an object (R308). -/
inductive Residence where
  | absent | loading | resident | evicting
deriving DecidableEq, Repr

/-- A reader stalled at a poisoned parcel (R326): a context's command in a queue, with the sequencer that issued it; a context whose reader an error
report names; an activity of the maintenance lane; a LOAD that builds a shard. -/
inductive Reader where
  | command (c : CtxId) (queue : Nat) (src : SeqId)
  | context (c : CtxId)
  | maint (code : Byte) (target : U32)
  | build (object : U32)
deriving DecidableEq, Repr

/-- A reader of a context. -/
def Reader.ofCtx (c : CtxId) : Reader → Bool
  | .command d _ _ => d == c
  | .context d => d == c
  | _ => false

/-- An object named in a bound placement table (R34, R306 to R308). -/
structure Obj where
  kind      : Byte
  tier      : Byte
  readOnly  : Bool
  home      : Bool
  half      : Option Bool
  size      : Nat
  entryMask : U32
  entryBase : U64
  mask      : U32          -- in force for the present placement
  base      : U64
  state     : Residence
  poisoned  : List Nat     -- parcel numbers
  head      : Nat          -- a window's consumption point (R315)
  fill      : Nat          -- bytes in the window
  stalled   : List (Reader × Nat)  -- stalled readers, and the parcel each waits at (R312, R326)
  saved     : Option Nat   -- of a save area: the free values that its bytes read as since a save or swap wrote it (log 25)
deriving DecidableEq, Repr

/-- A step image in step memory (R516). -/
structure Image where
  length   : Nat
  poisoned : List Nat
  loaded   : Bool
deriving DecidableEq, Repr

/-- A LOAD in progress (R309, R310). -/
structure LoadRun where
  d       : Desc
  isImage : Bool
  object  : U32
  offset  : Nat
  length  : Nat
  whole   : Bool
  moveTo  : Option (U64 × U32)   -- base and mask of a relocation
  moved   : Bool                 -- RELOCATION_PROCEED has run
deriving DecidableEq, Repr

/-- An activity of the maintenance lane (R356 to R360). -/
structure Activity where
  code    : Byte                 -- 1 build, 2 install, 3 abort, 4 refresh, 5 retention checkpoint
  target  : U32
  desc    : Option Desc          -- the descriptor that started it
  start   : Option (CtxId × SeqId × U32 × Bool)   -- a START command: context, sequencer, robj, WAIT
  begun   : Bool                 -- of a retention checkpoint: met by the one that runs
  outcome : Code
  result  : U64
  args    : Bytes                -- the operand bytes [59:16]
deriving DecidableEq, Repr

/-- The record of a START whose activity has ended, waiting for its object to be RESIDENT (R311, R357): the object, the 16 bytes, and the command that
finishes with it. -/
structure LaneRec where
  object : U32
  bytes  : Bytes
  cmd    : Option (CtxId × SeqId)
deriving DecidableEq, Repr

/-- A row copy in the hot-row store (R173). -/
structure HotRow where
  table  : U32
  row    : Nat
  offset : Nat
  length : Nat
deriving DecidableEq, Repr

/-! ### Queues and arbiters -/

/-- An engine command queue (R333, R334): pointers, buffered entries, entries returned at resume or set aside, what runs. -/
structure Queue where
  w       : Nat
  p       : Nat
  entries : List QEntry
  saved   : List QEntry
  running : Option QEntry
deriving DecidableEq, Repr

/-- What an arbiter keeps of one requester (R339, R344). -/
structure ArbRec where
  lost    : Nat
  grants  : U64
  waits   : U64
  total   : U64
  longest : U64
  since   : Option U64
deriving DecidableEq, Repr

/-! ### Selyn -/

/-- LINK.PORT state (R394). -/
inductive LinkState where
  | down | training | up8 | up4
deriving DecidableEq, Repr

/-- A Selyn port (R390 to R398, R400). -/
structure Link where
  enable    : Bool
  x4        : Bool         -- LINK.PORT width
  state     : LinkState
  lanes     : Nat          -- lanes locked by the last equalization, 0, 4 or 8
  retrain   : Option U64   -- device time at which a retrain began
  everUp    : Bool         -- has been up since Dawn
  nextSeq   : BitVec 12
  replay    : List Frame   -- sent and not acknowledged, oldest first
  waitq     : List Frame   -- waiting for a credit, oldest first
  tries     : List Nat     -- of each frame of the replay buffer, its sends in a row without an acknowledgement (R398)
  credits   : Tab Nat      -- per virtual channel, the far end's free slots
  giveBack  : Tab Nat      -- credits to return to the far end
  expected  : BitVec 12
  discarding : Bool
  child     : Option (U16 × U16 × Byte)   -- range and depth a child's ROLLCALL gave
  lostRange : Option (U16 × U16)          -- the range lost through this port
  record    : Option TrainRec             -- the training record this end sent when its lanes locked (R392)
  sent      : Option WireFrame            -- the frame last put on the lanes (R395)
  rolled    : Bool                        -- this device has sent its ROLLCALL on it since it came up (R400)
  stats     : LinkStats
deriving DecidableEq, Repr

/-- A SEND whose parcels are not all acknowledged by the first hop (R402). -/
structure SendRun where
  ctx  : CtxId
  src  : SeqId
  object : U32             -- whose bytes it sends
  port : SelynPort
  dest : BitVec 10
  dctx : CtxId             -- the destination context of its frames
  stream : U16
  left : Nat               -- frames not yet acknowledged
  wait : Option U64        -- device time since which a frame of it has waited for a credit (R58, R396)
deriving DecidableEq, Repr

/-- An open Saddle on a tree-wide counter (R407, R408, R60). -/
structure Saddle where
  ctx      : CtxId
  entry    : U16
  arrived  : Option U64
  arrives  : Tab ArriveRec     -- by port
  sent     : Bool
  timer    : Option U64
  reported : Bool
deriving DecidableEq, Repr

/-! ### Security and card -/

/-- The fuse store (R457). -/
structure Fuses where
  secret  : BitVec 256
  key0    : BitVec 256
  key1    : BitVec 256
  revoked : BitVec 2
  floor   : U64
deriving DecidableEq, Repr

/-- Dawn, firmware and measurements (R457 to R468 and the BOOT registers). -/
structure Boot where
  state       : BitVec 3
  status      : BitVec 4
  attempts    : U16
  imageLength : BitVec 27
  locked      : Bool
  fuses       : Fuses
  slot        : BitVec 1
  fwid        : U64
  fwDigest    : Bytes
  idKey       : Bytes
  devId       : Bytes
  verifyAt    : Option U64     -- when BOOT.CTRL.go started a verification
  burns       : List Bytes     -- digests of the burns not yet in the measurement log (R463, R465)
  firmware    : Bool           -- firmware runs (from W5)
  bars        : Bool           -- BAR0 and BAR2 answer (from W3)
  selftested  : Bool           -- W2 is done
  log         : List Bytes
  logTotal    : Nat
  accumulator : Bytes
deriving DecidableEq, Repr

/-- The Vesper block and the checkpoints (R469 to R478). -/
structure Vesper where
  card      : BitVec 3
  restored  : Bool
  cert      : BitVec 2
  good      : BitVec 12
  serial    : BitVec 128
  seq       : U64
  remaining : BitVec 14
  days      : U16
  warn      : BitVec 7
  interval  : BitVec 11
  certAddr  : U64
  certLen   : BitVec 17
  wear      : Tab U32
  eraseLog  : List (U64 × Nat)
  lastWarn  : Nat
  socket    : Socket
  bundle    : Bytes
  running   : Option Ckpt       -- the checkpoint being written
  next      : Bool              -- one further checkpoint is requested (R475)
  forDusk   : Bool              -- the checkpoint that ends device Dusk is asked for
  duskRuns  : Bool              -- the running checkpoint is that one
  lastOk    : Bool
deriving DecidableEq, Repr

/-! ### Power -/

/-- A core domain's trims per level (R447). -/
structure Trim where
  noon      : BitVec 4
  afternoon : BitVec 4
  evening   : BitVec 4
deriving DecidableEq, Repr

/-- Pins, rails, levels and the power controller (R441 to R455, R503 to R509). -/
structure Power where
  vin        : Bool
  rails      : Bool
  pwrgd      : Bool
  resetN     : Bool          -- RESET# released
  awaitReset : Bool          -- waits for RESET# to be asserted and released again (R506)
  early      : Bool          -- RESET# was released before PWRGD rose (R505)
  failed     : List Location -- the checkers that its self-test will find failing (R439)
  thermtrip  : Bool          -- the trip is latched
  level      : BitVec 2
  current    : BitVec 2
  ramp       : Bool
  rampFrom   : Nat           -- mV
  rampTo     : Nat
  rampStart  : U64
  cap        : Nat           -- W
  autotrim   : Bool
  trims      : Tab Trim
  trimRamp   : Tab (Nat × U64)   -- a domain's trim as its latest change began, in mV, and when (R447)
  throttle   : BitVec 7
  offset     : Byte          -- units of 5 mV
  cause      : BitVec 2
  critical   : Bool
  overLimit  : Bool
  thermal    : Bool          -- the thermal throttle is in force
  samples    : List Nat      -- input power in mW, newest first, at most 1,000
  vinMv      : U32
  sensors    : List U16      -- west 16, east 16, north 4, south 4, units of 0.25 °C
  lastTrim   : Option U64
  duskState  : BitVec 2
  grace      : U16
  mgmtIndex  : Byte
  mgmtOut    : Bytes
deriving DecidableEq, Repr

/-! ### Registers of MEM, ENGINE, SYNC, INTEG and LINK -/

/-- Thresholds of one kind (R434). -/
structure Thresh where
  detected    : U16
  correctable : U16
deriving DecidableEq, Repr

/-- The setup registers of the single-copy blocks that no other structure holds. -/
structure Regs where
  owner       : BitVec 2
  stepmem     : BitVec 6
  scrubStore  : Byte
  scrubHbm    : Byte
  scrubDdr    : U16
  dmahalt     : U32
  ddrEnable   : U16
  ddrRate     : BitVec 3
  statusHbm   : BitVec 20
  statusDdr   : U16
  statusRate  : BitVec 3
  dimms       : U32
  preempt     : U32
  inherit     : U16
  maintCap    : BitVec 9
  syncDiscarded : Bool
  thresh      : Tab Thresh
  treeIndex   : BitVec 10
  treeRole    : BitVec 2
  treeUplink  : BitVec 4
  treeChildren : BitVec 10
  treeSize    : BitVec 10
  treeId      : U16
  treeFormed  : Bool
  timeInterval : BitVec 10
deriving DecidableEq, Repr

/-- A time source of the TIME class (R387, R389, R410). -/
structure TimeSource where
  exchanged : Bool
  last      : U64
  offset    : Int
  roundTrip : U32
deriving DecidableEq, Repr

/-- Device time and what it follows (R389, R410). -/
structure Clock where
  now     : U64
  synced  : Bool             -- an exchange with an owner has set it since Dawn
  slew    : Int              -- ns still to slew
  sources : Tab TimeSource
  sentT1  : Option U64       -- an outstanding TIME_REQ
  treeSet : Bool             -- an exchange after FORMED has stepped it
deriving DecidableEq, Repr

/-- Location counters and the events queued at Dawn (R432 to R439). -/
structure Integ where
  detected    : List Counter
  correctable : List Counter
  overDetected    : Option Counter
  overCorrectable : Option Counter
  queued      : List (Byte × Bytes)    -- event code and detail [59:16]
  attnSeen    : Tab Bool               -- ports whose attention ring has been set up
deriving DecidableEq, Repr

/-- The K980. -/
structure State where
  pending  : List Instr        -- the commands that are waiting, first in first out
  fresh    : Nat               -- free values used so far (the model's own field, log 4)
  mem      : Memory
  power    : Power
  boot     : Boot
  vesper   : Vesper
  clock    : Clock
  regs     : Regs
  integ    : Integ
  ports    : Tab Port
  ctxs     : Tab Ctx
  sync     : Tab U32
  objs     : Tab Obj
  images   : Tab Image
  stepUnits : Nat              -- 64 MiB units per stack sized at the lock (R464)
  shards   : Tab U32           -- shard number to shard object
  retained : List ShardRecord  -- retained and not resident (R473)
  pools    : Tab (List Nat)    -- allocated pages per page pool
  slotStats : Tab SlotStat
  loads    : List LoadRun
  evicts   : List Desc
  objLine  : List Desc         -- LOADs and EVICTs that wait for earlier ones of the same object (R313)
  acts     : List Activity
  installing : List (BitVec 6) -- shards whose commands an install holds (R219)
  installOpen : List (Nat × Nat × QEntry) -- by shard and queue, the copies of the searches and writes that an install waits for (R219)
  snapshots : Tab Nat          -- S of each shard's merge build (R217)
  hot      : List HotRow
  manifests : Tab (List (U32 × U64))
  queues   : Tab Queue
  arbs     : Tab ArbRec
  slotOwner : Tab CtxId        -- Steppe pass slots (R120)
  accOwner  : Tab CtxId        -- Steppe accumulator entries
  saving    : Option CtxId           -- the Steppe saves a pre-empted command's context (R124)
  swapped   : List (CtxId × Bool × Nat)  -- owned slots (false) and entries (true) whose contents lie in the save area (R120)
  progress  : Tab (Bytes × Nat)  -- commands set aside part-way, by 1024 × context + 16 × sequencer + engine (R122, R316)
  scrubPos : Tab U64
  links    : Tab Link
  recvs    : List Recv
  sends    : List SendRun
  saddles  : Tab Saddle
  passes   : Tab U32           -- pass counts of tree-wide counters (R407)
  lostSet  : List (U16 × U16)
  saddleLag : Tab (Tab Nat)    -- lag histograms by device index (R59)
  freePoison : List (Nat × Nat)  -- poisoned parcels that no object holds: tier and parcel of the tier (R323)
  laneRecs : List LaneRec      -- START records that wait for their object (R311, R357)
deriving DecidableEq, Repr

/-! ### Values at reset -/

/-- A sequencer at the start (R37). -/
def Seq.init : Seq :=
  { pos := 0, regs := [], status := .halted, unfinished := [], since := 0, arrived := 0, lag := [], tokenBuf := [], creditBuf := [], waits := [] }

/-- All three modes clear: strict, exact, visit. -/
def Mode.init : Mode := { relaxed := false, graph := false, merge := false }

/-- A ring that is not set up. -/
def RingReg.init : RingReg := { log2size := 0, base := 0 }

/-- The serving unit with nothing in progress for a context. -/
def Serving.init : Serving :=
  { entries := [], cursor := 0, listed := false, staged := [], pauses := [], resumes := [], cancels := [], ends := [] }

/-- A context at reset (R489). -/
def Ctx.init : Ctx :=
  { state := .idle, broken := false, stopped := 0, suspendReq := false, suspending := false, resuming := false,
    draining := false, port := 0, prio := 0, raise := none, episode := none, mode := Mode.init, modeNow := Mode.init,
    slotBase := 0, slotCount := 0, syncBase := 0, syncCount := 0, dma := 0, save := 0, irq := 0, cq := RingReg.init,
    sq := [], fetchedN := [], tail := [], writtenT := 0, reserved := 0, cqHead := 0, irqLast := none, waiting := [],
    outstanding := [], steps := [], run := none, finishing := [], image := none, stepNo := 0, steppeW := 0, steppeE := 0,
    seqs := [], serving := Serving.init, handoffs := [], inbound := [], contribs := [], outbound := [], refined := 0, occupancy := 0 }

/-- A vector at reset (R493's tables; the MSI-X entry is masked, log 20). -/
def Vector383.init : Vector383 :=
  { address := 0, data := 0, masked := true, count := 1, time := 0, resend := 100, pending := false, n := 0, first := none,
    sent := none, idle := 0 }

/-- A link's counters at reset. -/
def LinkStats.init : LinkStats := { sent := 0, resent := 0, retrains := 0, withheld := 0, discarded := 0 }

/-- A host port at reset (R487, R493). -/
def Port.init : Port :=
  { dbpage := 0, hdpage := 0, idlepage := 0, pollActive := 500, pollIdle := 100, pollMax := 50, ptm := 10, attnLog := 0,
    attnVector := 0, attnBase := 0, swpend := 0, vectors := [], msixEnable := false, funcMask := false, attnT := 0,
    attnSeq := 0, attnHead := 0, linkUp := false, lanes := 0, rate := 0, lost := false, perstN := true, idle := false, interval := 500,
    lastChange := 0, stats := LinkStats.init, report := none }

/-- An empty engine queue. -/
def Queue.init : Queue := { w := 0, p := 0, entries := [], saved := [], running := none }

/-- An arbiter's record of a requester that has not asked. -/
def ArbRec.init : ArbRec := { lost := 0, grants := 0, waits := 0, total := 0, longest := 0, since := none }

/-- A Selyn port at reset, with the retained fields at their factory values (R394) and full credits (R396). -/
def Link.init : Link :=
  { enable := true, x4 := false, state := .down, lanes := 0, retrain := none, everUp := false, nextSeq := 0, replay := [],
    waitq := [], tries := [], credits := [(0, 8), (1, 32), (2, 24)], giveBack := [], expected := 0, discarding := false,
    child := none, lostRange := none, record := none, sent := none, rolled := false, stats := LinkStats.init }

/-- A domain with no trim (R455). -/
def Trim.init : Trim := { noon := 0, afternoon := 0, evening := 0 }

/-- The factory thresholds (R434). -/
def Thresh.init : Thresh := { detected := 2, correctable := 16 }

/-- A time source that has made no exchange. -/
def TimeSource.init : TimeSource := { exchanged := false, last := 0, offset := 0, roundTrip := 0 }

/-- Fuses as the model starts with them (log 19). -/
def Fuses.init : Fuses := { secret := 0, key0 := 0, key1 := 0, revoked := 0, floor := 0 }

/-- The security block held in reset. -/
def Boot.init : Boot :=
  { state := 0, status := 0, attempts := 0, imageLength := 0, locked := false, fuses := Fuses.init, slot := 0, fwid := 0,
    fwDigest := List.replicate 64 0, idKey := List.replicate 32 0, devId := List.replicate 16 0, verifyAt := none, burns := [],
    firmware := false, bars := false, selftested := false, log := [], logTotal := 0, accumulator := List.replicate 64 0 }

/-- An empty socket (log 19). -/
def Socket.init : Socket := { present := false, genuine := false, serial := 0, ckpts := [] }

/-- The Vesper block at reset. -/
def Vesper.init : Vesper :=
  { card := 0, restored := false, cert := 0, good := 0, serial := 0, seq := 0, remaining := 0, days := 0, warn := 10,
    interval := 15, certAddr := 0, certLen := 0, wear := [], eraseLog := [], lastWarn := 0, socket := Socket.init, bundle := [],
    running := none, next := false, forDusk := false, duskRuns := false, lastOk := false }

/-- Power with the rails up and RESET# asserted (log 1), level Evening (R455's factory value), no throttle. -/
def Power.init : Power :=
  { vin := true, rails := true, pwrgd := true, resetN := false, awaitReset := false, early := false, failed := [], thermtrip := false,
    level := 2, current := 2, ramp := false, rampFrom := 600, rampTo := 600, rampStart := 0, cap := 1200, autotrim := true,
    trims := [], trimRamp := [], throttle := 95, offset := 0, cause := 0, critical := false, overLimit := false, thermal := false,
    samples := [], vinMv := 0, sensors := List.replicate 40 0, lastTrim := none, duskState := 0,
    grace := 1000, mgmtIndex := 0, mgmtOut := [] }

/-- The single-copy registers at reset. -/
def Regs.init : Regs :=
  { owner := 3, stepmem := 8, scrubStore := 1, scrubHbm := 8, scrubDdr := 72, dmahalt := 0, ddrEnable := 0xFFFF, ddrRate := 0,
    statusHbm := 0, statusDdr := 0, statusRate := 0, dimms := 0, preempt := 2000, inherit := 200, maintCap := 50,
    syncDiscarded := false, thresh := [], treeIndex := 0, treeRole := 0, treeUplink := 0xF, treeChildren := 0, treeSize := 1,
    treeId := 0, treeFormed := false, timeInterval := 1 }

/-- Device time at reset (R389). -/
def Clock.init : Clock := { now := 0, synced := false, slew := 0, sources := [], sentT1 := none, treeSet := false }

/-- No location counted, nothing queued. -/
def Integ.init : Integ :=
  { detected := [], correctable := [], overDetected := none, overCorrectable := none, queued := [], attnSeen := [] }

/-- The machine right after reset: rails in regulation, RESET# asserted, every register at its reset value (log 1). -/
def State.reset : State :=
  { pending := [], fresh := 0, mem := [], power := Power.init, boot := Boot.init, vesper := Vesper.init, clock := Clock.init,
    regs := Regs.init, integ := Integ.init, ports := [], ctxs := [], sync := [], objs := [], images := [], stepUnits := 0,
    shards := [], retained := [], pools := [], slotStats := [], loads := [], evicts := [], objLine := [], acts := [], installing := [], installOpen := [], snapshots := [], hot := [],
    manifests := [], queues := [], arbs := [], slotOwner := [], accOwner := [], saving := none, swapped := [], progress := [], scrubPos := [], links := [], recvs := [],
    sends := [], saddles := [], passes := [], lostSet := [], saddleLag := [], freePoison := [], laneRecs := [] }

/-! ### Why a step can stop -/

/-- Why the machine stops. -/
inductive Fault where
  /-- Raised by POWER_SAMPLE and JUNCTION_CRITICAL when a reading lies outside the absolute ratings (R512: no operation is
  defined there).  Safe: the model stops where the manual says nothing. -/
  | outsideRatings
deriving DecidableEq, Repr

/-- Why a command has no meaning. -/
inductive Refusal where
  /-- The command of this name is not modelled.  Raised by an arm of Dispatch.lean only.  Safe: nothing can be proved of its
  effect. -/
  | notModelled (mnemonic : String)
deriving DecidableEq, Repr

end Sys2Proof.Machine
end

