-- ==== Sys2Proof/Machine/Mem.lean ====
section
/-! DEFINITION. Sparse tables, bytes and numbers, and the byte memory with its spaces (R11, R306; log 3 and log 8). -/

namespace Sys2Proof

/-! ### Sparse tables -/

/-- The value at a key, if listed. -/
def Tab.get? {α : Type} : Tab α → Nat → Option α
  | [], _ => none
  | (k', v) :: t, k => if k' = k then some v else Tab.get? t k

/-- The value at a key, or the default. -/
def Tab.getD {α : Type} (t : Tab α) (k : Nat) (dflt : α) : α := (t.get? k).getD dflt

/-- The table with a key set, keys kept rising. -/
def Tab.set {α : Type} : Tab α → Nat → α → Tab α
  | [], k, v => [(k, v)]
  | (k', v') :: t, k, v =>
    if k < k' then (k, v) :: (k', v') :: t
    else if k = k' then (k, v) :: t
    else (k', v') :: Tab.set t k v

/-- The table without a key. -/
def Tab.erase {α : Type} (t : Tab α) (k : Nat) : Tab α := t.filter (fun e => e.1 ≠ k)

/-- The keys of a table, rising. -/
def Tab.keys {α : Type} (t : Tab α) : List Nat := t.map Prod.fst

/-! ### Bytes and little-endian numbers (R11) -/

/-- The number a little-endian run of bytes holds. -/
def leNat : Bytes → Nat
  | [] => 0
  | b :: bs => b.toNat + 256 * leNat bs

/-- The n low bytes of a number, little-endian. -/
def toLE : Nat → Nat → Bytes
  | 0, _ => []
  | n + 1, v => BitVec.ofNat 8 v :: toLE n (v / 256)

/-- Bytes lo to lo + n − 1 of a run, zero past its end. -/
def slice (b : Bytes) (lo n : Nat) : Bytes :=
  let t := (b.drop lo).take n
  t ++ List.replicate (n - t.length) 0

/-- The n-byte field at offset lo of a block. -/
def fld (b : Bytes) (lo n : Nat) : Nat := leNat ((b.drop lo).take n)

/-- Bit i of byte lo of a block. -/
def bitAt (b : Bytes) (lo i : Nat) : Bool := (fld b lo 1).testBit i

/-- Bits hi down to lo of a number. -/
def bits (v hi lo : Nat) : Nat := (v >>> lo) % 2 ^ (hi + 1 - lo)

/-- Bits set in a word. -/
def popCount (v : Nat) : Nat := ((List.range 64).filter (fun i => v.testBit i)).length

/-- Quotient rounded up. -/
def ceilDiv (a b : Nat) : Nat := (a + b - 1) / b

/-- A size rounded up to a multiple of a unit. -/
def roundUp (a unit : Nat) : Nat := ceilDiv a unit * unit

namespace Machine

/-! ### Memory -/

/-- The spaces bytes live in: host memory of a port, the boot window, slot stores, page lists, the Steppe's resident bytes, scales
and accumulators, the hot-row store, a context's saved Steppe state, results a drain holds, a placement object, a step image. -/
inductive Space where
  | host (p : HostPort)
  | boot | slots | pages | resident | scales | accum | hot
  | save (c : CtxId)
  | hold (c : CtxId)
  | obj (id : U32)
  | image (id : U32)
deriving DecidableEq, Repr

/-- A space's number. -/
def Space.index : Space → Nat
  | .host p => p.toNat
  | .boot => 2
  | .slots => 3
  | .pages => 4
  | .resident => 5
  | .scales => 6
  | .accum => 7
  | .hot => 8
  | .save c => 0x100 + c.toNat
  | .hold c => 0x200 + c.toNat
  | .obj id => 0x100000000 + id.toNat
  | .image id => 0x200000000 + id.toNat

/-- Bytes a space has room for. -/
def spaceSize : Nat := 0x1000000000000000000

/-- The memory key of byte `off` of a space. -/
def Space.key (sp : Space) (off : Nat) : Nat := sp.index * spaceSize + off % spaceSize

/-- What an unlisted byte reads as (log 3). -/
def Memory.unlisted : Byte := 0

/-- The byte at a key. -/
def Memory.get (m : Memory) (a : Nat) : Byte :=
  match m with
  | [] => Memory.unlisted
  | (k, v) :: t => if k = a then v else Memory.get t a

/-- The cells of a run of bytes at rising keys, bytes that read as unlisted left out. -/
def Memory.cells : Nat → Bytes → Memory
  | _, [] => []
  | a, b :: bs => if b = Memory.unlisted then Memory.cells (a + 1) bs else (a, b) :: Memory.cells (a + 1) bs

/-- The memory with the n bytes from key a replaced by the given cells. -/
def Memory.splice (m : Memory) (a n : Nat) (mid : Memory) : Memory :=
  m.filter (fun c => decide (c.1 < a)) ++ mid ++ m.filter (fun c => decide (a + n ≤ c.1))

/-- The memory after a run of bytes is written at key a. -/
def Memory.write (m : Memory) (a : Nat) (bs : Bytes) : Memory := m.splice a bs.length (Memory.cells a bs)

/-- The n bytes from key a. -/
def Memory.read (m : Memory) (a n : Nat) : Bytes := (List.range n).map (fun i => m.get (a + i))

/-- The memory after n bytes are copied from key a to key b. -/
def Memory.copy (m : Memory) (a b n : Nat) : Memory :=
  m.splice b n ((m.filter (fun c => decide (a ≤ c.1) && decide (c.1 < a + n))).map (fun c => (c.1 - a + b, c.2)))

/-- The memory with n bytes from key a set to what an unlisted byte reads as. -/
def Memory.clear (m : Memory) (a n : Nat) : Memory := m.splice a n []

/-- The canonical form: keys strictly rising, no cell equal to what an unlisted byte reads as. -/
abbrev Memory.wf (m : Memory) : Prop :=
  m.Pairwise (fun c d => c.1 < d.1) ∧ ∀ c ∈ m, c.2 ≠ Memory.unlisted

end Machine
end Sys2Proof
end

