-- ==== Sys2Proof/Machine/Codes.lean ====
section
/-! DEFINITION. The check codes, the random generator and the digest the manual names: CRC-32C (R420), CRC-16 (R395), Philox-4x32-10 (R51) and
SHAKE256 (R31); Philox and SHAKE256 are written from their own standards (log 11). -/

namespace Sys2Proof.Machine

/-- One bit step of the reflected CRC-32C register. -/
def crc32cBit (r : Nat) : Nat := if r % 2 = 1 then (r / 2) ^^^ 0x82F63B78 else r / 2

/-- One byte into the CRC-32C register. -/
def crc32cByte (r : Nat) (b : Byte) : Nat :=
  let x := r ^^^ b.toNat
  crc32cBit (crc32cBit (crc32cBit (crc32cBit (crc32cBit (crc32cBit (crc32cBit (crc32cBit x)))))))

/-- CRC-32C of a run of bytes (R420). -/
def crc32c (bs : Bytes) : Nat := bs.foldl crc32cByte 0xFFFFFFFF ^^^ 0xFFFFFFFF

/-- One bit, most significant first, into the CRC-16 register of R395. -/
def crc16Bit (r : Nat) (b : Bool) : Nat :=
  let top := (r.testBit 15) != b
  let s := (r * 2) % 0x10000
  if top then s ^^^ 0x1021 else s

/-- CRC-16 over bytes, each taken from its most significant bit. -/
def crc16 (bs : Bytes) : Nat :=
  bs.foldl (fun r b => (List.range 8).foldl (fun r i => crc16Bit r (b.toNat.testBit (7 - i))) r) 0xFFFF

/-- The four counter words and two key words of Philox-4x32. -/
structure Philox where
  c0 : Nat
  c1 : Nat
  c2 : Nat
  c3 : Nat
  k0 : Nat
  k1 : Nat
deriving DecidableEq, Repr

/-- One round of Philox-4x32 and the key bump after it. -/
def philoxRound (s : Philox) : Philox :=
  let p0 := 0xD2511F53 * s.c0
  let p1 := 0xCD9E8D57 * s.c2
  { c0 := ((p1 >>> 32) ^^^ s.c1) ^^^ s.k0, c1 := p1 % 0x100000000,
    c2 := ((p0 >>> 32) ^^^ s.c3) ^^^ s.k1, c3 := p0 % 0x100000000,
    k0 := (s.k0 + 0x9E3779B9) % 0x100000000, k1 := (s.k1 + 0xBB67AE85) % 0x100000000 }

/-- The first output word of a draw (R51): ten rounds from the key and the counter words. -/
def draw (key : Nat) (c0 c1 c2 c3 : Nat) : Nat :=
  let s : Philox := { c0 := c0 % 0x100000000, c1 := c1 % 0x100000000, c2 := c2 % 0x100000000, c3 := c3 % 0x100000000,
                      k0 := key % 0x100000000, k1 := (key >>> 32) % 0x100000000 }
  ((List.range 10).foldl (fun s _ => philoxRound s) s).c0

/-! ### SHAKE256 -/

/-- Rotate a 64-bit lane left. -/
def rol64 (v n : Nat) : Nat := ((v <<< n) ||| (v >>> (64 - n))) % 0x10000000000000000

/-- Lane x, y of the 5 by 5 state, indices modulo 5. -/
def lane (a : List Nat) (x y : Nat) : Nat := a.getD (x % 5 + 5 * (y % 5)) 0

/-- The walk over the 24 lanes that turn, from lane (x, y) at place t: each lane's number with its turn, the t-th triangle number, and on
to lane (y, 2x + 3y). -/
def turnWalk : Nat → Nat → Nat → Nat → List (Nat × Nat)
  | 0, _, _, _ => []
  | n + 1, t, x, y => (x + 5 * y, t * (t + 1) / 2 % 64) :: turnWalk n (t + 1) y ((2 * x + 3 * y) % 5)

/-- The turn of each lane: the walk starts at lane (1, 0), and lane (0, 0) stays. -/
def keccakRot : List Nat :=
  let w := turnWalk 24 1 1 0
  (List.range 25).map (fun i => ((w.find? (fun e => e.1 == i)).map Prod.snd).getD 0)

/-- One step of the register that yields the round constants: a doubling modulo x^8 + x^6 + x^5 + x^4 + 1. -/
def rcNext (r : Nat) : Nat := if r < 128 then 2 * r else (2 * r) ^^^ 0x171

/-- The constant of one round: seven successive bits of the register, at the bit places one below a power of two, and the register after
them. -/
def rcWord (r : Nat) : Nat × Nat :=
  [0, 1, 3, 7, 15, 31, 63].foldl (fun p b => (p.1 + (p.2 % 2) <<< b, rcNext p.2)) (0, r)

/-- The constants of n rounds from a register. -/
def rcWalk : Nat → Nat → List Nat
  | 0, _ => []
  | n + 1, r => (rcWord r).1 :: rcWalk n (rcWord r).2

/-- The constants of the 24 rounds. -/
def keccakRc : List Nat := rcWalk 24 1

/-- The parity of column x. -/
def columnParity (a : List Nat) (x : Nat) : Nat := (List.range 4).foldl (fun p y => p ^^^ lane a x (y + 1)) (lane a x 0)

/-- What every lane is mixed with: the parities of the two columns beside its own. -/
def keccakMix (a : List Nat) : List Nat :=
  let par := (List.range 5).map (columnParity a)
  (List.range 5).map (fun x => par.getD ((x + 4) % 5) 0 ^^^ rol64 (par.getD ((x + 1) % 5) 0) 1)

/-- Every lane mixed with the parities of the two columns beside its own. -/
def keccakTheta (a : List Nat) : List Nat := List.zipWith (· ^^^ ·) a (List.replicate 5 (keccakMix a)).flatten

/-- Every lane turned. -/
def keccakTurn (a : List Nat) : List Nat := List.zipWith rol64 a keccakRot

/-- Every lane moved: the lane at (X, Y) comes from (X + 3Y, X). -/
def keccakMove (a : List Nat) : List Nat := (List.range 25).map (fun i => lane a (i % 5 + 3 * (i / 5)) (i % 5))

/-- Every lane mixed with the two after it in its row. -/
def keccakChi (a : List Nat) : List Nat :=
  (List.range 25).map (fun i =>
    lane a i (i / 5) ^^^ (lane a (i + 2) (i / 5) &&& (lane a (i + 1) (i / 5) ^^^ 0xFFFFFFFFFFFFFFFF)))

/-- One round of Keccak-f[1600]. -/
def keccakRound (a : List Nat) (rc : Nat) : List Nat := (keccakChi (keccakMove (keccakTurn (keccakTheta a)))).modifyHead (· ^^^ rc)

/-- The permutation Keccak-f[1600]. -/
def keccakF (a : List Nat) : List Nat := keccakRc.foldl keccakRound a

/-- Mix a 136-byte block into the state. -/
def absorbBlock (a : List Nat) (blk : Bytes) : List Nat :=
  keccakF ((List.range 25).map (fun i => a.getD i 0 ^^^ (if i < 17 then fld blk (8 * i) 8 else 0)))

/-- Absorb whole blocks, with fuel for their number. -/
def absorb : Nat → List Nat → Bytes → List Nat
  | 0, a, _ => a
  | n + 1, a, bs => absorb n (absorbBlock a (bs.take 136)) (bs.drop 136)

/-- Squeeze, with fuel for the number of blocks. -/
def squeeze : Nat → List Nat → Bytes
  | 0, _ => []
  | n + 1, a => ((a.take 17).flatMap (toLE 8)) ++ squeeze n (keccakF a)

/-- The first n bytes of SHAKE256 of a run of bytes. -/
def shake256 (bs : Bytes) (n : Nat) : Bytes :=
  let padLen := 136 - bs.length % 136
  let pad : Bytes := if padLen = 1 then [0x9F] else 0x1F :: (List.replicate (padLen - 2) 0 ++ [0x80])
  let msg := bs ++ pad
  (squeeze (ceilDiv n 136) (absorb (msg.length / 136) (List.replicate 25 0) msg)).take n

end Sys2Proof.Machine
end

