-- ==== Sys2Proof/Machine/Fp.lean ====
section
/-! DEFINITION. IEEE arithmetic of the device (R67, R71): numbers as exact dyadic values, rounded once to nearest, ties to even. -/

namespace Sys2Proof.Machine

/-- An exact value m × 2^e. -/
structure Dy where
  m : Int
  e : Int
deriving DecidableEq, Repr

/-- Both significands brought to the smaller exponent. -/
def Dy.align (a b : Dy) : Int × Int × Int :=
  let e := min a.e b.e
  (a.m * 2 ^ (a.e - e).toNat, b.m * 2 ^ (b.e - e).toNat, e)

/-- Exact sum. -/
def Dy.add (a b : Dy) : Dy := let (x, y, e) := Dy.align a b; { m := x + y, e := e }
/-- Exact difference. -/
def Dy.sub (a b : Dy) : Dy := let (x, y, e) := Dy.align a b; { m := x - y, e := e }
/-- Exact product. -/
def Dy.mul (a b : Dy) : Dy := { m := a.m * b.m, e := a.e + b.e }
/-- Strictly below. -/
def Dy.lt (a b : Dy) : Bool := let (x, y, _) := Dy.align a b; decide (x < y)
/-- At most. -/
def Dy.le (a b : Dy) : Bool := let (x, y, _) := Dy.align a b; decide (x ≤ y)
/-- Zero. -/
def Dy.zero : Dy := { m := 0, e := 0 }
/-- An integer. -/
def Dy.ofInt (i : Int) : Dy := { m := i, e := 0 }
/-- The magnitude. -/
def Dy.abs (a : Dy) : Dy := { m := a.m.natAbs, e := a.e }
/-- A power of two times a value. -/
def Dy.scale (a : Dy) (k : Int) : Dy := { m := a.m, e := a.e + k }

/-- Position of the leading bit of a positive number (⌊log2 n⌋). -/
def lead (n : Nat) : Nat := Nat.log2 n

/-- n / 2^k rounded to nearest, ties to even. -/
def rneShift (n k : Nat) : Nat :=
  let q := n >>> k
  let r := n % 2 ^ k
  if k = 0 then n
  else if r * 2 > 2 ^ k ∨ (r * 2 = 2 ^ k ∧ q % 2 = 1) then q + 1 else q

/-- An IEEE format: significand bits with the hidden one, exponent bits. -/
structure Ieee where
  prec  : Nat
  ebits : Nat
deriving DecidableEq, Repr

/-- binary32, binary16 and bfloat16 (R67). -/
def fmt32 : Ieee := { prec := 24, ebits := 8 }
def fmt16 : Ieee := { prec := 11, ebits := 5 }
def fmtB16 : Ieee := { prec := 8, ebits := 8 }

/-- The exponent of the least subnormal of a format. -/
def Ieee.qmin (f : Ieee) : Int := 3 - 2 ^ (f.ebits - 1) - f.prec
/-- The encoding of +infinity. -/
def Ieee.inf (f : Ieee) : Nat := (2 ^ f.ebits - 1) * 2 ^ (f.prec - 1)
/-- The quiet NaN the device produces (R67). -/
def Ieee.nan (f : Ieee) : Nat := f.inf + 2 ^ (f.prec - 2)
/-- The sign bit's weight. -/
def Ieee.sign (f : Ieee) : Nat := 2 ^ (f.prec - 1 + f.ebits)

/-- n × 2^e rounded to a format's magnitude bits, overflow to infinity (R71, R75). -/
def Ieee.roundMag (f : Ieee) (n : Nat) (e : Int) : Nat :=
  if n = 0 then 0
  else
    let q := max ((lead n : Int) + e - (f.prec - 1)) f.qmin
    let mant := if e ≥ q then n * 2 ^ (e - q).toNat else rneShift n (q - e).toNat
    min f.inf ((q - f.qmin).toNat * 2 ^ (f.prec - 1) + mant)

/-- An exact value rounded to a format; `neg` gives the sign of a zero. -/
def Ieee.round (f : Ieee) (neg : Bool) (d : Dy) : Nat :=
  let mag := f.roundMag d.m.natAbs d.e
  if d.m < 0 ∨ (d.m = 0 ∧ neg) then f.sign + mag else mag

/-- The quotient n / d × 2^e of positive numbers rounded to a format's magnitude bits. -/
def Ieee.roundRatio (f : Ieee) (n d : Nat) (e : Int) : Nat :=
  if n = 0 then 0
  else
    let k := f.prec + 4 + lead d
    let q := (n * 2 ^ k) / d
    let sticky := if (n * 2 ^ k) % d = 0 then 0 else 1
    f.roundMag (2 * q + sticky) (e - k - 1)

/-- A decoded IEEE value. -/
inductive Val where
  | nan
  | inf (neg : Bool)
  | fin (neg : Bool) (d : Dy)
deriving DecidableEq, Repr

/-- The value of an encoding. -/
def Ieee.decode (f : Ieee) (b : Nat) : Val :=
  let neg := b / f.sign % 2 = 1
  let mag := b % f.sign
  if mag > f.inf then .nan
  else if mag = f.inf then .inf neg
  else
    let ex := mag / 2 ^ (f.prec - 1)
    let fr := mag % 2 ^ (f.prec - 1)
    let m := if ex = 0 then fr else fr + 2 ^ (f.prec - 1)
    let e : Int := f.qmin + (if ex = 0 then 0 else (ex : Int) - 1)
    .fin neg { m := if neg then -(m : Int) else m, e := e }

/-- The encoding of a value in a format, rounded once. -/
def Ieee.encode (f : Ieee) (v : Val) : Nat :=
  match v with
  | .nan => f.nan
  | .inf neg => if neg then f.sign + f.inf else f.inf
  | .fin neg d => f.round neg d

/-! ### FP32 operations, each rounding once (R67, R71) -/

/-- An FP32 bit pattern. -/
abbrev F32 := Nat

def F32.nan : F32 := 0x7FC00000
def F32.posInf : F32 := 0x7F800000
def F32.negInf : F32 := 0xFF800000
def F32.one : F32 := 0x3F800000
def F32.half : F32 := 0x3F000000
/-- The largest finite FP32 magnitude. -/
def F32.maxFinite : F32 := 0x7F7FFFFF

/-- The value of an FP32 pattern. -/
def F32.val (a : F32) : Val := fmt32.decode a
/-- The FP32 pattern of a value. -/
def F32.of (v : Val) : F32 := fmt32.encode v
/-- A NaN. -/
def F32.isNan (a : F32) : Bool := decide (a % 0x80000000 > 0x7F800000)
/-- An infinity. -/
def F32.isInf (a : F32) : Bool := decide (a % 0x80000000 = 0x7F800000)
/-- Neither NaN nor infinity. -/
def F32.isFinite (a : F32) : Bool := decide (a % 0x80000000 < 0x7F800000)
/-- +0 or −0. -/
def F32.isZero (a : F32) : Bool := decide (a % 0x80000000 = 0)
/-- The opposite sign. -/
def F32.neg (a : F32) : F32 := if a.isNan then F32.nan else a ^^^ 0x80000000

/-- The exact value of a finite pattern, zero of others. -/
def F32.dy (a : F32) : Dy := match a.val with | .fin _ d => d | _ => Dy.zero

/-- Sum of values before rounding: an exact cancellation gives +0, two zeros of one sign keep it. -/
def Val.add (x y : Val) : Val :=
  match x, y with
  | .nan, _ => .nan
  | _, .nan => .nan
  | .inf a, .inf b => if a = b then .inf a else .nan
  | .inf a, _ => .inf a
  | _, .inf b => .inf b
  | .fin a d, .fin b d' =>
    let s := d.add d'
    if s.m = 0 then .fin (a && b) Dy.zero else .fin (decide (s.m < 0)) s

/-- Product of values before rounding. -/
def Val.mul (x y : Val) : Val :=
  match x, y with
  | .nan, _ => .nan
  | _, .nan => .nan
  | .inf a, .inf b => .inf (a != b)
  | .inf a, .fin b d => if d.m = 0 then .nan else .inf (a != b)
  | .fin a d, .inf b => if d.m = 0 then .nan else .inf (a != b)
  | .fin a d, .fin b d' => .fin (a != b) (d.mul d')

/-- FP32 addition. -/
def F32.add (a b : F32) : F32 := F32.of (a.val.add b.val)
/-- FP32 subtraction. -/
def F32.sub (a b : F32) : F32 := a.add b.neg
/-- FP32 multiplication. -/
def F32.mul (a b : F32) : F32 := F32.of (a.val.mul b.val)
/-- A natural number as FP32. -/
def F32.ofNat (n : Nat) : F32 := fmt32.roundMag n 0
/-- An exact value as FP32, zero as +0. -/
def F32.ofDy (d : Dy) : F32 := fmt32.round false d

/-- A key by which finite values and infinities order as numbers; +0 and −0 have the same key. -/
def F32.key (a : F32) : Int :=
  let mag := a % 0x80000000
  if a / 0x80000000 % 2 = 1 then -(mag : Int) else mag
/-- Strictly below, neither being NaN. -/
def F32.lt (a b : F32) : Bool := decide (F32.key a < F32.key b)
/-- Equal as numbers, neither being NaN. -/
def F32.eq (a b : F32) : Bool := decide (F32.key a = F32.key b)
/-- The larger of two, the first of equals, NaN if either is (R115). -/
def F32.max (a b : F32) : F32 := if a.isNan || b.isNan then F32.nan else if a.lt b then b else a

/-! ### Sums in a fixed order (R48, R112) -/

/-- One level of the balanced binary tree: neighbours added, an odd last value carried up. -/
def treeLevel : List F32 → List F32
  | a :: b :: t => F32.add a b :: treeLevel t
  | t => t

/-- The balanced binary tree over a list, with fuel for its levels; the empty sum is +0. -/
def treeFuel : Nat → List F32 → F32
  | 0, l => l.headD 0
  | _ + 1, [] => 0
  | _ + 1, [a] => a
  | n + 1, l => treeFuel n (treeLevel l)

/-- The balanced binary tree of R48. -/
def treeSum (l : List F32) : F32 := treeFuel l.length l

/-- A list cut into runs of n, with fuel. -/
def chunksFuel {α : Type} : Nat → Nat → List α → List (List α)
  | 0, _, _ => []
  | _ + 1, _, [] => []
  | k + 1, n, l => l.take n :: chunksFuel k n (l.drop n)

/-- A list cut into runs of n. -/
def chunks {α : Type} (n : Nat) (l : List α) : List (List α) := chunksFuel l.length n l

/-- Left fold of FP32 additions, the first value taken as it is; the empty sum is +0. -/
def foldSum : List F32 → F32
  | [] => 0
  | a :: t => t.foldl F32.add a

/-- Σ of R112: the tree over lanes within each chunk of 2,048, chunk sums added in order. -/
def rimSum (l : List F32) : F32 := foldSum ((chunks Config.lanes l).map treeSum)

end Sys2Proof.Machine
end

