-- ==== Sys2Proof/Machine/Prims.lean ====
section
/-! DEFINITION. The correctly rounded primitives of the rim units (R84): reciprocal, square root, reciprocal square root, exp2, log2, tanh and
erf.  The last four are summed as series in fixed point far below the last place of any FP32 result, then rounded once (log 10). -/

namespace Sys2Proof.Machine

/-- recip: the FP32 value nearest 1 / a. -/
def recip (a : F32) : F32 :=
  match a.val with
  | .nan => F32.nan
  | .inf neg => if neg then 0x80000000 else 0
  | .fin neg d =>
    if d.m = 0 then (if neg then F32.negInf else F32.posInf)
    else (if neg then 0x80000000 else 0) + fmt32.roundRatio 1 d.m.natAbs (-d.e)

/-- The square root of a positive value m × 2^e rounded to FP32 magnitude bits. -/
def sqrtMag (m : Nat) (e : Int) : Nat :=
  -- m × 2^e = n × 2^(2h) with n at least 2^64
  let k : Nat := 64 + (if (e % 2 = 0) then 0 else 1)
  let n := m * 2 ^ k
  let h := (e - k) / 2
  let r := Nat.sqrt n
  fmt32.roundMag (2 * r + (if r * r = n then 0 else 1)) (h - 1)

/-- sqrt. -/
def sqrt32 (a : F32) : F32 :=
  match a.val with
  | .nan => F32.nan
  | .inf neg => if neg then F32.nan else F32.posInf
  | .fin neg d => if d.m = 0 then a else if neg then F32.nan else sqrtMag d.m.natAbs d.e

/-- rsqrt: the FP32 value nearest 1 / √a. -/
def rsqrt (a : F32) : F32 :=
  match a.val with
  | .nan => F32.nan
  | .inf neg => if neg then F32.nan else 0
  | .fin neg d =>
    if d.m = 0 then (if neg then F32.negInf else F32.posInf)
    else if neg then F32.nan
    else
      -- 1 / √(m 2^e): with e' even, 2^(-e'/2) √(2^k / m') to k even
      let m := if d.e % 2 = 0 then d.m.natAbs else 2 * d.m.natAbs
      let e := if d.e % 2 = 0 then d.e else d.e - 1
      let n := 2 ^ 160 / m
      let r := Nat.sqrt n
      fmt32.roundMag (2 * r + (if r * r * m = 2 ^ 160 then 0 else 1)) (-(e / 2) - 80 - 1)

/-- Fraction bits of the fixed-point series. -/
def fixBits : Nat := 320
/-- One in fixed point. -/
def fixOne : Int := 2 ^ fixBits
/-- Fixed-point product, rounded down. -/
def fixMul (a b : Int) : Int := a * b / fixOne

/-- ln 2 in fixed point: Σ 1 / (k 2^k). -/
def fixLn2 : Int := ((List.range 330).map (fun (i : Nat) => fixOne / (((i : Int) + 1) * (2 : Int) ^ (i + 1)))).foldl (· + ·) 0

/-- Σ x^k / k! of a fixed-point number, with the term reached, the next index and fuel. -/
def fixExpTerms : Nat → Int → Int → Nat → Int
  | 0, _, _, _ => 0
  | n + 1, x, term, k => term + fixExpTerms n x (fixMul term x / ((k : Int) + 1)) (k + 1)

/-- e^x of a fixed-point number of small magnitude. -/
def fixExp (x : Int) : Int := fixExpTerms 90 x fixOne 0

/-- A value m × 2^e in fixed point, rounded down. -/
def Dy.toFix (d : Dy) : Int :=
  let k := d.e + fixBits
  if k ≥ 0 then d.m * 2 ^ k.toNat else d.m / 2 ^ (-k).toNat

/-- exp2: the FP32 value nearest 2^a. -/
def exp2 (a : F32) : F32 :=
  match a.val with
  | .nan => F32.nan
  | .inf neg => if neg then 0 else F32.posInf
  | .fin _ d =>
    if (Dy.ofInt 200).lt d then F32.posInf
    else if d.lt (Dy.ofInt (-200)) then 0
    else
      let x := d.toFix
      let n := x / fixOne
      let f := x - n * fixOne
      if f = 0 then fmt32.round false { m := 1, e := n }
      else fmt32.round false { m := 2 * fixExp (fixMul f fixLn2) + 1, e := n - fixBits - 1 }

/-- e^x − 1 of a fixed-point number of small magnitude. -/
def fixExpm1 (x : Int) : Int := fixExp x - fixOne

/-- tanh of a value of magnitude below 16, in FP32 magnitude bits: (t − 1) / (t + 1) with t = e^(2x), t as (e^(x/16))^32. -/
def tanhMag (d : Dy) : Nat :=
  let x := d.toFix
  let y := fixExp (x / 16)
  let sq := fun (v : Int) => fixMul v v
  let t := sq (sq (sq (sq (sq y))))
  fmt32.roundRatio (t - fixOne).toNat (t + fixOne).toNat 0

/-- tanh; a magnitude below 2^−20 rounds to itself, since tanh x differs from x by less than x³ / 3, and one of 16 or more to 1. -/
def tanh32 (a : F32) : F32 :=
  match a.val with
  | .nan => F32.nan
  | .inf neg => if neg then 0xBF800000 else F32.one
  | .fin neg d =>
    let s := if neg then 0x80000000 else 0
    if d.abs.lt { m := 1, e := -20 } then a
    else if (Dy.ofInt 16).le d.abs then s + F32.one
    else s + tanhMag d.abs

/-- Σ (−1)^k x^(2k+1) / (k! (2k + 1)) in fixed point, with the power term reached and fuel. -/
def fixErfTerms : Nat → Int → Int → Nat → Int
  | 0, _, _, _ => 0
  | n + 1, x2, term, k => term / (2 * (k : Int) + 1) + fixErfTerms n x2 (-(fixMul term x2) / ((k : Int) + 1)) (k + 1)

/-- Σ (−1)^k y^(2k+1) / (2k + 1), the arctangent of 1 / m in fixed point. -/
def fixAtanInv (m : Int) : Int :=
  ((List.range 240).map (fun (k : Nat) => (if k % 2 = 0 then (1 : Int) else -1) * (fixOne / ((2 * (k : Int) + 1) * m ^ (2 * k + 1))))).foldl (· + ·) 0

/-- π in fixed point, by Machin's sum. -/
def fixPi : Int := 4 * (4 * fixAtanInv 5 - fixAtanInv 239)

/-- 2 / √π in fixed point. -/
def fixTwoOverSqrtPi : Int := 2 * fixOne * fixOne / (Nat.sqrt (fixPi.toNat * 2 ^ fixBits) : Int)

/-- erf; below 2^−60 it rounds as 2a / √π, and from 4 on to 1. -/
def erf32 (a : F32) : F32 :=
  match a.val with
  | .nan => F32.nan
  | .inf neg => if neg then 0xBF800000 else F32.one
  | .fin neg d =>
    let s := if neg then 0x80000000 else 0
    let x := d.abs
    if x.m = 0 then a
    else if (Dy.ofInt 4).le x then s + F32.one
    else if x.lt { m := 1, e := -60 } then s + fmt32.roundMag (x.m.toNat * fixTwoOverSqrtPi.toNat) (x.e - fixBits)
    else
      let f := x.toFix
      s + fmt32.roundMag (fixMul (fixErfTerms 200 (fixMul f f) f 0) fixTwoOverSqrtPi).toNat (-(fixBits : Int))

/-- Binary digits of log2 of a fixed-point number in [1, 2), most significant first: squared, a carry past 2 gives a one. -/
def fixLog2Digits : Nat → Int → Int → Int
  | 0, _, acc => acc
  | n + 1, x, acc =>
    let y := fixMul x x
    if y ≥ 2 * fixOne then fixLog2Digits n (y / 2) (2 * acc + 1) else fixLog2Digits n y (2 * acc)

/-- log2: the FP32 value nearest log2 a, from 110 fraction digits; a power of two gives its exponent. -/
def log2f (a : F32) : F32 :=
  match a.val with
  | .nan => F32.nan
  | .inf neg => if neg then F32.nan else F32.posInf
  | .fin neg d =>
    if d.m = 0 then F32.negInf
    else if neg then F32.nan
    else
      let k := lead d.m.natAbs
      let n : Int := k + d.e
      let x : Int := d.m * 2 ^ (fixBits - k)
      if x = fixOne then fmt32.round false (Dy.ofInt n)
      else fmt32.round false { m := 2 * (n * 2 ^ 110 + fixLog2Digits 110 x 0) + 1, e := -111 }

/-! ### The residue check (R85) -/

/-- The residue modulo 7 of an integer. -/
def residue7 (n : Int) : Nat := (n % 7).toNat
/-- The weight 2^k mod 7 of an alignment shift k: 1, 2 or 4. -/
def shiftWeight (k : Nat) : Nat := match k % 3 with | 0 => 1 | 1 => 2 | _ => 4
/-- A significand product of a run: the operands' significands and its alignment shift. -/
abbrev Product := Int × Int × Nat
/-- A cell's residue of its product, formed from the operands' residues alone. -/
def cellResidue (p : Product) : Nat := residue7 p.1 * residue7 p.2.1 % 7
/-- A check lane's sum over a run: the cells' residues, each with its shift's weight. -/
def checkLane (run : List Product) : Nat := (run.map (fun p => cellResidue p * shiftWeight p.2.2)).sum % 7
/-- The exact sum of a run. -/
def productSum (run : List Product) : Int := (run.map (fun p => p.1 * p.2.1 * 2 ^ p.2.2)).sum
/-- Whether a rim unit's comparison of the check lane with a run sum passes. -/
def runChecks (run : List Product) (sum : Int) : Bool := checkLane run == residue7 sum
/-- Whether a rounding's check passes: exact = rounded + discarded, at one unit. -/
def roundChecks (exact rounded discarded : Int) : Bool := residue7 exact == (residue7 rounded + residue7 discarded) % 7

end Sys2Proof.Machine
end

