-- ==== Sys2Proof/Machine/Formats.lean ====
section
/-! DEFINITION. The storage formats and the conversions between them and FP32 (R61 to R78), format codes as in R95: 0 FP32, 1 FP16, 2 BF16, 3 JB8,
4 JB4, 5 JB2. -/

namespace Sys2Proof.Machine

/-- Elements of a block, or a group for JB4 (R61). -/
def fmtElems (fmt : Nat) : Nat :=
  match fmt with | 3 => 32 | 4 => 1024 | 5 => 64 | _ => 1

/-- Bytes of a block, a group or an element (R61). -/
def fmtBytes (fmt : Nat) : Nat :=
  match fmt with | 0 => 4 | 1 => 2 | 2 => 2 | 3 => 33 | 4 => 545 | _ => 18

/-- Bytes of a row of n elements, its end padded to whole blocks (R61). -/
def rowBytes (fmt n : Nat) : Nat := ceilDiv n (fmtElems fmt) * fmtBytes fmt

/-! ### Decoding -/

/-- The exact value of a JB8 code before its block scale (R62). -/
def jb8Val (c : Nat) : Val :=
  if c % 256 = 0x80 then .nan
  else
    let e := c / 8 % 16
    if e = 0 then .fin false Dy.zero
    else
      let neg := c / 128 % 2 = 1
      let m : Int := 8 + c % 8
      .fin neg { m := if neg then -m else m, e := (e : Int) - 10 }

/-- Twice the magnitude of a JB4 code (R64). -/
def jb4Twice (c : Nat) : Nat :=
  match c % 8 with | 0 => 0 | 1 => 1 | 2 => 2 | 3 => 3 | 4 => 4 | 5 => 6 | 6 => 8 | _ => 12

/-- The exact value of a JB4 code before its scales (R64). -/
def jb4Val (c : Nat) : Val :=
  let neg := c / 8 % 2 = 1 ∧ c % 8 ≠ 0
  .fin neg { m := if neg then -(jb4Twice c : Int) else jb4Twice c, e := -1 }

/-- A value times a power of two. -/
def Val.scale (v : Val) (k : Int) : Val :=
  match v with | .fin neg d => .fin neg (d.scale k) | v => v

/-- The value of a JB2 code (R66). -/
def jb2Val (c : Nat) : Val :=
  match c % 4 with | 1 => .fin false (Dy.ofInt 1) | 3 => .fin true (Dy.ofInt (-1)) | _ => .fin false Dy.zero

/-- The elements of one block or group, as exact values. -/
def decodeBlock (fmt : Nat) (b : Bytes) : List Val :=
  match fmt with
  | 0 => [fmt32.decode (fld b 0 4)]
  | 1 => [fmt16.decode (fld b 0 2)]
  | 2 => [fmtB16.decode (fld b 0 2)]
  | 3 =>
    let s := fld b 0 1
    ((slice b 1 32).map (fun c => if s = 255 then Val.nan else (jb8Val c.toNat).scale ((s : Int) - 127)))
  | 4 =>
    let s := fld b 0 1
    (List.range 1024).map (fun i =>
      let blk := i / 16
      let sub := fld b (1 + blk / 2) 1 / (if blk % 2 = 0 then 1 else 16) % 16
      let c := fld b (33 + i / 2) 1 / (if i % 2 = 0 then 1 else 16) % 16
      if s = 255 then Val.nan else (jb4Val c).scale ((s : Int) - 127 - sub))
  | _ =>
    let a := fmt16.decode (fld b 0 2)
    (List.range 64).map (fun i => (jb2Val (fld b (2 + i / 4) 1 / 4 ^ (i % 4))).mul a)

/-- The first n elements of a row, as exact values. -/
def decodeVals (fmt n : Nat) (b : Bytes) : List Val :=
  (((List.range (ceilDiv n (fmtElems fmt))).map
    (fun i => decodeBlock fmt (slice b (i * fmtBytes fmt) (fmtBytes fmt)))).flatten).take n

/-- The first n elements of a row taken into FP32 (R517). -/
def decodeF32 (fmt n : Nat) (b : Bytes) : List F32 := (decodeVals fmt n b).map F32.of

/-! ### Conversion -/

/-- The magnitude a conversion's scale is chosen from: infinity counts as the largest finite FP32 (R72, R73, R74). -/
def scaleMag (x : F32) : F32 :=
  if x.isNan then 0 else if x.isInf then F32.maxFinite else x % 0x80000000

/-- The largest of the magnitudes. -/
def maxMag (xs : List F32) : F32 := xs.foldl (fun m x => Nat.max m (scaleMag x)) 0

/-- ⌊log2⌋ of a positive finite FP32 magnitude. -/
def floorLog2 (m : F32) : Int := let d := F32.dy m; (lead d.m.natAbs : Int) + d.e

/-- A number clamped to 0 to hi. -/
def clampTo (hi : Nat) (x : Int) : Nat := min hi x.toNat

/-- Whether the draw w of R76 takes the upper of two adjacent grid values: w below ⌊(x − lo) / (hi − lo) × 2^32⌋.  The magnitudes a below y
below b stand for −b, −y, −a when the value is negative. -/
def pickUpper (neg : Bool) (y a b : Dy) (w : Nat) : Bool :=
  let num := if neg then b.sub y else y.sub a
  let (n, d, _) := Dy.align num (b.sub a)
  let up := decide (w < (n * 2 ^ 32 / d).toNat)
  if neg then !up else up

/-- The JB8 code of a scaled finite magnitude, without its sign (R71, R72); with a draw, by R76 and R78. -/
def jb8Mag (neg : Bool) (y : Dy) (w : Option Nat) : Nat :=
  let n := y.m.natAbs
  if n = 0 then 0
  else
    let q : Int := (lead n : Int) + y.e - 3
    match w with
    | none =>
      let m := if y.e ≥ q then n * 2 ^ (y.e - q).toNat else rneShift n (q - y.e).toNat
      let m' := if m = 16 then 8 else m
      let q' := if m = 16 then q + 1 else q
      if q' + 10 > 15 then 0x7F else if q' + 10 < 1 then 0 else (q' + 10).toNat * 8 + (m' - 8)
    | some w =>
      if ({ m := 480, e := 0 } : Dy).le y then 0x7F
      else if q + 10 < 1 then
        if pickUpper neg y Dy.zero { m := 8, e := -9 } w then 0x08 else 0
      else
        let lo := if y.e ≥ q then n * 2 ^ (y.e - q).toNat else n >>> (q - y.e).toNat
        let code := (q + 10).toNat * 8 + (lo - 8)
        let a : Dy := { m := lo, e := q }
        if y.le a then code
        else if pickUpper neg y a { m := lo + 1, e := q } w then code + 1 else code

/-- The JB4 code of a scaled finite magnitude, without its sign: the thresholds in quarters, a tie to the code whose low bit is 0 (R71). -/
def jb4Mag (neg : Bool) (y : Dy) (w : Option Nat) : Nat :=
  match w with
  | none =>
    ([1, 3, 5, 7, 10, 14, 20].zipIdx).foldl (fun c (t, i) =>
      let d : Dy := { m := (t : Nat), e := -2 }
      if d.lt y || (d.le y && (i % 2 == 1)) then i + 1 else c) 0
  | some w =>
    let lo := ((List.range 8).filter (fun c => ({ m := jb4Twice c, e := -1 } : Dy).le y)).getLastD 0
    let a : Dy := { m := jb4Twice lo, e := -1 }
    if lo = 7 ∨ y.le a then lo
    else if pickUpper neg y a { m := jb4Twice (lo + 1), e := -1 } w then lo + 1 else lo

/-- The FP16 or BF16 encoding of an FP32 value under stochastic rounding (R76); a magnitude beyond the largest finite one rounds as R75 (log 22). -/
def stochIeee (f : Ieee) (x : F32) (w : Nat) : Nat :=
  match x.val with
  | .fin neg d =>
    let y := d.abs
    let s := if neg then f.sign else 0
    let n := y.m.natAbs
    if n = 0 then s
    else
      let q := max ((lead n : Int) + y.e - (f.prec - 1)) f.qmin
      let lo := if y.e ≥ q then n * 2 ^ (y.e - q).toNat else n >>> (q - y.e).toNat
      let code := (q - f.qmin).toNat * 2 ^ (f.prec - 1) + lo
      let a : Dy := { m := lo, e := q }
      if y.le a ∨ code + 1 ≥ f.inf then f.encode x.val
      else s + (if pickUpper neg y a { m := lo + 1, e := q } w then code + 1 else code)
  | v => f.encode v

/-- A JB8 block from 32 values (R72). -/
def encodeJb8 (sr : Option (Nat → Nat)) (i0 : Nat) (xs : List F32) : Bytes :=
  let m := maxMag xs
  let s := if m = 0 then 0 else clampTo 254 (floorLog2 m - 8 + 127)
  BitVec.ofNat 8 s :: (xs.zipIdx).map (fun (x, i) =>
    BitVec.ofNat 8 (match F32.val x with
      | .nan => 0x80
      | .inf neg => if neg then 0xFF else 0x7F
      | .fin neg d =>
        let c := jb8Mag neg (d.abs.scale (127 - (s : Int))) (sr.map (fun f => f (i0 + i)))
        if c = 0 then 0 else if neg then 0x80 + c else c))

/-- Two four-bit codes in a byte, the first in the low bits. -/
def nibbles (l : List Nat) : Bytes :=
  (chunks 2 l).map (fun p => BitVec.ofNat 8 (p.headD 0 + 16 * p.getD 1 0))

/-- A JB4 group from 1,024 values (R73). -/
def encodeJb4 (sr : Option (Nat → Nat)) (i0 : Nat) (xs : List F32) : Bytes :=
  if xs.any F32.isNan then 255 :: List.replicate 544 0
  else
    let mg := maxMag xs
    let s := if mg = 0 then 0 else clampTo 254 (floorLog2 mg - 2 + 127)
    let blocks := chunks 16 xs
    let subs := blocks.map (fun blk =>
      let mb := maxMag blk
      if mb = 0 then 15 else clampTo 15 (floorLog2 mg - floorLog2 mb))
    let codes := ((blocks.zip subs).zipIdx).map (fun ((blk, sub), bi) =>
      (blk.zipIdx).map (fun (x, i) =>
        match F32.val x with
        | .nan => 0
        | .inf neg => if neg then 15 else 7
        | .fin neg d =>
          let c := jb4Mag neg (d.abs.scale (127 - (s : Int) + sub)) (sr.map (fun f => f (i0 + bi * 16 + i)))
          if c = 0 then 0 else if neg then 8 + c else c))
    BitVec.ofNat 8 s :: (nibbles subs ++ nibbles codes.flatten)

/-- The JB2 scale of 64 values none of which is NaN (R74). -/
def jb2Scale (xs : List F32) : Nat :=
  min 0x7BFF (fmt16.encode ((F32.mul (treeSum (xs.map scaleMag)) 0x3C800000).val))

/-- A JB2 block from 64 values (R74). -/
def encodeJb2 (xs : List F32) : Bytes :=
  if xs.any F32.isNan then toLE 2 0x7E00 ++ List.replicate 16 0
  else
    let a := jb2Scale xs
    let half : Dy := match fmt16.decode a with | .fin _ d => d.scale (-1) | _ => Dy.zero
    let code := fun (x : F32) =>
      match F32.val x with
      | .nan => 0
      | .inf neg => if neg then 3 else 1
      | .fin _ d => if half.lt d then 1 else if d.lt { m := -half.m, e := half.e } then 3 else 0
    toLE 2 a ++ (chunks 4 (xs.map code)).map (fun q =>
      BitVec.ofNat 8 (q.getD 0 0 + 4 * q.getD 1 0 + 16 * q.getD 2 0 + 64 * q.getD 3 0))

/-- One block, group or element of a format. -/
def encodeBlock (fmt : Nat) (sr : Option (Nat → Nat)) (i0 : Nat) (xs : List F32) : Bytes :=
  match fmt with
  | 0 => toLE 4 (F32.of (F32.val (xs.headD 0)))
  | 1 => toLE 2 (match sr with | none => fmt16.encode (F32.val (xs.headD 0)) | some f => stochIeee fmt16 (xs.headD 0) (f i0))
  | 2 => toLE 2 (match sr with | none => fmtB16.encode (F32.val (xs.headD 0)) | some f => stochIeee fmtB16 (xs.headD 0) (f i0))
  | 3 => encodeJb8 sr i0 xs
  | 4 => encodeJb4 sr i0 xs
  | _ => encodeJb2 xs

/-- A row of FP32 values in a format, its end padded with zero elements (R61); `sr` gives the draw of the element at a row index (R76). -/
def encodeRow (fmt : Nat) (sr : Option (Nat → Nat)) (xs : List F32) : Bytes :=
  let k := fmtElems fmt
  ((chunks k xs).zipIdx.map (fun (blk, i) =>
    encodeBlock fmt sr (i * k) (blk ++ List.replicate (k - blk.length) 0))).flatten

/-! ### Coarse codes (R68 to R70) -/

/-- The record of one dimension: offset, step, low bound, high bound. -/
structure DimRec where
  o  : F32
  dl : F32
  lo : F32
  hi : F32
deriving DecidableEq, Repr

/-- A dimension record from its 16 bytes (R68). -/
def DimRec.ofBytes (b : Bytes) : DimRec := { o := fld b 0 4, dl := fld b 4 4, lo := fld b 8 4, hi := fld b 12 4 }

/-- A dimension record's 16 bytes. -/
def DimRec.toBytes (r : DimRec) : Bytes := toLE 4 r.o ++ toLE 4 r.dl ++ toLE 4 r.lo ++ toLE 4 r.hi

/-- The low bound lowered, or the high bound raised, to take a value in (R70). -/
def DimRec.widen (r : DimRec) (x : F32) : DimRec :=
  { r with lo := if x.lt r.lo then x else r.lo, hi := if r.hi.lt x then x else r.hi }

/-- The smallest code whose cell holds x, x within the bounds: the least q with x at most o + (q + ½)Δ, or qmax (R69, R70). -/
def DimRec.code (r : DimRec) (qmax : Nat) (x : F32) : Nat :=
  -- o + (q + ½)Δ ≥ x exactly when q ≥ (2(x − o) − Δ) / 2Δ
  let d := ((F32.dy x).sub (F32.dy r.o)).scale 1 |>.sub (F32.dy r.dl)
  let (n, k, _) := Dy.align d ((F32.dy r.dl).scale 1)
  if k ≤ 0 ∨ n ≤ 0 then 0 else min qmax (ceilDiv n.toNat k.toNat)

/-- The bounds of a code's cell as exact values (R69). -/
def DimRec.cell (r : DimRec) (qmax q : Nat) : Dy × Dy :=
  let o := F32.dy r.o
  let dl := F32.dy r.dl
  let at2 := fun (k : Int) => o.add { m := dl.m * k, e := dl.e - 1 }   -- o + k Δ / 2
  (if q = 0 then F32.dy r.lo else at2 (2 * (q : Int) - 1), if q = qmax then F32.dy r.hi else at2 (2 * (q : Int) + 1))

end Sys2Proof.Machine
end

