-- ==== Sys2Proof/Machine/Ops.lean ====
section
/-! DEFINITION. The named operations over the state: contexts, sequencers, ports, objects, memory, images and arbitration, through which every
meaning reads and writes. -/

namespace Sys2Proof

/-- A sequencer's ID (R30). -/
def SeqId.num : SeqId → Nat
  | .steppeW => 0 | .steppeE => 1 | .gorgeW => 2 | .gorgeE => 3 | .glenScanW => 4 | .glenScanE => 5
  | .glenRefine => 6 | .glenWalk => 7 | .text => 8 | .serving => 9 | .packer => 10 | .maint => 11

/-- The sequencer of an ID. -/
def SeqId.ofId (n : Nat) : SeqId :=
  match n with
  | 0 => .steppeW | 1 => .steppeE | 2 => .gorgeW | 3 => .gorgeE | 4 => .glenScanW | 5 => .glenScanE
  | 6 => .glenRefine | 7 => .glenWalk | 8 => .text | 9 => .serving | 10 => .packer | _ => .maint

/-- The twelve sequencers. -/
def SeqId.all : List SeqId :=
  [.steppeW, .steppeE, .gorgeW, .gorgeE, .glenScanW, .glenScanE, .glenRefine, .glenWalk, .text, .serving, .packer, .maint]

namespace Machine

/-- A flag as a number. -/
def flagNat (b : Bool) : Nat := if b then 1 else 0

/-- A value put into a list sorted by a number, after its equals. -/
def insertOn {α : Type} (f : α → Nat) (x : α) : List α → List α
  | [] => [x]
  | y :: t => if f x < f y then x :: y :: t else y :: insertOn f x t
/-- A list sorted by a number, equals in their order. -/
def sortOn {α : Type} (f : α → Nat) (l : List α) : List α := l.foldl (fun acc x => insertOn f x acc) []

/-- n bytes of a result that the manual leaves open, from the operands (R44, log 121). -/
def freeOf (operands : Bytes) (n : Nat) : Bytes := (List.range n).map (Config.freeOf operands)

/-- A completion code's value (R381). -/
def Code.num : Code → Nat
  | .ok => 0x00 | .short => 0x01 | .cancelled => 0x02 | .lateCancel => 0x03 | .grammarDeadEnd => 0x04 | .fallbackUsed => 0x05
  | .noPages => 0x06 | .integrity => 0x07 | .uncorrectable => 0x08 | .faulted => 0x09 | .protocol => 0x0A | .linkLost => 0x0B
  | .deadline => 0x0C | .stopString => 0x0D | .lengthLimit => 0x0E | .endOfSequence => 0x0F | .busy => 0x10
  | .inheritTimeout => 0x11 | .approx => 0x12

/-- The order in which a step's outcomes give its completion code (R515). -/
def Code.order : List Code :=
  [.cancelled, .linkLost, .faulted, .inheritTimeout, .uncorrectable, .integrity, .protocol, .busy, .lengthLimit, .approx, .short]

/-- A step's completion code from the outcomes that reach it (R515). -/
def Code.final (l : List Code) : Code := (Code.order.find? (fun c => l.contains c)).getD .ok

/-- A context state's code (R331). -/
def CtxState.num : CtxState → Nat
  | .idle => 0 | .ready => 1 | .suspended => 2 | .faulted => 3 | .drained => 4

/-- The bits of a mask, ascending. -/
def maskBits (m : Nat) : List Nat := (List.range 32).filter (fun n => m.testBit n)

namespace State

/-! ### Contexts, sequencers, ports, queues, links -/

/-- Context c. -/
def ctx (s : State) (c : CtxId) : Ctx := s.ctxs.getD c.toNat Ctx.init
/-- The state with context c replaced. -/
def setCtx (s : State) (c : CtxId) (x : Ctx) : State := { s with ctxs := s.ctxs.set c.toNat x }
/-- The state with a function applied to context c. -/
def modCtx (s : State) (c : CtxId) (f : Ctx → Ctx) : State := s.setCtx c (f (s.ctx c))

/-- Host port p. -/
def port (s : State) (p : HostPort) : Port := s.ports.getD p.toNat Port.init
/-- The state with a function applied to port p. -/
def modPort (s : State) (p : HostPort) (f : Port → Port) : State := { s with ports := s.ports.set p.toNat (f (s.port p)) }

/-- Selyn port n. -/
def link (s : State) (n : SelynPort) : Link := s.links.getD n.val Link.init
/-- The state with a function applied to Selyn port n. -/
def modLink (s : State) (n : SelynPort) (f : Link → Link) : State := { s with links := s.links.set n.val (f (s.link n)) }

/-- Engine queue i (R333 order). -/
def queue (s : State) (i : Nat) : Queue := s.queues.getD i Queue.init
/-- The state with a function applied to queue i. -/
def modQueue (s : State) (i : Nat) (f : Queue → Queue) : State := { s with queues := s.queues.set i (f (s.queue i)) }

/-- The object of an ID, if a bound placement table names it. -/
def obj? (s : State) (id : U32) : Option Obj := s.objs.get? id.toNat
/-- The state with an object's record replaced. -/
def setObj (s : State) (id : U32) (o : Obj) : State := { s with objs := s.objs.set id.toNat o }
/-- The state with a function applied to an object's record. -/
def modObj (s : State) (id : U32) (f : Obj → Obj) : State :=
  match s.obj? id with | none => s | some o => s.setObj id (f o)

/-- A sync counter's word (R346). -/
def counter (s : State) (k : Nat) : U32 := s.sync.getD k 0
/-- The state with a sync counter written; a counter at 0 is not listed. -/
def setCounter (s : State) (k : Nat) (v : U32) : State :=
  { s with sync := if v = 0 then s.sync.erase k else s.sync.set k v }

/-! ### Bytes -/

/-- n bytes of a space. -/
def get (s : State) (sp : Space) (off n : Nat) : Bytes := s.mem.read (sp.key off) n
/-- A little-endian number of n bytes in a space. -/
def getNat (s : State) (sp : Space) (off n : Nat) : Nat := leNat (s.get sp off n)
/-- The state after bytes are written to a space. -/
def put (s : State) (sp : Space) (off : Nat) (bs : Bytes) : State := { s with mem := s.mem.write (sp.key off) bs }
/-- The state after n bytes of a space are set to the unlisted byte. -/
def wipe (s : State) (sp : Space) (off n : Nat) : State := { s with mem := s.mem.clear (sp.key off) n }
/-- The state after n bytes are copied between spaces. -/
def move (s : State) (src : Space) (soff : Nat) (dst : Space) (doff n : Nat) : State :=
  { s with mem := s.mem.copy (src.key soff) (dst.key doff) n }

/-- n free bytes and the state that has used them (log 4). -/
def freeBytes (s : State) (n : Nat) : Bytes × State :=
  ((List.range n).map (Config.freeByte s.fresh), { s with fresh := s.fresh + 1 })
/-- The state after free bytes are written to a space (log 4). -/
def putFree (s : State) (sp : Space) (off n : Nat) : State := let (bs, s') := s.freeBytes n; s'.put sp off bs
/-- A free word and the state that has used it (log 4). -/
def freeWord (s : State) : Nat × State := ((Config.freeWord s.fresh).toNat, { s with fresh := s.fresh + 1 })
/-- A free choice among n and the state that has used it (log 15). -/
def freePick (s : State) (n : Nat) : Nat × State := (Config.freeChoice s.fresh % n, { s with fresh := s.fresh + 1 })

/-- Device time, ns. -/
def now (s : State) : U64 := s.clock.now
/-- 5,000 ns of the reference clock pass; one nanosecond more or less while device time slews, at most 200 ppm (R389, log 5); a
port with no traffic waiting returns its credits on an idle frame (R395). -/
def tick (s : State) : State :=
  let k := s.clock
  let d : Int := if 0 < k.slew then 1 else if k.slew < 0 then -1 else 0
  { s with clock := { k with now := k.now + BitVec.ofInt 64 (5000 + d), slew := k.slew - d }
           links := s.links.map (fun e => (e.1, if e.2.waitq.isEmpty then { e.2 with giveBack := [] } else e.2)) }

end State

/-! ### Sequencers -/

/-- Sequencer q of a context. -/
def Ctx.seq (x : Ctx) (q : SeqId) : Seq := x.seqs.getD q.num Seq.init
/-- A context with sequencer q replaced. -/
def Ctx.setSeq (x : Ctx) (q : SeqId) (v : Seq) : Ctx := { x with seqs := x.seqs.set q.num v }
/-- A context with a function applied to sequencer q. -/
def Ctx.modSeq (x : Ctx) (q : SeqId) (f : Seq → Seq) : Ctx := x.setSeq q (f (x.seq q))
/-- A context with a function applied to all twelve sequencers. -/
def Ctx.modSeqs (x : Ctx) (f : Seq → Seq) : Ctx := SeqId.all.foldl (fun x q => x.modSeq q f) x
/-- A parameter register (R37). -/
def Seq.reg (v : Seq) (r : BitVec 4) : U64 := v.regs.getD r.toNat 0
/-- A sequencer with a parameter register written. -/
def Seq.setReg (v : Seq) (r : BitVec 4) (w : U64) : Seq :=
  { v with regs := if w = 0 then v.regs.erase r.toNat else v.regs.set r.toNat w }
/-- A sequencer at the next instruction word, running. -/
def Seq.next (v : Seq) : Seq := { v with pos := v.pos + 1, status := .running }

/-- The bucket of a wait of t ns (R58). -/
def lagBucket (t : Nat) : Nat := min 31 (Nat.log2 t)
/-- A lag cause with a wait of t ns counted (R58). -/
def LagCause.add (l : LagCause) (t : Nat) : LagCause :=
  { buckets := l.buckets.set (lagBucket t) (l.buckets.getD (lagBucket t) 0 + 1), total := l.total + t }
/-- A sequencer with the wait that began at `since` counted under a cause (R58): 0 token, 1 credit, 2 queue, 3 arbiter, 4 counter, 5
boundary, 6 saddle. -/
def Seq.waited (v : Seq) (cause : Nat) (now : U64) : Seq :=
  { v with lag := v.lag.set cause ((v.lag.getD cause { buckets := [], total := 0 }).add (now - v.since).toNat) }
/-- The name of an engine's internal path where a wait names no buffer (R387): no object ID is as large. -/
def internalPath (engine : Nat) : Nat := 2 ^ 32 + engine
/-- A sequencer with a wait that began at `since` counted under a cause, and under its buffer for the token and credit causes (R58). -/
def Seq.count (v : Seq) (cause buf : Nat) (since now : U64) : Seq :=
  let t := (now - since).toNat
  { v with lag := v.lag.set cause ((v.lag.getD cause { buckets := [], total := 0 }).add t)
           tokenBuf := if cause = 0 then v.tokenBuf.set buf (v.tokenBuf.getD buf 0 + t) else v.tokenBuf
           creditBuf := if cause = 1 then v.creditBuf.set buf (v.creditBuf.getD buf 0 + t) else v.creditBuf }
/-- A sequencer whose command on an engine waits; the first thing it waits on is the wait's cause (R58). -/
def Seq.cmdWait (v : Seq) (engine cause buf : Nat) (now : U64) : Seq :=
  match v.waits.get? engine with
  | some _ => v
  | none => { v with waits := v.waits.set engine { cause := cause, buf := buf, since := now } }
/-- A sequencer whose command on an engine waits no longer: the wait is counted (R58). -/
def Seq.cmdGo (v : Seq) (engine : Nat) (now : U64) : Seq :=
  match v.waits.get? engine with
  | none => v
  | some w => { v.count w.cause w.buf w.since now with waits := v.waits.erase engine }
/-- The cause of R58 under which a sequencer's own wait falls; WAITDONE's falls under none of the seven (DEDUCED, log 146). -/
def SeqStatus.cause : SeqStatus → Option Nat
  | .queue _ _ _ => some 2
  | .counter _ _ | .lock _ => some 4
  | .boundary => some 5
  | .saddle _ => some 6
  | .running | .halted | .stopped | .done _ _ => none
/-- A sequencer with every wait that is open counted at its present length, and none open (R23, R58). -/
def Seq.closed (v : Seq) (now : U64) : Seq :=
  let v1 := match v.status.cause with | none => v | some k => v.waited k now
  { v1.waits.foldl (fun u e => u.count e.2.cause e.2.buf e.2.since now) v1 with waits := [] }
/-- A sequencer that starts to wait. -/
def Seq.wait (v : Seq) (st : SeqStatus) (now : U64) : Seq := { v with status := st, since := now }

/-- A context whose commands and sequencers run: READY, no suspension of it being written, restored or draining (R331). -/
def Ctx.active (x : Ctx) : Bool := decide (x.state = .ready) && !x.suspending && !x.resuming
/-- The base priority that arbiters see (R339, R355). -/
def Ctx.base (x : Ctx) : Nat := max x.prio.toNat ((x.raise.getD 0).toNat)
/-- A context none of whose programs runs (R376). -/
def Ctx.allHalted (x : Ctx) : Bool :=
  SeqId.all.all (fun q => decide ((x.seq q).status = .halted) || decide ((x.seq q).status = .stopped))

/-! ### Step images (R29 to R36) -/

/-- A number in an image. -/
def State.img (s : State) (i : U32) (off n : Nat) : Nat := s.getNat (.image i) off n
/-- Offset, length and count of section k, from the directory (R30). -/
def State.section (s : State) (i : U32) (k : Nat) : Nat × Nat × Nat :=
  let o := 0x20 + 16 * k
  (s.img i o 4, s.img i (o + 4) 4, s.img i (o + 10) 2)
/-- The entries of the placement table (R34). -/
def State.tableEntries (s : State) (i : U32) : List Bytes :=
  let (off, _, n) := s.section i 12
  (List.range n).map (fun k => s.get (.image i) (off + 32 * k) 32)
/-- The entries of the Saddle plan (R36). -/
def State.planEntries (s : State) (i : U32) : List Bytes :=
  let (off, _, n) := s.section i 13
  (List.range n).map (fun k => s.get (.image i) (off + 16 * k) 16)
/-- A tree image: header flag [0] (R29). -/
def State.treeImage (s : State) (i : U32) : Bool := (s.img i 0x0A 2).testBit 0
/-- Header flag [2]: stochastic rounding (R29, R76). -/
def State.stochastic (s : State) (c : CtxId) : Bool :=
  match (s.ctx c).image with | none => false | some i => (s.img i 0x0A 2).testBit 2
/-- Whether a context's bound placement table names an object. -/
def State.names (s : State) (c : CtxId) (id : U32) : Bool :=
  match (s.ctx c).image with
  | none => false
  | some i => (s.tableEntries i).any (fun e => fld e 0 4 == id.toNat)
/-- Whether a context is bound to a tree image. -/
def State.inTree (s : State) (c : CtxId) : Bool :=
  match (s.ctx c).image with | none => false | some i => s.treeImage i
/-- The entry of a context's Saddle plan at an index. -/
def State.planEntry? (s : State) (c : CtxId) (k : Nat) : Option Bytes :=
  match (s.ctx c).image with | none => none | some i => (s.planEntries i)[k]?

/-! ### Objects -/

/-- An object whose bytes are there: RESIDENT, or EVICTING until the commands in progress have ended (R308, R312). -/
def Obj.present (o : Obj) : Bool := decide (o.state = .resident) || decide (o.state = .evicting)
/-- Whether a range of an object holds a poisoned parcel. -/
def Obj.poison (o : Obj) (off n : Nat) : Bool :=
  o.poisoned.any (fun k => decide (off < 256 * (k + 1)) && decide (256 * k < off + n))
/-- Parcels a write of a range covers whole, the last one to the object's end (R321). -/
def Obj.covers (o : Obj) (off n k : Nat) : Bool :=
  decide (off ≤ 256 * k) && decide (min (256 * (k + 1)) o.size ≤ off + n) && decide (256 * k < o.size)
/-- An object after a range is written: whole parcels leave the poisoned set, and the readers that waited at them are awake (R321, R326). -/
def Obj.wrote (o : Obj) (off n : Nat) : Obj :=
  { o with poisoned := o.poisoned.filter (fun k => !o.covers off n k), stalled := o.stalled.filter (fun r => !o.covers off n r.2) }
/-- Whether a write of a range meets a poisoned parcel that it does not cover whole (R321). -/
def Obj.blocks (o : Obj) (off n : Nat) : Bool :=
  o.poisoned.any (fun k => decide (off < 256 * (k + 1)) && decide (256 * k < off + n) && !o.covers off n k)

/-- The bytes of a range of an object (tiers 0 to 2); those of a save area are free once a save or a swap has written it (R332, log 25). -/
def State.rd (s : State) (id : U32) (off n : Nat) : Bytes :=
  match (s.obj? id).bind Obj.saved with
  | none => s.get (.obj id) off n
  | some k => (List.range n).map (fun i => Config.freeByte k (off + i))
/-- A number in an object. -/
def State.rdNat (s : State) (id : U32) (off n : Nat) : Nat := leNat (s.rd id off n)
/-- The state after something of a context is written to its save area, in a layout the manual does not give byte by byte (R332, log 25). -/
def State.noteSaved (s : State) (c : CtxId) : State :=
  ({ s with fresh := s.fresh + 1 } : State).modObj (s.ctx c).save (fun o => { o with saved := some s.fresh })
/-- The state after a compute unit writes a range of an object: bytes stored, whole parcels leave the poisoned set (R321). -/
def State.wr (s : State) (id : U32) (off : Nat) (bs : Bytes) : State :=
  (s.put (.obj id) off bs).modObj id (fun o => o.wrote off bs.length)
/-- The state after free bytes are written to a range of an object (log 4). -/
def State.wrFree (s : State) (id : U32) (off n : Nat) : State :=
  let (bs, s') := s.freeBytes n; s'.wr id off bs

/-- n bytes of the host memory of a port (R306). -/
def State.hostRd (s : State) (p : HostPort) (a n : Nat) : Bytes := s.get (.host p) a n
/-- The state after a device write into the memory of a port; a lost port's writes are dropped (R367). -/
def State.hostWr (s : State) (p : HostPort) (a : Nat) (bs : Bytes) : State :=
  if (s.port p).lost then s else s.put (.host p) a bs
/-- Bytes a host area of n data bytes takes with parcel checks (R377). -/
def hcrcSize (n : Nat) : Nat := roundUp n 256 + 4 * ceilDiv n 256
/-- The checks of n data bytes, one per parcel (R377). -/
def hcrcOf (bs : Bytes) : Bytes := ((List.range (ceilDiv bs.length 256)).map (fun i => toLE 4 (crc32c (slice bs (256 * i) 256)))).flatten
/-- The state after a host area is written, with parcel checks under HCRC (R377). -/
def State.hostArea (s : State) (p : HostPort) (hcrc : Bool) (a : Nat) (bs : Bytes) : State :=
  if hcrc then s.hostWr p a (slice bs 0 (roundUp bs.length 256) ++ hcrcOf bs) else s.hostWr p a bs
/-- Whether the host's parcel checks of an area hold (R377, R424). -/
def State.hcrcOk (s : State) (p : HostPort) (hcrc : Bool) (a n : Nat) : Bool :=
  !hcrc || decide (s.hostRd p (a + roundUp n 256) (4 * ceilDiv n 256) = hcrcOf (s.hostRd p a (roundUp n 256)))
/-- Whether the parcels of a host area of `total` bytes that its first `n` bytes lie in pass the host's checks; true without HCRC (R377, R424). -/
def State.hcrcPart (s : State) (p : HostPort) (hcrc : Bool) (a total n : Nat) : Bool :=
  !hcrc || decide (s.hostRd p (a + roundUp total 256) (4 * ceilDiv (min n total) 256) = hcrcOf (s.hostRd p a (roundUp (min n total) 256)))

/-! ### Arbitration (R338 to R344) -/

/-- The key of a requester at an arbiter. -/
def arbKey (arbiter who : Nat) : Nat := arbiter * 65536 + who
/-- The record of a requester. -/
def State.arb (s : State) (arbiter who : Nat) : ArbRec := s.arbs.getD (arbKey arbiter who) ArbRec.init
/-- The effective priority of a waiting request (R339). -/
def ArbRec.eff (r : ArbRec) (base : Nat) : Nat := min 15 (base + r.lost)
/-- Whether a request comes before another at an arbiter: urgent first, then effective priority, then lost (R339, R340). -/
def State.arbBefore (s : State) (arbiter : Nat) (x y : ArbReq) : Bool :=
  let bx := if x.urgent then 0 else x.base.toNat
  let by_ := if y.urgent then 0 else y.base.toNat
  let rx := s.arb arbiter x.who
  let ry := s.arb arbiter y.who
  if x.urgent != y.urgent then x.urgent
  else if rx.eff bx ≠ ry.eff by_ then decide (ry.eff by_ < rx.eff bx)
  else decide (ry.lost < rx.lost)
/-- The requests no other comes before: among them the element decides (R340). -/
def State.arbBest (s : State) (arbiter : Nat) (reqs : List ArbReq) : List ArbReq :=
  reqs.filter (fun x => reqs.all (fun y => !s.arbBefore arbiter y x))
/-- The record of a requester that waits at a resource that is busy, or through a round (R344). -/
def ArbRec.holds (r : ArbRec) (now : U64) : ArbRec :=
  { r with waits := if r.since = none then r.waits + 1 else r.waits, since := some (r.since.getD now) }
/-- A requester's record after it waits through a round (R339, R344). -/
def ArbRec.loses (r : ArbRec) (now : U64) : ArbRec := { r.holds now with lost := r.lost + 1 }
/-- A requester's record after its request is withdrawn: its wait ends, and lost stays (R343, R344). -/
def ArbRec.withdraws (r : ArbRec) (now : U64) : ArbRec :=
  let t := match r.since with | none => 0 | some t0 => now - t0
  { r with total := r.total + t, longest := if r.longest.ult t then t else r.longest, since := none }
/-- A requester's record after its grant (R339, R344). -/
def ArbRec.wins (r : ArbRec) (now : U64) : ArbRec :=
  let t := match r.since with | none => 0 | some t0 => now - t0
  { lost := 0, grants := r.grants + 1, waits := r.waits, total := r.total + t,
    longest := if r.longest.ult t then t else r.longest, since := none }
/-- Whether a requester of an arbiter of engine queues or of a lock's hand-over serves a context: `who` is 16 × context + sequencer there (R338). -/
def servesCtx (key : Nat) (c : CtxId) : Bool :=
  decide (key % 65536 / 16 = c.toNat) && (decide (96 ≤ key / 65536 ∧ key / 65536 ≤ 112) || decide (0x10000 ≤ key / 65536))
/-- A context's requests for engines and locks are withdrawn: their waits end, their lost counts stay (R343). -/
def State.withdrawReqs (s : State) (c : CtxId) : State :=
  { s with arbs := s.arbs.map (fun e => (e.1, if servesCtx e.1 c then e.2.withdraws s.now else e.2)) }
/-- Requests that wait at an arbiter whose resource is busy (R342, R344). -/
def State.holdAll (s : State) (arbiter : Nat) (reqs : List ArbReq) : State :=
  reqs.foldl (fun s r => { s with arbs := s.arbs.set (arbKey arbiter r.who) ((s.arb arbiter r.who).holds s.now) }) s
/-- One round: the request granted, and the state with every requester's record moved (R338 to R344; a tie is free, log 15). A winner that withdraws
before its first transfer leaves every record as it was (R343). -/
def State.arbitrate (s : State) (arbiter : Nat) (reqs : List ArbReq) : Option ArbReq × State :=
  let best := s.arbBest arbiter reqs
  match best with
  | [] => (none, s)
  | b :: rest =>
    let (i, s1) := if rest.isEmpty then (0, s) else s.freePick best.length
    let win := best.getD i b
    if win.leaves then (some win, s1) else
    let s2 := reqs.foldl (fun s r =>
      let a := s.arb arbiter r.who
      let a' := if r.who = win.who then a.wins s.now else a.loses s.now
      { s with arbs := s.arbs.set (arbKey arbiter r.who) a' }) s1
    (some win, s2)

end Machine
end Sys2Proof
end

