-- ==== Sys2Proof/Machine/Egress.lean ====
section
/-! DEFINITION. Sending on a Selyn port: credits, sequence numbers, the replay buffer and the control parcels (R395 to R397, R405). -/

namespace Sys2Proof.Machine

/-- A port that is up (R394). -/
def Link.up (l : Link) : Bool := decide (l.state = .up8) || decide (l.state = .up4)
/-- Credits held for a virtual channel (R396). -/
def Link.credit (l : Link) (vc : BitVec 2) : Nat := l.credits.getD vc.toNat 0
/-- Whether a frame of a virtual channel can go now: port up, a credit, room in the replay buffer (R396, R397). -/
def Link.open (l : Link) (vc : BitVec 2) : Bool := l.up && decide (0 < l.credit vc) && decide (l.replay.length < 2048)
/-- The credits that a frame carries back: up to 63 of the first virtual channel that has any (R395). -/
def Link.carried (l : Link) : BitVec 2 × BitVec 6 :=
  match l.giveBack with
  | [] => (0, 0)
  | (vc, n) :: _ => (BitVec.ofNat 2 vc, BitVec.ofNat 6 (min 63 n))
/-- The credits to return with one frame taken off (R395). -/
def Link.carry (l : Link) : Link :=
  match l.giveBack with
  | [] => l
  | (vc, n) :: t => { l with giveBack := if n ≤ 63 then t else (vc, n - 63) :: t }
/-- A credit to return for a virtual channel whose parcel has left its slot (R396). -/
def Link.freed (l : Link) (vc : BitVec 2) : Link := { l with giveBack := l.giveBack.set vc.toNat (l.giveBack.getD vc.toNat 0 + 1) }
/-- The frame that a port puts on the lanes: of a kind, with the data or control frame it is, the highest sequence received in order and the credits to
return (R395). -/
def Link.wire (l : Link) (kind : BitVec 4) (f : Option Frame) : WireFrame :=
  { kind := kind, frame := f, ack := l.expected - 1, cvc := l.carried.1, credits := l.carried.2 }
/-- A frame without a sequence number sent: it carries credits back (R395). -/
def Link.emit (l : Link) (kind : BitVec 4) : Link := { l.carry with sent := some (l.wire kind none) }
/-- A frame sent: it takes the next sequence number and a credit, carries credits back and enters the replay buffer. -/
def Link.transmit (l : Link) (f : Frame) : Link :=
  let m := l.carry
  let g : Frame := { f with seq := l.nextSeq }
  { m with nextSeq := l.nextSeq + 1, replay := l.replay ++ [g], sent := some (l.wire (if f.data then 1 else 2) (some g)),
           credits := l.credits.set f.vc.toNat (l.credit f.vc - 1),
           tries := l.tries ++ [1], stats := { l.stats with sent := l.stats.sent + 1 } }

/-- A frame's 272 bytes: header with its CRC-16, payload and the payload's CRC-32C (R395). -/
def WireFrame.bytes (w : WireFrame) : Bytes :=
  let f : Frame := w.frame.getD { seq := 0, vc := 0, data := false, last := false, dest := 0, ctx := 0, stream := 0, payload := [], src := none, own := none }
  let head := toLE 10 (w.kind.toNat + 2 ^ 4 * (if f.last then 1 else 0) + 2 ^ 8 * f.seq.toNat + 2 ^ 20 * w.ack.toNat + 2 ^ 32 * f.vc.toNat +
    2 ^ 34 * w.cvc.toNat + 2 ^ 36 * w.credits.toNat + 2 ^ 42 * f.dest.toNat + 2 ^ 56 * f.ctx.toNat + 2 ^ 64 * f.stream.toNat)
  let payload := slice f.payload 0 256
  head ++ toLE 2 (crc16 head) ++ payload ++ toLE 4 (crc32c payload)

/-- A frame given to a port waits there for its grant; a control frame to a port that is down goes nowhere. -/
def Link.keep (l : Link) (f : Frame) : Link := if l.state = .down && !f.data then l else { l with waitq := l.waitq ++ [f] }
/-- The requester at an egress that a frame belongs to: control parcels, Gorge contributions, or a context's data parcels (R338; by R387's numbers for
requesters, the last with its context: log 24). -/
def Frame.who (f : Frame) : Nat :=
  if !f.data then 0x10 else if f.stream = 0xFFFF then 0x01 else 256 * (f.own.getD f.ctx).toNat + 0x0E
/-- What each requester asks to send: its first waiting frame that has a credit. -/
def Link.ready (l : Link) : List Frame :=
  l.waitq.foldl (fun acc f => if l.open f.vc && !acc.any (fun g => g.who == f.who) then acc ++ [f] else acc) []

/-- Frames of the replay buffer that an ack covers (R397). -/
def Link.ackedCount (l : Link) (a : BitVec 12) : Nat :=
  match l.replay with
  | [] => 0
  | f :: _ => let n := (a - f.seq + 1).toNat; if n ≤ l.replay.length then n else 0

/-- Virtual channel 0. -/
def vcControl : BitVec 2 := 0

/-- The payload of a control parcel: type, originating index and the fields from byte 4 (R405). -/
def controlPayload (ty : Byte) (origin : Nat) (fields : Bytes) : Bytes :=
  slice (ty :: 0 :: (toLE 2 origin ++ fields)) 0 256

/-- A control frame (log 24: its dest, context and stream fields are 0). -/
def controlFrame (payload : Bytes) : Frame :=
  { seq := 0, vc := vcControl, data := false, last := false, dest := 0, ctx := 0, stream := 0, payload := payload, src := none, own := none }

namespace State

/-- The Selyn ports. -/
def selynPorts : List SelynPort := List.finRange 10
/-- A frame as a request to its egress arbiter: control parcels urgent, data with the base of the context it serves (R339, R396). -/
def frameRequest (s : State) (f : Frame) : ArbReq :=
  { who := f.who, base := if f.data then BitVec.ofNat 4 (s.ctx (f.own.getD f.ctx)).base else 0, urgent := !f.data, work := none, leaves := false }
/-- A frame that a SEND's command sends. -/
def sendFrame (r : SendRun) (f : Frame) : Bool :=
  f.data && f.src.isNone && f.own == some r.ctx && f.dest == r.dest && f.ctx == r.dctx && f.stream == r.stream
/-- SENDs whose last frame has left a port's egress wait for a credit no longer: the wait is counted under the port (R58, R396). -/
def sendsGone (s : State) (n : SelynPort) : State :=
  let gone := fun (r : SendRun) => r.wait.isSome && r.port == n && !(s.link n).waitq.any (sendFrame r) && !(s.ctx r.ctx).outbound.any (fun p => sendFrame r p.2)
  (s.sends.filter gone).foldl (fun t r => t.modCtx r.ctx (fun x => x.modSeq r.src (fun v => v.count 1 (internalPath 0x0E) (r.wait.getD 0) t.now)))
    { s with sends := s.sends.map (fun r => if gone r then { r with wait := none } else r) }
/-- One round of a port's egress arbiter: the parcel granted is sent (R338, R387). -/
def egressRound (s : State) (n : SelynPort) : State :=
  match s.arbitrate (113 + n.val) ((s.link n).ready.map s.frameRequest) with
  | (none, s1) => s1
  | (some r, s1) =>
    match (s.link n).ready.find? (fun f => f.who == r.who) with
    | none => s1
    | some f => (s1.modLink n (fun l => ({ l with waitq := l.waitq.erase f } : Link).transmit f)).sendsGone n
/-- A port's rounds follow one another while a frame that waits there can go (log 24). -/
def pumpLink (s : State) (n : SelynPort) : State := (s.link n).waitq.foldl (fun t _ => t.egressRound n) s
/-- The state after a frame is given to a port. -/
def giveFrame (s : State) (n : SelynPort) (f : Frame) : State := (s.modLink n (fun l => l.keep f)).pumpLink n
/-- A context's parcels that an egress has not granted are withdrawn, and saved with their commands (R353). -/
def withdrawFrames (s : State) (c : CtxId) : State :=
  selynPorts.foldl (fun t n =>
    (t.modLink n (fun l => { l with waitq := l.waitq.filter (fun f => f.own != some c) })).modCtx c (fun x =>
      { x with outbound := x.outbound ++ ((s.link n).waitq.filter (fun f => f.own == some c)).map (fun f => (n, f)) })) s
/-- A context's saved parcels wait at their egresses again (R353). -/
def returnFrames (s : State) (c : CtxId) : State :=
  (s.ctx c).outbound.foldl (fun t p => t.giveFrame p.1 p.2) (s.modCtx c (fun x => { x with outbound := [] }))
/-- The state after a control parcel that originates at a device is sent on a port (R405). -/
def sendControlOf (s : State) (n : SelynPort) (origin : Nat) (ty : Byte) (fields : Bytes) : State :=
  s.giveFrame n (controlFrame (controlPayload ty origin fields))
/-- The state after a control parcel of this device is sent on a port. -/
def sendControl (s : State) (n : SelynPort) (ty : Byte) (fields : Bytes) : State := s.sendControlOf n s.regs.treeIndex.toNat ty fields
/-- The uplink, if there is one (R393). -/
def uplink? (s : State) : Option SelynPort :=
  if h : s.regs.treeUplink.toNat < 10 then some ⟨s.regs.treeUplink.toNat, h⟩ else none
/-- The ports that lead to children (R393). -/
def childPorts (s : State) : List SelynPort := selynPorts.filter (fun n => s.regs.treeChildren.getLsbD n.val)
/-- The state after a control parcel that originates at a device is sent on every port of a list. -/
def sendOnOf (s : State) (ns : List SelynPort) (origin : Nat) (ty : Byte) (fields : Bytes) : State :=
  ns.foldl (fun s n => s.sendControlOf n origin ty fields) s
/-- The state after a control parcel is sent on every port of a list. -/
def sendOn (s : State) (ns : List SelynPort) (ty : Byte) (fields : Bytes) : State := s.sendOnOf ns s.regs.treeIndex.toNat ty fields
/-- The state after a control parcel is sent up. -/
def sendUpOf (s : State) (origin : Nat) (ty : Byte) (fields : Bytes) : State :=
  match s.uplink? with | none => s | some n => s.sendControlOf n origin ty fields
/-- The state after a control parcel of this device is sent up. -/
def sendUp (s : State) (ty : Byte) (fields : Bytes) : State := s.sendUpOf s.regs.treeIndex.toNat ty fields

/-- The port an index is reached through under R401; none for this device's own index. -/
def route (s : State) (dest : Nat) : Option SelynPort :=
  if dest = s.regs.treeIndex.toNat then none
  else
    match s.childPorts.find? (fun n => match (s.link n).child with
      | none => false
      | some (lo, hi, _) => decide (lo.toNat ≤ dest) && decide (dest ≤ hi.toNat)) with
    | some n => some n
    | none => s.uplink?
/-- Parcels of this device's own that the top manager discards, their index lying past the tree: counted in LINK (R401), at its lowest child port, since
no port takes them (log 58). -/
def dropOwn (s : State) (k : Nat) : State :=
  s.modLink (s.childPorts.headD 0) (fun l => { l with stats := { l.stats with discarded := l.stats.discarded + k } })
/-- A lost index (R413). -/
def isLost (s : State) (dest : Nat) : Bool := s.lostSet.any (fun r => decide (r.1.toNat ≤ dest) && decide (dest ≤ r.2.toNat))

end State
end Sys2Proof.Machine
end

