-- ==== Sys2Proof/Machine/Flags.lean ====
section
/-! DEFINITION. Status that the device raises: MSI-X vectors (R382, R383), attention records (R384, R385, R411) and location counters (R432 to
R436). -/

namespace Sys2Proof.Machine

/-- A vector's record. -/
def Port.vec (t : Port) (v : BitVec 6) : Vector383 := t.vectors.getD v.toNat Vector383.init
/-- A port with a function applied to a vector. -/
def Port.modVec (t : Port) (v : BitVec 6) (f : Vector383 → Vector383) : Port :=
  { t with vectors := t.vectors.set v.toNat (f (t.vec v)) }
/-- Entries of the attention ring; 0 when no ring is set (R384). -/
def Port.attnSize (t : Port) : Nat := if t.attnLog = 0 then 0 else 2 ^ t.attnLog.toNat
/-- Whether a record lies at or beyond the attention head (R382). -/
def Port.attnAsserted (t : Port) : Bool := decide (t.attnT ≠ t.attnHead)
/-- Whether a completion entry written with IRQ lies at or beyond the head (R382). -/
def Ctx.cqAsserted (x : Ctx) : Bool :=
  match x.irqLast with
  | none => false
  | some l => decide (0 < (l - x.cqHead).toNat) && decide ((l - x.cqHead).toNat < 0x80000000)

namespace State

/-- The contexts of a port whose record is listed. -/
def ctxsOf (s : State) (p : HostPort) : List (CtxId × Ctx) :=
  (s.ctxs.filter (fun e => e.2.port == p)).map (fun e => (BitVec.ofNat 8 e.1, e.2))

/-- Whether a vector has an asserted source (R382). -/
def vecAsserted (s : State) (p : HostPort) (v : BitVec 6) : Bool :=
  (s.port p).swpend.getLsbD v.toNat || (decide ((s.port p).attnVector = v) && (s.port p).attnAsserted) ||
    (s.ctxsOf p).any (fun e => decide (e.2.irq = v) && e.2.cqAsserted)

/-- A vector that the MSI-X rules mask: its entry or Function Mask (R383). -/
def vecMasked (s : State) (p : HostPort) (v : BitVec 6) : Bool := ((s.port p).vec v).masked || (s.port p).funcMask

/-- The state after a vector's message: the write to host memory, and its counts started afresh (R383). -/
def sendMsi (s : State) (p : HostPort) (v : BitVec 6) : State :=
  let e := (s.port p).vec v
  (s.hostWr p e.address.toNat (toLE 4 e.data.toNat)).modPort p (fun t => t.modVec v (fun e =>
    { e with pending := false, n := 0, first := none, sent := some s.now }))

/-- The state after a vector's rule is tried: a message at the bypass or the count, the pending bit when masked (R383). -/
def tryMsi (s : State) (p : HostPort) (v : BitVec 6) : State :=
  let t := s.port p
  let e := t.vec v
  if !s.vecAsserted p v || !t.msixEnable || t.lost then s
  else if s.vecMasked p v then s.modPort p (fun t => t.modVec v (fun e => { e with pending := true }))
  else if e.idle ≠ 0 ∨ e.count.toNat ≤ e.n then s.sendMsi p v
  else s

/-- The state after assertions of a vector: counted, then the rule tried (R383). -/
def noteVec (s : State) (p : HostPort) (v : BitVec 6) (k : Nat) : State :=
  (s.modPort p (fun t => t.modVec v (fun e => { e with n := e.n + k, first := some (e.first.getD s.now) }))).tryMsi p v

/-- The 64 bytes of an attention record (R384). -/
def attnRecord (code : Byte) (phase : Bool) (seq : U32) (now : U64) (detail : Bytes) : Bytes :=
  let body := code :: (if phase then 1 else 0) :: 0 :: 0 :: (toLE 4 seq.toNat ++ toLE 8 now.toNat ++ slice detail 0 44)
  body ++ toLE 4 (crc32c body)

/-- The state after an event on one port: the record written and the vector asserted; a full or unset ring, or a lost port, drops it and
spends its number (R367, R384, R493). -/
def attnOn (s : State) (p : HostPort) (code : Byte) (detail : Bytes) : State :=
  let t := s.port p
  let size := t.attnSize
  if size = 0 ∨ t.lost ∨ size ≤ (t.attnT - t.attnHead).toNat then s.modPort p (fun t => { t with attnSeq := t.attnSeq + 1 })
  else
    let phase := t.attnT.toNat / size % 2 = 0
    let s1 := s.hostWr p (t.attnBase.toNat + 64 * (t.attnT.toNat % size)) (attnRecord code phase t.attnSeq s.now detail)
    (s1.modPort p (fun t => { t with attnT := t.attnT + 1, attnSeq := t.attnSeq + 1 })).noteVec p t.attnVector 1

/-- The state after a device event: both ports, and RELAY up from a device below the top of a formed tree, with the number of port 0's
record (R384, R411; log 23). -/
def devEvent (s : State) (code : Byte) (detail : Bytes) : State :=
  let seq := (s.port 0).attnSeq
  let s1 := (s.attnOn 0 code detail).attnOn 1 code detail
  if s.regs.treeFormed then
    s1.sendUp 0x0A ([code, 0, 0, 0] ++ toLE 4 seq.toNat ++ slice detail 0 44)
  else s1

/-- The state after an event about a context, on that context's port (R384). -/
def ctxEvent (s : State) (c : CtxId) (code : Byte) (detail : Bytes) : State := s.attnOn (s.ctx c).port code detail

/-- The ring event of R385. -/
def ringEvent (s : State) (c : CtxId) (r : BitVec 2) (reason : Byte) (tail f : U32) (k : U16) : State :=
  s.ctxEvent c 0x01 ([c, BitVec.ofNat 8 r.toNat, reason, 0] ++ toLE 4 tail.toNat ++ toLE 4 f.toNat ++ toLE 2 k.toNat)

/-- A Selyn port's trained width, 0 when it is down (R412). -/
def widthOf (s : State) (n : SelynPort) : Nat := match (s.link n).state with | .up8 => 8 | .up4 => 4 | _ => 0
/-- The link-state event of a Selyn port (R412): port, reason, width, range, pass, the bytes from [28]. -/
def linkEvent (s : State) (port reason width : Nat) (lo hi : Nat) (word : Nat) (rest : Bytes) : State :=
  s.devEvent 0x03 ([BitVec.ofNat 8 port, BitVec.ofNat 8 reason, BitVec.ofNat 8 width, 0] ++ toLE 2 lo ++ toLE 2 hi ++ toLE 4 word ++ rest)

end State

/-! ### Location counters (R432 to R436) -/

end Machine

/-- The 12-byte location ID (R432). -/
def Location.id (l : Location) : Bytes := [l.a, l.b, l.c, 0] ++ toLE 4 l.row.toNat ++ [0, 0, 0, 0]
/-- The overflow location (R436). -/
def Location.overflow : Location := { kind := 0xF, a := 0, b := 0, c := 0, row := 0 }
/-- An entry's flags byte (R433). -/
def Counter.flags (k : Counter) (correctable : Bool) : Byte :=
  BitVec.ofNat 8 ((if correctable then 1 else 0) + (if k.selftest then 2 else 0) + (if k.restored then 4 else 0))
/-- An entry's 32-byte record (R433). -/
def Counter.bytes (k : Counter) (correctable : Bool) : Bytes :=
  [BitVec.ofNat 8 k.loc.kind.toNat, k.flags correctable, 0, 0] ++ k.loc.id ++ toLE 4 k.count.toNat ++ toLE 4 k.next.toNat ++ toLE 8 k.time.toNat

namespace Machine
namespace State

/-- The threshold of a kind and class (R434); the overflow entry's is 1 (R436). -/
def threshold (s : State) (kind : BitVec 4) (correctable : Bool) : U32 :=
  if kind = 0xF then 1
  else
    let t := s.regs.thresh.getD kind.toNat Thresh.init
    if correctable then t.correctable.setWidth 32 else t.detected.setWidth 32

/-- The detail of an entry's counter-threshold event (R435). -/
def thresholdDetail (s : State) (correctable : Bool) (k : Counter) : Bytes :=
  [BitVec.ofNat 8 k.loc.kind.toNat, k.flags correctable, 0, 0] ++ k.loc.id ++ toLE 4 k.count.toNat ++ toLE 4 (s.threshold k.loc.kind correctable).toNat
/-- The counter-threshold event of an entry (R435). -/
def thresholdEvent (s : State) (correctable : Bool) (k : Counter) : State := s.devEvent 0x02 (s.thresholdDetail correctable k)

end State

end Machine

/-- Twice a trigger value, at most 2^32 − 1. -/
def nextTrigger (n : U32) : U32 := BitVec.ofNat 32 (min 0xFFFFFFFF (2 * n.toNat))
/-- The smallest of t, 2t, 4t and so on above a count, at most 2^32 − 1; 0 when t is 0 (R434). -/
def nextAbove (t : U32) (count : U32) : U32 :=
  if t = 0 then 0 else (List.range 33).foldl (fun (n : U32) _ => if count.toNat < n.toNat then n else nextTrigger n) t
/-- An entry counted once more: the new entry and whether its trigger is reached (R434). -/
def Counter.bump (k : Counter) (now : U64) : Counter × Bool :=
  let c := BitVec.ofNat 32 (min 0xFFFFFFFF (k.count.toNat + 1))
  let hit := k.next != 0 && c == k.next && c != k.count
  ({ k with count := c, time := now, next := if hit then nextTrigger k.next else k.next }, hit)
/-- A fresh entry before its first count. -/
def Counter.blank (l : Location) (t : U32) : Counter := { loc := l, selftest := false, restored := false, count := 0, next := t, time := 0 }

namespace Machine

/-- A class's entries with one location counted: the entries, the entry counted, whether it triggers, and whether the class was full. -/
def bumpIn (l : Location) (t : U32) (now : U64) : List Counter → List Counter × Option (Counter × Bool)
  | [] => ([], none)
  | k :: ks =>
    if k.loc = l then let (k', hit) := k.bump now; (k' :: ks, some (k, hit))
    else let (ks', r) := bumpIn l t now ks; (k :: ks', r)

namespace State

/-- The entries of a class. -/
def counters (s : State) (correctable : Bool) : List Counter := if correctable then s.integ.correctable else s.integ.detected
/-- The state with a class's entries replaced. -/
def setCounters (s : State) (correctable : Bool) (l : List Counter) : State :=
  { s with integ := if correctable then { s.integ with correctable := l } else { s.integ with detected := l } }

/-- The state after one count of a location in a class: the entry allocated or raised, the overflow entry when the class is full, and the
event at a trigger (R430, R434, R436). -/
def countLoc (s : State) (correctable : Bool) (l : Location) : State :=
  let ks := s.counters correctable
  match bumpIn l 0 s.now ks with
  | (ks', some (k, hit)) =>
    let s1 := s.setCounters correctable ks'
    if hit then s1.thresholdEvent correctable (k.bump s.now).1 else s1
  | (_, none) =>
    if ks.length < Config.counterRoom then
      let (k, hit) := (Counter.blank l (s.threshold l.kind correctable)).bump s.now
      let s1 := s.setCounters correctable (ks ++ [k])
      if hit then s1.thresholdEvent correctable k else s1
    else
      let old := if correctable then s.integ.overCorrectable else s.integ.overDetected
      let (k, hit) := (old.getD (Counter.blank Location.overflow 1)).bump s.now
      let s1 := { s with integ := if correctable then { s.integ with overCorrectable := some k } else { s.integ with overDetected := some k } }
      if hit then s1.thresholdEvent correctable k else s1

end State
end Sys2Proof.Machine
end

