-- ==== Sys2Proof/Machine/Steps.lean ====
section
/-! DEFINITION. Completions and signals (R373 to R381, R346, R347), locks and inheritance (R346, R355), and how a step ends, stops or faults
(R42, R376, R428, R515). -/

namespace Sys2Proof.Machine

/-! ### Engine queues (R333, R334, R337) -/

/-- The queue an engine's commands of a sequencer go to, in R333 order. -/
def queueIx (engine : Nat) (q : SeqId) : Nat :=
  let east := match q with | .steppeE | .gorgeE | .glenScanE => 1 | _ => 0
  match engine with
  | 0x00 => east | 0x01 => 2 + east | 0x02 => 4 + east
  | n => n + 3

/-- The engine of a queue. -/
def queueEngine (i : Nat) : Nat := if i < 2 then 0 else if i < 4 then 1 else if i < 6 then 2 else i - 3

/-- The copies that a queue's engine has taken and not finished: the running one, and those set aside at a pre-emption or a stall or saved with their
context (R326, R349, R351). -/
def Queue.taken (u : Queue) : List QEntry := u.running.toList ++ u.saved.filter (fun e => e.consumed)
/-- A queue's waiting entries: those returned at resume or set aside first, then the buffer's (R336). -/
def Queue.waiting (u : Queue) : List QEntry := u.saved ++ u.entries.filter (fun e => !e.consumed)
/-- Words in the buffer: (W − P) mod 2D (R334). -/
def Queue.used (u : Queue) (depth : Nat) : Nat := (u.w + 2 * depth - u.p) % (2 * depth)
/-- Consumed entries at the front leave the buffer and P advances over them (R337). -/
def Queue.reap (u : Queue) (depth : Nat) : Queue :=
  let front := u.entries.takeWhile (fun e => e.consumed)
  { u with entries := u.entries.drop front.length,
           p := (u.p + (front.map QEntry.words).foldl (· + ·) 0) % (2 * depth) }
/-- Every command of a context leaves a queue (R351, log 17). -/
def Queue.dropCtx (u : Queue) (c : CtxId) (depth : Nat) : Queue :=
  let u1 : Queue := { u with
    entries := u.entries.map (fun e => if e.ctx = c then { e with consumed := true } else e)
    saved := u.saved.filter (fun e => e.ctx != c)
    running := u.running.filter (fun e => e.ctx != c) }
  u1.reap depth

/-- The state after every queued command of a context is dropped. -/
def State.dropQueued (s : State) (c : CtxId) : State :=
  { s with queues := s.queues.map (fun e => (e.1, e.2.dropCtx c (Config.queueDepth (queueEngine e.1)))) }

/-! ### Descriptor fields (R375) -/

/-- The field of n bytes at offset lo of a descriptor. -/
def descField (d : Desc) (lo n : Nat) : Nat := fld d.bytes lo n
/-- The opcode. -/
def descOp (d : Desc) : Nat := descField d 0 1
/-- A flag of byte 1: 0 IRQ, 1 WAITEN, 2 SIGEN, 3 HCRC. -/
def descFlag (d : Desc) (i : Nat) : Bool := bitAt d.bytes 1 i
/-- A FENCE. -/
def isFence (d : Desc) : Bool := descOp d == 0x14

/-- The fields of a completion that the descriptor does not give (R380). -/
structure Done where
  code     : Code
  result   : U64
  ties     : Bool
  replayed : Bool
  fallback : Bool
deriving DecidableEq, Repr

/-- A completion with a code and result and no flag. -/
def Done.of (code : Code) (result : Nat) : Done :=
  { code := code, result := BitVec.ofNat 64 result, ties := false, replayed := false, fallback := false }

/-- The 32 bytes of a completion entry (R380). -/
def completionEntry (d : Desc) (v : Done) (phase : Bool) (now : U64) : Bytes :=
  let flags := (if v.ties then 1 else 0) + (if v.replayed then 2 else 0) + (if v.fallback then 4 else 0) + (if phase then 128 else 0)
  let body := [BitVec.ofNat 8 v.code.num, BitVec.ofNat 8 flags, BitVec.ofNat 8 (descOp d), d.ctx] ++ slice d.bytes 4 4 ++
    toLE 2 d.index.toNat ++ [BitVec.ofNat 8 d.ring.toNat, 0] ++ toLE 8 v.result.toNat ++ toLE 8 now.toNat
  body ++ toLE 4 (crc32c body)

/-- Entries of the completion ring; 0 when none is set. -/
def Ctx.cqSize (x : Ctx) : Nat := if x.cq.log2size = 0 then 0 else 2 ^ x.cq.log2size.toNat
/-- Room for one more entry beside those written and reserved (R373). -/
def Ctx.cqRoom (x : Ctx) : Bool := decide ((x.writtenT - x.cqHead).toNat + x.reserved < x.cqSize)

/-! ### Sync counters (R346, R347) -/

/-- A lock word (R346). -/
def isLock (w : U32) : Bool := w.msb
/-- The lock word of a sequencer of a context. -/
def lockWord (c : CtxId) (q : SeqId) : U32 := BitVec.ofNat 32 (0x80000000 + 16 * c.toNat + q.num)
/-- The context a lock word names. -/
def lockCtx (w : U32) : CtxId := (w >>> 4).setWidth 8
/-- A count added to, at most 0x7FFFFFFF. -/
def satAdd (w : U32) (b : Nat) : U32 := BitVec.ofNat 32 (min Config.maxCount (w.toNat + b))

/-- Whether a counter lies in a context's window (R345). -/
def Ctx.inWindow (x : Ctx) (k : Nat) : Bool :=
  decide (x.syncBase.toNat ≤ k) && decide (k < x.syncBase.toNat + x.syncCount.toNat) && decide (k < Config.generalCounters)

/-- A sequencer waiting on a counter whose count has reached the threshold proceeds (R347). -/
def Seq.retest (v : Seq) (k : Nat) (w : U32) (now : U64) : Seq :=
  match v.status with
  | .counter k' th => if k'.toNat = k ∧ !isLock w ∧ th.toNat ≤ w.toNat then (v.waited 4 now).next else v
  | _ => v

namespace State

/-- Every WAIT on a counter tested again, in contexts that run (R347). -/
def retest (s : State) (k : Nat) : State :=
  { s with ctxs := s.ctxs.map (fun e =>
      if e.2.active then (e.1, e.2.modSeqs (fun v => v.retest k (s.counter k) s.now)) else e) }

/-- The ACQUIREs waiting on a counter, in contexts that run (R347). -/
def lockWaiters (s : State) (k : Nat) : List (CtxId × SeqId) :=
  (s.ctxs.map (fun e =>
    if e.2.active then
      (SeqId.all.filter (fun q => decide ((e.2.seq q).status = .lock (BitVec.ofNat 16 k)))).map (fun q => (BitVec.ofNat 8 e.1, q))
    else [])).flatten

/-- The counters a context's sequencers wait to take. -/
def lockWaits (x : Ctx) : List Nat :=
  (SeqId.all.map (fun q => match (x.seq q).status with | .lock k => [k.toNat] | _ => [])).flatten

/-- The highest base among contexts whose ACQUIREs wait on locks a context holds (R355). -/
def waitingBase (s : State) (h : CtxId) : Nat :=
  (s.ctxs.map (fun e =>
    if e.2.active && decide (e.1 ≠ h.toNat) &&
        (lockWaits e.2).any (fun k => isLock (s.counter k) && decide (lockCtx (s.counter k) = h)) then e.2.base else 0)).foldl max 0

/-- One pass of inheritance: each context raised to the highest waiting base above its own (R355). -/
def raisePass (s : State) : State :=
  { s with ctxs := s.ctxs.map (fun e =>
      let b := s.waitingBase (BitVec.ofNat 8 e.1)
      (e.1, { e.2 with raise := if e.2.prio.toNat < b then some (BitVec.ofNat 3 b) else none })) }

/-- A lock that a context holds and a higher-based context waits on. -/
def raisingLock (s : State) (h : CtxId) : Option Nat :=
  (s.ctxs.filterMap (fun e =>
    if e.2.active && decide (e.1 ≠ h.toNat) && decide ((s.ctx h).prio.toNat < e.2.base) then
      (lockWaits e.2).find? (fun k => isLock (s.counter k) && decide (lockCtx (s.counter k) = h))
    else none)).head?

/-- Inheritance brought up to date along every chain; a suspended holder that is raised starts its restore and an episode (R355). -/
def inherit (s : State) : State :=
  let s1 : State := { s with ctxs := s.ctxs.map (fun e => (e.1, { e.2 with raise := none })) }
  let s2 := (List.range s1.ctxs.length).foldl (fun s _ => s.raisePass) s1
  s2.ctxs.foldl (fun t e =>
    let h := BitVec.ofNat 8 e.1
    if e.2.state = .suspended ∧ !e.2.resuming ∧ !e.2.draining ∧ e.2.raise.isSome then
      match s2.raisingLock h with
      | none => t
      | some k =>
        let ep : Episode355 := { start := t.now, budget := t.regs.inherit, counter := BitVec.ofNat 16 k }
        t.modCtx h (fun x => { x with resuming := true, episode := some ep })
    else t) s2

/-- The lock passed to the waiter its hand-over arbiter chooses, or the counter set to 0 (R347). -/
def handOver (s : State) (k : Nat) : State :=
  let reqs := (s.lockWaiters k).map (fun p =>
    ({ who := 16 * p.1.toNat + p.2.num, base := BitVec.ofNat 4 (s.ctx p.1).base, urgent := false, work := none, leaves := false } : ArbReq))
  match s.arbitrate (0x10000 + k) reqs with
  | (none, s1) => ((s1.setCounter k 0).retest k).inherit
  | (some r, s1) =>
    let c := BitVec.ofNat 8 (r.who / 16)
    let q := SeqId.ofId (r.who % 16)
    (((s1.setCounter k (lockWord c q)).modCtx c (fun x => x.modSeq q (fun v => (v.waited 4 s.now).next))).inherit)

/-- The state after a counter takes a word: waiters tested again, a counter at 0 handed to a waiting ACQUIRE (R347). -/
def store (s : State) (k : Nat) (w : U32) : State :=
  let s1 := (s.setCounter k w).retest k
  if w = 0 ∧ !(s1.lockWaiters k).isEmpty then s1.handOver k else s1

/-! ### Completions (R373 to R381) -/

/-- A descriptor's signal, in the same action as its completion; on a lock word the ring event with reason 3 (R346). -/
def descSignal (s : State) (d : Desc) : State :=
  if descFlag d 2 then
    let k := descField d 10 2
    if isLock (s.counter k) then
      s.ringEvent d.ctx d.ring 3 ((s.ctx d.ctx).tail.getD d.ring.toNat 0) ((s.ctx d.ctx).fetchedN.getD d.ring.toNat 0) (BitVec.ofNat 16 k)
    else s.store k (satAdd (s.counter k) (descField d 3 1))
  else s

/-- The entry written at T, and its source asserted when the descriptor's IRQ flag is set (R373, R382); a lost port gets nothing (R367). -/
def writeEntry (s : State) (d : Desc) (v : Done) : State :=
  let x := s.ctx d.ctx
  let size := x.cqSize
  if size = 0 ∨ (s.port x.port).lost then s
  else
    let t := x.writtenT.toNat
    let s1 := s.hostWr x.port (x.cq.base.toNat + 32 * (t % size)) (completionEntry d v (decide (t / size % 2 = 0)) s.now)
    let s2 := s1.modCtx d.ctx (fun x => { x with writtenT := x.writtenT + 1,
                                                 irqLast := if descFlag d 0 then some (x.writtenT + 1) else x.irqLast })
    if descFlag d 0 then s2.noteVec x.port x.irq 1 else s2

/-- One descriptor completes: its entry written, its signal applied when `sig` holds. -/
def completeOne (s : State) (d : Desc) (v : Done) (sig : Bool) : State :=
  let refetched := ((s.ctx d.ctx).outstanding.find? (fun e => decide (e.1 = d))).elim false Prod.snd
  let s1 := s.modCtx d.ctx (fun x => { x with outstanding := x.outstanding.eraseP (fun e => decide (e.1 = d)),
                                              reserved := x.reserved - 1 })
  let s2 := s1.writeEntry d { v with replayed := v.replayed || refetched }
  if sig then s2.descSignal d else s2

/-- A FENCE at the head of the outstanding descriptors completes: everything expanded before it has (R348). -/
def fenceDone (s : State) (c : CtxId) : State :=
  match (s.ctx c).outstanding with
  | (d, _) :: _ => if isFence d then s.completeOne d (Done.of .ok 0) true else s
  | [] => s

/-- A descriptor completes, and a FENCE it was the last to hold up completes with it. -/
def complete (s : State) (d : Desc) (v : Done) : State := (s.completeOne d v true).fenceDone d.ctx
/-- A descriptor completes without its signal (R377 checks 1 to 3). -/
def completeUnsignalled (s : State) (d : Desc) (v : Done) : State := (s.completeOne d v false).fenceDone d.ctx

end State

/-! ### Steps (R376, R42, R515) -/

/-- A command of sequencer q on an engine, as a key. -/
def cmdKey (q : SeqId) (engine : Nat) : Nat := 16 * q.num + engine
/-- A count in a table lowered by one; a count at 0 is not listed. -/
def tabDec (t : Tab Nat) (k : Nat) : Tab Nat := let n := t.getD k 0; if n ≤ 1 then t.erase k else t.set k (n - 1)
/-- Commands of a context that its sequencers have issued and that are not finished. -/
def Ctx.open (x : Ctx) : Tab Nat :=
  SeqId.all.foldl (fun t q => (x.seq q).unfinished.foldl (fun t e => t.set (cmdKey q e.1) e.2) t) []
/-- A function applied to the step a command of (q, engine) belongs to: the oldest whose commands are not all finished, or the present one. -/
def Ctx.modRun (x : Ctx) (q : SeqId) (engine : Nat) (f : StepRun → StepRun) : Ctx :=
  if x.finishing.any (fun r => decide (0 < r.left.getD (cmdKey q engine) 0)) then
    let i := x.finishing.findIdx (fun r => decide (0 < r.left.getD (cmdKey q engine) 0))
    { x with finishing := x.finishing.mapIdx (fun j r => if j = i then f r else r) }
  else { x with run := x.run.map f }
/-- The step a command of (q, engine) belongs to. -/
def Ctx.runOf (x : Ctx) (q : SeqId) (engine : Nat) : Option StepRun :=
  match x.finishing.find? (fun r => decide (0 < r.left.getD (cmdKey q engine) 0)) with
  | some r => some r
  | none => x.run
/-- A step's number in the draws of stochastic rounding (R51): which number the first step has is not stated (log 78). -/
def StepRun.number (r : StepRun) : Nat := Config.firstStep + (r.no - 1)
/-- What a step's completion carries. -/
def StepRun.toDone (r : StepRun) : Done :=
  { code := Code.final (r.codes ++ (if r.ranks.any RankOut.short then [.short] else [])), result := r.result, ties := r.ranks.any RankOut.ties,
    replayed := r.replayed, fallback := r.fallback }
/-- A step about to start. -/
def StepRun.start (d : Desc) (no : Nat) : StepRun :=
  { d := d, no := no, codes := [], ranks := [], toks := 0, work := [], replayed := false, fallback := false, result := 0, left := [], passed := false, released := false }

namespace State

/-- An outcome reaches the step a command belongs to (R515). -/
def noteCode (s : State) (c : CtxId) (q : SeqId) (engine : Nat) (code : Code) : State :=
  s.modCtx c (fun x => x.modRun q engine (fun r => { r with codes := code :: r.codes }))

/-- A QUERY whose hand-offs are not all granted or refused (R293). -/
def handing (s : State) (d : Desc) : Bool := s.ctxs.any (fun e => e.2.handoffs.any (fun h => decide (h.d = d)))

/-- Steps whose programs have halted and whose writes are done complete, in the order they started (R376). -/
def settle (s : State) (c : CtxId) : State :=
  let done := (s.ctx c).finishing.takeWhile (fun r => r.left.isEmpty && !s.handing r.d)
  done.foldl (fun s r => (s.modCtx c (fun x => { x with finishing := x.finishing.drop 1 })).complete r.d r.toDone) s

/-- A sequencer in WAITDONE that may proceed (R38). -/
def doneRetest (v : Seq) (engine : Nat) : Seq :=
  match v.status with
  | .done e most => if e.toNat = engine ∧ v.unfinished.getD engine 0 ≤ most then v.next else v
  | _ => v

/-- A command of sequencer q on an engine has finished: counts lowered, WAITDONE tested, its step completed if it was the last. -/
def finishCommand (s : State) (c : CtxId) (q : SeqId) (engine : Nat) : State :=
  (s.modCtx c (fun x =>
    let x1 := x.modSeq q (fun v => doneRetest { v with unfinished := tabDec v.unfinished engine } engine)
    { x1 with finishing := x1.finishing.map (fun r => { r with left := tabDec r.left (cmdKey q engine) }) })).settle c

/-- The running command of a queue of the context is finished with. -/
def clearRunning (s : State) (i : Nat) (c : CtxId) : State :=
  s.modQueue i (fun u => { u with running := u.running.filter (fun e => e.ctx != c) })

/-- A SEND's wait for a credit, if it is in one, counted under its port (R58, R396). -/
def lagSend (s : State) (r : SendRun) : State :=
  match r.wait with | none => s | some t => s.modCtx r.ctx (fun x => x.modSeq r.src (fun v => v.count 1 (internalPath 0x0E) t s.now))
/-- A posted RECV's wait for its parcels counted under the object it fills (R58). -/
def lagRecv (s : State) (r : Recv) : State := s.modCtx r.ctx (fun x => x.modSeq r.src (fun v => v.count 0 r.object.toNat r.since s.now))
/-- The waits that a context's SENDs and RECVs are in counted as they end with its step (R58). -/
def lagSends (s : State) (c : CtxId) (t : State) : State :=
  (s.recvs.filter (fun r => r.ctx == c)).foldl lagRecv ((s.sends.filter (fun r => r.ctx == c)).foldl lagSend t)

/-- A context's sequencers stop with an outcome (R42, R325, R355, R428): its queued commands and posted transfers end, the waits they were in are
counted (R58), and every step of it that has started completes, in order.  The outcome reaches the steps whose commands it ends (R428, R515); of a step
whose programs have halted, a draining says itself whether CANCELLED does (R452). -/
def endSteps (s : State) (c : CtxId) (code : Code) : State :=
  let hit := fun (r : StepRun) => { r with codes := code :: r.codes }
  let runs := (s.ctx c).finishing.map (fun r => if (r.left.isEmpty && !s.handing r.d) || decide (code = .cancelled) then r else hit r) ++ (s.ctx c).run.toList.map hit
  let s1 := ((s.dropQueued c).withdrawReqs c).modCtx c (fun x =>
    { (x.modSeqs (fun v => { v.closed s.now with status := .stopped, unfinished := [] })) with
        run := none, finishing := [], outbound := [],
        serving := { x.serving with entries := [], cursor := 0, listed := false } })
  let s2 : State := { s1 with ctxs := s1.ctxs.map (fun e => (e.1, { e.2 with handoffs := e.2.handoffs.filter (fun h => !runs.any (fun r => decide (r.d = h.d))) }))
                              recvs := s1.recvs.filter (fun r => r.ctx != c), sends := s1.sends.filter (fun r => r.ctx != c),
                              progress := s1.progress.filter (fun e => e.1 / 1024 != c.toNat)
                              acts := s1.acts.map (fun a => { a with start := a.start.map (fun (d, q, r, w) => (d, q, r, w && d != c)) })
                              laneRecs := s1.laneRecs.map (fun r => { r with cmd := r.cmd.filter (fun m => m.1 != c) })
                              objs := s1.objs.map (fun e => (e.1, { e.2 with stalled := e.2.stalled.filter (fun d => !d.1.ofCtx c) })) }
  runs.foldl (fun s r => s.complete r.d r.toDone) (s.lagSends c s2)
/-- A context's steps end with an outcome, and inheritance is brought up to date (R42, R355). -/
def stopStep (s : State) (c : CtxId) (code : Code) : State := (s.endSteps c code).inherit

/-- Every running context with an ACQUIRE waiting on a lock that context h holds stops with INHERIT_TIMEOUT; `locks` and `which` say for which locks and
which waiting bases (R355, and "When a lock's holder faults or is drained").  A suspended waiter meets its lock again at resume (R351). -/
def endWaiters (s : State) (h : CtxId) (locks which : Nat → Bool) : State :=
  let ws := (s.ctxs.filter (fun e => decide (e.1 ≠ h.toNat) && e.2.active && which e.2.base &&
    (lockWaits e.2).any (fun k => locks k && isLock (s.counter k) && decide (lockCtx (s.counter k) = h)))).map (fun e => BitVec.ofNat 8 e.1)
  (ws.foldl (fun s w => s.endSteps w .inheritTimeout) s).inherit

/-- ABANDON for a Saddle of the context whose ARRIVE has not been sent: up, or down every port on the top (R417); why: 1 drained, 2 faulted. -/
def abandonOpen (s : State) (c : CtxId) (why : Byte) : State :=
  (s.saddles.filter (fun e => decide (e.2.ctx = c) && !e.2.sent)).foldl (fun s e =>
    let fields := toLE 4 (s.passes.getD e.1 0).toNat ++ toLE 2 e.1 ++ [c] ++ toLE 2 s.regs.treeIndex.toNat ++ [why]
    let s1 := if s.uplink?.isSome then s.sendUp 0x03 fields else s.sendOn s.childPorts 0x03 fields
    { s1 with saddles := s1.saddles.erase e.1 }) s

/-- A context faults (R42, R325, R331): its step stops with a code, it is FAULTED, the saved state of a suspended one is lost, waiters on its locks end
and an open Saddle is abandoned. -/
def faultWith (s : State) (c : CtxId) (code : Code) : State :=
  let was := (s.ctx c).state
  let s1 := (s.stopStep c code).modCtx c (fun x => { x with state := .faulted, suspending := false, resuming := false, episode := none
                                                            inbound := if was = .suspended then [] else x.inbound
                                                            contribs := if was = .suspended then [] else x.contribs })
  let s2 : State := if was = .suspended then { s1 with swapped := s1.swapped.filter (fun e => e.1 != c) } else s1
  let s3 := s2.endWaiters c (fun _ => true) (fun _ => true)
  if s3.inTree c then s3.abandonOpen c 2 else s3

/-- A context faults FAULTED (R42, R331). -/
def faultCtx (s : State) (c : CtxId) : State := s.faultWith c .faulted

end State
end Sys2Proof.Machine
end

