-- ==== Sys2Proof/Machine/Operands.lean ====
section
/-! DEFINITION. Command blocks: lengths and issuers (R39, R40), parameter substitution (R518), the checks of R96, and the one way in which an
engine command runs, waits, is refused or meets a poisoned parcel (R96, R311, R321, R325). -/

namespace Sys2Proof.Machine

/-- The length in words that an engine gives a command code; none where it defines no such code (R40). -/
def cmdWords (engine cmd : Nat) : Option Nat :=
  match engine, cmd with
  | 0x00, 0x01 => some 1 | 0x00, 0x02 => some 2 | 0x00, 0x03 => some 2 | 0x00, 0x04 => some 2 | 0x00, 0x05 => some 1
  | 0x01, 0x01 => some 2 | 0x01, 0x02 => some 2
  | 0x02, 0x01 => some 2 | 0x03, 0x01 => some 2 | 0x04, 0x01 => some 2
  | 0x05, 0x01 => some 2 | 0x05, 0x02 => some 2
  | 0x06, 0x01 => some 2 | 0x06, 0x02 => some 2
  | 0x07, 0x01 => some 2 | 0x08, 0x02 => some 2 | 0x09, 0x03 => some 2
  | 0x0A, 0x01 => some 2
  | 0x0B, 0x01 => some 2 | 0x0B, 0x02 => some 2 | 0x0B, 0x03 => some 2 | 0x0B, 0x04 => some 2
  | 0x0C, 0x01 => some 2 | 0x0C, 0x10 => some 2
  | 0x0D, 0x01 => some 2
  | 0x0E, 0x01 => some 1 | 0x0E, 0x02 => some 1
  | _, _ => none

/-- Whether a sequencer may issue to an engine (R39). -/
def mayIssue (engine : Nat) (q : SeqId) : Bool :=
  match engine with
  | 0x00 => q == .steppeW || q == .steppeE
  | 0x01 => q == .gorgeW || q == .gorgeE
  | 0x02 => q == .glenScanW || q == .glenScanE
  | 0x03 => q == .glenRefine
  | 0x04 => q == .glenWalk
  | 0x05 => q == .glenWalk
  | 0x06 => q == .steppeW || q == .glenRefine
  | 0x07 => q == .text | 0x08 => q == .text | 0x09 => q == .text
  | 0x0A => q == .packer
  | 0x0B => q == .serving
  | 0x0C => true
  | 0x0D => q == .maint
  | 0x0E => true
  | _ => false

/-- A block with the n-byte field at lo replaced. -/
def setFld (b : Bytes) (lo n v : Nat) : Bytes := b.take lo ++ toLE n v ++ b.drop (lo + n)

/-- One substitution of a block: where its flag lies, where its register number lies, and the field (R518). -/
structure Subst where
  flagByte : Nat
  flagBit  : Nat
  regByte  : Nat
  regShift : Nat
  off      : Nat
  len      : Nat
deriving DecidableEq, Repr

/-- The substitutions each command block may ask for.  HSUB's host address goes into the offset field its side ignores (R317). -/
def substs (engine : Nat) (b : Bytes) : List Subst :=
  match engine, fld b 0 1 with
  | 0x00, 0x01 => [⟨1, 2, 28, 0, 6, 2⟩]
  | 0x00, 0x02 => [⟨1, 4, 18, 0, 16, 2⟩, ⟨1, 5, 18, 4, 12, 4⟩]
  | 0x00, 0x03 => [⟨1, 0, 7, 0, 18, 2⟩]
  | 0x00, 0x04 => [⟨3, 1, 4, 0, 12, 4⟩]
  | 0x01, 0x01 => [⟨2, 0, 3, 4, 28, 4⟩]
  | 0x01, 0x02 => [⟨2, 0, 3, 0, 32, 4⟩]
  | 0x02, 0x01 => [⟨1, 3, 2, 0, 16, 4⟩]
  | 0x03, 0x01 => [⟨1, 3, 2, 0, 16, 4⟩]
  | 0x04, 0x01 => [⟨1, 3, 2, 0, 16, 4⟩]
  | 0x05, 0x01 => [⟨1, 3, 2, 0, 16, 4⟩]
  | 0x05, 0x02 => [⟨2, 0, 3, 0, 8, 4⟩]
  | 0x06, 0x01 => [⟨1, 3, 3, 0, 8, 4⟩, ⟨1, 4, 3, 4, 12, 4⟩]
  | 0x06, 0x02 => [⟨1, 0, 2, 0, 8, 4⟩]
  | 0x07, 0x01 => [⟨1, 3, 3, 0, 48, 4⟩]
  | 0x08, 0x02 => [⟨1, 3, 3, 0, 28, 4⟩]
  | 0x09, 0x03 => [⟨2, 0, 3, 0, 24, 4⟩]
  | 0x0A, 0x01 => [⟨1, 0, 2, 0, 56, 4⟩]
  | 0x0C, 0x01 => [⟨1, 0, 2, 0, 28, 8⟩, ⟨1, 1, 2, 4, if fld b 3 1 = 1 then 12 else 20, 8⟩]
  | 0x0C, 0x10 => [⟨1, 0, 2, 0, 28, 8⟩]
  | 0x0E, 0x01 => [⟨1, 0, 3, 0, 24, 4⟩, ⟨1, 1, 3, 4, 4, 2⟩]
  | _, _ => []

/-- A block with its parameter substitutions applied, as ISSUE writes it into the queue (R93, R518). -/
def substitute (engine : Nat) (b : Bytes) (v : Seq) : Bytes :=
  (substs engine b).foldl (fun b' t =>
    if bitAt b t.flagByte t.flagBit then
      setFld b' t.off t.len (v.reg (BitVec.ofNat 4 (fld b t.regByte 1 / 2 ^ t.regShift))).toNat
    else b') b

/-- A block whose length and code are those of R40. -/
def blockOk (engine : Nat) (b : Bytes) : Bool :=
  match cmdWords engine (fld b 0 1) with | none => false | some n => decide (b.length = 32 * n)

/-! ### Checks of R96 -/

/-- Bytes lo to hi of a block are zero. -/
def zeroBytes (b : Bytes) (lo hi : Nat) : Bool := (slice b lo (hi + 1 - lo)).all (· == 0)
/-- Bits hi to lo of a byte of a block are zero. -/
def zeroBits (b : Bytes) (byte hi lo : Nat) : Bool := bits (fld b byte 1) hi lo == 0
/-- A u32 field as an object ID. -/
def fldObj (b : Bytes) (lo : Nat) : U32 := BitVec.ofNat 32 (fld b lo 4)

/-- The offsets of the object IDs in a command block: those that name an object whatever they hold, and those in which 0 names none.  A LOADR names its
page pool with PAGE and its source tensor without (R98), a DELETE no vectors or attribute words (R213). -/
def blockObjects (engine : Nat) (b : Bytes) : List Nat × List Nat :=
  match engine, fld b 0 1 with
  | 0x00, 0x01 => (if bitAt b 1 0 then [24] else [12], []) | 0x00, 0x02 => ([24], [28]) | 0x00, 0x03 => ([20, 24, 28, 32], [])
  | 0x00, 0x04 => ([16, 28], [20, 24])
  | 0x01, 0x01 => ([4, 8, 12, 20, 24], [16]) | 0x01, 0x02 => ([4, 8, 12, 20, 28], [16, 24])
  | 0x02, 0x01 | 0x03, 0x01 | 0x04, 0x01 | 0x05, 0x01 => ([20, 28, 32], [24])
  | 0x05, 0x02 => (if fld b 1 1 = 0 then [12, 16, 20, 24] else [16, 24], [])
  | 0x06, 0x01 => ([16, 24, 28], [20, 32]) | 0x06, 0x02 => ([16, 20, 24, 28], [])
  | 0x07, 0x01 => ([4, 8, 12, 20], [16]) | 0x08, 0x02 => ([4, 8, 12, 20, 24], [16]) | 0x09, 0x03 => ([4, 8, 20], [12, 16])
  | 0x0A, 0x01 => ([4, 8, 12, 16, 20, 24, 28], [])
  | 0x0B, 0x01 => ([4], []) | 0x0B, 0x02 => ([4, 20], [8, 12, 16]) | 0x0B, 0x03 => ([4, 8], []) | 0x0B, 0x04 => ([4], [])
  | 0x0C, 0x01 => ([], [4, 8]) | 0x0C, 0x10 => ([4, 8], [12])
  | 0x0D, 0x01 => ([60], [])
  | 0x0E, 0x01 => ([12], []) | 0x0E, 0x02 => ([12, 28], [])
  | _, _ => ([], [])
/-- The objects that a command block names. -/
def blockNames (engine : Nat) (b : Bytes) : List U32 :=
  (blockObjects engine b).1.map (fldObj b) ++ ((blockObjects engine b).2.map (fldObj b)).filter (fun id => id != 0)

/-- A range of an object that a command reads or writes. -/
structure Access where
  id  : U32
  off : Nat
  len : Nat
  out : Bool
deriving DecidableEq, Repr

/-- An object's kind for weight-streaming windows. -/
def kindWindow : Byte := 0x05

namespace State

/-- Whether a context's table names an object and it lies in one of the tiers, and is no window (R96, R315). -/
def objIn (s : State) (c : CtxId) (id : U32) (tiers : List Nat) : Bool :=
  s.names c id && match s.obj? id with
    | none => false
    | some o => tiers.contains o.tier.toNat && o.kind != kindWindow

/-- Whether a range lies within an object. -/
def fits (s : State) (id : U32) (off n : Nat) : Bool :=
  match s.obj? id with | none => false | some o => decide (off + n ≤ o.size)

/-- Whether an object may be an output: tier 0 or 1, not read-only (R314). -/
def outOk (s : State) (id : U32) : Bool :=
  match s.obj? id with | none => false | some o => decide (o.tier.toNat ≤ 1) && !o.readOnly

/-- Whether one access is allowed: object named, in its tiers, inside its size, writable when written. -/
def accOk (s : State) (c : CtxId) (tiers : List Nat) (a : Access) : Bool :=
  s.objIn c a.id tiers && s.fits a.id a.off a.len && (!a.out || s.outOk a.id)

/-- Whether every object of a list of accesses is there for a command that has started: RESIDENT (R311), or EVICTING, since an eviction waits for the
commands in progress (R312). -/
def resident (s : State) (acc : List Access) : Bool :=
  acc.all (fun a => match s.obj? a.id with | none => false | some o => o.present)

/-- The first access that meets a poisoned parcel: a read of one, or a write that does not cover it whole (R321, R324). -/
def poisonedAccess (s : State) (acc : List Access) : Option Access :=
  acc.find? (fun a => match s.obj? a.id with
    | none => false
    | some o => if a.out then o.blocks a.off a.len else o.poison a.off a.len)

/-- A read-only object with a host home copy in tier 1 or 2: its readers stall (R325, R326). -/
def stalls (s : State) (id : U32) : Bool :=
  match s.obj? id with
  | none => false
  | some o => o.readOnly && o.home && (decide (o.tier = 1) || decide (o.tier = 2))

/-- A reader stalls at the poisoned parcels of a range of an object (R326). -/
def noteStall (s : State) (r : Reader) (a : Access) : State :=
  s.modObj a.id (fun o =>
    let ks := o.poisoned.filter (fun k => decide (a.off < 256 * (k + 1)) && decide (256 * k < a.off + a.len))
    { o with stalled := (o.stalled ++ ks.map (fun k => (r, k))).dedup })

/-- Where a command runs: the queues that hold its copies, each with the sequencer that issued the copy and the block (R93, R203, R333). -/
abbrev Copies := List (Nat × SeqId × Bytes)
/-- The one copy of a command of an engine. -/
def copyOf (engine : Nat) (q : SeqId) (b : Bytes) : Copies := [(queueIx engine q, q, b)]
/-- The engine has started the command: each of its queues runs this context's copy of it (R22, R336, R338). -/
def started (s : State) (c : CtxId) (on : Copies) : Bool :=
  on.all (fun p => (s.queue p.1).running.any (fun e => e.ctx == c && e.src == p.2.1 && e.b == p.2.2))
/-- The state with a function applied to the sequencers that issued a command's copies, with each copy's engine. -/
def modIssuers (s : State) (c : CtxId) (on : Copies) (f : Nat → Seq → Seq) : State :=
  s.modCtx c (fun x => on.foldl (fun y p => y.modSeq p.2.1 (f (queueEngine p.1))) x)
/-- A command waits: what it waits on first is noted, with the buffer (R58). -/
def noteWait (s : State) (c : CtxId) (on : Copies) (cause buf : Nat) : State := s.modIssuers c on (fun e v => v.cmdWait e cause buf s.now)
/-- A command waits no longer (R58). -/
def endWait (s : State) (c : CtxId) (on : Copies) : State := s.modIssuers c on (fun e v => v.cmdGo e s.now)
/-- The running entry of a queue set aside: the oldest of its stream again (R350). -/
def setAside (s : State) (i : Nat) : State :=
  s.modQueue i (fun u => match u.running with | none => u | some e => { u with running := none, saved := e :: u.saved })
/-- A command that meets a poisoned parcel of a read-only object with a home copy: its reader stalls, the wait is counted as one for a token, and
its engine takes other commands until the parcel is re-provisioned (R326). -/
def stall (s : State) (c : CtxId) (on : Copies) (a : Access) : State :=
  on.foldl (fun t p => (t.noteStall (.command c p.1 p.2.1) a).setAside p.1) (s.noteWait c on 0 a.id.toNat)
/-- The first object of a list of accesses that is not RESIDENT. -/
def firstAbsent (s : State) (acc : List Access) : Nat :=
  ((acc.find? (fun a => match s.obj? a.id with | none => true | some o => !o.present)).map (fun a => a.id.toNat)).getD 0

/-- An engine command that has run, or has nothing more to do, is finished with. -/
def engineDone (s : State) (c : CtxId) (q : SeqId) (engine : Nat) : State :=
  (s.clearRunning (queueIx engine q) c).finishCommand c q engine

/-- An engine command runs: nothing for a context that is not active, or for a command that its engine has not started (log 6, log 90); refused under
R96; waiting for an object that is not RESIDENT, counted as a token wait (R311, log 7), or for re-provisioning (R326); stopped UNCORRECTABLE at a
poisoned parcel (R325), or with the effect `onPoison` its unit gives; otherwise its effect.  `finish` ends the command (a command may also keep
its progress and go on).  `blocked` is what else it waits for: the cause of R58 and the buffer. -/
def runCommand (s : State) (c : CtxId) (on : Copies) (allowed : Bool) (acc : List Access)
    (onPoison : Access → Option (State → State)) (eff : State → State) (finish : State → State) (blocked : Option (Nat × Nat) := none) : State :=
  if !(s.ctx c).active || !s.started c on then s
  else if !allowed then s.faultCtx c
  else if !s.resident acc then s.noteWait c on 0 (s.firstAbsent acc)
  else if blocked.isSome then s.noteWait c on ((blocked.getD (0, 0)).1) ((blocked.getD (0, 0)).2)
  else
    match s.poisonedAccess acc with
    | some a =>
      if s.stalls a.id then s.stall c on a
      else match onPoison a with
        | none => s.stopStep c .uncorrectable
        | some f => finish (f (s.endWait c on))
    | none => finish (eff (s.endWait c on))

/-- The commands with no response of their own to a poisoned parcel. -/
def noPoisonRule : Access → Option (State → State) := fun _ => none

end State
end Sys2Proof.Machine
end

