-- ==== Sys2Proof/Machine/Arrivals.lean ====
section
/-! DEFINITION. What waits for an object to be RESIDENT beside commands: parcels of a posted RECV, kept in arrival order, and the records of the maintenance
lane (R311, R353, R357, R402, R403). -/

namespace Sys2Proof.Machine

/-- Parcels an inbound region holds (R353). -/
def inboundRoom : Nat := 258111

namespace State

/-! ### Parcels of posted RECVs (R402, R403, R353) -/

/-- What a RECV writes with a parcel: the parcel, when it lies within the capacity, and its record with the last (R402). -/
def recvWrites (r : Recv) (last : Bool) : List Access :=
  (if 256 * (r.taken + 1) ≤ r.capacity.toNat then [⟨r.object, r.offset.toNat + 256 * r.taken, 256, true⟩] else []) ++
    (if last then [⟨r.robj, 0, 8, true⟩] else [])

/-- A parcel written by a posted RECV, or dropped beyond its capacity; at the last parcel the RECV completes with its record (R402, log 59), and its wait
for its parcels is counted (R58).  A write that would change part of a poisoned parcel is not made, and ends the step UNCORRECTABLE (R321, R325). -/
def recvTake (s : State) (r : Recv) (last : Bool) (payload : Bytes) : State :=
  let fits_ := decide (256 * (r.taken + 1) ≤ r.capacity.toNat)
  let s1 := if fits_ then s.wr r.object (r.offset.toNat + 256 * r.taken) payload else s
  let r' : Recv := { r with taken := r.taken + 1, received := if fits_ then r.received + 256 else r.received, overflow := r.overflow || !fits_ }
  if (s.poisonedAccess (recvWrites r last)).isSome then s.stopStep r.ctx .uncorrectable
  else if last then
    let s2 : State := { s1 with recvs := s1.recvs.eraseP (fun x => decide (x = r)) }
    ((s2.wr r.robj 0 (toLE 4 r'.received ++ [BitVec.ofNat 8 (flagNat r'.overflow), 0, 0, 0])).lagRecv r).finishCommand r.ctx r.src 0x0E
  else { s1 with recvs := s1.recvs.map (fun x => if x = r then r' else x) }

/-- The posted RECV of a context for a stream: the oldest. -/
def recvFor? (s : State) (c : CtxId) (stream : U16) : Option Recv :=
  s.recvs.find? (fun r => decide (r.ctx = c) && decide (r.stream = stream))

/-- Where a parcel goes is there: its RECV's object, and for the last parcel the object of its record (R311). -/
def recvReady (s : State) (r : Recv) (last : Bool) : Bool :=
  s.resident (⟨r.object, 0, 0, true⟩ :: (if last then [⟨r.robj, 0, 8, true⟩] else []))

/-- Stored parcels that posted RECVs take, in the arrival order of each stream; one whose destination is not RESIDENT stays, and the later ones of its
stream with it (R311, R353, R403). -/
def deliverStored (s : State) (c : CtxId) : State :=
  ((s.ctx c).inbound).foldl (fun t p =>
    let stay := t.modCtx c (fun x => { x with inbound := x.inbound ++ [p] })
    match t.recvFor? c p.stream with
    | none => stay
    | some r => if t.recvReady r p.last && !(t.ctx c).inbound.any (fun o => o.stream == p.stream) then t.recvTake r p.last p.payload else stay)
    (s.modCtx c (fun x => { x with inbound := [] }))

/-- Whether a context's UPDATE with HOME runs (R178, R404). -/
def homeRuns (s : State) (c : CtxId) : Bool :=
  [2, 3].any (fun i => (s.queue i).running.any (fun e => e.ctx == c && fld e.b 0 1 == 2 && bitAt e.b 2 2))

/-- A parcel stored in a context's inbound region; a full one first delivers what it can, and with nothing to deliver the context faults (R353). -/
def storeParcel (s : State) (c : CtxId) (p : Inbound) : State :=
  let full := fun (t : State) => decide (inboundRoom ≤ (t.ctx c).inbound.length)
  let put_ := fun (t : State) => t.modCtx c (fun x => { x with inbound := x.inbound ++ [p] })
  if !full s then put_ s
  else
    let t := s.deliverStored c
    if !full t then put_ t else t.faultCtx c
/-- A parcel for a context with no posted RECV to take it: a Gorge contribution goes to the home's Gorge while an UPDATE with HOME runs, anything else to
the inbound region (R403, R404). -/
def storeInbound (s : State) (c : CtxId) (p : Inbound) : State :=
  if p.stream = 0xFFFF ∧ s.homeRuns c = true then s.modCtx c (fun x => { x with contribs := x.contribs ++ [p] }) else s.storeParcel c p

/-! ### Records of the maintenance lane (R357) -/

/-- A command that was set aside while it waited for its activity is no longer to be started again (R351, R357). -/
def clearSaved (s : State) (i : Nat) (c : CtxId) (q : SeqId) : State :=
  s.modQueue i (fun u => { u with saved := u.saved.filter (fun e => !(e.consumed && e.ctx == c && e.src == q)) })

/-- A START's record written to its object, if there is one, and its command finished when that waits for it.  A record that would change part of a poisoned
parcel is not written, and ends the step of a START that waits for it UNCORRECTABLE (R321, R325). -/
def writeLaneRec (s : State) (r : LaneRec) : State :=
  let bad := (s.poisonedAccess [⟨r.object, 0, 16, true⟩]).isSome
  let s1 := if (s.obj? r.object).isSome && !bad then s.wr r.object 0 r.bytes else s
  match r.cmd with
  | none => s1
  | some (c, q) => if bad then s1.stopStep c .uncorrectable else (s1.clearSaved (queueIx 0x0D q) c q).engineDone c q 0x0D

/-! ### An object has come (R311) -/

/-- What waited for an object that has become RESIDENT: records of the lane are written, and RECVs of running contexts take their stored parcels. -/
def woken (s : State) (id : U32) : State :=
  if s.resident [⟨id, 0, 0, false⟩] then
    let s1 := (s.laneRecs.filter (fun r => r.object == id)).foldl writeLaneRec { s with laneRecs := s.laneRecs.filter (fun r => r.object != id) }
    ((s1.recvs.filter (fun r => r.object == id || r.robj == id)).map Recv.ctx).dedup.foldl (fun t c => if (t.ctx c).active then t.deliverStored c else t) s1
  else s

end State
end Sys2Proof.Machine
end

