-- ==== Sys2Proof/Machine/HostArea.lean ====
section
/-! DEFINITION. Host areas with parcel checks (R377, R424) and the halt of a DMA channel (R327). -/

namespace Sys2Proof.Machine
namespace State

/-- The state after part of a host area of `total` bytes is written, with the checks of the parcels it touches and the zero padding of the
last parcel brought up to date under HCRC (R377). -/
def hostPart (s : State) (p : HostPort) (hcrc : Bool) (base total off : Nat) (bs : Bytes) : State :=
  let s1 := s.hostWr p (base + off) bs
  if hcrc then
    let end_ := roundUp total 256
    let s2 := if total ≤ off + bs.length then s1.hostWr p (base + total) (List.replicate (end_ - total) 0) else s1
    let k0 := off / 256
    (List.range (ceilDiv (off + bs.length) 256 - k0)).foldl (fun t i =>
      t.hostWr p (base + end_ + 4 * (k0 + i)) (toLE 4 (crc32c (t.hostRd p (base + 256 * (k0 + i)) 256)))) s2
  else s1

/-- The DMA channel of a context (R327). -/
def channel (s : State) (c : CtxId) : Nat := (s.ctx c).dma.toNat
/-- A channel that is not halted. -/
def channelOpen (s : State) (c : CtxId) : Bool := !s.regs.dmahalt.getLsbD (s.channel c)
/-- A context's channel halted (R327). -/
def haltChannel (s : State) (c : CtxId) : State :=
  { s with regs := { s.regs with dmahalt := s.regs.dmahalt ||| (1#32 <<< s.channel c) } }
/-- The uncorrectable attention event (R324): response under R325, reader (none for scrub), location, object, poisoned range, KV page, request slot. -/
def uncorrectable (s : State) (response : Byte) (reader : Option CtxId) (loc : Location) (object : U32) (off len page slot : Nat) : State :=
  s.devEvent 0x08 ([loc.kind.setWidth 8, response, reader.getD 0xFF, if reader.isNone then 1 else 0] ++ loc.id ++ toLE 4 object.toNat ++
    toLE 8 off ++ toLE 4 len ++ toLE 4 page ++ toLE 2 slot)
/-- A host-supplied check that fails after its re-read: the channel halted, counted at it, and reported (R324, R327, R424, R428). -/
def hostCheckFailed (s : State) (c : CtxId) : State :=
  let loc : Location := { kind := 0xB, a := 0, b := 0, c := 0, row := BitVec.ofNat 32 (s.channel c) }
  ((s.haltChannel c).countLoc false loc).uncorrectable 7 (some c) loc 0 0 0 0xFFFFFFFF 0xFFFF

end State
end Sys2Proof.Machine
end

