-- ==== Sys2Proof/Machine/Pipelines.lean ====
section
/-! DEFINITION. Pipeline records, templates, and what a QUERY's or EMBED's TOKENIZEs leave (R281 to R283, R290, R301, R302). -/

namespace Sys2Proof.Machine

/-! ### The pipeline record (R281) -/

/-- The fields of a pipeline record. -/
structure Pipeline where
  kind    : Nat
  rerank  : Bool
  gen     : Bool
  trunc   : Bool
  widen   : Bool
  insert  : Bool
  vout    : Bool
  rev     : Bool
  tobj    : U32
  tmpl    : U32
  pstore  : U32
  gtab    : U32
  mask    : Nat
  depth   : Nat
  ofetch  : Nat
  rworkers : Nat
  ntop    : Nat
  rcap    : Nat
  qcap    : Nat
  emax    : Nat
  budget  : Nat
  maxpass : Nat
  vfmt    : Nat
  mintail : Nat
  shard   : Nat
  rdev    : List Nat
deriving DecidableEq, Repr

/-- A pipeline record from its bytes. -/
def Pipeline.of (b : Bytes) : Pipeline :=
  { kind := fld b 6 1, rerank := bitAt b 7 0, gen := bitAt b 7 1, trunc := bitAt b 7 2, widen := bitAt b 7 3, insert := bitAt b 7 4,
    vout := bitAt b 7 5, rev := bitAt b 7 6, tobj := fldObj b 8, tmpl := fldObj b 12, pstore := fldObj b 16, gtab := fldObj b 20,
    mask := fld b 24 8, depth := fld b 32 2, ofetch := fld b 34 1, rworkers := fld b 35 1, ntop := fld b 36 2, rcap := fld b 38 2,
    qcap := fld b 40 2, emax := fld b 42 2, budget := fld b 44 4, maxpass := fld b 48 1, vfmt := fld b 49 1, mintail := fld b 50 2,
    shard := fld b 52 1, rdev := (List.range 32).map (fun i => fld b (64 + 2 * i) 2) }

/-- The magic, the version and the ranges of a record's own fields, each in a record of either kind; where a field must be 0 it is (R281, R282,
log 42). -/
def pipelineFieldsOk (b : Bytes) : Bool :=
  let x := Pipeline.of b
  fld b 0 4 == 0x4550494A && fld b 4 2 == 1 && decide (x.kind ≤ 1) && zeroBits b 7 7 7 && zeroBytes b 53 63 && decide (x.vfmt ≤ 3) &&
  decide (x.shard ≤ 63) && decide (1 ≤ x.depth) && decide (x.depth ≤ 4096) && decide (1 ≤ x.ofetch) && decide (x.ofetch ≤ 16) &&
  decide (1 ≤ x.ntop) && decide (x.ntop ≤ x.depth) && decide (16 ≤ x.rcap) && decide (x.rcap ≤ 2048) && decide (1 ≤ x.qcap) &&
  decide (x.qcap ≤ 4096) && decide (1 ≤ x.budget) && decide (x.budget ≤ 131071) && decide (1 ≤ x.mintail) && decide (x.mintail ≤ 4096) &&
  (if x.kind = 0 then x.emax == 0 else x.tmpl == 0 && x.pstore == 0 && decide (16 ≤ x.emax) && decide (x.emax ≤ 8192)) &&
  (if x.rerank then decide (1 ≤ x.rworkers) && decide (x.rworkers ≤ 32) else x.rworkers == 0 && x.gtab == 0) &&
  (x.rdev.drop x.rworkers).all (· == 0)

/-! ### The template (R290) -/

/-- A segment: kind, count, first pool index. -/
structure Segment where
  kind  : Nat
  count : Nat
  first : Nat
  bad   : Bool
deriving DecidableEq, Repr

/-- A template's frames and pool. -/
structure Template where
  prompt : List Segment
  rframe : List Segment
  pool   : List Nat
deriving DecidableEq, Repr

/-- The tokens a segment or separator names. -/
def Template.lit (t : Template) (g : Segment) : List Nat := (t.pool.drop g.first).take g.count
/-- The separator σ. -/
def Template.sep (t : Template) : List Nat := match t.prompt.find? (fun g => g.kind == 2) with | none => [] | some g => t.lit g
/-- F: the prompt frame's literal tokens. -/
def Template.fixed (t : Template) : Nat := ((t.prompt.filter (fun g => g.kind == 0)).map Segment.count).sum
/-- Fr: the re-rank frame's literal tokens. -/
def Template.rfixed (t : Template) : Nat := ((t.rframe.filter (fun g => g.kind == 0)).map Segment.count).sum

/-- The rules of R290 for the frames; v is the tokenizer's V. -/
def Template.ok (t : Template) (rerank : Bool) (v : Nat) : Bool :=
  let one := fun (l : List Segment) k => (l.filter (fun g => g.kind == k)).length == 1
  let inPool := fun (g : Segment) => decide (g.first + g.count ≤ t.pool.length)
  let seg := fun (l : List Segment) (kinds : List Nat) => l.all (fun g => !g.bad && kinds.contains g.kind &&
    (if g.kind = 0 ∨ g.kind = 2 then inPool g else g.count == 0 && g.first == 0))
  decide (1 ≤ t.prompt.length) && decide (t.prompt.length ≤ 16) && decide (t.rframe.length ≤ 16) && seg t.prompt [0, 1, 2] &&
  seg t.rframe [0, 1, 3] && one t.prompt 1 && one t.prompt 2 && (t.rframe.isEmpty || (one t.rframe 1 && one t.rframe 3)) &&
  (!rerank || !t.rframe.isEmpty) && t.pool.all (fun k => decide (k < v))

namespace State

/-- Bytes of a template. -/
def templateLen (s : State) (id : U32) : Nat := 16 + 8 * (s.rdNat id 6 1 + s.rdNat id 7 1) + 4 * s.rdNat id 8 4
/-- The template of an object. -/
def template (s : State) (id : U32) : Template :=
  let np := s.rdNat id 6 1
  let nr := s.rdNat id 7 1
  let seg := fun i =>
    let b := s.rd id (16 + 8 * i) 8
    ({ kind := fld b 0 1, count := fld b 2 2, first := fld b 4 4, bad := !zeroBytes b 1 1 } : Segment)
  { prompt := (List.range np).map seg, rframe := (List.range nr).map (fun i => seg (np + i))
    pool := (List.range (s.rdNat id 8 4)).map (fun i => s.rdNat id (16 + 8 * (np + nr) + 4 * i) 4) }
/-- A template that passes R290. -/
def templateOk (s : State) (id : U32) (rerank : Bool) (v : Nat) : Bool :=
  let b := s.rd id 0 16
  s.fits id 0 16 && fld b 0 4 == 0x4C504D54 && fld b 4 2 == 1 && zeroBytes b 12 15 && s.fits id 0 (s.templateLen id) &&
  (s.template id).ok rerank v

/-- The pipeline record of an object. -/
def pipeline (s : State) (id : U32) : Pipeline := Pipeline.of (s.rd id 0 128)

/-- The parts of a query list entry (R283). -/
structure QueryEntry where
  text : Nat
  len  : Nat
  slot : Nat
  rrec : Nat
  res  : Nat
  bad  : Bool
deriving DecidableEq, Repr

/-- Entry i of a QUERY's list. -/
def queryEntry (s : State) (d : Desc) (i : Nat) : QueryEntry :=
  let b := s.hostRd (s.ctx d.ctx).port (descField d 32 8 + 32 * i) 32
  { text := fld b 0 8, len := fld b 8 4, slot := fld b 12 2, rrec := fld b 16 8, res := fld b 24 8,
    bad := !zeroBytes b 14 15 || (fld b 12 2 == 0xFFFF && fld b 16 8 != 0) }

/-- The context owning the hand-off slots (R378). -/
def handCtx (d : Desc) : CtxId := BitVec.ofNat 8 (descField d 28 1)

/-- Bytes of a query result area (R294). -/
def resultArea (x : Pipeline) : Nat := 64 + 16 * x.depth + 16 * x.ntop + 4 * x.budget

/-- The pipeline record that a descriptor names (R378). -/
def recordOf (s : State) (d : Desc) : Pipeline := s.pipeline (BitVec.ofNat 32 (descField d 24 4))

/-- A query of the step of a command changed. -/
def modWork (s : State) (c : CtxId) (q : SeqId) (engine i : Nat) (f : QueryWork → QueryWork) : State :=
  s.modCtx c (fun y => y.modRun q engine (fun r => { r with work := r.work.set i (f (r.work.getD i QueryWork.init)) }))

/-- A QUERY's TOKENIZE gives a query its tokens, cut to qcap; an EMBED's writes its passage's 16 bytes of the result area (R283, R301, R302).  The
TOKENIZEs of a step serve its list in order, one an entry; a text that did not fit ocap counts as cut (log 131). -/
def noteTokens (s : State) (c : CtxId) (q : SeqId) (tokens : List Nat) (invalid : Nat) (full : Bool) : State :=
  match (s.ctx c).runOf q 7 with
  | none => s
  | some r =>
    let x := s.recordOf r.d
    let n := descField r.d 16 8
    let i := r.toks
    let s1 := s.modCtx c (fun y => y.modRun q 7 (fun r => { r with toks := r.toks + 1 }))
    if n ≤ i then s1
    else if descOp r.d = 0x01 then
      s1.modWork c q 7 i (fun w => { w with tokens := tokens.take x.qcap, cut := full || decide (x.qcap < tokens.length) })
    else if descOp r.d = 0x02 then
      (s1.modWork c q 7 i (fun w => { w with tokens := tokens.take x.emax, cut := full || decide (x.emax < tokens.length) })).hostPart (s.ctx c).port (descFlag r.d 3) (descField r.d 48 8) (16 * n) (16 * i)
        (toLE 4 (min tokens.length x.emax) ++ (BitVec.ofNat 8 ((if full || decide (x.emax < tokens.length) then 1 else 0) + (if invalid = 0 then 0 else 2)) ::
          List.replicate 11 0))
    else s1

end State
end Sys2Proof.Machine
end

