-- ==== Sys2Proof/Machine/Saddle.lean ====
section
/-! DEFINITION. Saddle barriers on this device (R59, R60, R407 to R409) and what a loss or an abandon does to a context (R414). -/

namespace Sys2Proof.Machine

/-- Fields of a Saddle plan entry (R36). -/
def planCounter (e : Bytes) : Nat := fld e 4 2
/-- The port to the parent; none on the top manager. -/
def planUplink (e : Bytes) : Option SelynPort := if h : fld e 6 1 < 10 then some ⟨fld e 6 1, h⟩ else none
/-- The ports that lead to children. -/
def planChildren (e : Bytes) : List SelynPort := State.selynPorts.filter (fun n => (fld e 8 2).testBit n.val)
/-- Flag [0]: a cross-device reduction at this Saddle. -/
def planReduces (e : Bytes) : Bool := bitAt e 7 0
/-- The timeout, µs. -/
def planTimeout (e : Bytes) : Nat := fld e 12 4

/-- A Saddle that nothing has reached. -/
def Saddle.open (c : CtxId) (entry : U16) : Saddle :=
  { ctx := c, entry := entry, arrived := none, arrives := [], sent := false, timer := none, reported := false }

/-- The earlier of two arrivals, equal times to the lower index (R408). -/
def earlier (x y : Nat × Nat) : Nat × Nat := if y.1 < x.1 ∨ (y.1 = x.1 ∧ y.2 < x.2) then y else x
/-- The later of two arrivals, equal times to the lower index (R408). -/
def later (x y : Nat × Nat) : Nat × Nat := if x.1 < y.1 ∨ (y.1 = x.1 ∧ y.2 < x.2) then y else x

namespace State

/-- One lag counted in a device's histogram (R58, R59). -/
def lagCount (s : State) (device lag : Nat) : State :=
  let h := s.saddleLag.getD device []
  { s with saddleLag := s.saddleLag.set device (h.set (lagBucket lag) (h.getD (lagBucket lag) 0 + 1)) }

/-- Whether the uplink has acknowledged every data parcel that the context's step sent on it (R408). -/
def uplinkClear (s : State) (c : CtxId) (n : SelynPort) : Bool :=
  !(s.sends.any (fun r => decide (r.ctx = c) && decide (r.port = n) && decide (0 < r.left))) &&
  !(((s.link n).replay ++ (s.link n).waitq).any (fun f => f.data && f.stream == 0xFFFF && f.own == some c))

/-- The sequencers that wait at a Saddle entry go on (R408). -/
def passSaddle (s : State) (c : CtxId) (entry : U16) : State :=
  s.modCtx c (fun x => x.modSeqs (fun v => if v.status = .saddle entry then (v.waited 6 s.now).next else v))

/-- A Saddle of a context's step has completed on this device (R418). -/
def noteReleased (s : State) (c : CtxId) : State := s.modCtx c (fun x => { x with run := x.run.map (fun r => { r with released := true }) })

/-- A Saddle completes on this device: the counter raised, the sequencers released, RELEASE sent down, in one action (R408). -/
def releaseSaddle (s : State) (k : Nat) (v : Saddle) (e : Bytes) : State :=
  let pass := s.passes.getD k 0
  let s1 : State := { s with passes := s.passes.set k (pass + 1), saddles := s.saddles.erase k }
  ((s1.noteReleased v.ctx).passSaddle v.ctx v.entry).sendOn (planChildren e) 0x02 (toLE 4 pass.toNat ++ toLE 2 k ++ [v.ctx])

/-- The lags a complete Saddle records: each child's own, and on the top the slowest device's, once (R409). -/
def recordLags (s : State) (v : Saddle) (first last : Nat × Nat) (top : Bool) : State :=
  let s1 := v.arrives.foldl (fun t a => t.lagCount a.2.origin.toNat (a.2.own.toNat - first.1)) s
  if top && !v.arrives.any (fun a => a.2.origin.toNat == last.2) then s1.lagCount last.2 (last.1 - first.1) else s1

/-- A Saddle whose conditions hold sends ARRIVE, or releases on the top manager (R408); that of a SUSPENDED context pauses (R417). -/
def trySaddle (s : State) (k : Nat) : State :=
  match s.saddles.get? k with
  | none => s
  | some v =>
    match v.arrived, s.planEntry? v.ctx v.entry.toNat with
    | some own, some e =>
      let here := v.arrives.filter (fun a => (planChildren e).any (fun n => n.val == a.1))
      let ready := !v.sent && decide ((s.ctx v.ctx).state ≠ .suspended) && (planChildren e).all (fun n => (v.arrives.get? n.val).isSome) &&
        (match planUplink e with | none => true | some n => !planReduces e || s.uplinkClear v.ctx n)
      if !ready then s
      else
        let me := (own.toNat, s.regs.treeIndex.toNat)
        let first := here.foldl (fun x a => earlier x (a.2.earliest.toNat, a.2.earliestIx.toNat)) me
        let last := here.foldl (fun x a => later x (a.2.latest.toNat, a.2.latestIx.toNat)) me
        match planUplink e with
        | none => (s.recordLags v first last true).releaseSaddle k v e
        | some n =>
          let fields := toLE 4 (s.passes.getD k 0).toNat ++ toLE 2 k ++ [v.ctx, if planReduces e then 1 else 0] ++ toLE 8 own.toNat ++
            toLE 8 first.1 ++ toLE 8 last.1 ++ toLE 2 last.2 ++ toLE 2 first.2
          let s1 := (s.recordLags v first last false).sendControl n 0x01 fields
          { s1 with saddles := s1.saddles.set k { v with sent := true } }
    | _, _ => s

/-- Every open Saddle tried again: an acknowledgement may have been the last it waited for. -/
def trySaddles (s : State) : State := s.saddles.keys.foldl (fun t k => t.trySaddle k) s

/-- A Saddle's record with its timer started at its first arrival (R60). -/
def startTimer (v : Saddle) (e : Bytes) (now : U64) : Saddle :=
  if (planChildren e).isEmpty ∨ planTimeout e = 0 ∨ v.timer.isSome then v else { v with timer := some now }

/-- Where the ranked entries and result records of a SEARCH's area lie: after the header, the query elements and the filter records (R379, log 65). -/
def searchOut (s : State) (d : Desc) : Nat × Nat :=
  let h := s.hostRd (s.ctx d.ctx).port (descField d 32 8) 64
  let q := descField d 16 8
  let dims := match ((List.range 64).filter (fun n => (descField d 24 8).testBit n)).filterMap (fun n => s.shards.get? n) with
    | [] => 0
    | id :: _ => s.rdNat id 10 2
  (descField d 32 8 + 64 + 4 * q * dims + 128 * (if bitAt h 3 1 then 1 else q), 16 * q * fld h 0 2 + 32 * q)
/-- The host areas that a step leaves undefined when a loss ends it: the result areas of a QUERY, what a SEARCH or a RERANK fills (R379, R415). -/
def lostAreas (s : State) (d : Desc) : List (Nat × Nat) :=
  match descOp d with
  | 0x01 => (List.range (descField d 16 8)).map (fun i => ((s.queryEntry d i).res, resultArea (s.recordOf d)))
  | 0x03 => [s.searchOut d]
  | 0x04 => (List.range (descField d 16 8)).map (fun i =>
      (leNat (s.hostRd (s.ctx d.ctx).port (descField d 32 8 + 32 * i + 24) 8), 16 * (s.recordOf d).ntop + 4))
  | _ => []
/-- A host area left with free bytes (log 4). -/
def undefine (s : State) (p : HostPort) (a : Nat × Nat) : State := let (bs, t) := s.freeBytes a.2; t.hostWr p a.1 bs

/-- A step of a context ended by a loss: LINK_LOST, what it was to give undefined, stored parcels discarded, its Saddles closed, the context broken (R414,
R415). -/
def loseCtx (s : State) (c : CtxId) : State :=
  let areas := (((s.ctx c).finishing ++ (s.ctx c).run.toList).map (fun r => s.lostAreas r.d)).flatten
  let s1 := areas.foldl (fun t a => t.undefine (s.ctx c).port a) (s.stopStep c .linkLost)
  let s2 := s1.modCtx c (fun x => { x with broken := true, inbound := [], contribs := [] })
  { s2 with saddles := s2.saddles.filter (fun e => e.2.ctx != c) }

/-- A context marked broken with its stored parcels discarded, its step going on (R414). -/
def breakCtx (s : State) (c : CtxId) : State := s.modCtx c (fun x => { x with broken := true, inbound := [], contribs := [] })

/-- A loss that affects a context: its step ends, or, where the RELEASE of its Saddle was handled first, goes on to its end with the context broken (R414,
R418). -/
def affectCtx (s : State) (c : CtxId) : State :=
  let past := (match (s.ctx c).run with | none => false | some r => r.released) && !s.saddles.any (fun e => decide (e.2.ctx = c))
  if past then s.breakCtx c else s.loseCtx c

end State
end Sys2Proof.Machine
end

