-- ==== Sys2Proof/Machine/Slots.lean ====
section
/-! DEFINITION. The request table and the models: slot stores, page lists, model records, KV rows (R106, R107, R245 to R250). -/

namespace Sys2Proof.Machine

/-- A request slot's state (R249). -/
inductive SlotState where
  | free | joining | running | pausing | resuming | ended
deriving DecidableEq, Repr

/-- A slot state's code. -/
def SlotState.num : SlotState → Nat
  | .free => 0 | .joining => 1 | .running => 2 | .pausing => 3 | .resuming => 4 | .ended => 5
/-- The slot state of a code. -/
def SlotState.ofCode (n : Nat) : SlotState :=
  match n with | 0 => .free | 1 => .joining | 2 => .running | 3 => .pausing | 4 => .resuming | _ => .ended

/-- A model record (R245). -/
structure Model where
  id    : U32
  lam   : Nat
  w     : Nat
  v     : Nat
  tobj  : U32
  eos   : Nat
  pool  : U32
  psize : Nat
deriving DecidableEq, Repr

/-- Bytes of one KV row (R106). -/
def Model.rowSize (m : Model) : Nat := m.w * 33 / 32
/-- Bytes of one region (R106). -/
def Model.regionSize (m : Model) : Nat := 256 * m.w * 33 / 32
/-- The page size that R106 gives for λ and w. -/
def pageSize (lam w : Nat) : Nat := roundUp (2 * lam * (256 * w * 33 / 32)) 256

/-- The first ID of page lists and the slot an ID names (R35, R257). -/
def pageListSlot (id : U32) : Option Nat :=
  if Config.pageListBase ≤ id.toNat then some (id.toNat - Config.pageListBase) else none

namespace State

/-- The entry at a context's cursor (R257). -/
def entryAt (s : State) (c : CtxId) : Option SlotStep :=
  if (s.ctx c).serving.listed then (s.ctx c).serving.entries[(s.ctx c).serving.cursor]? else none
/-- The entry at the cursor, when it takes part in its step: the slot whose stream a DETOKENIZE advances.  DEDUCED (log 123). -/
def servingEntry (s : State) (c : CtxId) : Option SlotStep := (s.entryAt c).filter (fun e => !e.skip)
/-- The entry at the cursor, when it takes part in its step or its request ended at the step's boundary: the slot whose stream a DETOKENIZE goes on
or discards (R149).  DEDUCED (log 123). -/
def streamEntry (s : State) (c : CtxId) : Option SlotStep := (s.entryAt c).filter (fun e => !e.skip || e.terminal)

/-- A number in a slot's store (R248, R249). -/
def slotNat (s : State) (slot lo n : Nat) : Nat := s.getNat .slots (512 * slot + lo) n
/-- The state with a field of a slot's store written. -/
def setSlot (s : State) (slot lo n v : Nat) : State := s.put .slots (512 * slot + lo) (toLE n v)
/-- A slot's state (R249). -/
def slotState (s : State) (slot : Nat) : SlotState := SlotState.ofCode (s.slotNat slot 0 1)
/-- A flag of byte 1 of a slot's record: 3 FB, 4 CXL, 5 SWITCH, 6 GRAM, 7 STOP. -/
def slotFlag (s : State) (slot i : Nat) : Bool := (s.slotNat slot 1 1).testBit i
/-- The state with a flag of byte 1 of a slot's record written. -/
def setSlotFlag (s : State) (slot i : Nat) (v : Bool) : State :=
  let b := s.slotNat slot 1 1
  s.setSlot slot 1 1 (if b.testBit i = v then b else if v then b + 2 ^ i else b - 2 ^ i)
/-- The state with a slot's state written. -/
def setSlotState (s : State) (slot : Nat) (x : SlotState) : State := s.setSlot slot 0 1 x.num
/-- The state with a slot's store cleared to FREE. -/
def freeSlot (s : State) (slot : Nat) : State := s.wipe .slots (512 * slot) 512

/-- Entry i of a slot's page list (R250). -/
def pageEntry (s : State) (slot i : Nat) : Nat := s.getNat .pages (4096 * slot + 4 * i) 4
/-- The state with an entry of a slot's page list written. -/
def setPageEntry (s : State) (slot i v : Nat) : State := s.put .pages (4096 * slot + 4 * i) (toLE 4 v)

/-- The model record of an object, when it is well formed and its pool, where there is one, lies in tier 1, which alone the device writes pages to
(R10, R245, R246). -/
def model? (s : State) (id : U32) : Option Model :=
  match s.obj? id with
  | none => none
  | some o =>
    let b := s.rd id 0 64
    let m : Model := { id := id, lam := fld b 6 2, w := fld b 8 4, v := fld b 12 4, tobj := BitVec.ofNat 32 (fld b 16 4), eos := fld b 20 4,
                       pool := BitVec.ofNat 32 (fld b 24 4), psize := fld b 32 8 }
    if o.kind = 0x01 ∧ o.tier.toNat ≤ 1 ∧ fld b 0 4 = 0x4C444D4A ∧ fld b 4 2 = 1 ∧ 1 ≤ m.lam ∧ m.lam ≤ 1024 ∧ 32 ≤ m.w ∧ m.w ≤ 65536 ∧
       m.w % 32 = 0 ∧ m.eos < m.v ∧ fld b 28 4 = 0 ∧ m.psize = pageSize m.lam m.w ∧ zeroBytes b 40 63 ∧
       ((match s.obj? m.pool with | none => true | some p => p.tier == 1) : Bool) = true then some m else none

/-- Pages of a pool. -/
def poolPages (s : State) (pool : U32) (psize : Nat) : Nat :=
  match s.obj? pool with | none => 0 | some o => if psize = 0 then 0 else o.size / psize
/-- The allocated pages of a pool. -/
def poolUsed (s : State) (pool : U32) : List Nat := s.pools.getD pool.toNat []
/-- The lowest-numbered free pages of a pool, at most n of them (R246). -/
def freePages (s : State) (pool : U32) (psize n : Nat) : List Nat :=
  ((List.range (s.poolPages pool psize)).filter (fun p => !(s.poolUsed pool).contains p)).take n
/-- The state with pages of a pool allocated. -/
def allocPages (s : State) (pool : U32) (ps : List Nat) : State :=
  { s with pools := s.pools.set pool.toNat (s.poolUsed pool ++ ps) }
/-- The state with pages of a pool freed. -/
def releasePages (s : State) (pool : U32) (ps : List Nat) : State :=
  { s with pools := s.pools.set pool.toNat ((s.poolUsed pool).filter (fun p => !ps.contains p)) }

/-- The byte offset in its pool of KV row r of a slot, region `region`; `base` is 0 for the main list, 512 for the draft's (R107, R250). -/
def rowOffset (s : State) (slot base r region psize regionBytes rowSz : Nat) : Nat :=
  s.pageEntry slot (base + r / 256) * psize + region * regionBytes + (r % 256) * rowSz

end State
end Sys2Proof.Machine
end

