-- ==== Sys2Proof/Machine/Steppe.lean ====
section
/-! DEFINITION. The Steppe array (R87 to R111, R120, R121, R126, R127, R318): LOADR, MATMUL, GROUPED and DROPR.  The resident store, scale stores
and accumulators are spaces of memory (log 16); a command reads all its inputs before it writes (log 9). -/

namespace Sys2Proof.Machine

/-! ### The stores -/

/-- Elements of a pass slot of a column, by resident format (R92). -/
def slotElems (fmt : Nat) : Nat := match fmt with | 3 => 1024 | 4 => 2048 | 5 => 4096 | _ => 512
/-- Bits of an element code in the resident store. -/
def codeBits (fmt : Nat) : Nat := match fmt with | 3 => 8 | 4 => 4 | 5 => 2 | _ => 16
/-- Offset of a slot of a column in the resident store. -/
def residentOff (slot col : Nat) : Nat := (slot * 2048 + col) * 1024
/-- Offset of a slot of a column in the scale stores (log 16). -/
def scaleOff (slot col : Nat) : Nat := (slot * 2048 + col) * 128
/-- Offset of an accumulator entry of a column. -/
def accumOff (entry col : Nat) : Nat := (entry * 2048 + col) * 4

/-- The scale bytes of a block: all of it before its codes (R63, R65, R66). -/
def blockScales (fmt : Nat) (b : Bytes) : Bytes :=
  match fmt with | 3 => b.take 1 | 4 => b.take 33 | 5 => b.take 2 | _ => []
/-- The code bytes of a block. -/
def blockCodes (fmt : Nat) (b : Bytes) : Bytes :=
  match fmt with | 3 => b.drop 1 | 4 => b.drop 33 | 5 => b.drop 2 | _ => b

/-- Code bytes with the codes from element n on set to zero (R99). -/
def clipCodes (fmt n : Nat) (bs : Bytes) : Bytes :=
  bs.zipIdx.map (fun p => BitVec.ofNat 8 (p.1.toNat % 2 ^ (n * codeBits fmt - 8 * p.2)))

/-- The 1,024 code bytes and the scale bytes of slot i of a column of K elements, from its source row; codes past K are zero (R99). -/
def slotBytes (fmt k : Nat) (row : Bytes) (i : Nat) : Bytes × Bytes :=
  let per := slotElems fmt / fmtElems fmt
  let blocks := (chunks (fmtBytes fmt) (slice row (i * per * fmtBytes fmt) (min (per * fmtBytes fmt) (row.length - i * per * fmtBytes fmt))))
  (clipCodes fmt (k - i * slotElems fmt) (slice (blocks.map (blockCodes fmt)).flatten 0 1024), slice (blocks.map (blockScales fmt)).flatten 0 128)

/-- The exact value of resident element k of a column (R92). -/
def State.resident1 (s : State) (fmt first col k : Nat) : Val :=
  let slot := first + k / slotElems fmt
  let i := k % slotElems fmt
  let code := s.getNat .resident (residentOff slot col + i * codeBits fmt / 8) (if fmt = 1 ∨ fmt = 2 then 2 else 1)
  let sc := scaleOff slot col
  match fmt with
  | 1 => fmt16.decode code
  | 2 => fmtB16.decode code
  | 3 =>
    let e := s.getNat .scales (sc + i / 32) 1
    if e = 255 then .nan else (jb8Val code).scale ((e : Int) - 127)
  | 4 =>
    let g := sc + i / 1024 * 33
    let e := s.getNat .scales g 1
    let blk := i % 1024 / 16
    let sub := s.getNat .scales (g + 1 + blk / 2) 1 / (if blk % 2 = 0 then 1 else 16) % 16
    if e = 255 then .nan else (jb4Val (code / (if i % 2 = 0 then 1 else 16) % 16)).scale ((e : Int) - 127 - sub)
  | _ => (jb2Val (code / 4 ^ (i % 4))).mul (fmt16.decode (s.getNat .scales (sc + i / 64 * 2) 2))

/-! ### Claims and swaps (R120) -/

/-- The bytes of a slot, an entry, in their spaces: space, offset, length. -/
def claimBytes (acc : Bool) (i : Nat) : List (Space × Nat × Nat) :=
  if acc then [(.accum, accumOff i 0, 8192)] else [(.resident, residentOff i 0, 2097152), (.scales, scaleOff i 0, 262144)]
/-- Where a space's bytes go in a context's save area. -/
def saveBase : Space → Nat
  | .accum => 0 | .resident => 0x1000000 | _ => 0x20000000

namespace State

/-- The present owner of a slot or an entry. -/
def claimOwner (s : State) (acc : Bool) (i : Nat) : Option CtxId := if acc then s.accOwner.get? i else s.slotOwner.get? i
/-- The state with the owner of a slot or an entry set. -/
def setOwner (s : State) (acc : Bool) (i : Nat) (c : CtxId) : State :=
  if acc then { s with accOwner := s.accOwner.set i c } else { s with slotOwner := s.slotOwner.set i c }
/-- The state with a slot or an entry released. -/
def clearOwner (s : State) (acc : Bool) (i : Nat) : State :=
  if acc then { s with accOwner := s.accOwner.erase i } else { s with slotOwner := s.slotOwner.erase i }

/-- A slot or entry of another context saved to its save area and released (R120). -/
def swapOut (s : State) (acc : Bool) (i : Nat) (o : CtxId) : State :=
  let s1 := (claimBytes acc i).foldl (fun s b => s.move b.1 b.2.1 (.save o) (saveBase b.1 + b.2.1) b.2.2) s
  (({ s1 with swapped := s1.swapped ++ [(o, acc, i)] } : State).noteSaved o).clearOwner acc i

/-- A slot or entry of the context restored from its save area (R120). -/
def swapIn (s : State) (acc : Bool) (i : Nat) (c : CtxId) : State :=
  let s1 := (claimBytes acc i).foldl (fun s b => s.move (.save c) (saveBase b.1 + b.2.1) b.1 b.2.1 b.2.2) s
  ({ s1 with swapped := s1.swapped.filter (fun e => decide (e ≠ (c, acc, i))) }).setOwner acc i c

/-- One slot or entry named by a command of a context: another owner's contents saved, its own restored, and claimed (R120). -/
def claim1 (s : State) (c : CtxId) (acc : Bool) (i : Nat) : State :=
  let s1 := match s.claimOwner acc i with
    | none => s
    | some o => if o = c then s else s.swapOut acc i o
  if s1.swapped.contains (c, acc, i) then s1.swapIn acc i c else s1.setOwner acc i c

/-- One slot that a command of a context names and does not claim: another owner's contents saved, its own restored (R120). -/
def visit1 (s : State) (c : CtxId) (i : Nat) : State :=
  let s1 := match s.claimOwner false i with
    | none => s
    | some o => if o = c then s else s.swapOut false i o
  if s1.swapped.contains (c, false, i) then s1.swapIn false i c else s1
/-- n slots from lo named by a MATMUL or GROUPED of a context: a LOADR alone claims slots (R120). -/
def visit (s : State) (c : CtxId) (lo n : Nat) : State := (List.range n).foldl (fun s k => s.visit1 c (lo + k)) s
/-- n slots or entries from lo claimed by a command of a context. -/
def claim (s : State) (c : CtxId) (acc : Bool) (lo n : Nat) : State :=
  (List.range n).foldl (fun s k => s.claim1 c acc (lo + k)) s

/-- Where a slot or an entry lies in a save area, and its bytes (R332). -/
def savePlace (acc : Bool) (i : Nat) : Nat × Nat := if acc then (0x100000 + 8192 * i, 8192) else (0x500000 + 0x210000 * i, 0x210000)
/-- The save areas that claiming n slots or entries from lo writes and reads: they are RESIDENT first, and a restored range is sound (R325, R332). -/
def claimAcc (s : State) (c : CtxId) (acc : Bool) (lo n : Nat) : List Access :=
  ((List.range n).map (fun k =>
    let i := lo + k
    let out : List Access := match s.claimOwner acc i with
      | none => []
      | some o => if o = c then [] else [⟨(s.ctx o).save, 0, 0, false⟩]
    if s.swapped.contains (c, acc, i) then out ++ [⟨(s.ctx c).save, (savePlace acc i).1, (savePlace acc i).2, false⟩] else out)).flatten
/-- The response to a poisoned parcel met by a Steppe command: in the save area the context faults (R325). -/
def claimPoison (s : State) (c : CtxId) (rest : Access → Option (State → State)) : Access → Option (State → State) :=
  fun a => if a.id = (s.ctx c).save then some (fun t => t.faultWith c .uncorrectable) else rest a

/-- A context's slots and entries released, saved contents and all (R33, R120). -/
def releaseClaims (s : State) (c : CtxId) : State :=
  { s with slotOwner := s.slotOwner.filter (fun e => e.2 != c), accOwner := s.accOwner.filter (fun e => e.2 != c),
           swapped := s.swapped.filter (fun e => e.1 != c) }

/-- A context's slots and entries all saved to its save area (R123). -/
def swapOutAll (s : State) (c : CtxId) : State :=
  let s1 := (s.slotOwner.filter (fun e => e.2 == c)).foldl (fun s e => s.swapOut false e.1 c) s
  (s1.accOwner.filter (fun e => e.2 == c)).foldl (fun s e => s.swapOut true e.1 c) s1

/-- The two copies of a Steppe command (R93). -/
def steppeCopies (w e : Bytes) : Copies := [(0, .steppeW, w), (1, .steppeE, e)]
/-- Both copies of a Steppe command are finished with (R93). -/
def steppeDone (s : State) (c : CtxId) : State := (s.engineDone c .steppeW 0).engineDone c .steppeE 0

/-- A Steppe command: the two copies compared, then as every engine command (R93, R96). -/
def runSteppe (s : State) (c : CtxId) (w e : Bytes) (cmd : Nat) (allowed : Bool) (acc : List Access)
    (onPoison : Access → Option (State → State)) (eff : State → State) : State :=
  s.runCommand c (State.steppeCopies w e) (decide (w = e) && blockOk 0 w && fld w 0 1 == cmd && allowed) acc onPoison eff (fun t => t.steppeDone c)

/-- The destination draws of R76 for a row of elements that starts at a byte offset of an object; none where rounding is to nearest.  Which objects
are destination objects of a TRAIN_STEP, and an element's index in one, R76 does not say: the model takes every object that a MATMUL, RIM or LOOKUP of the
step writes, and counts elements from the object's first byte (DESIGN CHOICE, log 116). -/
def srRun (s : State) (c : CtxId) (q : SeqId) (engine : Nat) (obj : U32) (fmt off : Nat) : Option (Nat → Nat) :=
  match (s.ctx c).runOf q engine with
  | none => none
  | some r =>
    if descOp r.d = 0x0B ∧ s.stochastic c then
      some (fun i => draw (descField r.d 24 8) (off / fmtBytes fmt * fmtElems fmt + i) obj.toNat 3 r.number)
    else none
/-- Those of a MATMUL's or RIM's row, which a step of both Steppe halves gives. -/
def srFor (s : State) (c : CtxId) (obj : U32) (fmt off : Nat) : Option (Nat → Nat) := s.srRun c .steppeW 0 obj fmt off

end State

/-! ### LOADR -/

/-- The fields of a LOADR block (R98). -/
structure Loadr where
  page : Bool
  v    : Bool
  fmt  : Nat
  slot : Nat
  l    : Nat
  m    : Nat
  k    : Nat
  sobj : U32
  soff : Nat
  strd : Nat
deriving DecidableEq, Repr

def Loadr.of (b : Bytes) : Loadr :=
  { page := bitAt b 1 0, v := bitAt b 1 1, fmt := bits (fld b 2 1) 3 0, slot := fld b 3 1, l := fld b 4 2, m := fld b 6 2, k := fld b 8 4,
    sobj := fldObj b 12, soff := fld b 16 8, strd := fld b 24 4 }

/-- Slots of a column that K elements take. -/
def Loadr.slots (x : Loadr) : Nat := ceilDiv x.k (slotElems x.fmt)
/-- Bytes between source rows. -/
def Loadr.stride (x : Loadr) : Nat := if x.strd = 0 then rowBytes x.fmt x.k else x.strd
/-- With PAGE: first position, layer and layers. -/
def Loadr.first (x : Loadr) : Nat := bits x.soff 31 0
def Loadr.layer (x : Loadr) : Nat := bits x.soff 47 32
def Loadr.layers (x : Loadr) : Nat := bits x.soff 63 48
/-- Names no work (R126). -/
def Loadr.idle (x : Loadr) : Bool := x.m == 0 || x.k == 0

namespace State

/-- The byte offset in the pool of the row of position first + m (R107). -/
def loadrPageOff (s : State) (x : Loadr) (m : Nat) : Nat :=
  match pageListSlot x.sobj with
  | none => 0
  | some slot =>
    s.rowOffset slot 0 (x.first + m) (2 * x.layer + (if x.v then 1 else 0)) (pageSize x.layers x.k) (256 * x.k * 33 / 32) (x.k * 33 / 32)

/-- Whether every position lies in a page of the request's list (R107, R250). -/
def loadrPagesOk (s : State) (c : CtxId) (x : Loadr) : Bool :=
  match pageListSlot x.sobj with
  | none => false
  | some slot =>
    decide ((s.ctx c).slotBase.toNat ≤ slot) && decide (slot < (s.ctx c).slotBase.toNat + (s.ctx c).slotCount.toNat) &&
    (List.range x.m).all (fun m =>
      let i := (x.first + m) / 256
      decide (i < s.slotNat slot 48 2) || (decide (512 ≤ i) && decide (i < 512 + s.slotNat slot 50 2)))

/-- The ranges a LOADR reads. -/
def loadrReads (s : State) (x : Loadr) : List Access :=
  if x.idle then []
  else (List.range x.m).map (fun m =>
    if x.page then ⟨BitVec.ofNat 32 x.strd, s.loadrPageOff x m, x.k * 33 / 32, false⟩
    else ⟨x.sobj, x.soff + m * x.stride, rowBytes x.fmt x.k, false⟩)

/-- The checks of R96 and R107 for a LOADR.  With PAGE a layer that is not below the block's layers, and a page list of a slot outside the context's
range, are refused too: neither R96 nor R107 names them (DESIGN CHOICE, log 117). -/
def loadrOk (s : State) (c : CtxId) (b : Bytes) (x : Loadr) : Bool :=
  zeroBits b 1 7 3 && decide (1 ≤ x.fmt) && decide (x.fmt ≤ 5) && zeroBits b 2 7 4 && decide (x.slot ≤ 127) &&
  decide (64 ≤ x.l) && decide (x.l ≤ 2048) && decide (x.m ≤ x.l) && decide (x.slot + x.slots ≤ 128) && zeroBits b 28 7 4 && zeroBytes b 29 31 &&
  (if x.page then
    let pool : U32 := BitVec.ofNat 32 x.strd
    decide (x.fmt = 3) && decide (x.k % 32 = 0) && decide (x.layer < x.layers) && s.objIn c pool [1] &&
    (match s.obj? pool with | none => false | some o => o.kind == 0x04) && s.loadrPagesOk c x && (s.loadrReads x).all (s.accOk c [1])
  else s.objIn c x.sobj [0] && (s.loadrReads x).all (s.accOk c [0]))

/-- The source row of resident column m. -/
def loadrRow (s : State) (x : Loadr) (m : Nat) : Bytes :=
  if x.page then s.rd (BitVec.ofNat 32 x.strd) (s.loadrPageOff x m) (x.k * 33 / 32)
  else s.rd x.sobj (x.soff + m * x.stride) (rowBytes x.fmt x.k)

/-- One slot of one column written from a row's bytes: codes and scales (R99). -/
def storeSlot (s : State) (fmt k slot col i : Nat) (row : Bytes) : State :=
  let (codes, scales) := slotBytes fmt k row i
  (s.put .resident (residentOff (slot + i) col) codes).put .scales (scaleOff (slot + i) col) scales

/-- The rows loaded into their columns of every segment (R89, R99). -/
def storeColumns (s : State) (fmt k slot nslots l : Nat) (rows : List Bytes) : State :=
  (List.range (2048 / l)).foldl (fun s g =>
    rows.zipIdx.foldl (fun s (row, m) =>
      (List.range nslots).foldl (fun s i => s.storeSlot fmt k slot (g * l + m) i row) s) s) s

/-- LOADR's effect (R99). -/
def loadrEff (s : State) (c : CtxId) (x : Loadr) : State :=
  if x.idle then s
  else
    let rows := (List.range x.m).map (s.loadrRow x)
    (s.claim c false x.slot x.slots).storeColumns x.fmt x.k x.slot x.slots x.l rows

/-- A request whose KV page stays uncorrectable ends at its commit (R280). -/
def kvPoison (s : State) (c : CtxId) (slot : Nat) : State :=
  s.modCtx c (fun x => { x with serving := { x.serving with entries := x.serving.entries.map (fun e =>
    if e.slot.toNat = slot then { e with ending := some .uncorrectable } else e) } })

/-- What a LOADR with PAGE does at a poisoned page: the request ends at its commit, and what was loaded is free (R280, log 4). -/
def loadrPoison (c : CtxId) (x : Loadr) (_ : Access) : Option (State → State) :=
  if x.page then
    match pageListSlot x.sobj with
    | none => none
    | some slot => some (fun s =>
        let s1 := (s.kvPoison c slot).claim c false x.slot x.slots
        (List.range x.slots).foldl (fun s i =>
          (s.putFree .resident (residentOff (x.slot + i) 0) 2097152).putFree .scales (scaleOff (x.slot + i) 0) 262144) s1)
  else none

end State

/-- LOADR (R98, R99, R107). -/
def execLoadr (c : CtxId) (w e : Bytes) (s : State) : Host.Outcome State Fault Refusal :=
  let x := Loadr.of w
  .next (s.runSteppe c w e 0x01 (s.loadrOk c w x)
    ((if x.idle then [] else s.claimAcc c false x.slot x.slots) ++ s.loadrReads x) (s.claimPoison c (State.loadrPoison c x)) (fun t => t.loadrEff c x))

/-! ### Passes (R82, R91, R101 to R104) -/

/-- Whether an operand pair exists (R91). -/
def pairOk (a b : Nat) : Bool :=
  (a == 3 && b == 3) || (a == 4 && b == 4) || (a == 5 && b == 5) || (a == 4 && b == 3) || (a == 3 && b == 4) || (a == 5 && b == 3) ||
  (a == 3 && b == 5) || (a == 4 && b == 5) || (a == 5 && b == 4) || (a == 1 && b == 1) || (a == 2 && b == 2)
/-- Products per cell per pulse, FP16 and BF16 counted over their four pulses (R91). -/
def pairProducts (a b : Nat) : Nat := if a = 4 ∧ b = 4 then 2 else if a = 5 ∧ b = 5 then 4 else 1
/-- Pass length Λ (R91). -/
def passLen (a b : Nat) : Nat := 1024 * pairProducts a b
/-- Elements over which a format's scale is constant: 32, 16 or 64, and 1 for the 16-bit formats (R83). -/
def scaleRun (fmt : Nat) : Nat := match fmt with | 3 => 32 | 4 => 16 | 5 => 64 | _ => 1
/-- Run length of a pair (R82, R83). -/
def runLen (a b : Nat) : Nat := min (scaleRun a) (scaleRun b)

/-- The exact sum of a run's products rounded once; a run of one product keeps its sign of zero (R82, R79). -/
def runSum (ps : List Val) (single : Bool) : F32 :=
  if single then match ps with | [] => 0 | p :: _ => F32.of p
  else F32.of (ps.foldl Val.add (.fin false Dy.zero))

/-- A pass: the products cut into runs, rounded, and summed by the balanced tree, with +0 leaves up to `leaves` (R82, R127). -/
def passSum (run leaves : Nat) (ps : List Val) : F32 :=
  let rs := (chunks run ps).map (fun r => runSum r (run == 1))
  treeSum (rs ++ List.replicate (leaves - rs.length) 0)

/-- The fields of a MATMUL block (R100). -/
structure Matmul where
  t      : Bool
  acc    : Bool
  drain  : Bool
  orow   : Bool
  sfmt   : Nat
  rfmt   : Nat
  ofmt   : Nat
  fused  : Nat
  l      : Nat
  slot   : Nat
  rgroup : Nat
  k      : Nat
  n      : Nat
  m      : Nat
  entry  : Nat
  sobj   : U32
  oobj   : U32
  soff   : Nat
  ooff   : Nat
  ofirst : Nat
  ocount : Nat
  sstrd  : Nat
  ostrd  : Nat
deriving DecidableEq, Repr

def Matmul.of (b : Bytes) : Matmul :=
  { t := bitAt b 1 0, acc := bitAt b 1 1, drain := bitAt b 1 2, orow := bitAt b 1 3, sfmt := bits (fld b 2 1) 3 0, rfmt := bits (fld b 2 1) 7 4,
    ofmt := bits (fld b 3 1) 3 0, fused := bits (fld b 3 1) 7 4, l := fld b 4 2, slot := fld b 6 1, rgroup := fld b 7 1, k := fld b 8 4,
    n := fld b 12 4, m := fld b 16 2, entry := fld b 20 2, sobj := fldObj b 24, oobj := fldObj b 28, soff := fld b 32 8, ooff := fld b 40 8,
    ofirst := fld b 48 4, ocount := fld b 52 4, sstrd := fld b 56 4, ostrd := fld b 60 4 }

/-- Segments (R89). -/
def Matmul.segs (x : Matmul) : Nat := if x.l = 0 then 1 else 2048 / x.l
/-- Rows ρ of a row group (R100, R103). -/
def Matmul.rho (x : Matmul) : Nat := match x.rgroup with | 1 => 512 | 2 => 256 | 3 => 128 | 4 => 64 | _ => 1024
/-- Results of a column per pass (R103). -/
def Matmul.per (x : Matmul) : Nat := 1024 / x.rho
/-- Output groups (R101). -/
def Matmul.groups (x : Matmul) : Nat := ceilDiv x.n x.segs
/-- Elements of a streamed vector as it is stored: M with T, a whole pass with row groups (log 28), otherwise K. -/
def Matmul.vecLen (x : Matmul) : Nat := if x.t then x.m else if x.rgroup = 0 then x.k else passLen x.sfmt x.rfmt
/-- Accumulator entries that one output group takes when they are kept (R101, R104; log 28 for row groups). -/
def Matmul.perGroup (x : Matmul) : Nat := if x.t then ceilDiv x.k 1024 else x.per
/-- The entry of group t, result h (R101, R104).  With DRAIN set and ACC clear every group and every row group uses entry acc, which keeps the last result put
there; for the row groups of R103 the manual does not say so (DESIGN CHOICE, log 28). -/
def Matmul.entryOf (x : Matmul) (t h : Nat) : Nat := if x.drain && !x.acc then x.entry else x.entry + t * x.perGroup + h
/-- Accumulator entries the command names. -/
def Matmul.entries (x : Matmul) : Nat := if x.drain && !x.acc then 1 else x.groups * x.perGroup
/-- Names no work (R126). -/
def Matmul.idle (x : Matmul) : Bool := x.n == 0 || x.m == 0
/-- Length of an output row before ofirst and ocount (R102, R103, R104). -/
def Matmul.rowLen (x : Matmul) : Nat :=
  if x.orow then (if x.t then x.k else x.m) else x.n * x.per
/-- Output rows. -/
def Matmul.outRows (x : Matmul) : Nat := if x.orow then x.n * x.per else if x.t then x.k else x.m
/-- Elements kept of each row: with ocount 0 all from ofirst on, and never past the row's end; R102 says neither (DESIGN CHOICE, log 118). -/
def Matmul.kept (x : Matmul) : Nat := if x.ocount = 0 then x.rowLen - x.ofirst else min x.ocount (x.rowLen - x.ofirst)
/-- Bytes between output rows. -/
def Matmul.ostride (x : Matmul) : Nat := if x.ostrd = 0 then rowBytes x.ofmt x.kept else x.ostrd
/-- Bytes between streamed vectors. -/
def Matmul.sstride (x : Matmul) : Nat := if x.sstrd = 0 then rowBytes x.sfmt x.vecLen else x.sstrd
/-- Slots of the resident operand that are read: those of K elements, or of the elements up to the last row group's (R92, R103). -/
def Matmul.slots (x : Matmul) : Nat :=
  ceilDiv (if x.k = 0 ∨ x.rgroup = 0 then x.k else (x.per - 1) * x.rho * pairProducts x.sfmt x.rfmt + x.k) (slotElems x.rfmt)

/-- The sequence of a fused rim operation (R105, R114). -/
def rimGelu (a : F32) : F32 := F32.mul (F32.mul a (F32.add F32.one (erf32 (F32.mul a 0x3F3504F3)))) F32.half
/-- GELU_TANH's sequence (R114). -/
def rimGeluTanh (a : F32) : F32 :=
  let u := F32.mul (F32.add a (F32.mul (F32.mul (F32.mul a a) a) 0x3D372713)) 0x3F4C422A
  F32.mul (F32.mul a (F32.add F32.one (tanh32 u))) F32.half
/-- SILU's sequence (R114). -/
def rimSilu (a : F32) : F32 := F32.mul a (recip (F32.add F32.one (exp2 (F32.mul a 0xBFB8AA3B))))
/-- A fused operation by its code (R100). -/
def fusedOp (code : Nat) (a : F32) : F32 := match code with | 5 => rimGelu a | 6 => rimGeluTanh a | 7 => rimSilu a | _ => a

namespace State

/-- A window's byte stream from its head: n bytes past the first `skip` (R315). -/
def windowBytes (s : State) (id : U32) (skip n : Nat) : Bytes :=
  match s.obj? id with
  | none => []
  | some o => if o.size = 0 then [] else (List.range n).map (fun i => s.mem.get ((Space.obj id).key ((o.head + skip + i) % o.size)))
/-- The ranges of n bytes from a window's head, around its end. -/
def windowAcc (s : State) (id : U32) (n : Nat) : List Access :=
  match s.obj? id with
  | none => []
  | some o => [⟨id, o.head, min n (o.size - o.head), false⟩, ⟨id, 0, n - (o.size - o.head), false⟩]
/-- n bytes leave a window's head (R315, R318). -/
def windowTake (s : State) (id : U32) (n : Nat) : State :=
  s.modObj id (fun o => { o with head := if o.size = 0 then 0 else (o.head + n) % o.size, fill := o.fill - n })

/-- Whether the streamed operand is a window. -/
def isWindow (s : State) (id : U32) : Bool := match s.obj? id with | none => false | some o => o.kind == kindWindow

/-- The products of one pass of a streamed vector against a column: elements lo to hi − 1 of both (R101). -/
def products (s : State) (x : Matmul) (str : List Val) (col lo hi : Nat) : List Val :=
  (List.range (hi - lo)).map (fun i => ((str[lo + i]?).getD (.fin false Dy.zero)).mul (s.resident1 x.rfmt x.slot col (lo + i)))

/-- The passes of result h of column m of segment g, in order (R101, R103). -/
def passList (s : State) (x : Matmul) (str : List Val) (col h : Nat) : List F32 :=
  let lam := passLen x.sfmt x.rfmt
  let run := runLen x.sfmt x.rfmt
  if x.rgroup = 0 then
    (List.range (ceilDiv x.k lam)).map (fun d => passSum run (lam / run) (s.products x str col (d * lam) (min ((d + 1) * lam) x.k)))
  else
    let g := x.rho * pairProducts x.sfmt x.rfmt
    if x.k = 0 then [] else [passSum run (g / run) (s.products x str col (h * g) (h * g + x.k))]

/-- The one pass of output element k read across: over the M resident columns (R104).  The resident scale changes there from one row to the next; the model
keeps R83's runs of the pair, and rounds the exact sum of the scaled products of a run once (DESIGN CHOICE, log 119). -/
def passAcross (s : State) (x : Matmul) (str : List Val) (half k : Nat) : F32 :=
  let run := runLen x.sfmt x.rfmt
  passSum run (1024 / run) ((List.range x.m).map (fun r =>
    ((str[r]?).getD (.fin false Dy.zero)).mul (s.resident1 x.rfmt x.slot (1024 * half + r) k)))

/-- An accumulator entry after its passes: the first stored as it is unless ACC (R101, R126). -/
def accumulate (s : State) (x : Matmul) (entry col : Nat) (ps : List F32) : F32 :=
  if x.acc then ps.foldl F32.add (s.getNat .accum (accumOff entry col) 4) else foldSum ps

/-- The results of one output group: entry, column, output (j, m or k), value (R101 to R104). -/
def groupResults (s : State) (x : Matmul) (t : Nat) (vecs : List (List Val)) : List (Nat × Nat × Nat × Nat × F32) :=
  (vecs.zipIdx.map (fun (str, g) =>
    let j := t * x.segs + g
    if x.t then
      (List.range x.k).map (fun k =>
        let col := 1024 * g + k % 1024
        let e := x.entryOf t (k / 1024)
        (e, col, j, k, s.accumulate x e col [s.passAcross x str g k]))
    else
      ((List.range x.per).map (fun h => (List.range x.m).map (fun m =>
        let col := g * x.l + m
        let e := x.entryOf t h
        (e, col, j * x.per + h, m, s.accumulate x e col (s.passList x str col h))))).flatten)).flatten

/-- The state after the entries of an output group are written. -/
def putResults (s : State) (rs : List (Nat × Nat × Nat × Nat × F32)) : State :=
  rs.foldl (fun s r => s.put .accum (accumOff r.1 r.2.1) (toLE 4 r.2.2.2.2)) s

/-- The streamed vectors of an output group, from a tensor or a window (R101, R318). -/
def groupVecs (s : State) (x : Matmul) (t : Nat) : List (List Val) :=
  let n := min x.segs (x.n - t * x.segs)
  (List.range n).map (fun g =>
    decodeVals x.sfmt x.vecLen
      (if s.isWindow x.sobj then s.windowBytes x.sobj (g * rowBytes x.sfmt x.vecLen) (rowBytes x.sfmt x.vecLen)
       else s.rd x.sobj (x.soff + (t * x.segs + g) * x.sstride) (rowBytes x.sfmt x.vecLen)))

/-- Output groups t0 to t1 − 1 run in order; the results are gathered for the drain (R101). -/
def runGroups (s : State) (x : Matmul) (t0 t1 : Nat) : State × List (Nat × Nat × F32) :=
  (List.range (t1 - t0)).foldl (fun (s, out) i =>
    let vecs := s.groupVecs x (t0 + i)
    let rs := s.groupResults x (t0 + i) vecs
    let s1 := s.putResults rs
    let s2 := if s1.isWindow x.sobj then s1.windowTake x.sobj (vecs.length * rowBytes x.sfmt x.vecLen) else s1
    (s2, out ++ rs.map (fun r => (r.2.2.1, r.2.2.2.1, r.2.2.2.2)))) (s, [])

/-- Output row r from the gathered results (R102). -/
def outRow (x : Matmul) (out : List (Nat × Nat × F32)) (r : Nat) : List F32 :=
  let row := (List.range x.rowLen).map (fun i =>
    let (j, m) := if x.orow then (r, i) else (i, r)
    ((out.find? (fun e => e.1 == j && e.2.1 == m)).map (fun e => fusedOp x.fused e.2.2)).getD 0)
  (row.drop x.ofirst).take x.kept

/-- The output rows written, converted to ofmt (R102). -/
def drainRows (s : State) (c : CtxId) (x : Matmul) (out : List (Nat × Nat × F32)) : State :=
  (List.range x.outRows).foldl (fun s r =>
    let off := x.ooff + r * x.ostride
    s.wr x.oobj off (encodeRow x.ofmt (s.srFor c x.oobj x.ofmt off) (outRow x out r))) s

/-- The ranges a MATMUL reads and writes. -/
def matmulAcc (s : State) (x : Matmul) : List Access :=
  if x.idle then []
  else
    (if s.isWindow x.sobj then [] else (List.range x.n).map (fun j => ⟨x.sobj, x.soff + j * x.sstride, rowBytes x.sfmt x.vecLen, false⟩)) ++
    (if x.drain then (List.range x.outRows).map (fun r => ⟨x.oobj, x.ooff + r * x.ostride, rowBytes x.ofmt x.kept, true⟩) else [])

/-- The checks of R96 for a MATMUL (R100 to R104, R318). -/
def matmulOk (s : State) (c : CtxId) (b : Bytes) (x : Matmul) : Bool :=
  zeroBits b 1 7 6 && pairOk x.sfmt x.rfmt && decide (x.ofmt ≤ 5) && (x.fused == 0 || (x.drain && (x.fused == 5 || x.fused == 6 || x.fused == 7))) &&
  decide (64 ≤ x.l) && decide (x.l ≤ 2048) && decide (x.slot ≤ 127) && decide (x.rgroup ≤ 4) && decide (x.m ≤ x.l) && zeroBytes b 19 19 &&
  decide (x.entry ≤ 511) && zeroBytes b 22 23 && decide (x.slot + x.slots ≤ 128) && decide (x.entry + x.entries ≤ 512) &&
  (!x.t || (decide (x.l = 1024) && (x.rfmt == 3 || x.rfmt == 1 || x.rfmt == 2) && x.rgroup == 0)) &&
  (x.rgroup == 0 || (!x.t && decide (x.k ≤ x.rho * pairProducts x.sfmt x.rfmt))) &&
  (if s.isWindow x.sobj then
    s.names c x.sobj && x.soff == 0 && x.sstrd == 0 &&
    (match s.obj? x.sobj with | none => false | some o => decide (min x.segs x.n * rowBytes x.sfmt x.vecLen ≤ o.size))
   else s.objIn c x.sobj [0]) &&
  (!x.drain || s.objIn c x.oobj [0]) && (s.matmulAcc x).all (s.accOk c [0])

/-- A command's key in the table of progress. -/
def progKey (c : CtxId) (q : SeqId) (engine : Nat) : Nat := 1024 * c.toNat + 16 * q.num + engine
/-- How far a command of these bytes has come. -/
def progressOf (s : State) (key : Nat) (b : Bytes) : Nat :=
  match s.progress.get? key with | none => 0 | some (b', n) => if b' = b then n else 0

/-- The output groups whose rows the window holds, from group t on, with fuel (R318). -/
def groupsReady (x : Matmul) : Nat → Nat → Nat → Nat
  | 0, _, _ => 0
  | f + 1, t, fill =>
    let need := min x.segs (x.n - t * x.segs) * rowBytes x.sfmt x.vecLen
    if t < x.groups ∧ need ≤ fill then 1 + groupsReady x f (t + 1) (fill - need) else 0

/-- MATMUL's effect, from output group t0 to t1 − 1 (R101, R102), and the drain (R102). -/
def matmulEff (s : State) (c : CtxId) (x : Matmul) : State :=
  if x.idle then s
  else
    let s1 := (s.visit c x.slot x.slots).claim c true x.entry x.entries
    let (s2, out) := s1.runGroups x 0 x.groups
    if x.drain then s2.drainRows c x out else s2

/-- Results that the drain holds between runs of one command (R102). -/
def holdResults (s : State) (c : CtxId) (out : List (Nat × Nat × F32)) : State :=
  out.foldl (fun s e => s.put (.hold c) ((e.1 * 0x100000 + e.2.1) * 4) (toLE 4 e.2.2)) s
/-- All results of a command whose every group has run, from where the drain holds them. -/
def heldResults (s : State) (c : CtxId) (x : Matmul) : List (Nat × Nat × F32) :=
  ((List.range (x.n * x.per)).map (fun j => (List.range (if x.t then x.k else x.m)).map (fun m =>
    (j, m, s.getNat (.hold c) ((j * 0x100000 + m) * 4) 4)))).flatten

/-- The output groups a windowed MATMUL runs next: from its place to before the first whose rows are not all there (R318). -/
def matmulSpan (s : State) (c : CtxId) (w : Bytes) (x : Matmul) : Nat × Nat :=
  let t0 := s.progressOf (progKey c .steppeW 0) w
  let fill := match s.obj? x.sobj with | none => 0 | some o => o.fill
  (t0, t0 + groupsReady x (x.groups - t0) t0 fill)
/-- The bytes of its window that a MATMUL takes next. -/
def matmulTakes (s : State) (c : CtxId) (w : Bytes) (x : Matmul) : List Access :=
  if x.idle || !s.isWindow x.sobj then []
  else
    let (t0, t1) := s.matmulSpan c w x
    s.windowAcc x.sobj ((min x.n (t1 * x.segs) - t0 * x.segs) * rowBytes x.sfmt x.vecLen)

/-- What a windowed MATMUL waits for when its window holds no whole group's rows: a token of the window (R58, R318). -/
def matmulWaits (s : State) (c : CtxId) (w : Bytes) (x : Matmul) : Option (Nat × Nat) :=
  let (t0, t1) := s.matmulSpan c w x
  if !x.idle && decide (t1 = t0) && decide (t0 < x.groups) then some (0, x.sobj.toNat) else none

/-- A MATMUL that streams a window: it runs the groups whose rows are there, keeps its place, and drains and is finished after its last group
(R318, log 9). -/
def matmulWindow (s : State) (c : CtxId) (w : Bytes) (x : Matmul) : State :=
  if x.idle then s.steppeDone c
  else
    let key := progKey c .steppeW 0
    let (t0, t1) := s.matmulSpan c w x
    let s1 := (s.visit c x.slot x.slots).claim c true x.entry x.entries
    let (s2, out) := s1.runGroups x t0 t1
    let s3 := s2.holdResults c out
    if x.groups ≤ t1 then
      let s4 := if x.drain then s3.drainRows c x (s3.heldResults c x) else s3
      ({ s4 with progress := s4.progress.erase key } : State).steppeDone c
    else { s3 with progress := s3.progress.set key (w, t1) }

end State

/-- MATMUL (R100 to R105, R318). -/
def execMatmul (c : CtxId) (w e : Bytes) (s : State) : Host.Outcome State Fault Refusal :=
  let x := Matmul.of w
  let ok := decide (w = e) && blockOk 0 w && fld w 0 1 == 0x02 && s.matmulOk c w x
  let acc := (if x.idle then [] else s.claimAcc c false x.slot x.slots ++ s.claimAcc c true x.entry x.entries) ++ s.matmulAcc x ++ s.matmulTakes c w x
  let pz := s.claimPoison c State.noPoisonRule
  let on := State.steppeCopies w e
  .next (if s.isWindow x.sobj then s.runCommand c on ok acc pz (fun t => t.matmulWindow c w x) id (s.matmulWaits c w x)
    else s.runCommand c on ok acc pz (fun t => t.matmulEff c x) (fun t => t.steppeDone c))

/-! ### GROUPED (R109 to R111, R318) -/

/-- The fields of a GROUPED block (R109). -/
structure Grouped where
  listin  : Bool
  combine : Bool
  wfmt    : Nat
  afmt    : Nat
  fused   : Nat
  l       : Nat
  slot    : Nat
  k       : Nat
  n       : Nat
  e       : Nat
  m       : Nat
  wobj    : U32
  robj    : U32
  aobj    : U32
  oobj    : U32
  wstride : Nat
deriving DecidableEq, Repr

def Grouped.of (b : Bytes) : Grouped :=
  { listin := bitAt b 1 1, combine := bitAt b 1 2, wfmt := bits (fld b 2 1) 3 0, afmt := bits (fld b 2 1) 7 4, fused := bits (fld b 3 1) 7 4,
    l := fld b 4 2, slot := fld b 6 1, k := fld b 8 4, n := fld b 12 4, e := fld b 16 2, m := fld b 18 2, wobj := fldObj b 20,
    robj := fldObj b 24, aobj := fldObj b 28, oobj := fldObj b 32, wstride := fld b 40 8 }

/-- Slots that K gathered elements take. -/
def Grouped.slots (x : Grouped) : Nat := ceilDiv x.k (slotElems x.afmt)
/-- Bytes of one expert's weight matrix. -/
def Grouped.matrix (x : Grouped) : Nat := x.n * rowBytes x.wfmt x.k
/-- Names no work (R126). -/
def Grouped.idle (x : Grouped) : Bool := x.n == 0 || x.m == 0

/-- A list entry of a routing table: its index in the list, its position, its gate (R110). -/
structure RouteEntry where
  index : Nat
  pos   : Nat
  gate  : F32
deriving DecidableEq, Repr

namespace State

/-- The list entries of an expert, in list order (R110). -/
def routeList (s : State) (robj : U32) (experts e : Nat) : List RouteEntry :=
  let first := s.rdNat robj (8 * e) 4
  (List.range (s.rdNat robj (8 * e + 4) 4)).map (fun i =>
    let o := 8 * experts + 8 * (first + i)
    { index := first + i, pos := s.rdNat robj o 4, gate := s.rdNat robj (o + 4) 4 })

/-- Positions rising, none twice, each below M (R110). -/
def routeListOk (m : Nat) (l : List RouteEntry) : Bool :=
  l.all (fun r => decide (r.pos < m)) && (l.zip (l.drop 1)).all (fun p => decide (p.1.pos < p.2.pos))

/-- The activation row of a list entry (R111). -/
def groupedRow (x : Grouped) (r : RouteEntry) : Nat := if x.listin then r.index else r.pos

/-- The ranges a GROUPED reads and writes: the routing table's expert entries and each list entry, the rows and matrices they name, and the output rows. -/
def groupedAcc (s : State) (x : Grouped) : List Access :=
  if x.idle || x.e == 0 then []
  else
    let lists := (List.range x.e).map (s.routeList x.robj x.e)
    ⟨x.robj, 0, 8 * x.e, false⟩ ::
    ((lists.flatten.map (fun r => (⟨x.robj, 8 * x.e + 8 * r.index, 8, false⟩ : Access))) ++
     (lists.flatten.map (fun r => (⟨x.aobj, groupedRow x r * rowBytes x.afmt x.k, rowBytes x.afmt x.k, false⟩ : Access))) ++
     (if s.isWindow x.wobj then [] else
        ((List.range x.e).filter (fun e => !((lists[e]?).getD []).isEmpty)).map (fun e => (⟨x.wobj, e * x.wstride, x.matrix, false⟩ : Access))) ++
     (if x.combine then [⟨x.oobj, 0, 4 * x.n * x.m, true⟩] else lists.flatten.map (fun r => (⟨x.oobj, 4 * x.n * r.index, 4 * x.n, true⟩ : Access))))

/-- The checks of R96 that the block and the objects decide. -/
def groupedStatic (s : State) (c : CtxId) (b : Bytes) (x : Grouped) : Bool :=
  zeroBits b 1 7 3 && pairOk x.wfmt x.afmt && zeroBits b 3 3 0 && (x.fused == 0 || x.fused == 5 || x.fused == 6 || x.fused == 7) &&
  decide (64 ≤ x.l) && decide (x.l ≤ 2048) && decide (x.slot ≤ 127) && zeroBits b 7 7 4 && decide (x.slot + x.slots ≤ 128) &&
  decide (x.e ≤ 1024) && zeroBytes b 36 39 && zeroBytes b 48 63 &&
  (if s.isWindow x.wobj then
    s.names c x.wobj && (match s.obj? x.wobj with | none => false | some o => decide (x.matrix ≤ o.size))
   else s.objIn c x.wobj [0]) &&
  s.objIn c x.robj [0] && s.objIn c x.aobj [0] && s.objIn c x.oobj [0]

/-- Whether an object is there to be read: RESIDENT, or EVICTING (R311, R312). -/
def isThere (s : State) (id : U32) : Bool := match s.obj? id with | none => false | some o => o.present

/-- The checks of R96 that the routing table decides, once it is there to be read.  A table that breaks the order R110 gives it is refused; R110 names no outcome
(DESIGN CHOICE, log 120). -/
def groupedOk (s : State) (c : CtxId) (b : Bytes) (x : Grouped) : Bool :=
  s.groupedStatic c b x && (x.idle || x.e == 0 || !s.isThere x.robj ||
    ((List.range x.e).all (fun e => routeListOk x.m (s.routeList x.robj x.e e)) && (s.groupedAcc x).all (s.accOk c [0])))

/-- The result of weight row n against a gathered row in resident column `col` (R82, R101). -/
def groupedDot (s : State) (x : Grouped) (wrow : List Val) (col : Nat) : F32 :=
  let lam := passLen x.wfmt x.afmt
  let run := runLen x.wfmt x.afmt
  foldSum ((List.range (ceilDiv x.k lam)).map (fun d =>
    let lo := d * lam
    let hi := min ((d + 1) * lam) x.k
    passSum run (lam / run) ((List.range (hi - lo)).map (fun i =>
      ((wrow[lo + i]?).getD (.fin false Dy.zero)).mul (s.resident1 x.afmt x.slot col (lo + i))))))

/-- Row n of an expert's weights, from the tensor or the window's head. -/
def weightRow (s : State) (x : Grouped) (e n : Nat) : List Val :=
  let sz := rowBytes x.wfmt x.k
  decodeVals x.wfmt x.k (if s.isWindow x.wobj then s.windowBytes x.wobj (n * sz) sz else s.rd x.wobj (e * x.wstride + n * sz) sz)

/-- One result row placed: by list entry, or gated and summed into its position's row (R111). -/
def placeRow (s : State) (x : Grouped) (e : Nat) (r : RouteEntry) (y : List F32) : State :=
  if x.combine then
    let gy := y.map (F32.mul r.gate)
    let earlier := (List.range e).any (fun e' => (s.routeList x.robj x.e e').any (fun r' => r'.pos == r.pos))
    let old := decodeF32 0 x.n (s.rd x.oobj (4 * x.n * r.pos) (4 * x.n))
    let row := if earlier then (old.zip gy).map (fun p => F32.add p.1 p.2) else gy
    s.wr x.oobj (4 * x.n * r.pos) (encodeRow 0 none row)
  else s.wr x.oobj (4 * x.n * r.index) (encodeRow 0 none y)

/-- One tile of an expert: its rows gathered into resident columns, the weight rows streamed, the fused operation, the rows placed (R111). -/
def runTile (s : State) (x : Grouped) (e : Nat) (tile : List RouteEntry) : State :=
  let rows := tile.map (fun r => s.rd x.aobj (groupedRow x r * rowBytes x.afmt x.k) (rowBytes x.afmt x.k))
  let s1 := s.storeColumns x.afmt x.k x.slot x.slots x.l rows
  let weights := (List.range x.n).map (s.weightRow x e)
  tile.zipIdx.foldl (fun t (r, col) => t.placeRow x e r (weights.map (fun w => fusedOp x.fused (s1.groupedDot x w col)))) s1

/-- One expert: skipped when nobody lists it; its tiles in order; its matrix leaves the window (R111, R318). -/
def runExpert (s : State) (x : Grouped) (e : Nat) : State :=
  let l := s.routeList x.robj x.e e
  if l.isEmpty then s
  else
    let s1 := (chunks x.l l).foldl (fun s tile => s.runTile x e tile) s
    if s1.isWindow x.wobj then s1.windowTake x.wobj x.matrix else s1

/-- The rows of positions that no expert lists (R111). -/
def zeroRows (s : State) (x : Grouped) : State :=
  if x.combine then
    let listed := ((List.range x.e).map (s.routeList x.robj x.e)).flatten
    ((List.range x.m).filter (fun p => !listed.any (fun r => r.pos == p))).foldl
      (fun s p => s.wr x.oobj (4 * x.n * p) (List.replicate (4 * x.n) 0)) s
  else s

/-- The experts from e on whose matrices a window holds, or that nobody lists, with fuel (R318). -/
def expertsReady (s : State) (x : Grouped) : Nat → Nat → Nat → Nat
  | 0, _, _ => 0
  | f + 1, e, fill =>
    if e < x.e then
      if (s.routeList x.robj x.e e).isEmpty then 1 + expertsReady s x f (e + 1) fill
      else if x.matrix ≤ fill then 1 + expertsReady s x f (e + 1) (fill - x.matrix) else 0
    else 0

/-- The accumulator entry that a GROUPED's sums pass through: its block names none (log 28). -/
def groupedEntry : Nat := Config.groupedEntry % Config.accEntries
/-- The experts a GROUPED runs next: those a window holds when the weights stream, else all (R111, R318). -/
def groupedSpan (s : State) (c : CtxId) (w : Bytes) (x : Grouped) : Nat × Nat :=
  let t0 := s.progressOf (progKey c .steppeW 0) w
  let fill := match s.obj? x.wobj with | none => 0 | some o => o.fill
  (t0, if s.isWindow x.wobj then t0 + s.expertsReady x (x.e - t0) t0 fill else x.e)
/-- The bytes of its window that a GROUPED takes next. -/
def groupedTakes (s : State) (c : CtxId) (w : Bytes) (x : Grouped) : List Access :=
  if x.idle || x.e == 0 || !s.isWindow x.wobj || !s.isThere x.robj then []
  else
    let (t0, t1) := s.groupedSpan c w x
    let n := ((List.range (t1 - t0)).filter (fun i => !(s.routeList x.robj x.e (t0 + i)).isEmpty)).length
    s.windowAcc x.wobj (n * x.matrix)

/-- What a GROUPED whose weights stream waits for when its window holds no whole matrix: a token of the window (R58, R318). -/
def groupedWaits (s : State) (c : CtxId) (w : Bytes) (x : Grouped) : Option (Nat × Nat) :=
  let (t0, t1) := s.groupedSpan c w x
  if !x.idle && decide (t1 = t0) && decide (t0 < x.e) then some (0, x.wobj.toNat) else none

/-- GROUPED's run: the experts in ascending order, those a window holds when the weights stream, and finished after the last (R111); the entry its sums pass
through is claimed and its contents are free, a function of the command (R44, R120, log 28,
log 121). -/
def groupedRun (s : State) (c : CtxId) (w : Bytes) (x : Grouped) : State :=
  if x.idle || x.e == 0 then s.steppeDone c
  else
    let key := progKey c .steppeW 0
    let (t0, t1) := s.groupedSpan c w x
    let s1 := ((s.visit c x.slot x.slots).claim c true groupedEntry 1).put .accum (accumOff groupedEntry 0) (freeOf w 8192)
    let s2 := (List.range (t1 - t0)).foldl (fun s i => s.runExpert x (t0 + i)) s1
    if x.e ≤ t1 then ({ s2.zeroRows x with progress := s2.progress.erase key } : State).steppeDone c
    else { s2 with progress := s2.progress.set key (w, t1) }

end State

/-- GROUPED (R109 to R111). -/
def execGrouped (c : CtxId) (w e : Bytes) (s : State) : Host.Outcome State Fault Refusal :=
  let x := Grouped.of w
  let ok := decide (w = e) && blockOk 0 w && fld w 0 1 == 0x03 && s.groupedOk c w x
  let acc := (if x.idle || x.e == 0 then [] else s.claimAcc c false x.slot x.slots ++ s.claimAcc c true State.groupedEntry 1) ++ s.groupedAcc x ++
    s.groupedTakes c w x
  .next (s.runCommand c (State.steppeCopies w e) ok acc (s.claimPoison c State.noPoisonRule) (fun t => t.groupedRun c w x) id (s.groupedWaits c w x))

/-! ### DROPR (R121) -/

/-- The fields of a DROPR block. -/
structure Dropr where
  slot   : Nat
  count  : Nat
  acc    : Nat
  acount : Nat
deriving DecidableEq, Repr

def Dropr.of (b : Bytes) : Dropr := { slot := fld b 1 1, count := fld b 2 1, acc := fld b 4 2, acount := fld b 6 2 }

/-- The checks of R96 for a DROPR. -/
def Dropr.ok (b : Bytes) (x : Dropr) : Bool :=
  decide (x.slot ≤ 127) && decide (x.slot + x.count ≤ 128) && zeroBytes b 3 3 && decide (x.acc ≤ 511) && decide (x.acc + x.acount ≤ 512) &&
  zeroBytes b 8 31

/-- A slot or entry that a DROPR names: another owner's contents saved first, the context's own and its saved copy let go unsaved; contents then free
(R120, R121, log 4). -/
def State.drop1 (s : State) (c : CtxId) (acc : Bool) (i : Nat) : State :=
  let s1 := match s.claimOwner acc i with
    | none => s
    | some o => if o = c then s else s.swapOut acc i o
  let s2 : State := { s1 with swapped := s1.swapped.filter (fun e => decide (e ≠ (c, acc, i))) }
  (claimBytes acc i).foldl (fun s b => s.putFree b.1 b.2.1 b.2.2) (s2.clearOwner acc i)

/-- The save areas of the other owners that a DROPR names: they are RESIDENT first (R332). -/
def State.dropAcc (s : State) (c : CtxId) (x : Dropr) : List Access :=
  (((List.range x.count).map (fun i => s.claimOwner false (x.slot + i))) ++ ((List.range x.acount).map (fun i => s.claimOwner true (x.acc + i)))).filterMap
    (fun o => match o with
      | none => none
      | some d => if d = c then none else some ⟨(s.ctx d).save, 0, 0, false⟩)

/-- DROPR's effect. -/
def State.droprEff (s : State) (c : CtxId) (x : Dropr) : State :=
  let s1 := (List.range x.count).foldl (fun s i => s.drop1 c false (x.slot + i)) s
  (List.range x.acount).foldl (fun s i => s.drop1 c true (x.acc + i)) s1

/-- DROPR (R121). -/
def execDropr (c : CtxId) (w e : Bytes) (s : State) : Host.Outcome State Fault Refusal :=
  let x := Dropr.of w
  .next (s.runSteppe c w e 0x05 (x.ok w) (s.dropAcc c x) State.noPoisonRule (fun t => t.droprEff c x))

end Sys2Proof.Machine
end

