-- ==== Sys2Proof/Machine/Gorge.lean ====
section
/-! DEFINITION. Gorge (R159 to R172, R178 to R189, R404, R416): embedding tables, LOOKUP and UPDATE. -/

namespace Sys2Proof.Machine

/-- Kind of embedding tables (R159). -/
def kindTable : Byte := 0x02

/-- The header of a table (R160). -/
structure Table where
  id    : U32
  size  : Nat
  kind  : Nat
  train : Bool
  cold4 : Bool
  opt   : Nat
  dim   : Nat
  rows  : Nat
  hslots : Nat
  wslots : Nat
  cslots : Nat
  rslots : Nat
  doff  : Nat
  hoff  : Nat
  woff  : Nat
  coff  : Nat
  roff  : Nat
  saltA : Nat
  saltB : Nat
  partner : U32
  thot  : Nat
  twarm : Nat
  trep  : Nat
deriving DecidableEq, Repr

/-- The format code of a row tier (R162, R163). -/
def tierFmt (tier : Nat) : Nat := match tier with | 0 => 1 | 1 => 3 | _ => 4
/-- Bytes of a row of a tier (R163). -/
def Table.rowLen (t : Table) (tier : Nat) : Nat := rowBytes (tierFmt tier) t.dim
/-- The slot stride of a tier's pool (R163). -/
def Table.stride (t : Table) (tier : Nat) : Nat := roundUp (t.rowLen tier) 4
/-- Slots of a tier's pool. -/
def Table.slots (t : Table) (tier : Nat) : Nat := match tier with | 0 => t.hslots | 1 => t.wslots | _ => t.cslots
/-- Where a tier's pool begins. -/
def Table.poolOff (t : Table) (tier : Nat) : Nat := match tier with | 0 => t.hoff | 1 => t.woff | _ => t.coff
/-- The coldest tier (R160, R161). -/
def Table.coldest (t : Table) : Nat := if t.cold4 then 2 else 1
/-- Where the pools end.  The replica area is counted in copies (R160); its bytes are taken as that many at the widest tier's stride, so that copies of
any tier fit (log 129). -/
def Table.poolsEnd (t : Table) : Nat :=
  max (t.hoff + t.hslots * t.stride 0) (max (t.woff + t.wslots * t.stride 1)
    (max (t.coff + t.cslots * t.stride 2) (t.roff + t.rslots * t.stride 0)))
/-- Bytes of optimizer state (R180). -/
def Table.stateLen (t : Table) : Nat := match t.opt with | 2 => 4 * t.rows | 3 => 4 * t.dim * t.rows | _ => 0
/-- Where the optimizer state begins: past the pools, where the runtime chose to put it, inside the object (R180, log 21). -/
def Table.stateOff (t : Table) : Nat := t.poolsEnd + Config.stateSkip t.id % (t.size - t.poolsEnd - t.stateLen + 1)

/-- A word of the row directory (R162). -/
structure DirWord where
  tier  : Nat
  extra : Nat
  hot   : Bool
  slot  : Nat
  count : Nat
deriving DecidableEq, Repr

/-- A directory word from its number. -/
def DirWord.ofNat (w : Nat) : DirWord :=
  { tier := bits w 1 0, extra := bits w 4 2, hot := w.testBit 5, slot := bits w 47 8, count := bits w 63 48 }
/-- A directory word's number. -/
def DirWord.toNat (d : DirWord) : Nat :=
  d.tier + 4 * d.extra + (if d.hot then 32 else 0) + 256 * d.slot + 2 ^ 48 * d.count

/-- The hash of an index under a salt (R164). -/
def gorgeHash (x salt rows : Nat) : Nat :=
  let h := ((x ^^^ salt) * 0x9E3779B97F4A7C15) % 2 ^ 64
  (h ^^^ (h >>> 29)) % rows

namespace State

/-- The header of a table object. -/
def table (s : State) (id : U32) : Table :=
  let b := s.rd id 0 128
  { id := id, size := match s.obj? id with | none => 0 | some o => o.size
    kind := fld b 6 1, train := bitAt b 7 0, cold4 := bitAt b 7 1, opt := fld b 8 1, dim := fld b 10 2, rows := fld b 16 8,
    hslots := fld b 24 8, wslots := fld b 32 8, cslots := fld b 40 8, rslots := fld b 48 8, doff := fld b 56 8, hoff := fld b 64 8,
    woff := fld b 72 8, coff := fld b 80 8, roff := fld b 88 8, saltA := fld b 96 8, saltB := fld b 104 8, partner := fldObj b 112,
    thot := fld b 116 4, twarm := fld b 120 4, trep := fld b 124 4 }

/-- What every table's header obeys by itself (R160, R161). -/
def tableOk (s : State) (id : U32) : Bool :=
  let b := s.rd id 0 128
  let t := s.table id
  (match s.obj? id with | none => false | some o => o.kind == kindTable) &&
  decide (128 ≤ t.size) && fld b 0 4 == 0x47524A42 && fld b 4 2 == 1 && decide (t.kind ≤ 2) && zeroBits b 7 7 2 && decide (t.opt ≤ 3) &&
  zeroBytes b 9 9 && zeroBytes b 12 15 && decide (32 ≤ t.dim) && decide (t.dim ≤ 8192) && t.dim % 32 == 0 && decide (1 ≤ t.rows) &&
  decide (t.rows ≤ 2 ^ 34) && (!t.cold4 || t.dim % 1024 == 0) && decide (t.rows ≤ t.hslots + t.wslots + t.cslots) &&
  (t.cold4 || t.cslots == 0) && decide (t.doff + 8 * t.rows ≤ t.size) && decide (t.poolsEnd + t.stateLen ≤ t.size) &&
  (t.kind == 2 || t.partner == 0)

/-- A table's header and, for a composed table, that its partner is resident and its header, where it is sound, fits (R161). -/
def tableGood (s : State) (id : U32) : Bool :=
  let t := s.table id
  s.tableOk id && (t.kind != 2 ||
    (let p := s.table t.partner
     s.resident [⟨t.partner, 0, 0, false⟩] && ((s.poisonedAccess [⟨t.partner, 0, 128, false⟩]).isSome ||
      (s.tableOk t.partner && p.kind == 0 && p.dim == t.dim && p.train == t.train && p.opt == t.opt))))

/-- The directory word of a row. -/
def dirWord (s : State) (t : Table) (row : Nat) : DirWord := DirWord.ofNat (s.rdNat t.id (t.doff + 8 * row) 8)
/-- The state with a directory word written. -/
def setDirWord (s : State) (t : Table) (row : Nat) (d : DirWord) : State := s.wr t.id (t.doff + 8 * row) (toLE 8 d.toNat)

/-- Where a row's bytes lie in its object, all its copies (R162, R163). -/
def rowPlaces (s : State) (t : Table) (row : Nat) : List Nat :=
  let d := s.dirWord t row
  if d.extra = 0 then [t.poolOff d.tier + d.slot * t.stride d.tier]
  else (List.range (d.extra + 1)).map (fun k => t.roff + (d.slot + k) * t.stride d.tier)
/-- A row's copy in the hot-row store, when its hot bit is set (R173).  DESIGN CHOICE (log 141): a LOAD that rewrites a RESIDENT table leaves the copies as
they are, and a row whose hot bit is set while the store has no copy of it is read at its slot. -/
def hotCopy? (s : State) (t : Table) (row : Nat) : Option HotRow :=
  if (s.dirWord t row).hot then s.hot.find? (fun h => decide (h.table = t.id) && decide (h.row = row)) else none
/-- The ranges of the object that a fetch of a row reads. -/
def rowAcc (s : State) (t : Table) (row : Nat) : List Access :=
  ⟨t.id, t.doff + 8 * row, 8, false⟩ ::
    (if (s.hotCopy? t row).isSome then [] else [⟨t.id, (s.rowPlaces t row).headD 0, t.rowLen (s.dirWord t row).tier, false⟩])
/-- A row decoded to FP32 (R163, R173). -/
def rowF32 (s : State) (t : Table) (row : Nat) : List F32 :=
  let tier := (s.dirWord t row).tier
  let bs := match s.hotCopy? t row with
    | some h => s.get .hot h.offset (t.rowLen tier)
    | none => s.rd t.id ((s.rowPlaces t row).headD 0) (t.rowLen tier)
  decodeF32 (tierFmt tier) t.dim bs

/-- The component rows an index names (R164, R165). -/
def components (s : State) (t : Table) (x : Nat) : List (U32 × Nat) :=
  match t.kind with
  | 0 => [(t.id, x)]
  | 1 => [(t.id, gorgeHash x t.saltA t.rows)]
  | _ => [(t.id, gorgeHash x t.saltA t.rows), (t.partner, gorgeHash x t.saltB (s.table t.partner).rows)]

/-- row(x) (R164, R165). -/
def rowOf (s : State) (t : Table) (x : Nat) : List F32 :=
  match (s.components t x).map (fun c => s.rowF32 (s.table c.1) c.2) with
  | [] => []
  | r :: rs => rs.foldl (fun a b => (a.zip b).map (fun p => F32.add p.1 p.2)) r

end State

/-! ### Positions and bags (R167 to R171) -/

/-- The padding index. -/
def padIndex : Nat := 0xFFFFFFFFFFFFFFFF
/-- An index that counts (R169). -/
def Table.valid (t : Table) (x : Nat) : Bool := x != padIndex && (t.kind != 0 || decide (x < t.rows))
/-- An index that is neither valid nor padding (R169). -/
def Table.invalid (t : Table) (x : Nat) : Bool := x != padIndex && t.kind == 0 && decide (t.rows ≤ x)

/-- The fields that LOOKUP and UPDATE share. -/
structure Bags where
  pool : Nat
  xobj : U32
  bobj : U32
  wobj : U32
  n    : Nat
  xoff : Nat
  boff : Nat
  woff : Nat
deriving DecidableEq, Repr

/-- A position: its index and the bits of its weight. -/
abbrev Pos := Nat × F32

namespace State

/-- The bag offsets. -/
def bagOffsets (s : State) (g : Bags) : List Nat := (List.range (g.n + 1)).map (fun i => s.rdNat g.bobj (g.boff + 4 * i) 4)
/-- Positions of all the bags. -/
def bagTotal (s : State) (g : Bags) : Nat := s.rdNat g.bobj (g.boff + 4 * g.n) 4
/-- Offsets from 0 that do not decrease (R167). -/
def bagsOk (s : State) (g : Bags) : Bool :=
  let o := s.bagOffsets g
  decide (g.n ≤ 2 ^ 20) && decide (g.pool ≤ 2) && o.headD 1 == 0 && (o.zip (o.drop 1)).all (fun p => decide (p.1 ≤ p.2)) &&
  (g.pool == 2 || g.wobj == 0)
/-- The positions of a bag, ascending. -/
def bagPos (s : State) (g : Bags) (b : Nat) : List Pos :=
  let lo := s.rdNat g.bobj (g.boff + 4 * b) 4
  let hi := s.rdNat g.bobj (g.boff + 4 * (b + 1)) 4
  (List.range (hi - lo)).map (fun i =>
    (s.rdNat g.xobj (g.xoff + 8 * (lo + i)) 8, if g.pool = 2 then s.rdNat g.wobj (g.woff + 4 * (lo + i)) 4 else F32.one))
/-- The offset entries a command reads. -/
def offsetAcc (g : Bags) : Access := ⟨g.bobj, g.boff, 4 * (g.n + 1), false⟩
/-- The ranges of indices and weights a command reads. -/
def posAcc (s : State) (g : Bags) : List Access :=
  let p := s.bagTotal g
  ⟨g.xobj, g.xoff, 8 * p, false⟩ :: (if g.pool = 2 then [⟨g.wobj, g.woff, 4 * p, false⟩] else [])

end State

/-- The distinct members of a list in order of first appearance. -/
def firsts {α : Type} [BEq α] (l : List α) : List α :=
  (l.foldl (fun acc x => if acc.contains x then acc else x :: acc) []).reverse

/-- Element by element, a row times a scalar. -/
def scaleRow (w : F32) (r : List F32) : List F32 := r.map (fun x => F32.mul w x)
/-- Element by element, a sum of rows. -/
def addRows (a b : List F32) : List F32 := (a.zip b).map (fun p => F32.add p.1 p.2)

/-- One bag pooled (R168): its valid positions with their rows given by a function. -/
def poolBag (pool dim : Nat) (row : Nat → List F32) (ps : List Pos) : List F32 :=
  let ds := firsts (ps.map Prod.fst)
  let terms := ds.map (fun x =>
    let mine := ps.filter (fun p => p.1 == x)
    let w := if pool = 2 then foldSum (mine.map Prod.snd) else F32.ofNat mine.length
    scaleRow w (row x))
  let s := match terms with | [] => List.replicate dim 0 | c :: cs => cs.foldl addRows c
  if ps.isEmpty then List.replicate dim 0
  else if pool = 1 then s.map (fun x => F32.mul x (recip (F32.ofNat ps.length))) else s

/-! ### LOOKUP -/

/-- The fields of a LOOKUP block (R167). -/
structure Lookup where
  bags : Bags
  nocount : Bool
  fmt  : Nat
  tobj : U32
  oobj : U32
  robj : U32
  ooff : Nat
  ostride : Nat
  roff : Nat
deriving DecidableEq, Repr

def Lookup.of (b : Bytes) : Lookup :=
  { bags := { pool := fld b 1 1, xobj := fldObj b 8, bobj := fldObj b 12, wobj := fldObj b 16, n := fld b 28 4, xoff := fld b 32 4,
              boff := fld b 36 4, woff := fld b 40 4 }
    nocount := bitAt b 2 1, fmt := bits (fld b 3 1) 3 0, tobj := fldObj b 4, oobj := fldObj b 20, robj := fldObj b 24,
    ooff := fld b 44 4, ostride := fld b 48 4, roff := fld b 52 4 }

/-- Bytes between output rows. -/
def Lookup.stride (x : Lookup) (dim : Nat) : Nat := if x.ostride = 0 then rowBytes x.fmt dim else x.ostride

namespace State

/-- The valid positions of each bag of a command. -/
def validBags (s : State) (t : Table) (g : Bags) : List (List Pos) :=
  (List.range g.n).map (fun b => (s.bagPos g b).filter (fun p => t.valid p.1))
/-- The component rows named by the valid positions of a command, position by position, with the window of 4,096 each falls in (R171). -/
def namedRows (s : State) (t : Table) (g : Bags) : List (Nat × U32 × Nat) :=
  ((List.range (s.bagTotal g)).map (fun i =>
    let x := s.rdNat g.xobj (g.xoff + 8 * i) 8
    if t.valid x then (s.components t x).map (fun c => (i / 4096, c.1, c.2)) else [])).flatten
/-- The indices of a command that are neither valid nor padding. -/
def invalidCount (s : State) (t : Table) (g : Bags) : Nat :=
  ((List.range (s.bagTotal g)).filter (fun i => t.invalid (s.rdNat g.xobj (g.xoff + 8 * i) 8))).length
/-- The distinct component rows a command touches. -/
def touchedRows (s : State) (t : Table) (g : Bags) : List (U32 × Nat) := firsts ((s.namedRows t g).map Prod.snd)

/-- A row's access count raised by n, at most 65,535 (R172); tier 2 objects are never written (R314). -/
def countRow (s : State) (r : U32 × Nat) (n : Nat) : State :=
  match s.obj? r.1 with
  | none => s
  | some o =>
    if o.tier = 2 then s
    else
      let t := s.table r.1
      let d := s.dirWord t r.2
      s.setDirWord t r.2 { d with count := min 65535 (d.count + n) }

/-- The rounding of a LOOKUP's output rows at a byte offset: stochastic in a TRAIN_STEP whose image asks for it (R76, log 116). -/
def lookupSr (s : State) (c : CtxId) (q : SeqId) (x : Lookup) (off : Nat) : Option (Nat → Nat) :=
  if x.fmt = 0 then none else s.srRun c q 1 x.oobj x.fmt off

/-- The effect of a LOOKUP (R168 to R172). -/
def lookupEff (s : State) (c : CtxId) (q : SeqId) (x : Lookup) : State :=
  let t := s.table x.tobj
  let g := x.bags
  let bags := s.validBags t g
  let named := s.namedRows t g
  let s1 := (bags.zipIdx).foldl (fun u (ps, b) =>
    u.wr x.oobj (x.ooff + b * x.stride t.dim) (encodeRow x.fmt (s.lookupSr c q x (x.ooff + b * x.stride t.dim)) (poolBag g.pool t.dim (s.rowOf t) ps))) s
  let s2 := if x.nocount then s1
    else (firsts (named.map Prod.snd)).foldl (fun u r => u.countRow r (named.filter (fun e => e.2 == r)).length) s1
  s2.wr x.robj x.roff (toLE 8 (bags.map List.length).sum ++ toLE 8 (firsts named).length ++ toLE 4 (s.invalidCount t g) ++
    toLE 4 (bags.filter List.isEmpty).length ++ List.replicate 8 0)

/-- The ranges a LOOKUP reads and writes that its block gives. -/
def lookupAcc (s : State) (x : Lookup) : List Access :=
  let t := s.table x.tobj
  ((s.posAcc x.bags ++ (List.range x.bags.n).map (fun b => (⟨x.oobj, x.ooff + b * x.stride t.dim, rowBytes x.fmt t.dim, true⟩ : Access))) ++
    [⟨x.robj, x.roff, 32, true⟩])
/-- The ranges of the rows it fetches. -/
def touchedAcc (s : State) (t : Table) (g : Bags) : List Access :=
  ((s.touchedRows t g).map (fun r => s.rowAcc (s.table r.1) r.2)).flatten
/-- No touched row's directory word names the reserved tier or bytes beyond the object (R96, R162). -/
def tiersOk (s : State) (t : Table) (g : Bags) : Bool :=
  (s.touchedRows t g).all (fun r => decide ((s.dirWord (s.table r.1) r.2).tier < 3) &&
    (s.rowAcc (s.table r.1) r.2).all (fun a => s.fits a.id a.off a.len))

/-- The ranges of a command's table header and its offsets, read before the rest. -/
def ownAcc (tobj : U32) (g : Bags) : List Access := [⟨tobj, 0, 128, false⟩, offsetAcc g]
/-- Those and the partner's header, of a composed table. -/
def headAcc (s : State) (tobj : U32) (g : Bags) : List Access :=
  ownAcc tobj g ++ (if (s.table tobj).kind = 2 then [⟨(s.table tobj).partner, 0, 128, false⟩] else [])

/-- Whether the objects a command's checks read are resident and sound, so that the contents can be checked. -/
def readable (s : State) (acc : List Access) : Bool := s.resident acc && (s.poisonedAccess acc).isNone

/-- The checks of R96 and R161 for a LOOKUP. -/
def lookupOk (s : State) (c : CtxId) (b : Bytes) (x : Lookup) : Bool :=
  let g := x.bags
  blockOk 1 b && fld b 0 1 == 1 && decide (g.pool ≤ 2) && decide (g.n ≤ 2 ^ 20) && zeroBits b 2 7 2 && decide (x.fmt ≤ 3) && zeroBytes b 56 63 &&
  s.objIn c x.tobj [1, 2] && s.objIn c g.xobj [0] && s.accOk c [0] (offsetAcc g) && (g.pool != 2 || s.objIn c g.wobj [0]) && s.objIn c x.oobj [0] &&
  s.objIn c x.robj [0] &&
  (!s.readable (ownAcc x.tobj g) || (s.tableGood x.tobj && s.bagsOk g && (s.lookupAcc x).all (s.accOk c [0]) &&
    (!s.readable (s.headAcc x.tobj g ++ s.posAcc g) || s.tiersOk (s.table x.tobj) g)))

end State

/-- LOOKUP (R167 to R172). -/
def execLookup (c : CtxId) (q : SeqId) (b : Bytes) (s : State) : Host.Outcome State Fault Refusal :=
  let x := Lookup.of b
  .next (s.runCommand c (State.copyOf 1 q b) (mayIssue 1 q && s.lookupOk c b x)
    (s.headAcc x.tobj x.bags ++ s.lookupAcc x ++ (if s.readable (s.headAcc x.tobj x.bags ++ s.posAcc x.bags) then s.touchedAcc (s.table x.tobj) x.bags else []))
    State.noPoisonRule (fun t => t.lookupEff c q x) (fun t => t.engineDone c q 1))

/-! ### UPDATE -/

/-- The fields of an UPDATE block (R178). -/
structure Update where
  bags : Bags
  send : Bool
  home : Bool
  tobj : U32
  gobj : U32
  hobj : U32
  robj : U32
  eta  : F32
  eps  : F32
  goff : Nat
  roff : Nat
deriving DecidableEq, Repr

def Update.of (b : Bytes) : Update :=
  { bags := { pool := fld b 1 1, xobj := fldObj b 8, bobj := fldObj b 12, wobj := fldObj b 16, n := fld b 32 4, xoff := fld b 44 4,
              boff := fld b 48 4, woff := fld b 52 4 }
    send := bitAt b 2 1, home := bitAt b 2 2, tobj := fldObj b 4, gobj := fldObj b 20, hobj := fldObj b 24, robj := fldObj b 28,
    eta := fld b 36 4, eps := fld b 40 4, goff := fld b 56 4, roff := fld b 60 4 }

/-- One optimizer step (R180): the working row and its state (one value per row, or one per element). -/
def optStep (opt : Nat) (eta eps : F32) (dim : Nat) (th : List F32) (st : List F32) (g : List F32) : List F32 × List F32 :=
  match opt with
  | 1 => ((th.zip g).map (fun p => F32.sub p.1 (F32.mul eta p.2)), st)
  | 2 =>
    let q := treeSum (g.map (fun x => F32.mul x x))
    let s1 := F32.add (st.headD 0) (F32.mul q (recip (F32.ofNat dim)))
    let r := rsqrt (F32.add s1 eps)
    ((th.zip g).map (fun p => F32.sub p.1 (F32.mul (F32.mul eta r) p.2)), [s1])
  | _ =>
    let s1 := (st.zip g).map (fun p => F32.add p.1 (F32.mul p.2 p.2))
    ((th.zip (g.zip s1)).map (fun p => F32.sub p.1 (F32.mul (F32.mul eta p.2.1) (rsqrt (F32.add p.2.2 eps)))), s1)

/-- A home map (R185): contributors and range starts with their homes. -/
structure HomeMap where
  contributors : List Nat
  ranges       : List (Nat × Nat)
deriving DecidableEq, Repr

/-- The home of a row; none without a map. -/
def HomeMap.home (h : HomeMap) (row : Nat) : Nat := (((h.ranges.filter (fun r => decide (r.1 ≤ row))).getLast?).map Prod.snd).getD 0
/-- The homes of a map, each once. -/
def HomeMap.homes (h : HomeMap) : List Nat := firsts (h.ranges.map Prod.snd)

/-- A contribution of a source to a row: the gradients in the source's batch order (R186). -/
structure Contribution where
  source : Nat
  table  : U32
  row    : Nat
  grads  : List (List F32)
deriving DecidableEq, Repr

namespace State

/-- The home map of an UPDATE.  DESIGN CHOICE (log 142): one that breaks R185 (a count of contributors outside 1 to 911, reserved bytes that are not zero,
ranges not ascending from row 0) is taken as it stands. -/
def homeMap (s : State) (id : U32) : HomeMap :=
  let m := s.rdNat id 0 4
  let c := s.rdNat id 4 2
  let e := 16 + roundUp (2 * c) 16
  { contributors := (List.range c).map (fun i => s.rdNat id (16 + 2 * i) 2)
    ranges := (List.range m).map (fun i => (s.rdNat id (e + 16 * i) 8, s.rdNat id (e + 16 * i + 8) 2)) }
/-- Bytes of a home map. -/
def homeMapLen (s : State) (id : U32) : Nat := 16 + roundUp (2 * s.rdNat id 4 2) 16 + 16 * s.rdNat id 0 4

/-- The occurrences of a command in batch order with their gradients, each with the component row it is an occurrence of (R165, R179). -/
def occurrences (s : State) (t : Table) (x : Update) : List ((U32 × Nat) × List F32) :=
  (((s.validBags t x.bags).zipIdx).map (fun (ps, b) =>
    let gb := decodeF32 0 t.dim (s.rd x.gobj (x.goff + 4 * t.dim * b) (4 * t.dim))
    (ps.map (fun p =>
      let g := match x.bags.pool with
        | 0 => gb
        | 1 => gb.map (fun v => F32.mul v (recip (F32.ofNat ps.length)))
        | _ => gb.map (fun v => F32.mul v p.2)
      (s.components t p.1).map (fun r => (r, g)))).flatten)).flatten

/-- The gradients a source gives a row: its occurrences, or their sum in merge mode (R181, R182, R186). -/
def gathered (merge : Bool) (gs : List (List F32)) : List (List F32) :=
  if merge then (match gs with | [] => [] | g :: rest => [rest.foldl addRows g]) else gs

/-- A row's optimizer state (R180). -/
def optState (s : State) (t : Table) (row : Nat) : List F32 :=
  match t.opt with
  | 2 => decodeF32 0 1 (s.rd t.id (t.stateOff + 4 * row) 4)
  | 3 => decodeF32 0 t.dim (s.rd t.id (t.stateOff + 4 * t.dim * row) (4 * t.dim))
  | _ => []
/-- The range of a row's optimizer state. -/
def optAcc (t : Table) (row : Nat) : List Access :=
  match t.opt with
  | 2 => [⟨t.id, t.stateOff + 4 * row, 4, true⟩]
  | 3 => [⟨t.id, t.stateOff + 4 * t.dim * row, 4 * t.dim, true⟩]
  | _ => []

/-- A row after steps with gradients, one each, written to its slot, replicas and hot-row copy, and its state (R180 to R183). -/
def stepRow (s : State) (c : CtxId) (q : SeqId) (x : Update) (r : U32 × Nat) (gs : List (List F32)) : State :=
  let t := s.table r.1
  let d := s.dirWord t r.2
  let (th, st) := gs.foldl (fun a g => optStep t.opt x.eta x.eps t.dim a.1 a.2 g) (s.rowF32 t r.2, s.optState t r.2)
  let sr : Option (Nat → Nat) := match (s.ctx c).runOf q 1 with
    | none => none
    | some run => if descOp run.d = 0x0B ∧ s.stochastic c then
        some (fun i => draw (descField run.d 24 8) ((r.2 * t.dim + i) % 2 ^ 32) t.id.toNat 3 run.number) else none
  let bs := encodeRow (tierFmt d.tier) sr th
  let s1 := (s.rowPlaces t r.2).foldl (fun u o => u.wr t.id o bs) s
  let s2 := match s.hotCopy? t r.2 with | none => s1 | some h => s1.put .hot h.offset bs
  let sb := encodeRow 0 none st
  match t.opt with
  | 2 => s2.wr t.id (t.stateOff + 4 * r.2) sb
  | 3 => s2.wr t.id (t.stateOff + 4 * t.dim * r.2) sb
  | _ => s2

/-! #### Contributions between devices (R186, R187, R404; layout beyond the first 6 bytes: log 37) -/

/-- The parcels of a run of contribution bytes: each carries the table and the source in its first 8 bytes. -/
def contribParcels (table : U32) (source : Nat) (body : Bytes) : List Bytes :=
  (chunks 248 body).map (fun p => slice (toLE 4 table.toNat ++ toLE 2 source ++ [0, 0] ++ p) 0 256)
/-- A contribution's bytes: row, number of gradients, the gradients. -/
def contribBody (row : Nat) (gs : List (List F32)) : Bytes :=
  let raw := toLE 8 row ++ toLE 4 gs.length ++ [0, 0, 0, 0] ++ (gs.map (fun g => encodeRow 0 none g)).flatten
  slice raw 0 (roundUp raw.length 248)
/-- A data frame of stream 0xFFFF. -/
def contribFrame (c : CtxId) (dest : Nat) (last : Bool) (p : Bytes) : Frame :=
  { seq := 0, vc := 2, data := true, last := last, dest := BitVec.ofNat 10 dest, ctx := c, stream := 0xFFFF, payload := p, src := none, own := some c }
/-- The state after a contribution frame goes to a home. -/
def sendContrib (s : State) (c : CtxId) (dest : Nat) (last : Bool) (p : Bytes) : State :=
  match s.route dest with | none => s.dropOwn 1 | some n => s.giveFrame n (contribFrame c dest last p)

/-- The contributions to rows homed elsewhere, and the end markers to every other home (R186).  DESIGN CHOICE (log 144): the home map gives the homes of a
composed table's partner rows too, by their own row numbers. -/
def sendContribs (s : State) (c : CtxId) (t : Table) (x : Update) (merge : Bool) (occ : List ((U32 × Nat) × List F32)) : State :=
  let h := s.homeMap x.hobj
  let me := s.regs.treeIndex.toNat
  let rows := (firsts (occ.map Prod.fst)).filter (fun r => decide (h.home r.2 ≠ me))
  let s1 := rows.foldl (fun u r =>
    let gs := gathered merge ((occ.filter (fun o => o.1 == r)).map Prod.snd)
    (contribParcels r.1 me (contribBody r.2 gs)).foldl (fun u p => u.sendContrib c (h.home r.2) false p) u) s
  (h.homes.filter (fun d => decide (d ≠ me))).foldl (fun u d =>
    u.sendContrib c d true (slice (toLE 4 t.id.toNat ++ toLE 2 me) 0 256)) s1

/-- The contributions in a source's bytes, with fuel. -/
def parseContribs (s : State) (source : Nat) (table : U32) : Nat → Bytes → List Contribution
  | 0, _ => []
  | f + 1, bs =>
    if bs.isEmpty then []
    else
      let dim := (s.table table).dim
      let k := fld bs 8 4
      let gs := (List.range k).map (fun i => decodeF32 0 dim (slice bs (16 + 4 * dim * i) (4 * dim)))
      { source := source, table := table, row := fld bs 0 8, grads := gs } ::
        parseContribs s source table f (bs.drop (roundUp (16 + 4 * dim * k) 248))
/-- The source a contribution parcel names. -/
def contribSource (p : Inbound) : Nat := fld p.payload 4 2
/-- The table a contribution parcel names. -/
def contribTable (p : Inbound) : U32 := fldObj p.payload 0
/-- The contributions of a source for a table among stored parcels. -/
def contribsOf (s : State) (ps : List Inbound) (source : Nat) (table : U32) : List Contribution :=
  let bs := ((ps.filter (fun p => !p.last && contribSource p == source && decide (contribTable p = table))).map
    (fun p => p.payload.drop 8)).flatten
  s.parseContribs source table bs.length bs
/-- Whether an end marker of a source for a table is in. -/
def ended (ps : List Inbound) (source : Nat) (table : U32) : Bool :=
  ps.any (fun p => p.last && contribSource p == source && decide (contribTable p = table))
/-- What one UPDATE of a source brought for a table and its partner: the parcels that name them up to the source's first end marker for the table, but
none of the partner's that an end marker of the partner's own closes; and the rest (R186, R187, R404). -/
def takeUntilEnd (source : Nat) (tables : List U32) (ps : List Inbound) : List Inbound × List Inbound :=
  let ends := fun (id : U32) (p : Inbound) => p.last && contribSource p == source && decide (contribTable p = id)
  match ps.findIdx? (ends (tables.headD 0)) with
  | none => ([], ps)
  | some n =>
    let own := (ps.take n).zipIdx
    let mine := fun (e : Inbound × Nat) => !e.1.last && contribSource e.1 == source && tables.contains (contribTable e.1) &&
      !own.any (fun f => decide (e.2 < f.2) && (tables.drop 1).any (fun id => ends id f.1 && decide (contribTable e.1 = id)))
    ((own.filter mine).map Prod.fst, ((own.filter (fun e => !mine e)).map Prod.fst) ++ ps.drop (n + 1))

/-- The tables whose rows an UPDATE of a table writes. -/
def updateTables (t : Table) : List U32 := if t.kind = 2 then [t.id, t.partner] else [t.id]
/-- The contribution parcels that an UPDATE with HOME holds or takes from its context's store (R404). -/
def contribsIn (s : State) (c : CtxId) : List Inbound := (s.ctx c).contribs ++ (s.ctx c).inbound.filter (fun p => p.stream == 0xFFFF)
/-- The contributors other than this device of an UPDATE with HOME. -/
def contributors (s : State) (x : Update) : List Nat :=
  if x.hobj != 0 && x.home then (s.homeMap x.hobj).contributors.filter (fun d => decide (d ≠ s.regs.treeIndex.toNat)) else []
/-- The contributors whose end markers an UPDATE still waits for. -/
def missingEnds (s : State) (c : CtxId) (x : Update) : List Nat := (s.contributors x).filter (fun d => !ended (s.contribsIn c) d x.tobj)

/-- The local and received contributions applied to the rows homed here, in ascending source index (R187). -/
def applyHomed (s : State) (c : CtxId) (q : SeqId) (x : Update) (merge : Bool) (all : List Contribution) : State :=
  let rows := firsts (all.map (fun k => (k.table, k.row)))
  rows.foldl (fun u r =>
    let mine := sortOn (fun k => k.source) (all.filter (fun k => k.table == r.1 && k.row == r.2))
    u.stepRow c q x r (gathered merge ((mine.map (fun k => k.grads)).flatten))) s

/-- The result record of an UPDATE (R178). -/
def updateRecord (applied rows invalid received : Nat) : Bytes :=
  toLE 8 applied ++ toLE 8 rows ++ toLE 4 invalid ++ toLE 4 received ++ List.replicate 8 0

/-- An UPDATE's attempt: contributions sent once, a wait for end markers, then the rows homed here (R181 to R187, R416). -/
def updateEff (s : State) (c : CtxId) (q : SeqId) (b : Bytes) (x : Update) : State :=
  let t := s.table x.tobj
  let merge := (s.ctx c).modeNow.merge
  let occ := s.occurrences t x
  let me := s.regs.treeIndex.toNat
  let key := progKey c q 1
  let sent := decide (0 < s.progressOf key b)
  let h := s.homeMap x.hobj
  let whole := x.hobj == 0
  if !whole && x.send && h.homes.any (fun d => s.isLost d) then s.loseCtx c
  else
    let s1 := if !whole && x.send && !sent then s.sendContribs c t x merge occ else s
    -- R404: the home's Gorge takes the stored parcels while an UPDATE with HOME runs
    let s2 := if !whole && x.home then s1.modCtx c (fun y =>
      { y with contribs := y.contribs ++ y.inbound.filter (fun p => p.stream == 0xFFFF),
               inbound := y.inbound.filter (fun p => p.stream != 0xFFFF) }) else s1
    let others := s.contributors x
    let stored := (s2.ctx c).contribs
    let missing := s.missingEnds c x
    if missing.any (fun d => s2.isLost d) then s2.loseCtx c
    else if !missing.isEmpty then ({ s2 with progress := s2.progress.set key (b, 1) } : State).noteWait c (copyOf 1 q b) 0 x.tobj.toNat
    else
      let tables := updateTables t
      let (taken, left) := others.foldl (fun (a : List Inbound × List Inbound) d =>
        let (m, rest) := takeUntilEnd d tables a.2
        (a.1 ++ m, rest)) ([], stored)
      let received := (others.map (fun d => (tables.map (fun id => s2.contribsOf taken d id)).flatten)).flatten
      let here := (firsts (occ.map Prod.fst)).filter (fun r => whole || decide (h.home r.2 = me))
      let locals : List Contribution := here.map (fun r =>
        { source := me, table := r.1, row := r.2, grads := gathered merge ((occ.filter (fun o => o.1 == r)).map Prod.snd) })
      let s3 := (s2.modCtx c (fun y => { y with contribs := left })).applyHomed c q x merge (locals ++ received)
      -- R179: an occurrence is one position; a composed table's is counted at its row of the table named (log 130).  DESIGN CHOICE (log 143): of a received
      -- contribution each gradient counts as one occurrence applied, so a summed one of merge mode counts once
      let applied := (occ.filter (fun o => here.contains o.1 && decide (o.1.1 = x.tobj))).length +
        ((received.filter (fun k => decide (k.table = x.tobj))).map (fun k => k.grads.length)).sum
      let s4 := s3.wr x.robj x.roff (updateRecord applied (firsts ((locals ++ received).map (fun k => (k.table, k.row)))).length
        (s.invalidCount t x.bags) received.length)
      -- R378: a TRAIN_STEP's result is the occurrences its UPDATEs applied
      let s5 := s4.modCtx c (fun y => y.modRun q 1 (fun r => if descOp r.d = 0x0B then { r with result := r.result + BitVec.ofNat 64 applied } else r))
      ({ s5 with progress := s5.progress.erase key } : State).engineDone c q 1

/-- The ranges an UPDATE reads and writes that its block gives. -/
def updateAcc (s : State) (x : Update) : List Access :=
  let t := s.table x.tobj
  s.posAcc x.bags ++ [⟨x.gobj, x.goff, 4 * t.dim * x.bags.n, false⟩, ⟨x.robj, x.roff, 32, true⟩] ++
    (if x.hobj = 0 then [] else [⟨x.hobj, 0, s.homeMapLen x.hobj, false⟩])
/-- The ranges of the rows it reads and writes. -/
def updateRows (s : State) (x : Update) : List Access :=
  let t := s.table x.tobj
  let me := s.regs.treeIndex.toNat
  let h := s.homeMap x.hobj
  (((s.touchedRows t x.bags).filter (fun r => x.hobj == 0 || decide (h.home r.2 = me))).map (fun r =>
    s.rowAcc (s.table r.1) r.2 ++ optAcc (s.table r.1) r.2)).flatten

/-- A table that may be trained: in tier 1 and not read-only (R10, R159). -/
def trainable (s : State) (id : U32) : Bool :=
  match s.obj? id with | none => false | some o => decide (o.tier = 1) && !o.readOnly

/-- The checks of R96, R161 and R180 for an UPDATE. -/
def updateOk (s : State) (c : CtxId) (b : Bytes) (x : Update) : Bool :=
  let g := x.bags
  let t := s.table x.tobj
  blockOk 1 b && fld b 0 1 == 2 && decide (g.pool ≤ 2) && decide (g.n ≤ 2 ^ 20) && zeroBits b 2 7 3 && zeroBits b 3 7 4 &&
  s.objIn c x.tobj [1] && s.outOk x.tobj && s.objIn c g.xobj [0] && s.accOk c [0] (offsetAcc g) && (g.pool != 2 || s.objIn c g.wobj [0]) &&
  s.objIn c x.gobj [0] && s.objIn c x.robj [0] && (x.hobj == 0 || s.accOk c [0] ⟨x.hobj, 0, 16, false⟩) &&
  (!s.readable (ownAcc x.tobj g ++ (if x.hobj = 0 then [] else [⟨x.hobj, 0, 16, false⟩])) ||
    (s.tableGood x.tobj && t.train && t.opt != 0 && (updateTables t).all s.trainable && s.bagsOk g && (s.updateAcc x).all (s.accOk c [0]) &&
     (!s.readable (s.headAcc x.tobj g ++ s.posAcc g) || s.tiersOk t g)))

/-- An UPDATE runs when its objects are RESIDENT and sound; its first attempt sends its contributions, and one that must then wait for end markers runs
again once they are in or a contributor is lost (R187). -/
def runUpdate (s : State) (c : CtxId) (q : SeqId) (b : Bytes) : State :=
  let x := Update.of b
  s.runCommand c (State.copyOf 1 q b) (mayIssue 1 q && s.updateOk c b x)
    (s.headAcc x.tobj x.bags ++ s.updateAcc x ++ (if s.readable (s.headAcc x.tobj x.bags ++ s.posAcc x.bags) then s.updateRows x else []))
    State.noPoisonRule (fun t => t.updateEff c q b x) id
    (let missing := s.missingEnds c x
     if decide (0 < s.progressOf (progKey c q 1) b) && !missing.isEmpty && !missing.any (fun d => s.isLost d) then some (0, x.tobj.toNat) else none)

end State

/-- UPDATE (R178 to R189). -/
def execUpdate (c : CtxId) (q : SeqId) (b : Bytes) (s : State) : Host.Outcome State Fault Refusal := .next (s.runUpdate c q b)

end Sys2Proof.Machine
end

