-- ==== Sys2Proof/Machine/Sampling.lean ====
section
/-! DEFINITION. SOFTMAX (R115), the sampling rule (R261) and its draws (R51, R262), shared by the rim's SAMPLE and the serving unit's ACCEPT. -/

namespace Sys2Proof.Machine

/-- One row of SOFTMAX, steps 3 to 5, with R128 (R115). -/
def softmaxRow (tau : F32) (a : List F32) : List F32 :=
  let c := F32.mul tau 0x3FB8AA3B
  let mx := match a with | [] => F32.negInf | x :: t => t.foldl F32.max x
  if mx = F32.negInf then a.map (fun _ => 0)
  else
    let e := a.map (fun x => exp2 (F32.mul (F32.sub x mx) c))
    let r := recip (rimSum e)
    e.map (fun x => F32.mul x r)

/-- Step 2 of R115: elements after q masked. -/
def maskAfter (q : Nat) (a : List F32) : List F32 := a.zipIdx.map (fun (x, i) => if q < i then F32.negInf else x)

/-- The parameters of a sampling (R261). -/
structure SampleParams where
  seed : Nat
  c0   : Nat
  c1   : Nat
  c2   : Nat
  temp : F32
  topp : F32
  topk : Nat
deriving DecidableEq, Repr

/-- Bit t of a mask; no mask allows every token (R154). -/
def maskBit (mask : Option Bytes) (t : Nat) : Bool :=
  match mask with | none => true | some m => ((m[t / 8]?).getD 0).getLsbD (t % 8)

/-- Entries in the order of R225 with IDORD: value falling, index rising; the insertion of one entry. -/
def rankInsert (x : Nat × F32) : List (Nat × F32) → List (Nat × F32)
  | [] => [x]
  | y :: t => if y.2.lt x.2 || (y.2.eq x.2 && decide (x.1 < y.1)) then x :: y :: t else y :: rankInsert x t

/-- Entries ranked by value falling, then index rising. -/
def rank (l : List (Nat × F32)) : List (Nat × F32) := l.foldr rankInsert []

/-- The shortest run of a list from its start whose left fold reaches T; the whole list when none does. -/
def foldPrefix (t : F32) : Option F32 → List (Nat × F32) → List (Nat × F32)
  | _, [] => []
  | acc, x :: l =>
    let a := match acc with | none => x.2 | some v => F32.add v x.2
    if !a.isNan && !a.lt t then [x] else x :: foldPrefix t (some a) l

/-- The left fold of the values of a list of entries. -/
def foldValues (l : List (Nat × F32)) : F32 := foldSum (l.map Prod.snd)

/-- The first entry whose running left fold is above t, else the last (R261). -/
def drawFrom (t : F32) : Option F32 → List (Nat × F32) → Option Nat
  | _, [] => none
  | acc, x :: l =>
    let a := match acc with | none => x.2 | some v => F32.add v x.2
    if !a.isNan && t.lt a then some x.1 else match l with | [] => some x.1 | _ => drawFrom t (some a) l

/-- The uniform variate of a draw: its first word scaled by 2^−32 in FP32 (R51). -/
def uniform (key c0 c1 c2 : Nat) : F32 := fmt32.roundMag (draw key c0 c1 c2 0) (-32)

/-- What is left to draw from (R261): the greedy token, or the entries E in their order with their P. -/
inductive Choice where
  | dead
  | greedy (token : Nat)
  | among (e : List (Nat × F32))
deriving DecidableEq, Repr

/-- Whether top-p is enabled: above 0 and below 1 (R253). -/
def toppOn (topp : F32) : Bool := (0 : F32).lt topp && topp.lt F32.one

/-- The tokens a row leaves and their order, up to S (R261); a dropped or masked logit takes part in the softmax as −∞ (log 29), and a dropped one never in E. -/
def chooseFrom (z : List F32) (mask : Option Bytes) (temp topp : F32) (topk : Nat) : Choice :=
  let live := z.zipIdx.filter (fun (x, i) => !x.isNan && maskBit mask i)
  if live.isEmpty then .dead
  else if temp.isZero then
    match rank (live.map (fun (x, i) => (i, x))) with | [] => .dead | e :: _ => .greedy e.1
  else
    let zz := z.zipIdx.map (fun (x, i) => if x.isNan || !maskBit mask i then F32.negInf else x)
    let p := (((softmaxRow (recip temp) zz).zipIdx.zip z).filter (fun t => !t.2.isNan)).map (fun t => (t.1.2, t.1.1))
    let e := if 0 < topk then (rank (p.filter (fun x => !x.2.isNan))).take topk
             else p.filter (fun x => !x.2.isNan && (0 : F32).lt x.2)
    let e' := if toppOn topp then foldPrefix (F32.mul topp (foldValues e)) none e else e
    if e'.isEmpty then .dead else .among e'

/-- A sampled row: the token, its p, and S where the rule forms it (R261). -/
def sampleRow (z : List F32) (mask : Option Bytes) (k : SampleParams) : Option (Nat × F32 × Option F32) :=
  match chooseFrom z mask k.temp k.topp k.topk with
  | .dead => none
  | .greedy t => some (t, F32.one, none)
  | .among e =>
    let s := foldValues e
    match drawFrom (F32.mul (uniform k.seed k.c0 k.c1 k.c2) s) none e with
    | none => none
    | some t => some (t, F32.mul (((e.find? (fun x => x.1 == t)).map Prod.snd).getD 0) (recip s), some s)

end Sys2Proof.Machine
end

