-- ==== Sys2Proof/Machine/Rim.lean ====
section
/-! DEFINITION. The rim units (R112 to R116, R126 to R128, R261): one command shape, one sequence per operation. -/

namespace Sys2Proof.Machine

/-- The fields of a RIM block (R113). -/
structure Rim where
  op      : Nat
  afmt    : Nat
  ofmt    : Nat
  mask    : Bool
  n       : Nat
  rows    : Nat
  aobj    : U32
  bobj    : U32
  cobj    : U32
  oobj    : U32
  param   : Nat
  aoff    : Nat
  ooff    : Nat
  astrd   : Nat
  ostrd   : Nat
deriving DecidableEq, Repr

def Rim.of (b : Bytes) : Rim :=
  { op := fld b 1 1, afmt := bits (fld b 2 1) 3 0, ofmt := bits (fld b 2 1) 7 4, mask := bitAt b 3 0, n := fld b 8 4, rows := fld b 12 4,
    aobj := fldObj b 16, bobj := fldObj b 20, cobj := fldObj b 24, oobj := fldObj b 28, param := fld b 32 4, aoff := fld b 40 8,
    ooff := fld b 48 8, astrd := fld b 56 4, ostrd := fld b 60 4 }

/-- What an operation reads besides a: bytes of b and of c, elements of an input row, bytes between output rows when dense. -/
structure RimUse where
  bBytes : Nat
  cBytes : Nat
  nin    : Nat
  aRow   : Nat        -- bytes of an input row
  oRow   : Nat        -- bytes of an output row
  oRows  : Nat        -- output rows
deriving DecidableEq, Repr

/-- The plain use of a row operation: rows of n in, rows of n out. -/
def Rim.use (x : Rim) (bBytes cBytes : Nat) : RimUse :=
  { bBytes := bBytes, cBytes := cBytes, nin := x.n, aRow := rowBytes x.afmt x.n, oRow := rowBytes x.ofmt x.n, oRows := x.rows }

/-- Bytes between rows of a. -/
def Rim.astride (x : Rim) (u : RimUse) : Nat := if x.astrd = 0 then u.aRow else x.astrd
/-- Bytes between output rows. -/
def Rim.ostride (x : Rim) (u : RimUse) : Nat := if x.ostrd = 0 then u.oRow else x.ostrd

/-- The ranges a RIM command reads and writes. -/
def Rim.acc (x : Rim) (u : RimUse) : List Access :=
  (List.range x.rows).map (fun r => (⟨x.aobj, x.aoff + r * x.astride u, u.aRow, false⟩ : Access)) ++
  (if u.bBytes = 0 then [] else [(⟨x.bobj, 0, u.bBytes, false⟩ : Access)]) ++
  (if u.cBytes = 0 then [] else [(⟨x.cobj, 0, u.cBytes, false⟩ : Access)]) ++
  (List.range u.oRows).map (fun r => (⟨x.oobj, x.ooff + r * x.ostride u, u.oRow, true⟩ : Access))
/-- What a RIM command reaches: with no rows, the objects it names and no byte of them, but for MEANPOOL (R96, R126). -/
def Rim.reach (x : Rim) (u : RimUse) (op : Nat) : List Access :=
  if x.rows = 0 ∧ op ≠ 0x0C then (x.acc u).map (fun a => { a with off := 0, len := 0 }) else x.acc u

namespace State

/-- The checks of R96 that every RIM command makes; R113 gives a and the output tier 0, and no tier to b and c. -/
def rimOk (s : State) (c : CtxId) (b : Bytes) (x : Rim) (u : RimUse) (op : Nat) : Bool :=
  x.op == op && decide (x.afmt ≤ 5) && decide (x.ofmt ≤ 5) && zeroBits b 3 7 2 && (!x.mask || op == 0x08) && zeroBits b 4 7 4 && zeroBytes b 5 7 &&
  zeroBytes b 36 39 && s.objIn c x.aobj [0] && s.objIn c x.oobj [0] &&
  (x.reach u op).all (fun a => s.accOk c (if a.id = x.aobj ∨ a.id = x.oobj then [0] else [0, 1, 2]) a)

/-- Row r of a, taken into FP32 (R112, R517). -/
def rimA (s : State) (x : Rim) (u : RimUse) (r : Nat) : List F32 :=
  decodeF32 x.afmt u.nin (s.rd x.aobj (x.aoff + r * x.astride u) u.aRow)
/-- n FP32 values of an object from an offset. -/
def rdF32 (s : State) (id : U32) (off n : Nat) : List F32 := decodeF32 0 n (s.rd id off (4 * n))

/-- The output rows of a command written in ascending order, each converted to the output format (R112). -/
def rimWrite (s : State) (c : CtxId) (x : Rim) (u : RimUse) (rows : List (List F32)) : State :=
  rows.zipIdx.foldl (fun t (row, r) =>
    let off := x.ooff + r * x.ostride u
    t.wr x.oobj off (encodeRow x.ofmt (s.srFor c x.oobj x.ofmt off) row)) s

/-- A RIM command that turns each row of a into a row of output: `row r a` gives it. -/
def rimRows (s : State) (c : CtxId) (w e : Bytes) (op : Nat) (extra : Bool) (u : RimUse) (row : State → Nat → List F32 → List F32) : State :=
  let x := Rim.of w
  s.runSteppe c w e 0x04 (s.rimOk c w x u op && extra) (if x.rows = 0 then [] else x.acc u) noPoisonRule
    (fun t => t.rimWrite c x u ((List.range x.rows).map (fun r => row t r (t.rimA x u r))))

end State

/-- Element by element over two rows. -/
def zip2 (f : F32 → F32 → F32) (a b : List F32) : List F32 := (a.zip b).map (fun p => f p.1 p.2)

/-- ADD (R114). -/
def execRimAdd (c : CtxId) (w e : Bytes) (s : State) : Host.Outcome State Fault Refusal :=
  let x := Rim.of w
  .next (s.rimRows c w e 0x01 true (x.use (4 * x.n * x.rows) 0) (fun t r a => zip2 F32.add a (t.rdF32 x.bobj (4 * x.n * r) x.n)))

/-- MUL (R114). -/
def execRimMul (c : CtxId) (w e : Bytes) (s : State) : Host.Outcome State Fault Refusal :=
  let x := Rim.of w
  .next (s.rimRows c w e 0x02 true (x.use (4 * x.n * x.rows) 0) (fun t r a => zip2 F32.mul a (t.rdF32 x.bobj (4 * x.n * r) x.n)))

/-- SCALE_BIAS (R114). -/
def execScaleBias (c : CtxId) (w e : Bytes) (s : State) : Host.Outcome State Fault Refusal :=
  let x := Rim.of w
  .next (s.rimRows c w e 0x03 true (x.use (4 * x.n) (4 * x.n)) (fun t _ a =>
    zip2 F32.add (zip2 F32.mul a (t.rdF32 x.bobj 0 x.n)) (t.rdF32 x.cobj 0 x.n)))

/-- CONVERT (R114). -/
def execConvert (c : CtxId) (w e : Bytes) (s : State) : Host.Outcome State Fault Refusal :=
  let x := Rim.of w
  .next (s.rimRows c w e 0x04 true (x.use 0 0) (fun _ _ a => a))

/-- GELU (R114). -/
def execGelu (c : CtxId) (w e : Bytes) (s : State) : Host.Outcome State Fault Refusal :=
  let x := Rim.of w
  .next (s.rimRows c w e 0x05 true (x.use 0 0) (fun _ _ a => a.map rimGelu))

/-- GELU_TANH (R114). -/
def execGeluTanh (c : CtxId) (w e : Bytes) (s : State) : Host.Outcome State Fault Refusal :=
  let x := Rim.of w
  .next (s.rimRows c w e 0x06 true (x.use 0 0) (fun _ _ a => a.map rimGeluTanh))

/-- SILU (R114). -/
def execSilu (c : CtxId) (w e : Bytes) (s : State) : Host.Outcome State Fault Refusal :=
  let x := Rim.of w
  .next (s.rimRows c w e 0x07 true (x.use 0 0) (fun _ _ a => a.map rimSilu))

/-- SOFTMAX, with MASK's q from the row's u32 entry in c (R115, R128). -/
def execSoftmax (c : CtxId) (w e : Bytes) (s : State) : Host.Outcome State Fault Refusal :=
  let x := Rim.of w
  .next (s.rimRows c w e 0x08 true (x.use 0 (if x.mask then 4 * x.rows else 0)) (fun t r a =>
    softmaxRow x.param (if x.mask then maskAfter (t.rdNat x.cobj (4 * r) 4) a else a)))

/-- LAYERNORM's sequence (R114). -/
def layernormRow (n : Nat) (eps : F32) (b c a : List F32) : List F32 :=
  let rn := recip (F32.ofNat n)
  let mu := F32.mul (rimSum a) rn
  let d := a.map (fun x => F32.sub x mu)
  let v := F32.mul (rimSum (d.map (fun x => F32.mul x x))) rn
  let r := rsqrt (F32.add v eps)
  zip2 F32.add (zip2 F32.mul (d.map (fun x => F32.mul x r)) b) c

/-- LAYERNORM (R114). -/
def execLayernorm (c : CtxId) (w e : Bytes) (s : State) : Host.Outcome State Fault Refusal :=
  let x := Rim.of w
  .next (s.rimRows c w e 0x09 true (x.use (4 * x.n) (4 * x.n)) (fun t _ a =>
    layernormRow x.n x.param (t.rdF32 x.bobj 0 x.n) (t.rdF32 x.cobj 0 x.n) a))

/-- RMSNORM's sequence (R114). -/
def rmsnormRow (n : Nat) (eps : F32) (b a : List F32) : List F32 :=
  let v := F32.mul (rimSum (a.map (fun x => F32.mul x x))) (recip (F32.ofNat n))
  let r := rsqrt (F32.add v eps)
  zip2 F32.mul (a.map (fun x => F32.mul x r)) b

/-- RMSNORM (R114). -/
def execRmsnorm (c : CtxId) (w e : Bytes) (s : State) : Host.Outcome State Fault Refusal :=
  let x := Rim.of w
  .next (s.rimRows c w e 0x0A true (x.use (4 * x.n) 0) (fun t _ a => rmsnormRow x.n x.param (t.rdF32 x.bobj 0 x.n) a))

/-- L2NORM's sequence (R114). -/
def l2normRow (a : List F32) : List F32 :=
  let q := rimSum (a.map (fun x => F32.mul x x))
  if q.isZero then a else let r := rsqrt q; a.map (fun x => F32.mul x r)

/-- L2NORM (R114). -/
def execL2norm (c : CtxId) (w e : Bytes) (s : State) : Host.Outcome State Fault Refusal :=
  let x := Rim.of w
  .next (s.rimRows c w e 0x0B true (x.use 0 0) (fun _ _ a => l2normRow a))

/-- MEANPOOL's one output row (R114). -/
def meanpoolRow (n : Nat) (rows : List (List F32)) : List F32 :=
  if rows.isEmpty then List.replicate n 0
  else
    let k := recip (F32.ofNat rows.length)
    (List.range n).map (fun i => F32.mul (foldSum (rows.map (fun r => (r[i]?).getD 0))) k)

/-- MEANPOOL (R114). -/
def execMeanpool (c : CtxId) (w e : Bytes) (s : State) : Host.Outcome State Fault Refusal :=
  let x := Rim.of w
  let u : RimUse := { x.use 0 0 with oRows := 1 }
  .next (s.runSteppe c w e 0x04 (s.rimOk c w x u 0x0C) (x.acc u) State.noPoisonRule
    (fun t => t.rimWrite c x u [meanpoolRow x.n ((List.range x.rows).map (t.rimA x u))]))

/-- ROPE's sequence over pairs (R114). -/
def ropeRow : List F32 → List F32 → List F32
  | a0 :: a1 :: a, cs :: sn :: b =>
    F32.sub (F32.mul a0 cs) (F32.mul a1 sn) :: F32.add (F32.mul a0 sn) (F32.mul a1 cs) :: ropeRow a b
  | _, _ => []

/-- ROPE; n is even (R114). -/
def execRope (c : CtxId) (w e : Bytes) (s : State) : Host.Outcome State Fault Refusal :=
  let x := Rim.of w
  .next (s.rimRows c w e 0x0D (x.n % 2 == 0) (x.use (4 * x.n * x.rows) 0) (fun t r a => ropeRow a (t.rdF32 x.bobj (4 * x.n * r) x.n)))

/-- SILU_MUL over input rows of 2n (R114). -/
def execSiluMul (c : CtxId) (w e : Bytes) (s : State) : Host.Outcome State Fault Refusal :=
  let x := Rim.of w
  let u : RimUse := { x.use 0 0 with nin := 2 * x.n, aRow := rowBytes x.afmt (2 * x.n) }
  .next (s.rimRows c w e 0x0E true u (fun _ _ a => zip2 F32.mul ((a.take x.n).map rimSilu) (a.drop x.n)))

/-! ### ROUTE (R116) -/

namespace State

/-- Row p's expert entries: index and gate (R116). -/
def routeRow (s : State) (x : Rim) (u : RimUse) (p : Nat) : List (Nat × Nat) :=
  (List.range x.n).map (fun j =>
    let o := x.aoff + p * x.astride u + 8 * j
    (s.rdNat x.aobj o 4, s.rdNat x.aobj (o + 4) 4))

/-- Indices below E, none twice in a row. -/
def routeRowOk (e : Nat) (row : List (Nat × Nat)) : Bool :=
  row.all (fun t => decide (t.1 < e)) && decide ((row.map Prod.fst).Nodup)

/-- The routing table of R110 from the rows: experts ascending, positions ascending within each. -/
def routeTable (e : Nat) (rows : List (List (Nat × Nat))) : Bytes :=
  let lists := (List.range e).map (fun k =>
    (rows.zipIdx.map (fun (row, p) => (row.filter (fun t => t.1 == k)).map (fun t => (p, t.2)))).flatten)
  let (heads, _) := lists.foldl (fun (acc : Bytes × Nat) l => (acc.1 ++ toLE 4 acc.2 ++ toLE 4 l.length, acc.2 + l.length)) ([], 0)
  heads ++ (lists.flatten.map (fun t => toLE 4 t.1 ++ toLE 4 t.2)).flatten

end State

/-- ROUTE (R116). -/
def execRoute (c : CtxId) (w e : Bytes) (s : State) : Host.Outcome State Fault Refusal :=
  let x := Rim.of w
  let u : RimUse := { bBytes := 0, cBytes := 0, nin := x.n, aRow := 8 * x.n, oRow := 8 * x.param + 8 * x.n * x.rows, oRows := 1 }
  let ok := s.rimOk c w x u 0x0F && decide (1 ≤ x.param) && decide (x.param ≤ 1024) &&
    (!s.isThere x.aobj || (List.range x.rows).all (fun p => State.routeRowOk x.param (s.routeRow x u p)))
  .next (s.runSteppe c w e 0x04 ok (if x.rows = 0 then [] else x.acc u) State.noPoisonRule
    (fun t => if x.rows = 0 then t else t.wr x.oobj x.ooff (State.routeTable x.param ((List.range x.rows).map (t.routeRow x u)))))

/-! ### SAMPLE (R261) -/

/-- A row's parameter record (R261). -/
def sampleParams (b : Bytes) : SampleParams :=
  { seed := fld b 0 8, c0 := fld b 8 4, c1 := fld b 13 1, c2 := fld b 12 1, temp := fld b 16 4, topp := fld b 20 4, topk := fld b 24 4 }
/-- Its fields in range. -/
def sampleParamsOk (b : Bytes) : Bool := decide (fld b 12 1 ≤ 1) && zeroBits b 14 7 1 && zeroBytes b 15 15 && zeroBytes b 28 31

namespace State

/-- Row r's record of 16 bytes; the S of a greedy row is a free value of its operands (R44, R261, log 121). -/
def sampleRecord (s : State) (x : Rim) (u : RimUse) (r : Nat) : Bytes :=
  let pr := s.rd x.bobj (32 * r) 32
  let mask := if bitAt pr 14 0 then some (s.rd x.cobj (r * ceilDiv x.n 8) (ceilDiv x.n 8)) else none
  match sampleRow (s.rimA x u r) mask (sampleParams pr) with
  | none => toLE 4 0xFFFFFFFF ++ toLE 12 0
  | some (t, p, some sum) => toLE 4 t ++ toLE 4 p ++ toLE 4 sum ++ toLE 4 0
  | some (t, p, none) =>
    toLE 4 t ++ toLE 4 p ++ freeOf (s.rd x.aobj (x.aoff + r * x.astride u) u.aRow ++ pr) 4 ++ toLE 4 0

end State

/-- SAMPLE: parameter records in b at 32 bytes a row, masks in c at ⌈V / 8⌉ bytes a row (R261, log 30). -/
def execSample (c : CtxId) (w e : Bytes) (s : State) : Host.Outcome State Fault Refusal :=
  let x := Rim.of w
  let masked := (List.range x.rows).any (fun r => bitAt (s.rd x.bobj (32 * r) 32) 14 0)
  let u : RimUse := { bBytes := 32 * x.rows, cBytes := if masked then ceilDiv x.n 8 * x.rows else 0, nin := x.n, aRow := 4 * x.n, oRow := 16, oRows := x.rows }
  let ok := s.rimOk c w x u 0x10 && x.afmt == 0 &&
    (!s.isThere x.bobj || (List.range x.rows).all (fun r => sampleParamsOk (s.rd x.bobj (32 * r) 32)))
  .next (s.runSteppe c w e 0x04 ok (if x.rows = 0 then [] else x.acc u) State.noPoisonRule
    (fun t => (List.range x.rows).foldl (fun t' r => t'.wr x.oobj (x.ooff + r * x.ostride u) (t.sampleRecord x u r)) t))

end Sys2Proof.Machine
end

