-- ==== Sys2Proof/Machine/Shards.lean ====
section
/-! DEFINITION. Glen's shards (R190 to R193, R200): headers, sections, hashes, exact scores (R194), ranked entries (R206) and the graph walk
(R201). -/

namespace Sys2Proof.Machine

/-- Kind of shard objects (R190). -/
def kindShard : Byte := 0x03
/-- The ID that no passage has. -/
def noId : Nat := 0xFFFFFFFFFFFF

/-- A shard's header (R191). -/
structure Shard where
  id     : U32
  size   : Nat
  metric : Nat
  code   : Nat
  vfmt   : Nat
  degree : Nat
  dims   : Nat
  mbits  : Nat
  sbits  : Nat
  slots  : Nat
  scap   : Nat
  epoch  : Nat
  vobj   : U32
  gobj   : U32
  dofs   : Nat
  cofs   : Nat
  tofs   : Nat
  aofs   : Nat
  rofs   : Nat
  mofs   : Nat
  sofs   : Nat
  hofs   : Nat
  lofs   : Nat
  scount : Nat
  sdead  : Nat
  lcount : Nat
  mstate : Nat
  tcount : Nat
  mtarget : Nat
deriving DecidableEq, Repr

/-- Bytes of a stored vector (R192). -/
def Shard.vstride (h : Shard) : Nat := rowBytes h.vfmt h.dims
/-- Bytes of a side-list entry (R192). -/
def Shard.sideStride (h : Shard) : Nat := 32 + h.vstride
/-- Bytes of a slot's codes (R192). -/
def Shard.codeLen (h : Shard) : Nat := if h.code = 0 then h.dims / 2 else h.dims
/-- The largest coarse code (R69). -/
def Shard.qmax (h : Shard) : Nat := if h.code = 0 then 15 else 255
/-- Entries of the delete log (R192). -/
def logRoom : Nat := 1048576
/-- Bytes of a graph node record (R200). -/
def Shard.nodeLen (h : Shard) : Nat := if h.degree = 32 then 160 else 320
/-- Bytes of a sketch (R200). -/
def Shard.sketchLen (h : Shard) : Nat := h.dims / 64 * 18

namespace State

/-- The state with bytes of an object written as zeros. -/
def clearObj (s : State) (id : U32) (off n : Nat) : State := (s.wipe (.obj id) off n).modObj id (fun o => o.wrote off n)

/-- The header of a shard object. -/
def shard (s : State) (id : U32) : Shard :=
  let b := s.rd id 0 256
  { id := id, size := match s.obj? id with | none => 0 | some o => o.size
    metric := fld b 6 1, code := fld b 7 1, vfmt := fld b 8 1, degree := fld b 9 1, dims := fld b 10 2, mbits := fld b 12 1, sbits := fld b 13 1,
    slots := fld b 16 8, scap := fld b 24 4, epoch := fld b 28 4, vobj := fldObj b 32, gobj := fldObj b 36, dofs := fld b 40 8, cofs := fld b 48 8,
    tofs := fld b 56 8, aofs := fld b 64 8, rofs := fld b 72 8, mofs := fld b 80 8, sofs := fld b 88 8, hofs := fld b 96 8, lofs := fld b 104 8,
    scount := fld b 128 4, sdead := fld b 132 4, lcount := fld b 136 4, mstate := fld b 140 1, tcount := fld b 144 8, mtarget := fld b 152 8 }

/-- The sections of a shard: offset and length (R192). -/
def sections (h : Shard) : List (Nat × Nat) :=
  [(h.dofs, 16 * h.dims), (h.cofs, h.codeLen * h.slots), (h.tofs, ceilDiv h.slots 8), (h.aofs, 8 * h.slots), (h.rofs, 16 * h.slots),
   (h.mofs, 16 * 2 ^ h.mbits), (h.sofs, h.sideStride * h.scap), (h.hofs, 16 * 2 ^ h.sbits), (h.lofs, 8 * logRoom)]

/-- The ranges of the header fields and the places of the sections (R191, R192). -/
def shardOk (s : State) (id : U32) : Bool :=
  let b := s.rd id 0 256
  let h := s.shard id
  (match s.obj? id with | none => false | some o => o.kind == kindShard && decide (o.tier = 1)) && decide (256 ≤ h.size) &&
  fld b 0 4 == 0x4E454C47 && fld b 4 2 == 1 && decide (h.metric ≤ 2) && decide (h.code ≤ 1) && decide (1 ≤ h.vfmt) && decide (h.vfmt ≤ 3) &&
  (h.degree == 0 || h.degree == 32 || h.degree == 64) && decide (256 ≤ h.dims) && decide (h.dims ≤ 4096) && h.dims % 64 == 0 &&
  decide (h.mbits ≤ 34) && decide (2 * h.slots ≤ 2 ^ h.mbits) && decide (h.sbits ≤ 23) && decide (2 * h.scap ≤ 2 ^ h.sbits) &&
  zeroBytes b 14 15 && decide (h.slots ≤ 2 ^ 33) && decide (h.scap ≤ 4194304) && decide (h.epoch < 2 ^ 31) &&
  (h.degree != 0 || h.gobj == 0) && zeroBytes b 112 127 &&
  (sections h).all (fun e => e.1 % 32 == 0 && decide (e.1 + e.2 ≤ h.size))

/-- A vector or graph object: kind 0x01, tier 2, read-only, resident, of at least n bytes (R190, R193). -/
def tier2Ok (s : State) (id : U32) (n : Nat) : Bool :=
  match s.obj? id with
  | none => false
  | some o => o.kind == 0x01 && decide (o.tier = 2) && o.readOnly && decide (o.state = .resident) && decide (n ≤ o.size)

/-- Where the node records and the sketches of a graph object begin (R200). -/
def graphOffs (s : State) (h : Shard) : Nat × Nat := (s.rdNat h.gobj 16 8, s.rdNat h.gobj 24 8)
/-- A graph object's header and size (R200). -/
def graphOk (s : State) (h : Shard) : Bool :=
  let b := s.rd h.gobj 0 256
  let (n, k) := s.graphOffs h
  s.tier2Ok h.gobj 256 && fld b 0 4 == 0x48505247 && fld b 4 1 == h.degree && decide (1 ≤ fld b 5 1) && decide (fld b 5 1 ≤ 16) &&
  fld b 8 8 == h.slots && s.tier2Ok h.gobj (n + h.nodeLen * h.slots) && s.tier2Ok h.gobj (k + h.sketchLen * h.slots)

/-- A vector or graph object of a shard, whose DDR5 parcels stall their readers (R222). -/
def shardDdr (s : State) (id : U32) : Bool :=
  (match s.obj? id with | none => false | some o => decide (o.tier = 2)) &&
    s.shards.any (fun e => decide ((s.shard e.2).vobj = id) || decide ((s.shard e.2).gobj = id))

/-! ### Slots and side entries -/

/-- A main slot's tombstone bit. -/
def tomb (s : State) (h : Shard) (i : Nat) : Bool := (s.rdNat h.id (h.tofs + i / 8) 1).testBit (i % 8)
/-- A main slot's global ID. -/
def slotId (s : State) (h : Shard) (i : Nat) : Nat := s.rdNat h.id (h.rofs + 16 * i) 6
/-- A main slot's attribute word. -/
def slotAttr (s : State) (h : Shard) (i : Nat) : Nat := s.rdNat h.id (h.aofs + 8 * i) 8
/-- A main slot's stored vector. -/
def slotVec (s : State) (h : Shard) (i : Nat) : Bytes := s.rd h.vobj (i * h.vstride) h.vstride
/-- Where a side entry begins. -/
def sideOff (h : Shard) (j : Nat) : Nat := h.sofs + j * h.sideStride
/-- A side entry's ID. -/
def sideId (s : State) (h : Shard) (j : Nat) : Nat := s.rdNat h.id (sideOff h j) 6
/-- A side entry's DEAD flag. -/
def sideDead (s : State) (h : Shard) (j : Nat) : Bool := (s.rdNat h.id (sideOff h j + 6) 1).testBit 0
/-- A side entry's attribute word. -/
def sideAttr (s : State) (h : Shard) (j : Nat) : Nat := s.rdNat h.id (sideOff h j + 8) 8
/-- A side entry's stored vector. -/
def sideVec (s : State) (h : Shard) (j : Nat) : Bytes := s.rd h.id (sideOff h j + 32) h.vstride
/-- The side entries that are not DEAD. -/
def liveSide (s : State) (h : Shard) : List Nat := (List.range h.scount).filter (fun j => !s.sideDead h j)

/-! ### The hashes (R192) -/

/-- Where an ID's probing starts in a hash of 2^bits entries. -/
def idHash (id bits : Nat) : Nat := ((id * 0x9E3779B97F4A7C15) % 2 ^ 64) >>> (64 - bits)
/-- The entry that holds an ID, or the first unused one from where it is looked for: its index and whether it holds the ID, with fuel. -/
def probe (s : State) (obj : U32) (off bits id : Nat) : Nat → Nat → Option (Nat × Bool)
  | 0, _ => none
  | f + 1, i =>
    let e := off + 16 * i
    if !(s.rdNat obj (e + 6) 1).testBit 0 then some (i, false)
    else if s.rdNat obj e 6 = id then some (i, true)
    else probe s obj off bits id f ((i + 1) % 2 ^ bits)
/-- The bytes [15:8] that a hash holds for an ID. -/
def hashFind (s : State) (obj : U32) (off bits id len : Nat) : Option Nat :=
  match s.probe obj off bits id (2 ^ bits) (idHash id bits) with
  | some (i, true) => some (s.rdNat obj (off + 16 * i + 8) len)
  | _ => none
/-- The state with an ID entered in a hash, or its entry pointed anew. -/
def hashPut (s : State) (obj : U32) (off bits id v : Nat) : State :=
  match s.probe obj off bits id (2 ^ bits) (idHash id bits) with
  | none => s
  | some (i, _) => s.wr obj (off + 16 * i) (toLE 6 id ++ [1, 0] ++ toLE 8 v)

/-- The main slot that holds an ID live. -/
def liveSlot? (s : State) (h : Shard) (id : Nat) : Option Nat :=
  match s.hashFind h.id h.mofs h.mbits id 8 with
  | none => none
  | some i => if s.tomb h i then none else some i
/-- The side entry that holds an ID live. -/
def liveSide? (s : State) (h : Shard) (id : Nat) : Option Nat :=
  match s.hashFind h.id h.hofs h.sbits id 4 with
  | none => none
  | some j => if s.sideDead h j then none else some j

end State

/-! ### Exact scores (R194) -/

/-- A sum of exact values. -/
def sumVals (l : List Val) : Val := l.foldl Val.add (.fin false Dy.zero)
/-- An exact sum rounded once; a real zero is +0. -/
def roundVal (v : Val) : F32 := match v with | .fin _ d => F32.ofDy d | v => F32.of v
/-- An exact value with its sign turned. -/
def Val.negate : Val → Val
  | .nan => .nan
  | .inf n => .inf (!n)
  | .fin n d => .fin (!n) { m := -d.m, e := d.e }

/-- s of a query against a stored vector (R194). -/
def exactScore (metric : Nat) (q : List F32) (v : List Val) : F32 :=
  roundVal (sumVals ((q.zip v).map (fun p =>
    let x := F32.val p.1
    match metric with
    | 2 =>
      let inf0 := p.1.isInf && (match p.2 with | .fin _ d => decide (d.m = 0) | _ => false)
      if inf0 then Val.nan else let d := x.add p.2.negate; (d.mul d).negate
    | _ => x.mul p.2)))

/-- Σ v_d² of a stored vector, exact and rounded once (R193). -/
def squareNorm (v : List Val) : F32 := roundVal (sumVals (v.map (fun x => x.mul x)))
/-- A vector's sketch score (R200). -/
def sketchScore (q x : List F32) : F32 := treeSum ((q.zip x).map (fun p => F32.mul p.1 p.2))

/-! ### Ranked entries (R206, R225) -/

/-- A ranked entry: ID, source, score, version; the attribute word while it is filtered. -/
structure Ranked where
  id    : Nat
  src   : Nat
  score : F32
  ver   : Nat
  attr  : Nat
deriving DecidableEq, Repr

/-- SIDE. -/
def Ranked.side (r : Ranked) : Bool := r.ver.testBit 31
/-- The epoch. -/
def Ranked.epoch (r : Ranked) : Nat := r.ver % 2 ^ 31
/-- A number that rises with the rank: scores descending, equal scores by ascending ID (R50, R225). -/
def Ranked.key (r : Ranked) : Nat := (2 ^ 31 - F32.key r.score).toNat * 2 ^ 48 + r.id
/-- Entries in rank order, NaN dropped. -/
def ranked (l : List Ranked) : List Ranked := sortOn Ranked.key (l.filter (fun r => !r.score.isNan))
/-- An entry's 16 bytes. -/
def Ranked.bytes (r : Ranked) : Bytes := toLE 6 r.id ++ toLE 2 r.src ++ toLE 4 r.score ++ toLE 4 r.ver
/-- A padding entry (R206). -/
def padEntry : Bytes := toLE 6 noId ++ [0, 0] ++ toLE 4 F32.negInf ++ [0, 0, 0, 0]
/-- An entry from its bytes. -/
def Ranked.of (b : Bytes) : Ranked := { id := fld b 0 6, src := fld b 6 2, score := fld b 8 4, ver := fld b 12 4, attr := 0 }
/-- k entries' bytes. -/
def listBytes (k : Nat) (l : List Ranked) : Bytes :=
  ((l.take k).map Ranked.bytes).flatten ++ (List.replicate (k - l.length) padEntry).flatten

/-- Whether x is kept before y, entries of one ID (R239). -/
def Ranked.beats (x y : Ranked) : Bool :=
  if x.side != y.side then x.side
  else if x.epoch ≠ y.epoch then decide (y.epoch < x.epoch)
  else decide (x.src % 1024 < y.src % 1024) || (decide (x.src % 1024 = y.src % 1024) && decide (x.src / 1024 < y.src / 1024))
/-- Rule 4 decides two entries: same ID, version and SIDE, different scores (R239, R241). -/
def Ranked.conflicts (x y : Ranked) : Bool :=
  x.id == y.id && x.side == y.side && x.epoch == y.epoch && x.score != y.score
/-- The entries kept under R239, and those removed. -/
def resolve (l : List Ranked) : List Ranked × List Ranked :=
  let lost := fun (p : Ranked × Nat) =>
    l.zipIdx.any (fun o => o.1.id == p.1.id && o.2 != p.2 && (o.1.beats p.1 || (!p.1.beats o.1 && decide (o.2 < p.2))))
  ((l.zipIdx.filter (fun p => !lost p)).map Prod.fst, (l.zipIdx.filter lost).map Prod.fst)
/-- The higher-numbered source device of each two entries in conflict, each device once (R241, R431). -/
def conflictDevices (l : List Ranked) : List Nat :=
  ((l.map (fun x => (l.filter x.conflicts).map (fun y => max (x.src % 1024) (y.src % 1024)))).flatten).dedup

/-! ### The graph walk (R201, R202) -/

/-- What a walk is given. -/
structure Graph where
  ef      : Nat
  slack   : F32
  entries : List Nat
  next    : List (Nat × List Nat)     -- node and its neighbours in record order
  nodes   : List (Nat × F32 × F32 × Nat × Bool)   -- node, exact score, sketch score, ID, tombstoned
deriving Repr

/-- The walk so far: the beam in order with whether each node is expanded, the visited nodes, the hops; and the nodes whose vectors, sketches and
records it has read. -/
structure Walk where
  beam     : List (Ranked × Nat × Bool)
  visited  : List Nat
  hops     : Nat
  scored   : List Nat
  sketched : List Nat
  expanded : List Nat
deriving Repr

/-- What a walk knows of a node: exact score, sketch score, ID, tombstoned. -/
def Graph.node (g : Graph) (m : Nat) : F32 × F32 × Nat × Bool := ((g.nodes.find? (fun e => e.1 == m)).map Prod.snd).getD (F32.nan, F32.nan, noId, false)

/-- A node put into the beam, the last one dropped past ef′; a node whose score is NaN does not enter (log 38). -/
def Walk.insert (w : Walk) (g : Graph) (m : Nat) : Walk :=
  let (sc, _, id, _) := g.node m
  let w := { w with scored := m :: w.scored }
  if sc.isNan then w
  else { w with beam := (insertOn (fun e => e.1.key) ({ id := id, src := 0, score := sc, ver := 0, attr := 0 }, m, false) w.beam).take g.ef }

/-- One neighbour considered (R201). -/
def Walk.visit (w : Walk) (g : Graph) (m : Nat) : Walk :=
  if w.visited.contains m then w
  else
    let full := decide (g.ef ≤ w.beam.length)
    let w1 := { w with visited := m :: w.visited, sketched := if full then m :: w.sketched else w.sketched }
    let (_, sk, _, tomb) := g.node m
    let last := (w.beam.getLast?).map (fun e => e.1.score)
    let cut := full && (match last with | none => false | some l => !(F32.add sk g.slack).isNan && F32.lt (F32.add sk g.slack) l)
    if cut then w1 else ({ w1 with hops := w1.hops + (if tomb then 1 else 0) } : Walk).insert g m

/-- The first unexpanded node expanded, until there is none, with fuel. -/
def Walk.run (g : Graph) : Nat → Walk → Walk
  | 0, w => w
  | f + 1, w =>
    match w.beam.find? (fun e => !e.2.2) with
    | none => w
    | some (_, n, _) =>
      let w1 := { w with beam := w.beam.map (fun e => if e.2.1 = n then (e.1, e.2.1, true) else e), expanded := n :: w.expanded }
      let ns := ((g.next.find? (fun e => e.1 == n)).map Prod.snd).getD []
      Walk.run g f (ns.foldl (fun u m => u.visit g m) w1)

/-- The whole walk. -/
def Graph.walk (g : Graph) : Walk :=
  let start : Walk := { beam := [], visited := [], hops := 0, scored := [], sketched := [], expanded := [] }
  let w0 := g.entries.foldl (fun w e => if w.visited.contains e then w else ({ w with visited := e :: w.visited } : Walk).insert g e) start
  Walk.run g (g.nodes.length + 1) w0

namespace State

/-- The neighbours in a node record, unused entries skipped (R200). -/
def neighbours (s : State) (h : Shard) (i : Nat) : List Nat :=
  let off := (s.graphOffs h).1 + i * h.nodeLen
  ((List.range h.degree).map (fun k => s.rdNat h.gobj (off + 5 * k) 5)).filter (fun m => decide (m < h.slots))
/-- The entry slots of a graph. -/
def entrySlots (s : State) (h : Shard) : List Nat :=
  ((List.range (s.rdNat h.gobj 5 1)).map (fun k => s.rdNat h.gobj (128 + 8 * k) 8)).filter (fun m => decide (m < h.slots))
/-- A slot's sketch. -/
def sketch (s : State) (h : Shard) (i : Nat) : List F32 :=
  decodeF32 5 h.dims (s.rd h.gobj ((s.graphOffs h).2 + i * h.sketchLen) h.sketchLen)
/-- A shard's graph for a query. -/
def graphFor (s : State) (h : Shard) (ef : Nat) (slack : F32) (q : List F32) : Graph :=
  { ef := ef, slack := slack, entries := s.entrySlots h
    next := (List.range h.slots).map (fun i => (i, s.neighbours h i))
    nodes := (List.range h.slots).map (fun i =>
      (i, exactScore h.metric q (decodeVals h.vfmt h.dims (s.slotVec h i)), sketchScore q (s.sketch h i), s.slotId h i, s.tomb h i)) }

/-! ### What the device computes at LOAD (R193) -/

/-- The dimension records at LOAD: lo = o − ½Δ, hi = o + (qmax + ½)Δ, each exact and rounded once (R193). -/
def openDim (qmax : Nat) (r : DimRec) : DimRec :=
  let o := F32.dy r.o
  let dl := F32.dy r.dl
  { r with lo := F32.ofDy (o.sub (dl.scale (-1))), hi := F32.ofDy (o.add { m := dl.m * (2 * (qmax : Int) + 1), e := dl.e - 1 }) }
/-- A shard's dimension records. -/
def dimRecs (s : State) (h : Shard) : List DimRec := (List.range h.dims).map (fun d => DimRec.ofBytes (s.rd h.id (h.dofs + 16 * d) 16))
/-- The bytes of a slot's codes (R68). -/
def codeBytes (code : Nat) (cs : List Nat) : Bytes := if code = 0 then nibbles cs else cs.map (BitVec.ofNat 8)
/-- A vector's codes, the records widened to take it in; a vector with a NaN is never coded (R70, R80). -/
def codeVector (qmax : Nat) (rs : List DimRec) (v : List F32) : List DimRec × Option (List Nat) :=
  if v.any F32.isNan then (rs, none)
  else
    let rs' := (rs.zip v).map (fun p => p.1.widen p.2)
    (rs', some ((rs'.zip v).map (fun p => p.1.code qmax p.2)))
/-- The state with every slot coded in order from the vector object, and the records written. -/
def codeShard (s : State) (h : Shard) : State :=
  let rs0 := (s.dimRecs h).map (openDim h.qmax)
  let (rs, t) := (List.range h.slots).foldl (fun (a : List DimRec × State) i =>
    let (rs', cs) := codeVector h.qmax a.1 (decodeF32 h.vfmt h.dims (s.slotVec h i))
    (rs', match cs with | none => a.2 | some l => a.2.wr h.id (h.cofs + i * h.codeLen) (codeBytes h.code l))) (rs0, s)
  t.wr h.id h.dofs ((rs.map DimRec.toBytes).flatten)
/-- The state with every slot's nrm written, for squared Euclidean (R193). -/
def normShard (s : State) (h : Shard) : State :=
  if h.metric = 2 then
    (List.range h.slots).foldl (fun t i =>
      t.wr h.id (h.rofs + 16 * i + 8) (toLE 4 (squareNorm (decodeVals h.vfmt h.dims (s.slotVec h i))))) s
  else s
/-- The state with the ID map built. -/
def mapShard (s : State) (h : Shard) : State :=
  (List.range h.slots).foldl (fun t i => t.hashPut h.id h.mofs h.mbits (t.slotId h i) i) (s.clearObj h.id h.mofs (16 * 2 ^ h.mbits))
/-- The state with the sketches of the graph computed (R200). -/
def sketchShard (s : State) (h : Shard) : State :=
  if h.degree = 0 then s
  else
    let k := (s.graphOffs h).2
    (List.range h.slots).foldl (fun t i =>
      t.wr h.gobj (k + i * h.sketchLen) (encodeRow 5 none (decodeF32 h.vfmt h.dims (s.slotVec h i)))) s

/-- The ranges of the header fields that the device writes, and the zeros around them (R191, R193). -/
def shardDeviceOk (s : State) (id : U32) : Bool :=
  let b := s.rd id 0 256
  let h := s.shard id
  decide (h.scount ≤ h.scap) && decide (h.sdead ≤ h.scount) && decide (h.lcount ≤ logRoom) && decide (h.mstate ≤ 2) && zeroBytes b 141 143 &&
  decide (h.tcount ≤ h.slots) && decide (h.mtarget < 2 ^ 32) && zeroBytes b 160 255
/-- The main slots of the device's shards, an object's own among them (R223). -/
def slotTotal (s : State) (id : U32) : Nat :=
  (s.shard id).slots + ((s.shards.filter (fun e => decide (e.2 ≠ id))).map (fun e => (s.shard e.2).slots)).sum

/-- Whether a shard object passes the checks of its LOAD (R193).  A shard that would take the device past its 2^33 main slots is refused with the
header fields outside their range (R223, log 128). -/
def shardLoadOk (s : State) (id : U32) : Bool :=
  let h := s.shard id
  let ids := (List.range h.slots).map (s.slotId h)
  s.shardOk id && s.shardDeviceOk id && decide (s.slotTotal id ≤ 2 ^ 33) && s.tier2Ok h.vobj (h.slots * h.vstride) && (h.degree == 0 || s.graphOk h) && ids.all (fun i => i != noId) &&
  decide ((firstIds ids).length = ids.length)
where
  /-- The distinct IDs of a list. -/
  firstIds (l : List Nat) : List Nat := l.foldl (fun acc x => if acc.contains x then acc else x :: acc) []

/-- The state after the device computes its parts of a shard (R193). -/
def buildShard (s : State) (id : U32) : State :=
  let h := s.shard id
  (((s.codeShard h).normShard h).mapShard h).sketchShard h

end State
end Sys2Proof.Machine
end

