-- ==== Sys2Proof/Machine/Queries.lean ====
section
/-! DEFINITION. What a QUERY's step holds of its queries: search lists, store records, re-rank pairs, re-ranked lists (R284 to R289). -/

namespace Sys2Proof.Machine

/-- Bytes of a store record with its padding (R285). -/
def storeLen (ntok nfeat : Nat) : Nat := 16 + roundUp (4 * ntok) 8 + 8 * nfeat

/-- A store record's tokens (R285). -/
def storeTokens (b : Bytes) : List Nat := (List.range (fld b 6 2)).map (fun i => fld b (16 + 4 * i) 4)
/-- A store record's feature IDs (R285). -/
def storeFeatures (b : Bytes) : List Nat := (List.range (fld b 8 2)).map (fun i => fld b (16 + roundUp (4 * fld b 6 2) 8 + 8 * i) 8)

/-- The pair that the entry at a rank forms at its re-rank device, with its Gorge bag (R287, R288).  The bag's query tokens are the pair's, after the cut
(log 131). -/
def pairOf (x : Pipeline) (t : Template) (tokens : List Nat) (rank : Nat) (r : Bytes) : RerankPair :=
  let q := tokens.take (x.rcap - t.rfixed - 1)
  let p := (storeTokens r).take (x.rcap - t.rfixed - q.length)
  { device := x.rdev.getD (rank % x.rworkers) 0
    tokens := t.rframe.flatMap (fun g => match g.kind with | 0 => t.lit g | 1 => q | _ => p)
    bag := storeFeatures r ++ q.map (fun k => 2 ^ 63 ||| k) }

/-- The re-ranked list of scored entries in rank order: each keeps its fields, with its new score (R289). -/
def rerankedList (list : List Bytes) (scored : List (Nat × F32)) : List Bytes :=
  scored.filterMap (fun p => (list.find? (fun e => fld e 0 6 == p.1)).map (fun e => ({ Ranked.of e with score := p.2 } : Ranked).bytes))

namespace State

/-- A passage store's header (R285). -/
def storeOk (s : State) (id : U32) : Bool :=
  let b := s.rd id 0 64
  (match s.obj? id with | none => false | some o => o.kind == 0x01 && o.readOnly && decide (1 ≤ o.tier.toNat) && decide (o.tier.toNat ≤ 2)) &&
  s.fits id 0 64 && fld b 0 4 == 0x53534750 && fld b 4 2 == 1 && decide (1 ≤ fld b 6 1) && decide (fld b 6 1 ≤ 35) && zeroBytes b 7 7 &&
  zeroBytes b 32 63 && s.fits id (fld b 16 8) (16 * 2 ^ fld b 6 1)
/-- The record of a passage in a store, by its hash; none for an ID it does not hold (R285, R286). -/
def storeRecord? (s : State) (id : U32) (pid : Nat) : Option Bytes :=
  if !s.resident [⟨id, 0, 0, false⟩] || !s.storeOk id then none
  else match s.hashFind id (s.rdNat id 16 8) (s.rdNat id 6 1) pid 8 with
    | none => none
    | some o =>
      let p := s.rdNat id 24 8 + o
      some (s.rd id p (storeLen (s.rdNat id (p + 6) 2) (s.rdNat id (p + 8) 2)))
/-- The store record of a search entry: from this device's store, or what the holder its source names returns (R286, log 131). -/
def fetchRecord (s : State) (x : Pipeline) (e : Bytes) : Option Bytes :=
  let device := fld e 6 2 % 1024
  if device = s.regs.treeIndex.toNat then s.storeRecord? x.pstore (fld e 0 6) else Config.storeRecord device (fld e 0 6)

/-- What the top manager reads of its own passage store for its entries among the first ntop of each list: the header, and the records it holds (R286). -/
def storeReads (s : State) (x : Pipeline) (lists : List (List Ranked)) : List Access :=
  if (s.obj? x.pstore).isNone then []
  else
    let mine := (lists.flatMap (fun l => (l.take x.ntop).map Ranked.bytes)).filter (fun e => decide (fld e 6 2 % 1024 = s.regs.treeIndex.toNat))
    if mine.isEmpty then []
    else ⟨x.pstore, 0, 64, false⟩ :: mine.filterMap (fun e => (s.hashFind x.pstore (s.rdNat x.pstore 16 8) (s.rdNat x.pstore 6 1) (fld e 0 6) 8).map (fun o =>
      let p := s.rdNat x.pstore 24 8 + o
      (⟨x.pstore, p, storeLen (s.rdNat x.pstore (p + 6) 2) (s.rdNat x.pstore (p + 8) 2), false⟩ : Access)))

/-- The search list of a query of a QUERY's step: its entries' records fetched, its pairs formed with RERANK set, and without it its re-ranked list
(R284, R286 to R289). -/
def queryList (s : State) (x : Pipeline) (list : List Ranked) (record : Bytes) (integrity : Bool) (w : QueryWork) : QueryWork :=
  let l := list.map Ranked.bytes
  let top := l.take x.ntop
  let found := top.map (s.fetchRecord x)
  { w with list := l, record := record, integrity := integrity, found := found
           pairs := if x.rerank then found.zipIdx.map (fun (r, k) => r.map (pairOf x (s.template x.tmpl) w.tokens k)) else []
           ranked := if x.rerank then [] else (top.zip found).filterMap (fun e => e.2.map (fun _ => e.1)) }

/-- The pipeline record of the QUERY that a SEARCH or MERGE over n queries gives its search lists: the command is the one that R284 gives the record (`asks`);
none for any other command (log 131). -/
def listsFor? (s : State) (c : CtxId) (q : SeqId) (engine n : Nat) (asks : Desc → Pipeline → Bool) : Option Pipeline :=
  match (s.ctx c).runOf q engine with
  | none => none
  | some r => if descOp r.d = 0x01 ∧ n = descField r.d 16 8 ∧ asks r.d (s.recordOf r.d) = true then some (s.recordOf r.d) else none

/-- A SEARCH or MERGE of a QUERY's step over all its queries gives each its search list; a later one takes its place (R284). -/
def noteLists (s : State) (c : CtxId) (q : SeqId) (engine : Nat) (asks : Desc → Pipeline → Bool) (lists : List (List Ranked × Bytes × Bool)) : State :=
  match s.listsFor? c q engine lists.length asks with
  | none => s
  | some x =>
      lists.zipIdx.foldl (fun t e => t.modWork c q engine e.2 (s.queryList x e.1.1 e.1.2.1 e.1.2.2)) s

/-- A TOPK that ranks the scored entries of a QUERY's step gives each query its re-ranked list: RERANK set, by index over global IDs in index order,
k of ntop, a row a query (R289). -/
def noteReranked (s : State) (c : CtxId) (q : SeqId) (byId : Bool) (k : Nat) (rows : List (List (Nat × F32))) : State :=
  match (s.ctx c).runOf q 6 with
  | none => s
  | some r =>
    let x := s.recordOf r.d
    if descOp r.d = 0x01 ∧ x.rerank ∧ byId ∧ k = x.ntop ∧ rows.length = descField r.d 16 8 then
      rows.zipIdx.foldl (fun t e => t.modWork c q 6 e.2 (fun w => { w with ranked := rerankedList (w.list.take x.ntop) e.1 })) s
    else s

end State
end Sys2Proof.Machine
end

