-- ==== Sys2Proof/Machine/Glen.lean ====
section
/-! DEFINITION. Glen's commands: SEARCH (R195 to R212) and WRITE (R213 to R216). -/

namespace Sys2Proof.Machine

/-! ### SEARCH -/

/-- The fields of a SEARCH block (R203). -/
structure Search where
  graph  : Bool
  widen  : Bool
  fshare : Bool
  ofetch : Nat
  k      : Nat
  ef     : Nat
  mask   : Nat
  q      : Nat
  qobj   : U32
  fobj   : U32
  oobj   : U32
  robj   : U32
  qoff   : Nat
  foff   : Nat
  ooff   : Nat
  roff   : Nat
  slack  : F32
deriving DecidableEq, Repr

def Search.of (b : Bytes) : Search :=
  { graph := bitAt b 1 0, widen := bitAt b 1 1, fshare := bitAt b 1 2, ofetch := fld b 3 1, k := fld b 4 2, ef := fld b 6 2, mask := fld b 8 8,
    q := fld b 16 4, qobj := fldObj b 20, fobj := fldObj b 24, oobj := fldObj b 28, robj := fldObj b 32, qoff := fld b 36 4,
    foff := fld b 40 4, ooff := fld b 44 4, roff := fld b 48 4, slack := fld b 52 4 }

/-- The SEARCH that R284 gives a QUERY's devices: the record's depth, overfetch, WIDEN and mask, and the descriptor's filter records (R284). -/
def Search.serves (x : Search) (d : Desc) (p : Pipeline) : Bool :=
  decide (x.k = p.depth) && decide (x.ofetch = p.ofetch) && x.widen == p.widen && decide (x.mask = p.mask) &&
  (x.fobj == 0) == (descField d 40 8 == 0) && (x.fobj == 0 || x.fshare == bitAt d.bytes 48 0)

/-- The shard numbers of a mask, ascending. -/
def maskShards (m : Nat) : List Nat := (List.range 64).filter (fun n => m.testBit n)
/-- Filter records a command reads. -/
def Search.filters (x : Search) : Nat := if x.fobj = 0 then 0 else if x.fshare then 1 else x.q

/-- A filter record whose fields lie in their ranges (R205). -/
def filterOk (b : Bytes) : Bool :=
  decide (fld b 0 1 ≤ 4) && decide (fld b 1 1 ≤ 1) && zeroBytes b 2 7 && zeroBytes b 104 127 &&
  (List.range (fld b 0 1)).all (fun t => decide (fld b (8 + 24 * t + 16) 1 ≤ 1) && zeroBytes b (8 + 24 * t + 17) (8 + 24 * t + 23))
/-- Whether an attribute word passes a filter record (R205). -/
def passesFilter (b : Bytes) (attr : Nat) : Bool :=
  let terms := (List.range (fld b 0 1)).map (fun t =>
    let o := 8 + 24 * t
    let eq := (attr &&& fld b o 8) == fld b (o + 8) 8
    if fld b (o + 16) 1 = 0 then eq else !eq)
  if terms.isEmpty then true else if fld b 1 1 = 0 then terms.all id else terms.any id

/-- A shard's ranking in a round, its hops, and what the round reads of slots and of the graph. -/
structure Ranking where
  entries : List Ranked
  hops    : Nat
  reads   : List Access
deriving Repr

/-- What a shard gives a query: its last ranking, the entries of it that pass, its rounds and hops; and what all its rounds read. -/
structure ShardResult where
  ranking : List Ranked
  passing : List Ranked
  rounds  : Nat
  hops    : Nat
  reads   : List Access
deriving Repr

/-- A query's list and result record, the devices its entries conflict at, whether it is SHORT and has ties, and what it reads. -/
structure QueryResult where
  list    : List Ranked
  record  : Bytes
  devices : List Nat
  short   : Bool
  ties    : Bool
  reads   : List Access
deriving Repr

namespace State

/-- The source field of this device's entries of a shard (R206). -/
def srcField (s : State) (n : Nat) : Nat := s.regs.treeIndex.toNat + 1024 * n

/-- A shard's live side entries as ranked entries (R195, R206). -/
def sideRanked (s : State) (n : Nat) (h : Shard) (q : List F32) : List Ranked :=
  (s.liveSide h).map (fun j =>
    { id := s.sideId h j, src := s.srcField n, score := exactScore h.metric q (decodeVals h.vfmt h.dims (s.sideVec h j)),
      ver := h.epoch + 2 ^ 31, attr := s.sideAttr h j })
/-- The IDs live in a shard's side list. -/
def sideIds (s : State) (h : Shard) : List Nat := (s.liveSide h).map (s.sideId h)
/-- A main slot as a ranked entry with a score. -/
def slotRanked (s : State) (n : Nat) (h : Shard) (i : Nat) (sc : F32) : Ranked :=
  { id := s.slotId h i, src := s.srcField n, score := sc, ver := h.epoch, attr := s.slotAttr h i }

/-- What scoring a main slot exactly reads: its record and its vector (R192, R197). -/
def slotReads (h : Shard) (i : Nat) : List Access := [⟨h.id, h.rofs + 16 * i, 16, false⟩, ⟨h.vobj, i * h.vstride, h.vstride, false⟩]
/-- What scanning a main slot reads: its codes too (R196).  That every slot with a clear tombstone bit is refined, so that its vector is read, is the
model's reading of an open number (R198, log 18). -/
def scanReads (h : Shard) (i : Nat) : List Access := ⟨h.id, h.cofs + i * h.codeLen, h.codeLen, false⟩ :: slotReads h i
/-- What a walk reads: the graph's header, the sketches it compares, the records it expands, the vectors it scores (R201). -/
def walkReads (s : State) (h : Shard) (w : Walk) : List Access :=
  let (n, k) := s.graphOffs h
  ⟨h.gobj, 0, 256, false⟩ :: (w.sketched.map (fun m => (⟨h.gobj, k + m * h.sketchLen, h.sketchLen, false⟩ : Access)) ++
    w.expanded.map (fun m => (⟨h.gobj, n + m * h.nodeLen, h.nodeLen, false⟩ : Access)) ++ (w.scored.map (slotReads h)).flatten)

/-- The attribute words of the main slots among a ranking's entries, which a filter tests (R209). -/
def filterReads (s : State) (x : Search) (h : Shard) (main : List Nat) (l : List Ranked) : List Access :=
  if x.fobj = 0 then [] else
    (main.filter (fun i => l.any (fun e => e.id == s.slotId h i))).map (fun i => (⟨h.id, h.aofs + 8 * i, 8, false⟩ : Access))

/-- A shard's ranking in a round: its first K′ live passages in exact mode (R195), or the best of the beam and the side list (R201). -/
def shardRanking (s : State) (x : Search) (n : Nat) (h : Shard) (q : List F32) (k' : Nat) : Ranking :=
  let side := s.sideRanked n h q
  let ids := s.sideIds h
  if x.graph then
    let w := (s.graphFor h (max x.ef k') x.slack q).walk
    let cands := (w.beam.filter (fun e => !s.tomb h e.2.1 && !ids.contains e.1.id)).map (fun e => s.slotRanked n h e.2.1 e.1.score)
    let l := (ranked (cands ++ side)).take k'
    let main := (w.beam.map (fun e => e.2.1)).filter (fun i => !s.tomb h i && !ids.contains (s.slotId h i))
    { entries := l, hops := w.hops, reads := s.walkReads h w ++ s.filterReads x h main l }
  else
    let clear := (List.range h.slots).filter (fun i => !s.tomb h i)
    let main := clear.filter (fun i => !ids.contains (s.slotId h i))
    let cands := main.map (fun i => s.slotRanked n h i (exactScore h.metric q (decodeVals h.vfmt h.dims (s.slotVec h i))))
    let l := (ranked (cands ++ side)).take k'
    { entries := l, hops := 0, reads := (clear.map (scanReads h)).flatten ++ s.filterReads x h main l }

/-- Whether a ranking depth keeps to the limits of R204. -/
def depthOk (x : Search) (k' : Nat) : Bool :=
  decide (k' ≤ 65536) && decide (x.q * k' ≤ 1048576) && (!x.graph || decide (k' ≤ 4096))

/-- The rounds of a shard for a query (R209, R210), with fuel.  DESIGN CHOICE (log 140): the hops a shard reports are those of its last round, as its
ranking and its filtered entries are. -/
def shardRounds (s : State) (x : Search) (n : Nat) (h : Shard) (q : List F32) (pass : Nat → Bool) : Nat → Nat → Nat → ShardResult
  | 0, f, r =>
    let l := s.shardRanking x n h q (x.k * f)
    { ranking := l.entries, passing := l.entries.filter (fun e => pass e.attr), rounds := r, hops := l.hops, reads := l.reads }
  | fuel + 1, f, r =>
    let l := s.shardRanking x n h q (x.k * f)
    let ps := l.entries.filter (fun e => pass e.attr)
    if x.k ≤ ps.length ∨ !x.widen ∨ !depthOk x (x.k * (2 * f)) then
      { ranking := l.entries, passing := ps, rounds := r, hops := l.hops, reads := l.reads }
    else
      let next := shardRounds s x n h q pass fuel (2 * f) (r + 1)
      { next with reads := l.reads ++ next.reads }

/-- One query of a SEARCH (R207 to R212). -/
def searchQuery (s : State) (x : Search) (q : List F32) (pass : Nat → Bool) : QueryResult :=
  let shards := (maskShards x.mask).filterMap (fun n => (s.shards.get? n).map (fun id => (n, s.shard id)))
  let rs := shards.map (fun p => s.shardRounds x p.1 p.2 q pass 4 x.ofetch 0)
  let kept := (rs.map (fun r => r.passing.take x.k)).flatten
  let (win, lost) := resolve kept
  let out := (ranked win).take x.k
  let ties := match (out.drop (x.k - 1)).head? with
    | none => 0
    | some e =>
      (((rs.map (fun r => r.passing)).flatten).filter (fun p => F32.eq p.score e.score && !out.contains p && !lost.contains p)).length
  let short := decide (out.length < x.k)
  let side := (shards.map (fun p => (s.liveSide p.2).length)).sum
  let record := toLE 4 out.length ++ [if short then 1 else 0, BitVec.ofNat 8 ((if x.graph then 1 else 0) + (if ties = 0 then 0 else 2)),
      BitVec.ofNat 8 ((rs.map (fun r => r.rounds)).foldl max 0), 0] ++
    toLE 4 ((rs.map (fun r => r.ranking.length - r.passing.length)).sum) ++ toLE 4 ties ++ toLE 4 ((rs.map (fun r => r.hops)).sum) ++
    toLE 4 lost.length ++ toLE 4 side ++ [0, 0, 0, 0]
  { list := out, record := record, devices := conflictDevices kept, short := short, ties := ties != 0, reads := (rs.map (fun r => r.reads)).flatten }

/-- Queries a command's rows hold. -/
def searchDims (s : State) (x : Search) : Nat :=
  match (maskShards x.mask).filterMap (fun n => s.shards.get? n) with
  | [] => 0
  | id :: _ => (s.shard id).dims

/-- The outcomes of a SEARCH or MERGE noted for the step (R208, R243, R295, R515): codes, and the records it writes in place of those it takes in,
whose SHORT and ties are the descriptor's only while no later MERGE takes them in. -/
def noteRanked (s : State) (c : CtxId) (q : SeqId) (engine : Nat) (codes : List Code) (taken : RankOut → Bool) (outs : List RankOut) : State :=
  s.modCtx c (fun y => y.modRun q engine (fun r =>
    { r with codes := codes ++ r.codes
             ranks := r.ranks.filter (fun o => !taken o && !outs.any (fun p => decide (p.obj = o.obj) && decide (p.off = o.off))) ++ outs }))

/-- The queries of a SEARCH. -/
def searchQueries (s : State) (x : Search) : List QueryResult :=
  let dims := s.searchDims x
  (List.range x.q).map (fun i =>
    let q := decodeF32 0 dims (s.rd x.qobj (x.qoff + 4 * dims * i) (4 * dims))
    let pass := fun a => x.fobj == 0 || passesFilter (s.rd x.fobj (x.foff + 128 * (if x.fshare then 0 else i)) 128) a
    s.searchQuery x q pass)

/-- Errors counted at source devices, each device once (R241, R431). -/
def countDevices (s : State) (ds : List Nat) : State :=
  ds.dedup.foldl (fun t d => t.countLoc false { kind := 0xD, a := 0, b := 0, c := 0, row := BitVec.ofNat 32 d }) s

/-- The effect of a SEARCH (R195 to R212).  The counts behind the GLEN class are free (R198, log 18). -/
def searchEff (s : State) (c : CtxId) (x : Search) : State :=
  let out := s.searchQueries x
  let s1 := (out.zipIdx).foldl (fun t (r, i) =>
    (t.wr x.oobj (x.ooff + i * x.k * 16) (listBytes x.k r.list)).wr x.robj (x.roff + 32 * i) r.record) s
  let devices := (out.map QueryResult.devices).flatten
  let s2 := s1.countDevices devices
  let codes := (if devices.isEmpty then [] else [Code.integrity]) ++ (if x.graph then [Code.approx] else [])
  let outs := out.zipIdx.map (fun (r, i) => ({ obj := x.robj, off := x.roff + 32 * i, short := r.short, ties := r.ties } : RankOut))
  let (f1, s3) := s2.freeWord
  let (f2, s4) := s3.freeWord
  ((s4.noteRanked c .glenRefine 3 codes (fun _ => false) outs).noteLists c .glenRefine 3 x.serves
    (out.map (fun r => (r.list, r.record, !r.devices.isEmpty)))).modCtx c (fun y =>
    { y with refined := BitVec.ofNat 32 f1, occupancy := BitVec.ofNat 32 f2 })

/-- The shard objects of a mask that are bound. -/
def maskObjs (s : State) (x : Search) : List (Option U32) := (maskShards x.mask).map (fun n => s.shards.get? n)
/-- The shards of a mask. -/
def maskHdrs (s : State) (x : Search) : List Shard := (s.maskObjs x).filterMap (fun o => o.map s.shard)

/-- The checks of R204. -/
def searchOk (s : State) (c : CtxId) (copies : List Bytes) (b : Bytes) (x : Search) : Bool :=
  let hs := s.maskHdrs x
  let dims := s.searchDims x
  copies.all (fun b' => b' == b) && b.length == 64 && fld b 0 1 == 1 && zeroBits b 1 7 4 && zeroBits b 2 7 4 && zeroBytes b 56 63 &&
  (x.graph == (s.ctx c).modeNow.graph) &&
  (s.maskObjs x).all (fun o => match o with | none => false | some id => s.resident [⟨id, 0, 0, false⟩]) &&
  hs.all (fun h => h.metric == (hs.headD h).metric && h.dims == (hs.headD h).dims && (!x.graph || h.degree != 0)) &&
  decide (1 ≤ x.ofetch) && decide (x.ofetch ≤ 16) && decide (1 ≤ x.k) && decide (x.k ≤ 4096) && decide (1 ≤ x.q) && decide (x.q ≤ 64) &&
  (if x.graph then decide (16 ≤ x.ef) && decide (x.ef ≤ 4096) && !x.slack.isNan && !F32.lt x.slack 0
   else x.ef == 0 && x.slack == 0) &&
  depthOk x (x.k * x.ofetch) && decide (x.q * dims ≤ 65536) &&
  s.accOk c [0] ⟨x.qobj, x.qoff, 4 * dims * x.q, false⟩ && (x.fobj == 0 || s.accOk c [0] ⟨x.fobj, x.foff, 128 * x.filters, false⟩) &&
  s.accOk c [0] ⟨x.oobj, x.ooff, 16 * x.k * x.q, true⟩ && s.accOk c [0] ⟨x.robj, x.roff, 32 * x.q, true⟩ &&
  (x.fobj == 0 || !s.resident [⟨x.fobj, 0, 0, false⟩] ||
    (List.range x.filters).all (fun i => filterOk (s.rd x.fobj (x.foff + 128 * i) 128)))

/-- The ranges a SEARCH reads and writes: the header, tombstones, side list and side hash of each shard, its dimension records where codes are scanned,
and what its rounds read (R195 to R197, R209). -/
def searchAcc (s : State) (x : Search) : List Access :=
  let dims := s.searchDims x
  [⟨x.qobj, x.qoff, 4 * dims * x.q, false⟩, ⟨x.oobj, x.ooff, 16 * x.k * x.q, true⟩, ⟨x.robj, x.roff, 32 * x.q, true⟩] ++
  (if x.fobj = 0 then [] else [⟨x.fobj, x.foff, 128 * x.filters, false⟩]) ++
  ((s.maskHdrs x).map (fun h =>
    ([⟨h.id, 0, 256, false⟩, ⟨h.id, h.tofs, ceilDiv h.slots 8, false⟩, ⟨h.id, h.sofs, h.sideStride * h.scount, false⟩,
      ⟨h.id, h.hofs, 16 * 2 ^ h.sbits, false⟩, ⟨h.vobj, 0, 0, false⟩] : List Access) ++
    (if x.graph then [⟨h.gobj, 0, 0, false⟩] else [⟨h.id, h.dofs, 16 * h.dims, false⟩]))).flatten ++
  ((s.searchQueries x).map QueryResult.reads).flatten

/-- What a SEARCH that gives a QUERY its lists reads of the passage store (R286). -/
def searchStore (s : State) (c : CtxId) (x : Search) : List Access :=
  match s.listsFor? c .glenRefine 3 x.q x.serves with
  | none => []
  | some p => s.storeReads p ((s.searchQueries x).map QueryResult.list)

/-- The copies a mode needs and whose commands they are (R203). -/
def searchIssuers (graph : Bool) : List (SeqId × Nat) :=
  if graph then [(.glenRefine, 3), (.glenWalk, 4), (.glenWalk, 5)]
  else [(.glenScanW, 2), (.glenScanE, 2), (.glenRefine, 3), (.glenWalk, 5)]

/-- Whether an install holds a command of one of the shards: one that had not started when the install began (R219). -/
def held (s : State) (c : CtxId) (on : Copies) (ns : List Nat) : Bool :=
  ns.any (fun n => s.installing.any (fun m => m.toNat == n) &&
    !s.installOpen.any (fun e => e.1 == n && on.any (fun p => p.1 == e.2.1 && p.2.1 == e.2.2.src && p.2.2 == e.2.2.b) && e.2.2.ctx == c))

/-- A Glen command: a vector, graph record or sketch in DDR5 that is poisoned stalls its reader (R222); else as every engine command. -/
def runGlen (s : State) (c : CtxId) (on : Copies) (allowed : Bool) (acc : List Access) (eff finish : State → State) : State :=
  match s.poisonedAccess acc with
  | some a =>
    if (s.ctx c).active && s.started c on && allowed && s.resident acc && (match s.obj? a.id with | none => false | some o => decide (o.tier = 2)) then
      s.stall c on a
    else s.runCommand c on allowed acc noPoisonRule eff finish
  | none => s.runCommand c on allowed acc noPoisonRule eff finish

/-- A SEARCH's or WRITE's copies wait while an install holds its shards, whose objects they name as the input waited on (R58, R219). -/
def waitHeld (s : State) (c : CtxId) (on : Copies) (ns : List Nat) : State :=
  if (s.ctx c).active && s.started c on then s.noteWait c on 0 (((ns.filterMap s.shards.get?).head?.map BitVec.toNat).getD 0) else s

/-- A SEARCH's copies in their engines' queues (R203). -/
def searchCopies (graph : Bool) (copies : List Bytes) : Copies :=
  ((searchIssuers graph).zip copies).map (fun p => (queueIx p.1.2 p.1.1, p.1.1, p.2))

end State

/-- SEARCH: starts when every copy its mode needs is present (R203), and waits while an install holds one of its shards (R219, log 7). -/
def execSearchCommand (c : CtxId) (copies : List Bytes) (s : State) : Host.Outcome State Fault Refusal :=
  let b := copies.headD []
  let x := Search.of b
  let who := State.searchIssuers x.graph
  let on := State.searchCopies x.graph copies
  .next (if copies.length ≠ who.length then s
    else if s.held c on (maskShards x.mask) then s.waitHeld c on (maskShards x.mask)
    else s.runGlen c on (s.searchOk c copies b x) (s.searchAcc x ++ s.searchStore c x) (fun t => t.searchEff c x)
      (fun t => who.foldl (fun u p => u.engineDone c p.1 p.2) t))

/-! ### WRITE -/

/-- The fields of a WRITE block (R213). -/
structure Write where
  op    : Nat
  shard : Nat
  n     : Nat
  vobj  : U32
  iobj  : U32
  aobj  : U32
  robj  : U32
  voff  : Nat
  ioff  : Nat
  aoff  : Nat
  roff  : Nat
deriving DecidableEq, Repr

def Write.of (b : Bytes) : Write :=
  { op := fld b 1 1, shard := fld b 4 1, n := fld b 8 4, vobj := fldObj b 12, iobj := fldObj b 16, aobj := fldObj b 20, robj := fldObj b 24,
    voff := fld b 28 4, ioff := fld b 32 4, aoff := fld b 36 4, roff := fld b 40 4 }

/-- A passage made ready for insertion (R214): its ID, attribute word, nrm and stored vector. -/
structure Passage where
  id    : Nat
  attr  : Nat
  nrm   : F32
  vec   : Bytes
deriving DecidableEq, Repr

/-- A stored vector that may be inserted: no NaN, and no infinity in FP16 or BF16 (R80, R214). -/
def storable (v : List Val) : Bool := v.all (fun x => match x with | .fin _ _ => true | _ => false)

/-- A supplied vector prepared (R193, R214). -/
def prepare (h : Shard) (id attr : Nat) (a : List F32) : Passage :=
  let v := if h.metric = 1 then l2normRow a else a
  let bs := encodeRow h.vfmt none v
  let nrm := match h.metric with
    | 1 => sqrt32 (treeSum (a.map (fun x => F32.mul x x)))
    | 2 => squareNorm (decodeVals h.vfmt h.dims bs)
    | _ => 0
  { id := id, attr := attr, nrm := nrm, vec := bs }

namespace State

/-- The state with a number written into a shard's header. -/
def setHdr (s : State) (id : U32) (lo n v : Nat) : State := s.wr id lo (toLE n v)
/-- A live main slot tombstoned, and tcount raised. -/
def tombstone (s : State) (id : U32) (i : Nat) : State :=
  let h := s.shard id
  let b := s.rdNat id (h.tofs + i / 8) 1
  (s.wr id (h.tofs + i / 8) (toLE 1 (b ||| 2 ^ (i % 8)))).setHdr id 144 8 (h.tcount + 1)
/-- A live side entry marked DEAD, and sdead raised. -/
def markDead (s : State) (id : U32) (j : Nat) : State :=
  let h := s.shard id
  let b := s.rdNat id (sideOff h j + 6) 1
  (s.wr id (sideOff h j + 6) (toLE 1 (b ||| 1))).setHdr id 132 4 (h.sdead + 1)
/-- An ID appended to the delete log while a merge is in progress (R214, R215). -/
def logId (s : State) (id : U32) (pid : Nat) : State :=
  let h := s.shard id
  if h.mstate = 0 then s
  else (s.wr id (h.lofs + 8 * h.lcount) (toLE 6 pid ++ [0, 0])).setHdr id 136 4 (h.lcount + 1)

/-- The bytes of a side entry (R192). -/
def sideEntry (p : Passage) (upd : Bool) : Bytes :=
  toLE 6 p.id ++ [if upd then 2 else 0, 0] ++ toLE 8 p.attr ++ toLE 4 p.nrm ++ List.replicate 12 0 ++ p.vec

/-- One passage inserted (R214): whether its ID was found live, and the state. -/
def insertOne (a : Nat × State) (id : U32) (p : Passage) : Nat × State :=
  let s := a.2
  let h := s.shard id
  let j := h.scount
  let side := s.liveSide? h p.id
  let main := s.liveSlot? h p.id
  let s1 := (s.wr id (sideOff h j) (sideEntry p main.isSome)).setHdr id 128 4 (j + 1)
  let s2 := s1.hashPut id h.hofs h.sbits p.id j
  let s3 := match side with | none => s2 | some k => s2.markDead id k
  let s4 := match main with | none => s3 | some i => s3.tombstone id i
  if side.isSome || main.isSome then (a.1 + 1, s4.logId id p.id) else (a.1, s4)

/-- One ID deleted (R215): IDs not found, and the state. -/
def deleteOne (a : Nat × State) (id : U32) (pid : Nat) : Nat × State :=
  let s := a.2
  let h := s.shard id
  let side := s.liveSide? h pid
  let main := s.liveSlot? h pid
  let s1 := match main with | none => s | some i => s.tombstone id i
  let s2 := match side with | none => s1 | some k => s1.markDead id k
  if side.isSome || main.isSome then (a.1, s2.logId id pid) else (a.1 + 1, s)

/-- The IDs a WRITE names. -/
def writeIds (s : State) (x : Write) : List Nat := (List.range x.n).map (fun i => s.rdNat x.iobj (x.ioff + 8 * i) 8)
/-- The passages an INSERT names, prepared. -/
def passages (s : State) (x : Write) (h : Shard) : List Passage :=
  ((s.writeIds x).zipIdx).map (fun (id, i) =>
    prepare h id (s.rdNat x.aobj (x.aoff + 8 * i) 8) (decodeF32 0 h.dims (s.rd x.vobj (x.voff + 4 * h.dims * i) (4 * h.dims))))

/-- A WRITE's record (R213) and the result and outcome of the INSERT or DELETE descriptor whose step runs it (R213, R378). -/
def writeDone (s : State) (c : CtxId) (x : Write) (applied live missing status : Nat) : State :=
  let s1 := s.wr x.robj x.roff (toLE 4 applied ++ toLE 4 live ++ toLE 4 missing ++ [BitVec.ofNat 8 status, 0, 0, 0])
  let code := match status with | 0 => [] | 1 => [Code.busy] | _ => [Code.protocol]
  s1.modCtx c (fun y => y.modRun .glenWalk 5 (fun r =>
    let mine := descOp r.d = 0x09 ∨ descOp r.d = 0x0A
    { r with codes := code ++ r.codes,
             result := if mine then BitVec.ofNat 64 (applied + 2 ^ 32 * (if x.op = 0 then live else missing)) else r.result }))

/-- The IDs an INSERT would log: those live before it or named earlier in it (R214). -/
def wouldLog (s : State) (h : Shard) (ids : List Nat) : Nat :=
  ((ids.zipIdx).filter (fun (id, i) => (s.liveSide? h id).isSome || (s.liveSlot? h id).isSome || (ids.take i).contains id)).length

/-- The IDs a DELETE finds live, each once, which it would log (R215). -/
def foundLive (s : State) (h : Shard) (ids : List Nat) : Nat :=
  (ids.dedup.filter (fun id => (s.liveSide? h id).isSome || (s.liveSlot? h id).isSome)).length

/-- The status of a WRITE before it changes anything: 0 applied, 1 BUSY, 2 refused (R213 to R215). -/
def writeStatus (s : State) (x : Write) (h : Shard) : Nat :=
  if x.op = 0 then
    let ps := s.passages x h
    if ps.any (fun p => decide (noId ≤ p.id) || !storable (decodeVals h.vfmt h.dims p.vec)) then 2
    else if h.scap < h.scount + x.n ∨ (h.mstate ≠ 0 ∧ logRoom < h.lcount + s.wouldLog h (ps.map Passage.id)) then 1 else 0
  else if h.mstate ≠ 0 ∧ logRoom < h.lcount + x.n then 1 else 0

/-- The effect of an INSERT (R214). -/
def insertEff (s : State) (c : CtxId) (x : Write) (id : U32) : State :=
  let h := s.shard id
  if s.writeStatus x h ≠ 0 then s.writeDone c x 0 0 0 (s.writeStatus x h)
  else
    let (live, t) := (s.passages x h).foldl (fun a p => insertOne a id p) (0, s)
    t.writeDone c x x.n live 0 0

/-- The effect of a DELETE (R215).  A passage applied is an ID found live (log 39). -/
def deleteEff (s : State) (c : CtxId) (x : Write) (id : U32) : State :=
  let h := s.shard id
  if s.writeStatus x h ≠ 0 then s.writeDone c x 0 0 0 (s.writeStatus x h)
  else
    let (missing, t) := (s.writeIds x).foldl (fun a p => deleteOne a id p) (0, s)
    t.writeDone c x (x.n - missing) (x.n - missing) missing 0

/-- The entries that a WRITE which applies adds to the side list and the delete log, each written by itself (R213 to R215, R321). -/
def writeOuts (s : State) (x : Write) (h : Shard) : List Access :=
  if s.writeStatus x h ≠ 0 then []
  else
    let logged := if h.mstate = 0 then 0 else if x.op = 0 then s.wouldLog h (s.writeIds x) else s.foundLive h (s.writeIds x)
    (if x.op = 0 then (List.range x.n).map (fun i => (⟨h.id, sideOff h (h.scount + i), h.sideStride, true⟩ : Access)) else []) ++
    (List.range logged).map (fun i => (⟨h.id, h.lofs + 8 * (h.lcount + i), 8, true⟩ : Access))

/-- The ranges a WRITE reads and writes. -/
def writeAcc (s : State) (x : Write) : List Access :=
  match s.shards.get? x.shard with
  | none => []
  | some id =>
    let h := s.shard id
    [⟨x.iobj, x.ioff, 8 * x.n, false⟩, ⟨x.robj, x.roff, 16, true⟩, ⟨id, 0, 256, false⟩, ⟨id, h.tofs, ceilDiv h.slots 8, false⟩,
     ⟨id, h.mofs, 16 * 2 ^ h.mbits, false⟩, ⟨id, h.hofs, 16 * 2 ^ h.sbits, false⟩, ⟨id, h.sofs, h.sideStride * h.scount, false⟩] ++
    (if x.op = 0 then [⟨x.vobj, x.voff, 4 * h.dims * x.n, false⟩, ⟨x.aobj, x.aoff, 8 * x.n, false⟩] else []) ++ s.writeOuts x h

/-- The checks of R96 and R213. -/
def writeOk (s : State) (c : CtxId) (b : Bytes) (x : Write) : Bool :=
  blockOk 5 b && fld b 0 1 == 2 && decide (x.op ≤ 1) && zeroBits b 2 7 1 && zeroBits b 3 7 4 && decide (x.shard ≤ 63) && zeroBytes b 5 7 &&
  decide (x.n ≤ 65536) && zeroBytes b 44 63 &&
  match s.shards.get? x.shard with
  | none => false
  | some id =>
    let h := s.shard id
    s.resident [⟨id, 0, 0, false⟩] && s.accOk c [0] ⟨x.iobj, x.ioff, 8 * x.n, false⟩ && s.accOk c [0] ⟨x.robj, x.roff, 16, true⟩ &&
    (x.op != 0 || (s.accOk c [0] ⟨x.vobj, x.voff, 4 * h.dims * x.n, false⟩ && s.accOk c [0] ⟨x.aobj, x.aoff, 8 * x.n, false⟩))

/-- A WRITE of one op with an effect on the shard's object. -/
def runWrite (s : State) (c : CtxId) (q : SeqId) (b : Bytes) (op : Nat) (eff : State → Write → U32 → State) : State :=
  let x := Write.of b
  let on := copyOf 5 q b
  if s.held c on [x.shard] then s.waitHeld c on [x.shard]
  else s.runGlen c on (mayIssue 5 q && s.writeOk c b x && x.op == op) (s.writeAcc x)
    (fun t => match t.shards.get? x.shard with | none => t | some id => eff t x id) (fun t => t.engineDone c q 5)

end State

/-- WRITE with op 0, INSERT (R213, R214). -/
def execWriteInsert (c : CtxId) (q : SeqId) (b : Bytes) (s : State) : Host.Outcome State Fault Refusal :=
  .next (s.runWrite c q b 0 (fun t x id => t.insertEff c x id))
/-- WRITE with op 1, DELETE (R213, R215). -/
def execWriteDelete (c : CtxId) (q : SeqId) (b : Bytes) (s : State) : Host.Outcome State Fault Refusal :=
  .next (s.runWrite c q b 1 (fun t x id => t.deleteEff c x id))

end Sys2Proof.Machine
end

