-- ==== Sys2Proof/Machine/Selector.lean ====
section
/-! DEFINITION. The selector's commands: TOPK (R225 to R237) and MERGE (R238 to R244). -/

namespace Sys2Proof.Machine

/-! ### TOPK -/

/-- The fields of a TOPK block (R227). -/
structure Topk where
  idx   : Bool
  idord : Bool
  sums  : Bool
  fmt   : Nat
  n     : Nat
  rows  : Nat
  k     : Nat
  vobj  : U32
  xobj  : U32
  oobj  : U32
  robj  : U32
  sobj  : U32
  voff  : Nat
  xoff  : Nat
  ooff  : Nat
deriving DecidableEq, Repr

def Topk.of (b : Bytes) : Topk :=
  { idx := bitAt b 1 0, idord := bitAt b 1 1, sums := bitAt b 1 2, fmt := bits (fld b 2 1) 3 0, n := fld b 4 4, rows := fld b 8 4,
    k := fld b 12 4, vobj := fldObj b 16, xobj := fldObj b 20, oobj := fldObj b 24, robj := fldObj b 28, sobj := fldObj b 32,
    voff := fld b 40 8, xoff := fld b 48 8, ooff := fld b 56 8 }

/-- Bytes of a row of values. -/
def Topk.vrow (x : Topk) : Nat := x.n * fmtBytes x.fmt

/-- An element of a row: position, index, value. -/
structure Elem where
  pos : Nat
  ix  : Nat
  v   : F32
deriving DecidableEq, Repr

/-- The valid elements of a row in rank order (R225); a stable sort keeps equal ones in position order. -/
def rankElems (idord : Bool) (l : List Elem) : List Elem :=
  sortOn (fun e => (2 ^ 31 - F32.key e.v).toNat * 2 ^ 64 + (if idord then e.ix else 0)) (l.filter (fun e => !e.v.isNan))

/-- One row's output entries and result record (R228 to R232). -/
def topkRow (x : Topk) (l : List Elem) : Bytes × Bytes :=
  let order := rankElems x.idord l
  let sel := order.take x.k
  let c := sel.length
  let last := (sel.drop (x.k - 1)).head?
  let ties := match last with | none => 0 | some e => ((order.drop x.k).filter (fun f => F32.eq f.v e.v)).length
  let sum := fun (keep : Bool) => if x.sums then
      rimSum (l.map (fun e => if !e.v.isNan && (sel.any (fun f => f.pos == e.pos) == keep) then e.v else 0)) else 0
  let entry := fun (e : Elem) => toLE 8 e.ix ++ toLE 4 e.v ++ [0, 0, 0, 0]
  let pad := List.replicate 8 255 ++ toLE 4 F32.negInf ++ [0, 0, 0, 0]
  ((sel.map entry).flatten ++ (List.replicate (x.k - c) pad).flatten,
   toLE 4 c ++ toLE 4 (l.length - order.length) ++ toLE 4 ties ++ toLE 4 (sum true) ++ toLE 4 (sum false) ++
     (BitVec.ofNat 8 ((if c < x.k then 1 else 0) + (if ties = 0 then 0 else 2)) :: List.replicate 11 0))

namespace State

/-- The elements of row r. -/
def topkElems (s : State) (x : Topk) (r : Nat) : List Elem :=
  ((decodeF32 x.fmt x.n (s.rd x.vobj (x.voff + r * x.vrow) x.vrow)).zipIdx).map (fun (v, i) =>
    { pos := i, ix := if x.idx then s.rdNat x.xobj (x.xoff + 8 * (r * x.n + i)) 8 else i, v := v })

/-- The effect of a TOPK: rows in order; a spill area is left with free content (R236, log 121). -/
def topkEff (s : State) (c : CtxId) (q : SeqId) (x : Topk) : State :=
  let scored := (List.range x.rows).map (fun r => ((rankElems x.idord (s.topkElems x r)).take x.k).map (fun e => (e.ix, e.v)))
  let s0 := (List.range x.rows).foldl (fun t r =>
    let (out, rec_) := topkRow x (t.topkElems x r)
    (t.wr x.oobj (x.ooff + 16 * r * x.k) out).wr x.robj (32 * r) rec_) s
  let s1 := s0.noteReranked c q (x.idx && x.idord) x.k scored
  if 65536 < x.k ∧ x.rows ≠ 0 then s1.wr x.sobj 0 (freeOf (s.rd x.vobj x.voff (x.rows * x.vrow)) (32 * x.n)) else s1

/-- The ranges a TOPK reads and writes. -/
def topkAcc (x : Topk) : List Access :=
  [⟨x.vobj, x.voff, x.rows * x.vrow, false⟩, ⟨x.oobj, x.ooff, 16 * x.rows * x.k, true⟩, ⟨x.robj, 0, 32 * x.rows, true⟩] ++
  (if x.idx then [⟨x.xobj, x.xoff, 8 * x.rows * x.n, false⟩] else []) ++ (if 65536 < x.k then [⟨x.sobj, 0, 32 * x.n, true⟩] else [])

/-- The checks of R96 and R227. -/
def topkOk (s : State) (c : CtxId) (b : Bytes) (x : Topk) : Bool :=
  blockOk 6 b && fld b 0 1 == 1 && zeroBits b 1 7 5 && zeroBits b 2 7 4 && decide (x.fmt ≤ 2) && decide (1 ≤ x.n) && decide (x.rows ≤ 2 ^ 20) &&
  decide (1 ≤ x.k) && zeroBytes b 36 39 && (!x.idord || x.idx) && (x.idx || x.xobj == 0) && (decide (65536 < x.k) == (x.sobj != 0)) &&
  s.accOk c [0, 1] ⟨x.vobj, x.voff, x.rows * x.vrow, false⟩ && s.accOk c [0, 1] ⟨x.oobj, x.ooff, 16 * x.rows * x.k, true⟩ &&
  s.accOk c [0] ⟨x.robj, 0, 32 * x.rows, true⟩ && (!x.idx || s.accOk c [0, 1] ⟨x.xobj, x.xoff, 8 * x.rows * x.n, false⟩) &&
  (decide (x.k ≤ 65536) || s.accOk c [1] ⟨x.sobj, 0, 32 * x.n, true⟩)

end State

/-- TOPK (R227 to R237). -/
def execTopk (c : CtxId) (q : SeqId) (b : Bytes) (s : State) : Host.Outcome State Fault Refusal :=
  let x := Topk.of b
  .next (s.runCommand c (State.copyOf 6 q b) (mayIssue 6 q && s.topkOk c b x) (State.topkAcc x) State.noPoisonRule (fun t => t.topkEff c q x) (fun t => t.engineDone c q 6))

/-! ### MERGE -/

/-- The fields of a MERGE block (R238). -/
structure Merge where
  m    : Nat
  k    : Nat
  q    : Nat
  kin  : Nat
  iobj : U32
  jobj : U32
  oobj : U32
  robj : U32
  ioff : Nat
  joff : Nat
  ooff : Nat
  roff : Nat
deriving DecidableEq, Repr

def Merge.of (b : Bytes) : Merge :=
  { m := fld b 3 1, k := fld b 4 4, q := fld b 8 4, kin := fld b 12 4, iobj := fldObj b 16, jobj := fldObj b 20, oobj := fldObj b 24,
    robj := fldObj b 28, ioff := fld b 32 8, joff := fld b 40 8, ooff := fld b 48 8, roff := fld b 56 8 }

/-- The MERGE that R284 gives a QUERY's devices: k and kin are the record's depth. -/
def Merge.serves (x : Merge) (_ : Desc) (p : Pipeline) : Bool := decide (x.k = p.depth) && decide (x.kin = p.depth)

/-- An input list with its record. -/
structure Input where
  entries : List Ranked
  record  : Bytes
  fits    : Bool          -- its count does not exceed its slots
deriving DecidableEq, Repr

/-- A list that R242 calls an error: out of order, a NaN score, an ID twice; or more entries than slots (log 40). -/
def Input.malformed (l : Input) : Bool :=
  !l.fits || l.entries.any (fun e => e.score.isNan) ||
  ((l.entries.zip (l.entries.drop 1)).any (fun p => decide (p.2.key ≤ p.1.key))) ||
  (l.entries.zipIdx.any (fun p => l.entries.zipIdx.any (fun o => o.1.id == p.1.id && o.2 != p.2)))

/-- Whether a record is one that a MERGE takes in (R238). -/
def Merge.takes (x : Merge) (o : RankOut) : Bool :=
  decide (o.obj = x.jobj) && decide (x.joff ≤ o.off) && decide (o.off < x.joff + 32 * x.m * x.q) && decide ((o.off - x.joff) % 32 = 0)

/-- A number of at most 2^32 − 1. -/
def satU32 (n : Nat) : Nat := min 0xFFFFFFFF n

/-- One query merged: its list, its record, and the devices at which errors are counted (R239 to R244, log 40).  DESIGN CHOICE (log 145): of a malformed
list the tree device counted is the source device of its first entry. -/
def mergeQuery (k : Nat) (ins : List Input) : List Ranked × Bytes × List Nat :=
  let sumOf := fun lo => satU32 ((ins.map (fun l => fld l.record lo 4)).sum)
  let approx := ins.any (fun l => bitAt l.record 5 0)
  let rounds := (ins.map (fun l => fld l.record 6 1)).foldl max 0
  let record := fun (count ties dups : Nat) =>
    toLE 4 count ++ [if count < k then 1 else 0, BitVec.ofNat 8 ((if approx then 1 else 0) + (if ties = 0 then 0 else 2)), BitVec.ofNat 8 rounds, 0] ++
      toLE 4 (sumOf 8) ++ toLE 4 (satU32 ties) ++ toLE 4 (sumOf 16) ++ toLE 4 (satU32 (sumOf 20 + dups)) ++ toLE 4 (sumOf 24) ++ [0, 0, 0, 0]
  match ins.filter Input.malformed with
  | l :: ls => ([], record 0 0 0, (l :: ls).map (fun l => (l.entries.headD (Ranked.of [])).src % 1024))
  | [] =>
    let all := (ins.map Input.entries).flatten
    let (win, lost) := resolve all
    let order := ranked win
    let out := order.take k
    let ties := match (out.drop (k - 1)).head? with
      | none => 0
      | some e =>
        ((order.drop k).filter (fun f => F32.eq f.score e.score)).length +
        ((ins.filter (fun l => fld l.record 4 1 == 0 && (match l.entries.getLast? with | none => false | some f => F32.eq f.score e.score))).map
          (fun l => fld l.record 12 4)).sum
    (out, record out.length ties lost.length, conflictDevices all)

namespace State

/-- Input list j of query i with its record (R238). -/
def mergeInput (s : State) (x : Merge) (i j : Nat) : Input :=
  let record := s.rd x.jobj (x.joff + 32 * (j * x.q + i)) 32
  let n := fld record 0 4
  { entries := (List.range (min n x.kin)).map (fun e => Ranked.of (s.rd x.iobj (x.ioff + 16 * x.kin * (j * x.q + i) + 16 * e) 16))
    record := record, fits := decide (n ≤ x.kin) }

/-- The outcome of a MERGE for each query (R239 to R243). -/
def mergeOuts (s : State) (x : Merge) : List (List Ranked × Bytes × List Nat) :=
  (List.range x.q).map (fun i => mergeQuery x.k ((List.range x.m).map (s.mergeInput x i)))

/-- What a MERGE that gives a QUERY its lists reads of the passage store (R286). -/
def mergeStore (s : State) (c : CtxId) (q : SeqId) (x : Merge) : List Access :=
  match s.listsFor? c q 6 x.q x.serves with
  | none => []
  | some p => s.storeReads p ((s.mergeOuts x).map (fun r => r.1))

/-- The effect of a MERGE (R239 to R244). -/
def mergeEff (s : State) (c : CtxId) (q : SeqId) (x : Merge) : State :=
  let out := s.mergeOuts x
  let s1 := (out.zipIdx).foldl (fun t (r, i) =>
    (t.wr x.oobj (x.ooff + 16 * x.k * i) (listBytes x.k r.1)).wr x.robj (x.roff + 32 * i) r.2.1) s
  let errs := (out.map (fun r => r.2.2)).flatten
  let codes := (if errs.isEmpty then [] else [Code.integrity]) ++ (if out.any (fun r => bitAt r.2.1 5 0) then [Code.approx] else [])
  let outs := out.zipIdx.map (fun (r, i) =>
    ({ obj := x.robj, off := x.roff + 32 * i, short := fld r.2.1 4 1 == 1, ties := bitAt r.2.1 5 1 } : RankOut))
  ((s1.countDevices errs).noteRanked c q 6 codes x.takes outs).noteLists c q 6 x.serves (out.map (fun r => (r.1, r.2.1, !r.2.2.isEmpty)))

/-- The ranges a MERGE reads and writes. -/
def mergeAcc (x : Merge) : List Access :=
  [⟨x.iobj, x.ioff, 16 * x.kin * x.m * x.q, false⟩, ⟨x.jobj, x.joff, 32 * x.m * x.q, false⟩, ⟨x.oobj, x.ooff, 16 * x.k * x.q, true⟩,
   ⟨x.robj, x.roff, 32 * x.q, true⟩]

/-- The checks of R96 and R238. -/
def mergeOk (s : State) (c : CtxId) (b : Bytes) (x : Merge) : Bool :=
  blockOk 6 b && fld b 0 1 == 2 && zeroBits b 1 7 1 && zeroBits b 2 7 4 && decide (1 ≤ x.m) && decide (x.m ≤ 32) && decide (1 ≤ x.k) &&
  decide (x.k ≤ 65536) && decide (1 ≤ x.q) && decide (x.q ≤ 64) && decide (x.k ≤ x.kin) && decide (x.kin ≤ 65536) &&
  (mergeAcc x).all (s.accOk c [0])

/-- Whether a RECV that fills part of a range is open (R402). -/
def recvOpen (s : State) (a : Access) : Bool :=
  s.recvs.any (fun r => decide (r.object = a.id) && decide (r.offset.toNat < a.off + a.len) && decide (a.off < r.offset.toNat + r.capacity.toNat))

/-- Whether a command of a context that is queued or running and not over will write part of a range: a RECV that the link unit has not posted, or a SEARCH
(R49, R402). -/
def comes (s : State) (c : CtxId) (a : Access) : Bool :=
  let meets := fun (id : U32) (off n : Nat) => decide (id = a.id) && decide (off < a.off + a.len) && decide (a.off < off + n)
  s.queues.any (fun e => (e.2.running.toList ++ e.2.waiting).any (fun x => x.ctx == c &&
    (if queueEngine e.1 = 0x0E then fld x.b 0 1 == 2 && meets (fldObj x.b 12) (fld x.b 16 8) (fld x.b 24 4)
     else if 2 ≤ queueEngine e.1 ∧ queueEngine e.1 ≤ 5 ∧ fld x.b 0 1 = 1 then
       let y := Search.of x.b
       meets y.oobj y.ooff (16 * y.k * y.q) || meets y.robj y.roff (32 * y.q)
     else false)))

/-- What a MERGE waits on until every input is present: the object that a RECV still open, or a RECV or SEARCH of its context still to run, fills (R238). -/
def mergeWaits (s : State) (c : CtxId) (x : Merge) : Option (Nat × Nat) :=
  (((mergeAcc x).take 2).find? (fun a => s.recvOpen a || s.comes c a)).map (fun a => (0, a.id.toNat))

end State

/-- MERGE (R238 to R244), issued by glen.refine alone (R238). -/
def execMerge (c : CtxId) (q : SeqId) (b : Bytes) (s : State) : Host.Outcome State Fault Refusal :=
  let x := Merge.of b
  .next (s.runCommand c (State.copyOf 6 q b) (mayIssue 6 q && s.mergeOk c b x) (State.mergeAcc x ++ s.mergeStore c q x) State.noPoisonRule (fun t => t.mergeEff c q x)
    (fun t => t.engineDone c q 6) (s.mergeWaits c x))

end Sys2Proof.Machine
end

