-- ==== Sys2Proof/Machine/Grammar.lean ====
section
/-! DEFINITION. The grammar unit: grammar tables, masks, and the three operations of GRAMMAR (R153 to R158). -/

namespace Sys2Proof.Machine

/-- A grammar table's header (R153). -/
structure Grammar where
  obj    : U32
  v      : Nat
  states : Nat
  start  : Nat
  soff   : Nat
  aoff   : Nat
  roff   : Nat
  toff   : Nat
deriving DecidableEq, Repr

/-- A grammar state: the automaton's state and its stack, top first (R155). -/
structure GState where
  state : Nat
  stack : Bytes
deriving DecidableEq, Repr

/-- An allowed range of the selected arm with its transition (R153). -/
structure GRange where
  lo     : Nat
  hi     : Nat
  next   : Nat
  action : Nat
  symbol : Byte
deriving DecidableEq, Repr

/-- Whether the transition of a range may be taken at a stack (R154). -/
def GRange.open (r : GRange) (g : GState) : Bool :=
  match r.action with
  | 0 => true
  | 1 => decide (g.stack.length < 64)
  | _ => !g.stack.isEmpty
/-- The state after a transition (R154). -/
def GRange.apply (r : GRange) (g : GState) : GState :=
  { state := r.next, stack := match r.action with | 0 => g.stack | 1 => r.symbol :: g.stack | _ => g.stack.drop 1 }

/-- A grammar state from its 72 bytes; the byte at [8] is the bottom of the stack (R155, log 33). -/
def GState.of (b : Bytes) : GState := { state := fld b 0 4, stack := ((b.drop 8).take (fld b 4 1)).reverse }
/-- A grammar state's 72 bytes (R155).  DESIGN CHOICE (log 136): the stack bytes beyond its depth are zeros. -/
def GState.bytes (g : GState) : Bytes := toLE 4 g.state ++ [BitVec.ofNat 8 g.stack.length, 0, 0, 0] ++ slice g.stack.reverse 0 64
/-- A well-formed state record: depth at most 64, reserved bytes zero. -/
def gStateOk (b : Bytes) : Bool := decide (fld b 4 1 ≤ 64) && zeroBytes b 5 7

namespace State

/-- A grammar table's header, when it is well formed (R153). -/
def grammar? (s : State) (id : U32) : Option Grammar :=
  let b := s.rd id 0 32
  let g : Grammar := { obj := id, v := fld b 4 4, states := fld b 8 4, start := fld b 12 4, soff := fld b 16 4, aoff := fld b 20 4,
                       roff := fld b 24 4, toff := fld b 28 4 }
  if s.fits id 0 32 && fld b 0 4 == 0x4D52474A && decide (1 ≤ g.states) && decide (g.states ≤ 65536) && decide (g.start < g.states) &&
      s.fits id g.soff (8 * g.states) then some g else none

/-- The form of an arm: inside the object with its ranges and transitions; ranges that ascend and do not overlap; an action of 0 to 2, a
symbol of 0 to 253; reserved bytes zero (R153). -/
def armOk (s : State) (g : Grammar) (o : Nat) : Bool :=
  let a := s.rd g.obj o 16
  let n := fld a 8 2
  let range := fun i => s.rd g.obj (g.roff + 8 * (fld a 4 4 + i)) 8
  s.fits g.obj o 16 && zeroBytes a 1 3 && zeroBytes a 10 11 && s.fits g.obj (g.roff + 8 * fld a 4 4) (8 * n) &&
    s.fits g.obj (g.toff + 8 * fld a 12 4) (8 * n) &&
    (List.range n).all (fun i =>
      let t := s.rd g.obj (g.toff + 8 * (fld a 12 4 + i)) 8
      decide (fld (range i) 0 4 ≤ fld (range i) 4 4) && (i == 0 || decide (fld (range (i - 1)) 4 4 < fld (range i) 0 4)) &&
        decide (fld t 4 1 ≤ 2) && decide (fld t 5 1 ≤ 253) && zeroBytes t 6 7)
/-- Every arm of every state well formed.  DESIGN CHOICE (log 108): R153 gives the form and no rule says what follows a table that breaks it;
the command is refused, as R138 has it for a tokenizer table. -/
def grammarWhole (s : State) (g : Grammar) : Bool :=
  (List.range g.states).all (fun k =>
    let e := s.rd g.obj (g.soff + 8 * k) 8
    (List.range (fld e 4 4)).all (fun i => s.armOk g (g.aoff + 16 * (fld e 0 4 + i))))

/-- The ranges of the arm selected in a grammar state: the state's first arm whose symbol is the top of the stack or any (R153).
DESIGN CHOICE (log 122): a state number at or above the table's states selects no arm, so no token is allowed in it; R153 and R154 do not speak
of such a number. -/
def gRanges (s : State) (g : Grammar) (x : GState) : List GRange :=
  if g.states ≤ x.state then []
  else
    let e := s.rd g.obj (g.soff + 8 * x.state) 8
    let top := match x.stack with | [] => 254 | b :: _ => b.toNat
    let arms := (List.range (fld e 4 4)).map (fun i => g.aoff + 16 * (fld e 0 4 + i))
    match arms.find? (fun o => s.rdNat g.obj o 1 == top || s.rdNat g.obj o 1 == 0xFF) with
    | none => []
    | some o =>
      let a := s.rd g.obj o 16
      (List.range (fld a 8 2)).map (fun i =>
        let r := s.rd g.obj (g.roff + 8 * (fld a 4 4 + i)) 8
        let t := s.rd g.obj (g.toff + 8 * (fld a 12 4 + i)) 8
        { lo := fld r 0 4, hi := fld r 4 4, next := fld t 0 4, action := fld t 4 1, symbol := BitVec.ofNat 8 (fld t 5 1) })

/-- The range that allows a token in a grammar state (R154). -/
def gAllow (s : State) (g : Grammar) (x : GState) (t : Nat) : Option GRange :=
  if g.v ≤ t then none
  else (s.gRanges g x).find? (fun r => decide (r.lo ≤ t) && decide (t ≤ r.hi) && r.open x)

/-- The mask of a grammar state, and its allowed count (R154, R155). -/
def gMask (s : State) (g : Grammar) (x : GState) : Bytes × Nat :=
  let rs := (s.gRanges g x).filter (fun r => r.open x)
  let ok := fun t => decide (t < g.v) && rs.any (fun r => decide (r.lo ≤ t) && decide (t ≤ r.hi))
  ((List.range (ceilDiv g.v 8)).map (fun j =>
      BitVec.ofNat 8 ((List.range 8).foldl (fun a i => if ok (8 * j + i) then a + 2 ^ i else a) 0)),
   ((List.range g.v).filter ok).length)

/-- The masks of a list of draft tokens from a state, with counts, and the index of the first token not allowed (R155). -/
def gMasks (s : State) (g : Grammar) : Option GState → Nat → Option Nat → List Nat → List (Bytes × Nat) × Option Nat
  | x, i, bad, ts =>
    let here := match x with | none => (List.replicate (ceilDiv g.v 8) 0, 0) | some y => s.gMask g y
    match ts with
    | [] => ([here], bad)
    | t :: rest =>
      let x' := match x with | none => none | some y => (s.gAllow g y t).map (fun r => r.apply y)
      let bad' := match bad with | some k => some k | none => if x'.isNone then some i else none
      let (ms, b) := gMasks s g x' (i + 1) bad' rest
      (here :: ms, b)

/-- The state after tokens are applied; none where one is not allowed (R155). -/
def gAdvance (s : State) (g : Grammar) : GState → List Nat → Option GState
  | x, [] => some x
  | x, t :: ts => match s.gAllow g x t with | none => none | some r => gAdvance s g (r.apply x) ts

end State

/-- The fields of a GRAMMAR block (R155). -/
structure GrammarCmd where
  gobj  : U32
  stobj : U32
  kobj  : U32
  mobj  : U32
  robj  : U32
  n     : Nat
  koff  : Nat
  moff  : Nat
  roff  : Nat
deriving DecidableEq, Repr

def GrammarCmd.of (b : Bytes) : GrammarCmd :=
  { gobj := fldObj b 4, stobj := fldObj b 8, kobj := fldObj b 12, mobj := fldObj b 16, robj := fldObj b 20, n := fld b 24 4,
    koff := fld b 32 8, moff := fld b 40 8, roff := fld b 48 8 }

namespace State

/-- The range of a grammar table: all of it. -/
def grammarRead (s : State) (id : U32) : Access := ⟨id, 0, match s.obj? id with | none => 0 | some o => o.size, false⟩
/-- A command's tokens. -/
def grammarTokens (s : State) (x : GrammarCmd) : List Nat := (List.range x.n).map (fun i => s.rdNat x.kobj (x.koff + 4 * i) 4)

/-- The slot whose grammar state a GRAMMAR works on: that of the entry at the cursor, when it has a grammar (R155, R248).
DEDUCED (log 123). -/
def grammarSlot (s : State) (c : CtxId) : Option Nat :=
  ((s.servingEntry c).map (fun e => e.slot.toNat)).filter (fun k => s.slotFlag k 6)
/-- The grammar state a GRAMMAR goes on from: the slot store's for a slot of the GENERATE, else that of stobj (R155, R248, log 123). -/
def gStateBytes (s : State) (c : CtxId) (x : GrammarCmd) : Bytes :=
  match s.grammarSlot c with | none => s.rd x.stobj 0 72 | some k => s.get .slots (512 * k + 192) 72
/-- The state with a grammar state written to stobj, and to the slot store of the slot it belongs to (R155, R248, log 123). -/
def setGState (s : State) (c : CtxId) (x : GrammarCmd) (g : GState) : State :=
  let s1 := s.wr x.stobj 0 g.bytes
  match s.grammarSlot c with | none => s1 | some k => s1.put .slots (512 * k + 192) g.bytes

/-- The checks of R96 that every GRAMMAR makes: its op, reserved fields, objects, a well-formed table and state. -/
def grammarOk (s : State) (c : CtxId) (q : SeqId) (b : Bytes) (op : Nat) (x : GrammarCmd) (acc : List Access) : Bool :=
  mayIssue 0x09 q && blockOk 0x09 b && fld b 1 1 == op && zeroBits b 2 7 1 && zeroBits b 3 7 4 && zeroBytes b 28 31 && zeroBytes b 56 63 &&
  s.objIn c x.gobj [1] && acc.all (s.accOk c [0]) &&
  (!s.resident (s.grammarRead x.gobj :: acc) || ((s.grammar? x.gobj).any s.grammarWhole && (op == 0 || gStateOk (s.gStateBytes c x))))

/-- The mask bytes of a table's vocabulary. -/
def maskBytes (s : State) (x : GrammarCmd) : Nat := match s.grammar? x.gobj with | none => 0 | some g => ceilDiv g.v 8

end State

/-- GRAMMAR RESET: the start state with an empty stack (R155). -/
def execGrammarReset (c : CtxId) (q : SeqId) (b : Bytes) (s : State) : Host.Outcome State Fault Refusal :=
  let x := GrammarCmd.of b
  let acc : List Access := [⟨x.stobj, 0, 72, true⟩]
  .next (s.runCommand c (State.copyOf 0x09 q b) (s.grammarOk c q b 0 x acc) (s.grammarRead x.gobj :: acc) State.noPoisonRule
    (fun t => match t.grammar? x.gobj with
      | none => t
      | some g => t.setGState c x { state := g.start, stack := [] })
    (fun t => t.engineDone c q 0x09))

/-- GRAMMAR MASK: n + 1 masks and the result record; the committed state stays (R155). -/
def execGrammarMask (c : CtxId) (q : SeqId) (b : Bytes) (s : State) : Host.Outcome State Fault Refusal :=
  let x := GrammarCmd.of b
  let acc : List Access := [⟨x.stobj, 0, 72, false⟩, ⟨x.kobj, x.koff, 4 * x.n, false⟩, ⟨x.mobj, x.moff, (x.n + 1) * s.maskBytes x, true⟩,
                            ⟨x.robj, x.roff, 37, true⟩]
  .next (s.runCommand c (State.copyOf 0x09 q b) (s.grammarOk c q b 1 x acc && decide (x.n ≤ 8)) (s.grammarRead x.gobj :: acc) State.noPoisonRule
    (fun t => match t.grammar? x.gobj with
      | none => t
      | some g =>
        let (ms, bad) := t.gMasks g (some (GState.of (t.gStateBytes c x))) 0 none (t.grammarTokens x)
        let t1 := t.wr x.mobj x.moff (ms.map Prod.fst).flatten
        t1.wr x.robj x.roff (slice (ms.map (fun m => toLE 4 m.2)).flatten 0 36 ++ [BitVec.ofNat 8 (bad.getD 0xFF)]))
    (fun t => t.engineDone c q 0x09))

/-- GRAMMAR ADVANCE: the tokens applied to the committed state; one not allowed faults the context (R155). -/
def execGrammarAdvance (c : CtxId) (q : SeqId) (b : Bytes) (s : State) : Host.Outcome State Fault Refusal :=
  let x := GrammarCmd.of b
  let acc : List Access := [⟨x.stobj, 0, 72, false⟩, ⟨x.stobj, 0, 72, true⟩, ⟨x.kobj, x.koff, 4 * x.n, false⟩]
  let after := match s.grammar? x.gobj with
    | none => none
    | some g => s.gAdvance g (GState.of (s.gStateBytes c x)) (s.grammarTokens x)
  .next (s.runCommand c (State.copyOf 0x09 q b)
    (s.grammarOk c q b 2 x acc && decide (x.n ≤ 9) && (!s.resident (s.grammarRead x.gobj :: acc) || after.isSome))
    (s.grammarRead x.gobj :: acc) State.noPoisonRule
    (fun t => match after with | none => t | some g => t.setGState c x g)
    (fun t => t.engineDone c q 0x09))

end Sys2Proof.Machine
end

