-- ==== Sys2Proof/Machine/Text.lean ====
section
/-! DEFINITION. The text engine's tokenizer and detokenizer (R130 to R152). -/

namespace Sys2Proof.Machine

/-! ### UTF-8 (R133) -/

/-- What the bytes at a position of a UTF-8 text are: a character and its length, a maximal invalid subpart and its length, or n bytes
that may still begin a character. -/
inductive Utf8 where
  | char (cp n : Nat)
  | bad (n : Nat)
  | more (n : Nat)
deriving DecidableEq, Repr

/-- The k continuation bytes that remain, the next one between lo and hi. -/
def utf8Cont : Nat → Nat → Nat → Nat → Nat → Bytes → Utf8
  | 0, _, _, acc, n, _ => .char acc n
  | _ + 1, _, _, _, n, [] => .more n
  | k + 1, lo, hi, acc, n, b :: t =>
    if lo ≤ b.toNat ∧ b.toNat ≤ hi then utf8Cont k 0x80 0xBF (acc * 64 + b.toNat % 64) (n + 1) t else .bad n

/-- The first character, invalid subpart or incomplete sequence of a text (RFC 3629). -/
def utf8Next (bs : Bytes) : Utf8 :=
  match bs with
  | [] => .more 0
  | b :: t =>
    let v := b.toNat
    if v < 0x80 then .char v 1
    else if v < 0xC2 then .bad 1
    else if v < 0xE0 then utf8Cont 1 0x80 0xBF (v % 32) 1 t
    else if v = 0xE0 then utf8Cont 2 0xA0 0xBF 0 1 t
    else if v = 0xED then utf8Cont 2 0x80 0x9F 13 1 t
    else if v < 0xF0 then utf8Cont 2 0x80 0xBF (v % 16) 1 t
    else if v = 0xF0 then utf8Cont 3 0x90 0xBF 0 1 t
    else if v < 0xF4 then utf8Cont 3 0x80 0xBF (v % 8) 1 t
    else if v = 0xF4 then utf8Cont 3 0x80 0x8F 4 1 t
    else .bad 1

/-- Whether a run of bytes is valid UTF-8; fuel for its length. -/
def utf8Valid : Nat → Bytes → Bool
  | _, [] => true
  | 0, _ => false
  | f + 1, bs => match utf8Next bs with | .char _ n => utf8Valid f (bs.drop n) | _ => false

/-- U+FFFD in UTF-8. -/
def fffd : Bytes := [0xEF, 0xBF, 0xBD]

/-! ### Tokenizer tables (R130 to R132) -/

/-- A tokenizer table's header. -/
structure TokTable where
  obj      : U32
  digits   : Nat
  join     : Bool
  v        : Nat
  merges   : Nat
  hbits    : Nat
  bos      : Nat
  ranges   : Nat
  specials : Nat
  boff     : Nat
  coff     : Nat
  soff     : Nat
  hoff     : Nat
  voff     : Nat
  poff     : Nat
  plen     : Nat
deriving DecidableEq, Repr

namespace State

/-- The header of a tokenizer table, when it and the places of its sections are well formed (R130, R131). -/
def tokTable? (s : State) (id : U32) : Option TokTable :=
  let b := s.rd id 0 64
  let t : TokTable :=
    { obj := id, digits := fld b 6 1, join := bitAt b 7 0, v := fld b 8 4, merges := fld b 12 4, hbits := fld b 16 4, bos := fld b 20 4,
      ranges := fld b 24 2, specials := fld b 26 1, boff := fld b 28 4, coff := fld b 32 4, soff := fld b 36 4, hoff := fld b 40 4,
      voff := fld b 44 4, poff := fld b 48 4, plen := fld b 52 4 }
  if s.fits id 0 64 && fld b 0 4 == 0x4B4F544A && fld b 4 2 == 2 && zeroBits b 7 7 1 && decide (256 ≤ t.v) && decide (t.v ≤ 262144) &&
      decide (t.merges ≤ t.v - 256) && decide (1 ≤ t.hbits) && decide (t.hbits ≤ 20) && decide (2 * t.merges ≤ 2 ^ t.hbits) &&
      decide (t.bos < t.v) && decide (1 ≤ t.ranges) && decide (t.ranges ≤ 4096) && decide (t.specials ≤ 64) && zeroBytes b 27 27 &&
      decide (t.plen ≤ 0x1000000) && zeroBytes b 56 63 && s.fits id t.boff 1024 && s.fits id t.coff (4 * t.ranges) &&
      s.fits id t.soff (40 * t.specials) && s.fits id t.hoff (16 * 2 ^ t.hbits) && s.fits id t.voff (8 * t.v) && s.fits id t.poff t.plen
  then some t else none

/-- A token's vocabulary entry: offset in the pool, length, SPECIAL; none when it is malformed (R131). -/
def vocabEntry? (s : State) (t : TokTable) (k : Nat) : Option (Nat × Nat × Bool) :=
  let b := s.rd t.obj (t.voff + 8 * k) 8
  if k < t.v ∧ fld b 4 2 ≤ 255 ∧ fld b 0 4 + fld b 4 2 ≤ t.plen ∧ fld b 6 1 ≤ 1 ∧ fld b 7 1 = 0 then
    some (fld b 0 4, fld b 4 2, bitAt b 6 0) else none

/-- The class ranges: first code point and class (R131). -/
def classRanges (s : State) (t : TokTable) : List (Nat × Nat) :=
  (List.range t.ranges).map (fun i => let w := s.rdNat t.obj (t.coff + 4 * i) 4; (bits w 20 0, bits w 27 24))
/-- Their form: reserved bits zero, the first at 0, ascending (R131). -/
def rangesOk (s : State) (t : TokTable) : Bool :=
  (List.range t.ranges).all (fun i =>
    let w := s.rdNat t.obj (t.coff + 4 * i) 4
    bits w 23 21 == 0 && bits w 31 28 == 0 &&
      (if i = 0 then bits w 20 0 == 0 else decide (bits (s.rdNat t.obj (t.coff + 4 * (i - 1)) 4) 20 0 < bits w 20 0)))
/-- The special strings: bytes and token (R131). -/
def specialStrings (s : State) (t : TokTable) : List (Bytes × Nat) :=
  (List.range t.specials).map (fun i => let b := s.rd t.obj (t.soff + 40 * i) 40; ((b.drop 8).take (fld b 0 1), fld b 4 4))
/-- Their form (R131). -/
def specialsOk (s : State) (t : TokTable) : Bool :=
  (List.range t.specials).all (fun i =>
    let b := s.rd t.obj (t.soff + 40 * i) 40
    decide (1 ≤ fld b 0 1) && decide (fld b 0 1 ≤ 32) && zeroBytes b 1 3 && decide (fld b 4 4 < t.v) &&
      utf8Valid 32 ((b.drop 8).take (fld b 0 1)))

/-- The class code of a code point; 7 stands for U+0020 (R132). -/
def classOf (ranges : List (Nat × Nat)) (cp : Nat) : Nat :=
  if cp = 0x20 then 7 else if cp = 0x0A ∨ cp = 0x0D then 5
  else match (ranges.filter (fun r => decide (r.1 ≤ cp))).getLast? with
    | none => 6
    | some r => min r.2 6

/-- The first slot to probe for a pair (R131). -/
def hashSlot (hbits a b : Nat) : Nat :=
  ((a * 0x9E3779B1 % 0x100000000) ^^^ b) * 0x85EBCA77 % 0x100000000 / 2 ^ (32 - hbits)
/-- The rank and merged ID of a pair, by linear probing, with fuel for the table's slots (R131). -/
def mergeProbe (s : State) (t : TokTable) (a b : Nat) : Nat → Nat → Option (Nat × Nat)
  | 0, _ => none
  | f + 1, h =>
    let o := t.hoff + 16 * (h % 2 ^ t.hbits)
    let l := s.rdNat t.obj o 4
    if l = 0xFFFFFFFF then none
    else if l = a ∧ s.rdNat t.obj (o + 4) 4 = b then some (s.rdNat t.obj (o + 12) 4, s.rdNat t.obj (o + 8) 4)
    else mergeProbe s t a b f (h + 1)
/-- The rank and merged ID of a pair, if it merges. -/
def mergeOf (s : State) (t : TokTable) (a b : Nat) : Option (Nat × Nat) := s.mergeProbe t a b (2 ^ t.hbits) (hashSlot t.hbits a b)

end State

/-! ### Pre-splitting (R134, R135) -/

/-- What the scan finds at a position: a special string, a character with its class, an invalid byte. -/
inductive TokItem where
  | special (off len token : Nat)
  | char (off cls : Nat) (bs : Bytes)
  | bad (off : Nat) (b : Byte)
deriving DecidableEq, Repr

/-- The longest special string that a text begins with, the lower-numbered on equal length. -/
def matchSpecial (sp : List (Bytes × Nat)) (bs : Bytes) : Option (Bytes × Nat) :=
  (sp.filter (fun x => bs.take x.1.length == x.1)).foldl (fun best x =>
    match best with
    | none => some x
    | some y => if y.1.length < x.1.length then some x else some y) none

/-- The items of a text from offset `off`; fuel for its length. -/
def tokItems (sp : List (Bytes × Nat)) (ranges : List (Nat × Nat)) : Nat → Nat → Bytes → List TokItem
  | 0, _, _ => []
  | _ + 1, _, [] => []
  | f + 1, off, b :: t =>
    match matchSpecial sp (b :: t) with
    | some (w, id) => .special off w.length id :: tokItems sp ranges f (off + w.length) ((b :: t).drop w.length)
    | none =>
      match utf8Next (b :: t) with
      | .char cp n => .char off (State.classOf ranges cp) ((b :: t).take n) :: tokItems sp ranges f (off + n) ((b :: t).drop n)
      | _ => .bad off b :: tokItems sp ranges f (off + 1) t

/-- A unit of output: a special token, or a piece as its characters, each with its offset. -/
inductive Unit139 where
  | special (off len token : Nat)
  | piece (chars : List (Nat × Bytes)) (bad : Bool)
deriving DecidableEq, Repr

/-- A run under construction: its kind (0 letters, 3 punctuation, 2 digits, 5 newlines, 7 whitespace) and its characters, newest first. -/
structure TokRun where
  kind  : Nat
  chars : List (Nat × Bytes)
deriving DecidableEq, Repr

/-- A list cut into runs of n. -/
def cutEvery (n : Nat) (l : List (Nat × Bytes)) : List (List (Nat × Bytes)) :=
  (List.range (ceilDiv l.length n)).map (fun i => (l.drop (i * n)).take n)

/-- A run's pieces: a digit run is cut from its left end (R134 rule 5). -/
def TokRun.pieces (digits : Nat) (r : TokRun) : List Unit139 :=
  if r.chars.isEmpty then []
  else if r.kind = 2 ∧ digits ≠ 0 then (cutEvery digits r.chars.reverse).map (fun p => .piece p false)
  else [.piece r.chars.reverse false]

/-- A letter or punctuation character: it extends its run, takes a joined space from a whitespace run, or begins a run (R134 rules 2 to 4). -/
def TokRun.word (join : Bool) (digits kind : Nat) (r : TokRun) (x : Nat × Bytes) : List Unit139 × TokRun :=
  if r.kind = kind ∧ !r.chars.isEmpty then ([], { r with chars := x :: r.chars })
  else match r.chars with
    | y :: t =>
      if join && r.kind = 7 && y.2 == [0x20] then (({ r with chars := t } : TokRun).pieces digits, { kind := kind, chars := [x, y] })
      else (r.pieces digits, { kind := kind, chars := [x] })
    | [] => ([], { kind := kind, chars := [x] })

/-- A character that joins only its own kind of run. -/
def TokRun.plain (digits kind : Nat) (r : TokRun) (x : Nat × Bytes) : List Unit139 × TokRun :=
  if r.kind = kind then ([], { r with chars := x :: r.chars }) else (r.pieces digits, { kind := kind, chars := [x] })

/-- The units of the items, in order (R134). -/
def tokUnits (join : Bool) (digits : Nat) : TokRun → List TokItem → List Unit139
  | r, [] => r.pieces digits
  | r, .special off len id :: t => r.pieces digits ++ .special off len id :: tokUnits join digits { kind := 7, chars := [] } t
  | r, .bad off b :: t => r.pieces digits ++ .piece [(off, [b])] true :: tokUnits join digits { kind := 7, chars := [] } t
  | r, .char off cls bs :: t =>
    let other := r.pieces digits ++ .piece [(off, bs)] false :: tokUnits join digits { kind := 7, chars := [] } t
    match cls with
    | 0 => let (u, r') := r.word join digits 0 (off, bs); u ++ tokUnits join digits r' t
    | 1 => if r.kind = 0 ∧ !r.chars.isEmpty then tokUnits join digits { r with chars := (off, bs) :: r.chars } t else other
    | 2 => let (u, r') := r.plain digits 2 (off, bs); u ++ tokUnits join digits r' t
    | 3 => let (u, r') := r.word join digits 3 (off, bs); u ++ tokUnits join digits r' t
    | 4 => let (u, r') := r.plain digits 7 (off, bs); u ++ tokUnits join digits r' t
    | 5 => let (u, r') := r.plain digits 5 (off, bs); u ++ tokUnits join digits r' t
    | 7 => let (u, r') := r.plain digits 7 (off, bs); u ++ tokUnits join digits r' t
    | _ => other

/-- A piece's characters cut so that no part is longer than 1,024 bytes; `n` bytes are in the part under construction (R135). -/
def cutLong : Nat → List (Nat × Bytes) → List (Nat × Bytes) → List (List (Nat × Bytes))
  | _, part, [] => if part.isEmpty then [] else [part.reverse]
  | n, part, x :: t =>
    if 1024 < n + x.2.length then part.reverse :: cutLong x.2.length [x] t else cutLong (n + x.2.length) (x :: part) t

/-- Units with long pieces cut (R135). -/
def cutUnits (us : List Unit139) : List Unit139 :=
  us.flatMap (fun u => match u with
    | .special off len id => [.special off len id]
    | .piece cs bad => (cutLong 0 [] cs).map (fun p => .piece p bad))

/-! ### Merging (R136) -/

/-- The slots of a table's merge hash that hold a pair: left, right, merged ID and rank. -/
def State.mergeEntries (s : State) (t : TokTable) : List (Nat × Nat × Nat × Nat) :=
  (List.range (2 ^ t.hbits)).filterMap (fun i =>
    let b := s.rd t.obj (t.hoff + 16 * i) 16
    if fld b 0 4 = 0xFFFFFFFF then none else some (fld b 0 4, fld b 4 4, fld b 8 4, fld b 12 4))
/-- Their form: `merges` pairs, every ID below V, and each rank from 0 to merges − 1 exactly once (R131). -/
def State.mergesOk (s : State) (t : TokTable) : Bool :=
  let es := s.mergeEntries t
  decide (es.length = t.merges) &&
    es.all (fun e => decide (e.1 < t.v) && decide (e.2.1 < t.v) && decide (e.2.2.1 < t.v) && decide (e.2.2.2 < t.merges)) &&
    decide ((es.map (fun e => e.2.2.2)).Nodup)

/-- A token with the offset of its first byte. -/
abbrev TokOff := Nat × Nat

/-- The best pair of a list: position, rank, merged ID; leftmost on equal rank. -/
def bestPair (m : Nat → Nat → Option (Nat × Nat)) (ts : List TokOff) : Option (Nat × Nat × Nat) :=
  (ts.zip (ts.drop 1)).zipIdx.foldl (fun best (p, i) =>
    match m p.1.1 p.2.1 with
    | none => best
    | some (rank, id) => match best with
      | none => some (i, rank, id)
      | some (j, r, d) => if rank < r then some (i, rank, id) else some (j, r, d)) none

/-- Merges until no adjacent pair merges; fuel for the number of tokens. -/
def mergeAll (m : Nat → Nat → Option (Nat × Nat)) : Nat → List TokOff → List TokOff
  | 0, ts => ts
  | f + 1, ts =>
    match bestPair m ts with
    | none => ts
    | some (i, _, id) => mergeAll m f (ts.take i ++ (id, ((ts[i]?).getD (0, 0)).2) :: ts.drop (i + 2))

namespace State

/-- The tokens of a unit with their offsets (R136, R137). -/
def unitTokens (s : State) (t : TokTable) (u : Unit139) : List TokOff :=
  match u with
  | .special off _ id => [(id, off)]
  | .piece cs _ =>
    let bytes := cs.flatMap (fun c => c.2.zipIdx.map (fun (b, i) => (s.rdNat t.obj (t.boff + 4 * b.toNat) 4, c.1 + i)))
    mergeAll (s.mergeOf t) bytes.length bytes

/-- The offset after a unit. -/
def unitEnd (u : Unit139) : Nat :=
  match u with
  | .special off len _ => off + len
  | .piece cs _ => match cs.getLast? with | none => 0 | some c => c.1 + c.2.length

/-- What a tokenizing yields: tokens, bytes consumed, invalid bytes, whether the output was full. -/
structure TokResult where
  tokens   : List TokOff
  consumed : Nat
  invalid  : Nat
  full     : Bool
deriving DecidableEq, Repr

/-- Units written while all of a unit's tokens fit (R139).  DESIGN CHOICE (log 136): invalid bytes are counted in the pieces written alone. -/
def fillUnits (s : State) (t : TokTable) (cap : Nat) : TokResult → List Unit139 → TokResult
  | r, [] => r
  | r, u :: us =>
    let ts := s.unitTokens t u
    if cap < r.tokens.length + ts.length then { r with full := true }
    else fillUnits s t cap
      { tokens := r.tokens ++ ts, consumed := unitEnd u, full := false,
        invalid := r.invalid + (match u with | .piece _ true => 1 | _ => 0) } us

/-- A text tokenized (R133 to R139). -/
def tokenizeText (s : State) (t : TokTable) (special bos : Bool) (cap : Nat) (text : Bytes) : TokResult :=
  let sp := if special then s.specialStrings t else []
  let items := tokItems sp (s.classRanges t) (text.length + 1) 0 text
  let units := cutUnits (tokUnits t.join t.digits { kind := 7, chars := [] } items)
  s.fillUnits t cap { tokens := if bos then [(t.bos, 0)] else [], consumed := 0, invalid := 0, full := false } units

/-- The form of the byte map: every token ID below V (R130). -/
def byteMapOk (s : State) (t : TokTable) : Bool := (List.range 256).all (fun b => decide (s.rdNat t.obj (t.boff + 4 * b) 4 < t.v))
/-- The form of the vocabulary index: every entry's bytes inside the pool, its reserved bits zero (R131). -/
def vocabOk (s : State) (t : TokTable) : Bool := (List.range t.v).all (fun k => (s.vocabEntry? t k).isSome)
/-- Every section of a tokenizer table well formed (R131, R138). -/
def sectionsOk (s : State) (t : TokTable) : Bool := s.rangesOk t && s.specialsOk t && s.byteMapOk t && s.mergesOk t && s.vocabOk t

/-- The ranges of its table a TOKENIZE reads. -/
def tokReads (t : TokTable) : List Access :=
  [⟨t.obj, 0, 64, false⟩, ⟨t.obj, t.voff, 8 * t.v, false⟩, ⟨t.obj, t.boff, 1024, false⟩, ⟨t.obj, t.coff, 4 * t.ranges, false⟩, ⟨t.obj, t.soff, 40 * t.specials, false⟩,
   ⟨t.obj, t.hoff, 16 * 2 ^ t.hbits, false⟩]

/-- The opcode of the descriptor whose step a context runs; 0 when none. -/
def runOp (s : State) (c : CtxId) (engine : Nat) : Nat := match (s.ctx c).runOf .text engine with | none => 0 | some r => descOp r.d
/-- The result of the step a context runs, replaced when that step is of an opcode. -/
def setResult (s : State) (c : CtxId) (engine op : Nat) (f : Nat → Nat) : State :=
  s.modCtx c (fun x => x.modRun .text engine (fun r =>
    if descOp r.d = op then { r with result := BitVec.ofNat 64 (f r.result.toNat) } else r))

end State

/-! ### TOKENIZE -/

/-- The fields of a TOKENIZE block (R137). -/
structure TokCmd where
  special : Bool
  offs    : Bool
  bos     : Bool
  tobj    : U32
  iobj    : U32
  oobj    : U32
  xobj    : U32
  robj    : U32
  ioff    : Nat
  ooff    : Nat
  xoff    : Nat
  ilen    : Nat
  ocap    : Nat
  roff    : Nat
deriving DecidableEq, Repr

def TokCmd.of (b : Bytes) : TokCmd :=
  { special := bitAt b 1 0, offs := bitAt b 1 1, bos := bitAt b 1 2, tobj := fldObj b 4, iobj := fldObj b 8, oobj := fldObj b 12,
    xobj := fldObj b 16, robj := fldObj b 20, ioff := fld b 24 8, ooff := fld b 32 8, xoff := fld b 40 8, ilen := fld b 48 4,
    ocap := fld b 52 4, roff := fld b 56 8 }

/-- The ranges a TOKENIZE reads and writes outside its table. -/
def TokCmd.acc (x : TokCmd) : List Access :=
  [⟨x.iobj, x.ioff, x.ilen, false⟩, ⟨x.oobj, x.ooff, 4 * x.ocap, true⟩, ⟨x.robj, x.roff, 16, true⟩] ++
  (if x.offs then [⟨x.xobj, x.xoff, 4 * x.ocap, true⟩] else [])

namespace State

/-- TOKENIZE's effect: tokens, offsets and the result record written; the descriptor's result and code (R137 to R139, R378). -/
def tokenizeEff (s : State) (c : CtxId) (q : SeqId) (x : TokCmd) : State :=
  match s.tokTable? x.tobj with
  | none => s
  | some t =>
    let r := s.tokenizeText t x.special x.bos x.ocap (s.rd x.iobj x.ioff x.ilen)
    let s1 := s.wr x.oobj x.ooff (r.tokens.flatMap (fun k => toLE 4 k.1))
    let s2 := if x.offs then s1.wr x.xobj x.xoff (r.tokens.flatMap (fun k => toLE 4 k.2)) else s1
    let s3 := s2.wr x.robj x.roff (toLE 4 r.tokens.length ++ toLE 4 r.consumed ++ toLE 4 r.invalid ++ [if r.full then 1 else 0, 0, 0, 0])
    let s4 := (s3.noteTokens c q (r.tokens.map Prod.fst) r.invalid r.full).setResult c 7 0x12 (fun _ => r.tokens.length + 0x100000000 * r.consumed)
    if r.full && s4.runOp c 7 == 0x12 then s4.noteCode c q 0x07 .lengthLimit else s4

/-- The ranges a TOKENIZE reads and writes. -/
def tokenizeAcc (s : State) (x : TokCmd) : List Access :=
  x.acc ++ (match s.tokTable? x.tobj with | none => [⟨x.tobj, 0, 64, false⟩] | some t => tokReads t)

/-- The checks of R96 for a TOKENIZE (R137, R138). -/
def tokenizeOk (s : State) (c : CtxId) (b : Bytes) (x : TokCmd) : Bool :=
  blockOk 0x07 b && zeroBits b 1 7 4 && (decide (fld b 2 1 ≤ 3) || fld b 2 1 == 0xFF) && zeroBits b 3 7 4 && (x.offs || x.xobj == 0) &&
  decide (1 ≤ x.ocap) && s.objIn c x.tobj [1] && x.acc.all (s.accOk c [0]) &&
  (!s.resident [⟨x.tobj, 0, 64, false⟩] ||
    (match s.tokTable? x.tobj with | none => false | some t => s.sectionsOk t))

end State

/-- TOKENIZE (R137). -/
def execTokenizeCommand (c : CtxId) (q : SeqId) (b : Bytes) (s : State) : Host.Outcome State Fault Refusal :=
  let x := TokCmd.of b
  .next (s.runCommand c (State.copyOf 0x07 q b) (mayIssue 0x07 q && s.tokenizeOk c b x) (s.tokenizeAcc x) State.noPoisonRule
    (fun t => t.tokenizeEff c q x) (fun t => t.engineDone c q 0x07))

/-! ### Detokenizing (R142 to R151) -/

/-- The used strings of a stop-string set, with their numbers (R143). -/
def stopStrings (b : Bytes) : List (Nat × Bytes) :=
  ((List.range 4).map (fun j => (j, (b.drop (4 + 32 * j)).take (fld b j 1)))).filter (fun x => !x.2.isEmpty)
/-- Lengths and encodings of a stop-string set (R143). -/
def stopsOk (b : Bytes) : Bool :=
  (List.range 4).all (fun j => decide (fld b j 1 ≤ 32) && utf8Valid 32 ((b.drop (4 + 32 * j)).take (fld b j 1)))

/-- A stream while a command runs: held bytes, held characters, what is emitted, the string that stopped it. -/
structure Stream where
  uheld : Bytes
  sheld : Bytes
  out   : Bytes
  stop  : Option Nat
deriving DecidableEq, Repr

/-- The longest suffix of the held characters that is a proper prefix of a used stop string: its length (R145). -/
def keepLen (stops : List (Nat × Bytes)) (sh : Bytes) : Nat → Nat
  | 0 => 0
  | k + 1 =>
    if decide (k + 1 ≤ sh.length) && stops.any (fun x => decide (k + 1 < x.2.length) && x.2.take (k + 1) == sh.drop (sh.length - (k + 1)))
    then k + 1 else keepLen stops sh k

/-- The stop string a text's end completes: the longest, and the lowest-numbered of those (R146). -/
def completed (stops : List (Nat × Bytes)) (sh : Bytes) : Option (Nat × Bytes) :=
  (stops.filter (fun x => decide (x.2.length ≤ sh.length) && sh.drop (sh.length - x.2.length) == x.2)).foldl (fun best x =>
    match best with
    | none => some x
    | some y => if y.2.length < x.2.length then some x else some y) none

/-- One released character: the stop test, then the hold-back (R145, R146). -/
def Stream.release (stops : List (Nat × Bytes)) (v : Stream) (ch : Bytes) : Stream :=
  let sh := v.sheld ++ ch
  match completed stops sh with
  | some (j, w) => { uheld := [], sheld := [], out := v.out ++ sh.take (sh.length - w.length), stop := some j }
  | none =>
    let k := keepLen stops sh 31
    { v with out := v.out ++ sh.take (sh.length - k), sheld := sh.drop (sh.length - k) }

/-- Complete characters leave the front of the held bytes until none is complete or the stream stops; fuel for their number (R144). -/
def Stream.drain (stops : List (Nat × Bytes)) : Nat → Stream → Stream
  | 0, v => v
  | f + 1, v =>
    if v.stop.isSome then v
    else match utf8Next v.uheld with
      | .more _ => v
      | .char _ n => Stream.drain stops f (({ v with uheld := v.uheld.drop n } : Stream).release stops (v.uheld.take n))
      | .bad n => Stream.drain stops f (({ v with uheld := v.uheld.drop n } : Stream).release stops fffd)

/-- The words of a command's tokens taken in order until the stream stops: the stream and the tokens consumed (R146, R147). -/
def Stream.feed (stops : List (Nat × Bytes)) : Nat → Stream → List Bytes → Stream × Nat
  | n, v, [] => (v, n)
  | n, v, w :: t =>
    if v.stop.isSome then (v, n)
    else
      let u := v.uheld ++ w
      Stream.feed stops (n + 1) (Stream.drain stops (u.length + 1) { v with uheld := u }) t

/-- The flush of FINAL: held bytes emitted as one U+FFFD, and then all of sheld, in the order in which R148 has them; no stop string is
tested (R148). -/
def Stream.flush (v : Stream) : Stream :=
  if v.stop.isSome then v
  else { v with uheld := [], sheld := [], out := v.out ++ (if v.uheld.isEmpty then [] else fffd) ++ v.sheld }

/-- What a detokenizing yields: the stream record after it, the text, the result record's fields. -/
structure Detok where
  record   : Bytes
  text     : Bytes
  consumed : Nat
  status   : Nat
  stop     : Nat
  dropped  : Nat
deriving DecidableEq, Repr

/-- A stream record's bytes (R142).  DESIGN CHOICE (log 136): the bytes of uheld and sheld beyond their counts are zeros. -/
def streamRecord (uheld sheld : Bytes) (state emitted : Nat) : Bytes :=
  slice uheld 0 3 ++ [BitVec.ofNat 8 uheld.length, BitVec.ofNat 8 sheld.length] ++ slice sheld 0 31 ++ [BitVec.ofNat 8 state, 0, 0, 0] ++
  toLE 8 emitted ++ List.replicate 16 0

/-- Tokens, given as their bytes, through a stream (R144 to R149); a stream that is not open writes nothing (R150): DESIGN CHOICE (log 137): its
result record then shows the stream's state as status and no stop string. -/
def detokenize (rec0 : Bytes) (stops : List (Nat × Bytes)) (words : List Bytes) (final discard : Bool) : Detok :=
  let uc := fld rec0 3 1
  let sc := fld rec0 4 1
  let state := fld rec0 36 1
  let emitted := fld rec0 40 8
  if state ≠ 0 then { record := rec0, text := [], consumed := 0, status := state, stop := 0xFF, dropped := 0 }
  else if discard then
    { record := streamRecord [] [] 2 emitted, text := [], consumed := 0, status := 2, stop := 0xFF, dropped := uc + sc }
  else
    let v0 : Stream := { uheld := rec0.take uc, sheld := (rec0.drop 5).take sc, out := [], stop := none }
    let (v1, n) := v0.feed stops 0 words
    let v := if final then v1.flush else v1
    match v.stop with
    | some j => { record := streamRecord [] [] 1 (emitted + v.out.length), text := v.out, consumed := n, status := 1, stop := j, dropped := 0 }
    | none =>
      let st := if final then 2 else 0
      { record := streamRecord v.uheld v.sheld st (emitted + v.out.length), text := v.out, consumed := n, status := st, stop := 0xFF,
        dropped := 0 }

/-- The result record of a DETOKENIZE (R151). -/
def Detok.bytes (r : Detok) : Bytes :=
  toLE 4 r.text.length ++ [BitVec.ofNat 8 r.consumed, BitVec.ofNat 8 r.status, BitVec.ofNat 8 r.stop, BitVec.ofNat 8 r.dropped] ++
  List.replicate 8 0

namespace State

/-- The bytes a token contributes (R144). -/
def tokenWord (s : State) (t : TokTable) (specialText : Bool) (k : Nat) : Bytes :=
  match s.vocabEntry? t k with
  | none => []
  | some (off, len, sp) => if sp && !specialText then [] else s.rd t.obj (t.poff + off) len

end State

/-- The fields of a DETOKENIZE block (R150). -/
structure DetokCmd where
  final   : Bool
  discard : Bool
  special : Bool
  tobj    : U32
  kobj    : U32
  sobj    : U32
  qobj    : U32
  oobj    : U32
  robj    : U32
  n       : Nat
  ocap    : Nat
  koff    : Nat
  ooff    : Nat
  roff    : Nat
deriving DecidableEq, Repr

def DetokCmd.of (b : Bytes) : DetokCmd :=
  { final := bitAt b 1 0, discard := bitAt b 1 1, special := bitAt b 1 2, tobj := fldObj b 4, kobj := fldObj b 8, sobj := fldObj b 12,
    qobj := fldObj b 16, oobj := fldObj b 20, robj := fldObj b 24, n := fld b 28 4, ocap := fld b 32 4, koff := fld b 40 8,
    ooff := fld b 48 8, roff := fld b 56 8 }

/-- The ranges a DETOKENIZE reads and writes in tier 0. -/
def DetokCmd.acc (x : DetokCmd) : List Access :=
  [⟨x.kobj, x.koff, 4 * x.n, false⟩, ⟨x.sobj, 0, 64, false⟩, ⟨x.sobj, 0, 64, true⟩, ⟨x.oobj, x.ooff, x.ocap, true⟩, ⟨x.robj, x.roff, 16, true⟩]

namespace State

/-- The command's tokens. -/
def detokTokens (s : State) (x : DetokCmd) : List Nat := (List.range x.n).map (fun i => s.rdNat x.kobj (x.koff + 4 * i) 4)

/-- The ranges a DETOKENIZE reads and writes. -/
def detokAcc (s : State) (x : DetokCmd) : List Access :=
  x.acc ++ (if x.qobj = 0 then [] else [⟨x.qobj, 0, 132, false⟩]) ++ [⟨x.tobj, 0, 64, false⟩] ++
  (match s.tokTable? x.tobj with
   | none => []
   | some t => (s.detokTokens x).flatMap (fun k =>
       ⟨x.tobj, t.voff + 8 * k, 8, false⟩ :: (match s.vocabEntry? t k with
         | none => []
         | some (off, len, _) => [⟨x.tobj, t.poff + off, len, false⟩])))

/-- The stream record a DETOKENIZE goes on from: the slot store's for a slot of the GENERATE, whose record the serving unit keeps, else that of
sobj (R142, R248).  DEDUCED (log 123). -/
def streamOf (s : State) (e : Option SlotStep) (x : DetokCmd) : Bytes :=
  match e with | none => s.rd x.sobj 0 64 | some v => s.get .slots (512 * v.slot.toNat + 128) 64
/-- The stop-string set that the block names; nothing for none (R143, R150). -/
def namedStops (s : State) (x : DetokCmd) : Bytes := if x.qobj = 0 then [] else s.rd x.qobj 0 132
/-- The stop-string set of a DETOKENIZE: the slot's own when its request has one, else the one that the block names (R143, R150, R248).
DEDUCED (log 123). -/
def stopSet (s : State) (e : Option SlotStep) (x : DetokCmd) : Bytes :=
  match e with
  | none => s.namedStops x
  | some v => if s.slotFlag v.slot.toNat 7 then s.get .slots (512 * v.slot.toNat + 272) 132 else s.namedStops x
/-- DISCARD: given in the block, or set by the serving unit for a request that is cancelled, that ended at the step's boundary, or that ends
UNCORRECTABLE, FAULTED or DEADLINE (R149, R267, R269, R280).  DEDUCED (log 123). -/
def discardOf (s : State) (e : Option SlotStep) (x : DetokCmd) : Bool :=
  x.discard || (match e with
    | none => false
    | some v => v.terminal || s.slotFlag v.slot.toNat 4 || v.ending == some .uncorrectable || v.ending == some .faulted || v.ending == some .deadline)
/-- FINAL: given in the block, or set by the serving unit for END_OF_SEQUENCE, LENGTH_LIMIT and GRAMMAR_DEAD_END (R148).  DEDUCED (log 123). -/
def finalOf (_s : State) (e : Option SlotStep) (x : DetokCmd) : Bool :=
  x.final || (match e with
    | none => false
    | some v => v.ending == some .endOfSequence || v.ending == some .lengthLimit || v.ending == some .grammarDeadEnd)

/-- The checks of R96 for a DETOKENIZE (R143, R150). -/
def detokOk (s : State) (c : CtxId) (b : Bytes) (x : DetokCmd) : Bool :=
  blockOk 0x08 b && zeroBits b 1 7 4 && (decide (fld b 2 1 ≤ 3) || fld b 2 1 == 0xFF) && zeroBits b 3 7 4 && zeroBytes b 36 39 &&
  !(x.final && x.discard) && decide (x.n ≤ 9) && s.objIn c x.tobj [1] && x.acc.all (s.accOk c [0]) &&
  (x.qobj == 0 || s.accOk c [0, 1] ⟨x.qobj, 0, 132, false⟩) &&
  (!s.resident (s.detokAcc x) ||
    (match s.tokTable? x.tobj with
     | none => false
     | some t =>
       let ks := s.detokTokens x
       let r := s.streamOf (s.streamEntry c) x
       let w := (ks.map (fun k => (s.tokenWord t x.special k).length)).foldl (· + ·) 0
       ks.all (fun k => (s.vocabEntry? t k).isSome) && decide (fld r 3 1 ≤ 3) && decide (fld r 4 1 ≤ 31) && decide (fld r 36 1 ≤ 2) &&
         decide (3 * (w + fld r 3 1) + fld r 4 1 ≤ x.ocap) && stopsOk (s.namedStops x) && stopsOk (s.stopSet (s.streamEntry c) x)))

/-- DETOKENIZE's effect (R144 to R151).  For a slot's stream the record after it goes to sobj and to the slot store (log 123). -/
def detokEff (s : State) (c : CtxId) (x : DetokCmd) : State :=
  match s.tokTable? x.tobj with
  | none => s
  | some t =>
    let e := s.streamEntry c
    let rec0 := s.streamOf e x
    let r0 := Sys2Proof.Machine.detokenize rec0 (stopStrings (s.stopSet e x)) ((s.detokTokens x).map (s.tokenWord t x.special))
      (s.finalOf e x) (s.discardOf e x)
    -- a stream that the boundary discarded reports here what it dropped (R149)
    let r := match e with | none => r0 | some v => if v.terminal then { r0 with dropped := v.dropped } else r0
    let s1 := s.wr x.oobj x.ooff r.text
    let s2 := if fld rec0 36 1 = 0 then s1.wr x.sobj 0 r.record else s1
    let s3 := match e with | none => s2 | some v => s2.put .slots (512 * v.slot.toNat + 128) r.record
    (s3.wr x.robj x.roff r.bytes).setResult c 8 0x13 (fun n => n + r.text.length)

end State

/-- DETOKENIZE (R150). -/
def execDetokenizeCommand (c : CtxId) (q : SeqId) (b : Bytes) (s : State) : Host.Outcome State Fault Refusal :=
  let x := DetokCmd.of b
  .next (s.runCommand c (State.copyOf 0x08 q b) (mayIssue 0x08 q && s.detokOk c b x) (s.detokAcc x) State.noPoisonRule
    (fun t => t.detokEff c x) (fun t => t.engineDone c q 0x08))

end Sys2Proof.Machine
end

