-- ==== Sys2Proof/Machine/Serving.lean ====
section
/-! DEFINITION. The serving unit (R251 to R280): the step boundary, and LIST, ACCEPT, COMMIT and SUMMARY.  Log 31 says where the boundary's work
runs, log 34 what COMMIT takes from the detokenizer's records. -/

namespace Sys2Proof.Machine

/-- Largest number of KV rows a request holds per model (R250). -/
def rowsMax : Nat := 131072

namespace State

/-! ### Slots of a context -/

/-- Whether a slot lies in a context's range (R247). -/
def ownsSlot (s : State) (c : CtxId) (slot : Nat) : Bool :=
  decide ((s.ctx c).slotBase.toNat ≤ slot) && decide (slot < (s.ctx c).slotBase.toNat + (s.ctx c).slotCount.toNat) && decide (slot < Config.slots)
/-- The slots of a context that are not FREE, ascending. -/
def liveSlots (s : State) (c : CtxId) : List Nat :=
  ((List.range (s.ctx c).slotCount.toNat).map (fun i => (s.ctx c).slotBase.toNat + i)).filter (fun k => decide (s.slotState k ≠ .free))
/-- The model record in force for a slot: the fall-back's while FB is set (R257). -/
def inForce (s : State) (slot : Nat) : U32 := BitVec.ofNat 32 (if s.slotFlag slot 3 then s.slotNat slot 20 4 else s.slotNat slot 12 4)
/-- The draft record of a slot; 0 for none, and while FB is set (R272). -/
def draftOf (s : State) (slot : Nat) : U32 := if s.slotFlag slot 3 then 0 else BitVec.ofNat 32 (s.slotNat slot 16 4)
/-- The effective draft length of a slot's next step (R264). -/
def effDraft (s : State) (slot : Nat) : Nat :=
  if s.slotFlag slot 3 then 0
  else min (s.slotNat slot 2 1) (min (s.slotNat slot 32 4 - s.slotNat slot 28 4 - 1) (131071 - s.slotNat slot 40 4))
/-- Pages that n rows take (R259). -/
def pagesFor (n : Nat) : Nat := ceilDiv n 256

/-- A slot's part of a claim: the model, the first entry of its list (0 main, 512 draft), pages held and pages needed. -/
structure Claim where
  model : Model
  first : Nat
  held  : Nat
  need  : Nat
deriving DecidableEq, Repr

/-- One part of a claim: the lowest-numbered free pages (R246), or none when the pool is short. -/
def claimPart (s : State) (slot : Nat) (k : Claim) : Option State :=
  let more := k.need - k.held
  let ps := s.freePages k.model.pool k.model.psize more
  if ps.length < more then none
  else
    let s1 := ps.zipIdx.foldl (fun t (p, i) => t.setPageEntry slot (k.first + k.held + i) p) (s.allocPages k.model.pool ps)
    some (s1.setSlot slot (if k.first = 0 then 48 else 50) 2 (max k.held k.need))
/-- A slot's claim, all or nothing (R258). -/
def claimPages (s : State) (slot : Nat) (ks : List Claim) : Option State := ks.foldl (fun o k => o.bind (fun t => t.claimPart slot k)) (some s)
/-- A claim of `need` pages for a model record and a draft record (0 for none); none where a record is absent or malformed. -/
def claimFor (s : State) (slot : Nat) (main draft : U32) (need : Nat) : Option State :=
  match s.model? main with
  | none => none
  | some m =>
    let k : Claim := { model := m, first := 0, held := s.slotNat slot 48 2, need := need }
    if draft = 0 then s.claimPages slot [k]
    else match s.model? draft with
      | none => none
      | some d => s.claimPages slot [k, { model := d, first := 512, held := s.slotNat slot 50 2, need := need }]

/-- The pages of a slot's main and draft lists return to their pools (R258 step 2). -/
def releaseSlot (s : State) (slot : Nat) : State :=
  let list := fun (first n : Nat) => (List.range n).map (fun i => s.pageEntry slot (first + i))
  let pool := fun (m : U32) => BitVec.ofNat 32 (s.rdNat m 24 4)
  let s1 := s.releasePages (pool (s.inForce slot)) (list 0 (s.slotNat slot 48 2))
  let s2 := s1.releasePages (pool (BitVec.ofNat 32 (s.slotNat slot 16 4))) (list 512 (s.slotNat slot 50 2))
  (s2.setSlot slot 48 2 0).setSlot slot 50 2 0

/-! ### Ends (R251, R267 to R269) -/

/-- A stream record in the slot store discarded (R149). -/
def discardStream (s : State) (slot : Nat) : State :=
  let r := s.get .slots (512 * slot + 128) 64
  if fld r 36 1 = 0 then s.put .slots (512 * slot + 128) (streamRecord [] [] 2 (fld r 40 8)) else s

/-- Bytes that the open stream of a slot holds back: what a discard drops (R142, R149). -/
def heldBytes (s : State) (slot : Nat) : Nat :=
  let r := s.get .slots (512 * slot + 128) 64
  if fld r 36 1 = 0 then fld r 3 1 + fld r 4 1 else 0

/-- The slot a PAUSE, RESUME or CANCEL names. -/
def descSlot (d : Desc) : Nat := descField d 16 2
/-- The state with a function applied to a context's serving progress. -/
def modServing (s : State) (c : CtxId) (f : Serving → Serving) : State := s.modCtx c (fun x => { x with serving := f x.serving })

/-- What waits for a slot completes with its request: CANCELs CANCELLED or LATE_CANCEL (R269), PAUSEs and RESUMEs with the terminal code
(R274, R278). -/
def settleSlot (s : State) (c : CtxId) (slot : Nat) (code : Code) : State :=
  let v := (s.ctx c).serving
  let s1 := s.modServing c (fun v => { v with
    cancels := v.cancels.filter (fun d => descSlot d != slot)
    pauses := v.pauses.filter (fun p => descSlot p.d != slot)
    resumes := v.resumes.filter (fun r => descSlot r.d != slot || !r.granted) })
  let s2 := (v.cancels.filter (fun d => descSlot d == slot)).foldl (fun t d =>
    t.complete d (Done.of (if code = .cancelled then .cancelled else .lateCancel) 0)) s1
  let s3 := (v.pauses.filter (fun p => descSlot p.d == slot)).foldl (fun t p => t.complete p.d (Done.of code 0)) s2
  (v.resumes.filter (fun r => descSlot r.d == slot && r.granted)).foldl (fun t r => t.complete r.d (Done.of code 0)) s3

/-- A request ends with a terminal code (R251, R267). -/
def endSlot (s : State) (c : CtxId) (slot : Nat) (code : Code) (reason : Nat) (discard : Bool) : State :=
  let s1 := if discard then s.discardStream slot else s
  let s2 := ((s1.setSlotState slot .ended).setSlot slot 5 1 code.num).setSlot slot 6 1 reason
  (s2.setSlotFlag slot 4 false).settleSlot c slot code

/-! ### The boundary (R258, R272, R274, R277) -/

/-- The bytes of a staged row: those that the step left in the staging tensor of the activation store.  The image fixes where the row of a slot,
a list, a region and a position stands; no rule names the place, so Config.stagingPlace has no body (R108, R258, log 4). -/
def stagedRow (s : State) (c : CtxId) (slot first r g n : Nat) : Bytes :=
  let (id, off) := Config.stagingPlace (((s.ctx c).image.getD 0).toNat) slot (first + g) r
  s.rd (BitVec.ofNat 32 id) off n
/-- The runs of rows lo to hi − 1 that lie together in a pool: for each page and region, the region and the first and past-the-last row. -/
def rowRuns (m : Model) (lo hi : Nat) : List (Nat × Nat × Nat) :=
  (List.range (ceilDiv hi 256)).flatMap (fun p =>
    let a := max lo (256 * p)
    let b := min hi (256 * (p + 1))
    if a < b then (List.range (2 * m.lam)).map (fun g => (g, a, b)) else [])
/-- The range of its pool that a run of rows of a slot's page list takes (R106, R107). -/
def rowAccess (s : State) (slot first : Nat) (m : Model) (k : Nat × Nat × Nat) : Access :=
  ⟨m.pool, s.rowOffset slot first k.2.1 k.1 m.psize m.regionSize m.rowSize, (k.2.2 - k.2.1) * m.rowSize, true⟩
/-- The ranges that rows lo to hi − 1 of a model record take; none for no record. -/
def rowAccs (s : State) (slot first : Nat) (model : U32) (lo hi : Nat) : List Access :=
  if model = 0 then [] else match s.model? model with | none => [] | some m => (rowRuns m lo hi).map (s.rowAccess slot first m)
/-- Rows lo to hi − 1 written into a slot's pages, run by run; `row g r` is row r of region g. -/
def putRows (s : State) (slot first : Nat) (m : Model) (lo hi : Nat) (row : Nat → Nat → Bytes) : State :=
  (rowRuns m lo hi).foldl (fun t k =>
    t.wr m.pool (s.rowAccess slot first m k).off ((List.range (k.2.2 - k.2.1)).flatMap (fun i => row k.1 (k.2.1 + i)))) s

/-- Rows lo to hi − 1 of a slot's model moved from staging into its pages (R108, R258). -/
def moveRows (s : State) (c : CtxId) (slot : Nat) (model : U32) (first pages lo hi : Nat) : State :=
  match s.model? model with
  | none => s
  | some m => s.putRows slot first m lo (min hi (256 * pages)) (fun g r => s.stagedRow c slot first r g m.rowSize)

/-- Step 1 of R258: committed rows moved, the rest of staging dropped.  A row that would be written narrowly into a poisoned parcel of a page is
not, and ends its request UNCORRECTABLE (R280, R321). -/
def moveStaged (s : State) (c : CtxId) : State :=
  let s1 := (s.ctx c).serving.staged.foldl (fun t e =>
    let slot := e.1.toNat
    let d := t.draftOf slot
    let main := t.rowAccs slot 0 (t.inForce slot) e.2.1 (min e.2.2 (256 * t.slotNat slot 48 2))
    let draft := t.rowAccs slot 512 d e.2.1 (min e.2.2 (256 * t.slotNat slot 50 2))
    if (t.poisonedAccess (main ++ draft)).isSome then
      if t.slotState slot = .ended ∨ t.slotState slot = .free then t else t.endSlot c slot .uncorrectable 0 true
    else
      let t1 := t.moveRows c slot (t.inForce slot) 0 (t.slotNat slot 48 2) e.2.1 e.2.2
      if d = 0 then t1 else t1.moveRows c slot d 512 (t1.slotNat slot 50 2) e.2.1 e.2.2) s
  s1.modServing c (fun v => { v with staged := [] })

/-- One slot's part of step 2 of R258, with the moves of R251 that a boundary makes. -/
def freeOne (s : State) (c : CtxId) (slot : Nat) : State :=
  let v := (s.ctx c).serving
  match s.slotState slot with
  | .free => s
  | .ended => (((s.releaseSlot slot).setSlotState slot .free).setSlot slot 5 1 0).setSlot slot 6 1 0
  | .joining =>
    if s.slotFlag slot 4 then (s.releaseSlot slot).endSlot c slot .cancelled 0 true
    else if 0 < s.slotNat slot 52 4 then s.setSlotState slot .running else s
  | .running => if s.slotFlag slot 4 then (s.releaseSlot slot).endSlot c slot .cancelled 0 true else s
  | .pausing =>
    if s.slotFlag slot 4 then (s.releaseSlot slot).endSlot c slot .cancelled 0 true
    else match v.pauses.find? (fun p => descSlot p.d == slot && p.taken) with
      | some { d := d, taken := _, written := some n } =>
        let s1 := ((s.releaseSlot slot).setSlotState slot .free).modServing c (fun v => { v with pauses := v.pauses.filter (fun p => p.d != d) })
        s1.complete d (Done.of .ok n)
      | _ => s
  | .resuming =>
    if s.slotFlag slot 4 then (s.releaseSlot slot).endSlot c slot .cancelled 0 true
    else match v.resumes.find? (fun r => descSlot r.d == slot && r.granted && r.loaded) with
      | some r =>
        let s1 := (s.setSlotState slot .running).modServing c (fun v => { v with resumes := v.resumes.filter (fun x => x.d != r.d) })
        s1.complete r.d (Done.of .ok 0)
      | none => s

/-- Bytes of a summary row of a model (R276). -/
def summaryRow (m : Model) : Nat := ceilDiv m.w 1024 * 545
/-- Pooled groups and rows kept when a request of `rows` rows, `crow` of them pooled, is compressed (R275). -/
def poolGroups (rows crow : Nat) : Nat := ceilDiv (rows - 1024 - crow) 4
def rowsAfter (rows crow : Nat) : Nat := if rows - 1024 ≤ crow then rows else crow + poolGroups rows crow + 1024
/-- Bytes of a summary of n rows for the models of a slot (R276). -/
def summarySize (s : State) (slot n : Nat) : Nat :=
  let part := fun (id : U32) => if id = 0 then 0 else match s.model? id with | none => 0 | some m => n * 2 * m.lam * summaryRow m
  640 + part (s.inForce slot) + part (s.draftOf slot)

/-- A PAUSE that has reached the serving unit: RUNNING becomes PAUSING; a destination too small, or a FREE slot, gives PROTOCOL (R274, log 35). -/
def takePause (s : State) (c : CtxId) (p : Pausing) : State :=
  let slot := descSlot p.d
  let drop := s.modServing c (fun v => { v with pauses := v.pauses.filter (fun x => x.d != p.d) })
  if p.taken then s
  else match s.slotState slot with
    | .free => drop.complete p.d (Done.of .protocol 0)
    | .running =>
      let n := s.summarySize slot (rowsAfter (s.slotNat slot 40 4) (s.slotNat slot 44 4))
      if descField p.d 32 8 < n then drop.complete p.d (Done.of .protocol n)
      else (s.setSlotState slot .pausing).modServing c (fun v => { v with
        pauses := v.pauses.map (fun x => if x.d = p.d then { x with taken := true } else x) })
    | _ => s

/-- Step 2 of R258 with the boundary's moves of R251. -/
def boundaryFrees (s : State) (c : CtxId) : State :=
  let s1 := s.moveStaged c
  let s2 := (s1.liveSlots c).foldl (fun t k => t.freeOne c k) s1
  (s2.ctx c).serving.pauses.foldl (fun t p => t.takePause c p) s2

/-- Step 3 of R258 for one slot named STEP: what it ended with, and whether it switched (R259, R272, R273).  A request that is on its fall-back keeps
it when the context becomes strict, and no new switch is made (R53, R456): DESIGN CHOICE (log 124): one whose switch was still to come ends DEADLINE
there, as R273 has it for a switch that cannot be made. -/
def growOne (s : State) (c : CtxId) (slot : Nat) : State × Option Code × Bool :=
  if s.slotState slot ≠ .running then (s, none, false)
  else if s.slotFlag slot 5 && !(s.ctx c).modeNow.relaxed then (s.endSlot c slot .deadline 0 true, some .deadline, false)
  else if s.slotFlag slot 5 then
    match s.claimFor slot (BitVec.ofNat 32 (s.slotNat slot 20 4)) 0 (pagesFor (s.slotNat slot 24 4 + s.slotNat slot 28 4)) with
    | some t => ((((t.setSlotFlag slot 3 true).setSlotFlag slot 5 false).setSlot slot 44 4 0).setSlot slot 2 1 0, none, true)
    | none => (s.endSlot c slot .deadline 0 true, some .deadline, false)
  else
    match s.claimFor slot (s.inForce slot) (s.draftOf slot) (pagesFor (s.slotNat slot 40 4 + s.effDraft slot + 1)) with
    | some t => (t, none, false)
    | none => (s.endSlot c slot .noPages 0 true, some .noPages, false)

/-- Whether a context names an object that is RESIDENT. -/
def namedHere (s : State) (c : CtxId) (id : U32) : Bool :=
  s.names c id && (match s.obj? id with | none => false | some o => decide (o.state = .resident))
/-- Whether the pool of a model record is one: kind 0x04 in tier 1, named by the context and RESIDENT, whole pages, and with the same page size
in every other model record that the context's table names for it (R246).  DEDUCED (log 125): a record whose pool is none counts as malformed. -/
def poolOk (s : State) (c : CtxId) (m : Model) : Bool :=
  s.namedHere c m.pool &&
  (match s.obj? m.pool with | none => false | some o => o.kind == 0x04 && o.tier == 1 && decide (o.size % m.psize = 0)) &&
  (match (s.ctx c).image with
   | none => false
   | some i => (s.tableEntries i).all (fun e => match s.model? (fldObj e 0) with
      | none => true
      | some n => n.pool != m.pool || n.psize == m.psize))
/-- Whether a model record's V is its tokenizer table's: the table named by the context, of tensor kind, and its V equal when it is RESIDENT
(R130, R245).  DEDUCED (log 125): what is not RESIDENT cannot be compared. -/
def vocabFits (s : State) (c : CtxId) (m : Model) : Bool :=
  s.objIn c m.tobj [1] && (match s.obj? m.tobj with | none => false | some o => o.kind == 0x01) &&
  (!s.namedHere c m.tobj || (match s.tokTable? m.tobj with | none => false | some t => t.v == m.v))
/-- Whether a context names a resident, well-formed model record. -/
def modelFor? (s : State) (c : CtxId) (id : Nat) : Option Model :=
  let m : U32 := BitVec.ofNat 32 id
  if s.namedHere c m then (s.model? m).filter (fun m => s.poolOk c m && s.vocabFits c m) else none

/-- A summary's header fields, checked: magic, version, size, and models that are resident (R276, R277). -/
def summaryOk (s : State) (c : CtxId) (d : Desc) (store head : Bytes) : Bool :=
  let id := fun o => BitVec.ofNat 32 (fld store o 4)
  let res := fun (m : U32) => (s.modelFor? c m.toNat).isSome
  let fb := bitAt store 1 3
  let main := if fb then id 20 else id 12
  let draft := if fb then 0 else id 16
  let part := fun (m : U32) => if m = 0 then 0 else match s.model? m with | none => 0 | some m => fld head 8 4 * 2 * m.lam * summaryRow m
  fld head 0 4 == 0x4D55534A && fld head 4 2 == 1 && res (id 12) && (fld store 16 4 == 0 || res (id 16)) &&
  (fld store 20 4 == 0 || res (id 20)) && res main && fld head 16 8 == 640 + part main + part draft && fld head 16 8 == descField d 32 8 &&
  decide (fld head 8 4 ≤ rowsMax)

/-- Step 4 of R258 for one RESUME: its pages claimed, or NO_PAGES, or PROTOCOL (R277). -/
def grantResume (s : State) (c : CtxId) (r : Resuming) : State :=
  let slot := descSlot r.d
  let p := (s.ctx c).port
  let a := descField r.d 24 8
  let store := s.hostRd p a 512
  let head := s.hostRd p (a + 512) 128
  let drop := s.modServing c (fun v => { v with resumes := v.resumes.filter (fun x => x.d != r.d) })
  if r.granted then s
  else if !s.hcrcPart p (descFlag r.d 3) a (descField r.d 32 8) 640 then (drop.hostCheckFailed c).complete r.d (Done.of .uncorrectable 0)
  else if s.slotState slot ≠ .free || !s.summaryOk c r.d store head then drop.complete r.d (Done.of .protocol 0)
  else
    let s1 := (s.put .slots (512 * slot) store).setSlot slot 48 4 0
    match s1.claimFor slot (s1.inForce slot) (s1.draftOf slot) (pagesFor (fld head 8 4)) with
    | none => drop.complete r.d (Done.of .noPages 0)
    | some t => ((t.setSlotState slot .resuming).setSlotFlag slot 4 false).modServing c (fun v => { v with
        ends := v.ends.filter (fun e => e.1.toNat != slot)
        resumes := v.resumes.map (fun x => if x.d = r.d then { x with granted := true } else x) })

/-! ### Joins (R253, R254, R259, R260) -/

/-- Whether a request record's fields lie in their ranges (R253, R254); a temperature or top-p that is NaN does not. -/
def requestOk (b stops : Bytes) : Bool :=
  let temp : F32 := fld b 48 4
  let topp : F32 := fld b 52 4
  let maxnew := fld b 24 4
  zeroBits b 0 7 3 && zeroBits b 1 7 1 && decide (fld b 2 1 ≤ 8) && (fld b 2 1 == 0 || fld b 12 4 != 0) && zeroBytes b 3 3 &&
  decide (1 ≤ fld b 20 4) && decide (fld b 20 4 ≤ 131071) && decide (1 ≤ maxnew) && decide (fld b 28 4 ≤ maxnew) &&
  !temp.isNan && !temp.isInf && !temp.lt 0 && !topp.isNan && !topp.lt 0 && decide (fld b 56 4 ≤ 65536) &&
  decide (765 * maxnew + 40 ≤ fld b 80 4) && zeroBytes b 96 127 && !(toppOn topp && fld b 56 4 == 0) && (!bitAt b 1 0 || stopsOk stops)

/-- Whether the models and the grammar a request record names fit one another (R254). -/
def requestModels (s : State) (c : CtxId) (b : Bytes) : Bool :=
  match s.modelFor? c (fld b 8 4) with
  | none => false
  | some m =>
    (fld b 12 4 == 0 || (match s.modelFor? c (fld b 12 4) with | none => false | some d => d.tobj == m.tobj && d.v == m.v)) &&
    (fld b 16 4 == 0 || (match s.modelFor? c (fld b 16 4) with | none => false | some f => f.tobj == m.tobj && f.v == m.v && f.eos == m.eos)) &&
    (fld b 60 4 == 0 || (s.objIn c (fldObj b 60) [1] && (match s.grammar? (fldObj b 60) with | none => false | some g => g.v == m.v)))

/-- The slot store of a joining request (R248, R254): the record copied, counters and stream zero, the grammar at its start (R155). -/
def joinStore (s : State) (b stops : Bytes) : Bytes :=
  let gobj := fld b 60 4
  let flags := fld b 0 1 % 8 + (if gobj = 0 then 0 else 64) + (if bitAt b 1 0 then 128 else 0)
  let dmax := slice b 2 1
  let slotRec := [1, BitVec.ofNat 8 flags] ++ dmax ++ dmax ++ [0, 0, 0, 0] ++ slice b 4 16 ++ slice b 20 4 ++ toLE 4 0 ++ slice b 24 8 ++
    toLE 4 0 ++ toLE 4 0 ++ toLE 4 0 ++ toLE 4 0 ++ slice b 32 28 ++ slice b 80 4 ++ slice b 60 4 ++ slice b 84 4 ++ toLE 4 0 ++ toLE 4 0 ++
    slice b 64 16 ++ toLE 4 0 ++ toLE 4 0
  let start := match s.grammar? (BitVec.ofNat 32 gobj) with | none => 0 | some g => g.start
  let gram := if gobj = 0 then List.replicate 72 0 else ({ state := start, stack := [] } : GState).bytes
  slotRec ++ List.replicate 64 0 ++ gram ++ List.replicate 8 0 ++ (if bitAt b 1 0 then slice stops 0 132 else List.replicate 132 0) ++
    List.replicate 108 0

/-- The host checks of a request record and of the stop-string set it names (R253, R424). -/
def requestArea (s : State) (c : CtxId) (hcrc : Bool) (record : Nat) : Bool :=
  let p := (s.ctx c).port
  let b := s.hostRd p record 128
  s.hcrcOk p hcrc record 128 && (!bitAt b 1 0 || s.hcrcOk p hcrc (fld b 88 8) 132)
/-- A JOIN of a slot with a request record: granted, or refused PROTOCOL or NO_PAGES (R254, R260); a host check that fails halts the channel (R327, R424). -/
def joinSlot (s : State) (c : CtxId) (slot record : Nat) (hcrc : Bool) : State × Option Code :=
  let p := (s.ctx c).port
  let b := s.hostRd p record 128
  let stops := if bitAt b 1 0 then s.hostRd p (fld b 88 8) 132 else []
  if !s.requestArea c hcrc record then (s.hostCheckFailed c, some .uncorrectable) else
  if s.slotState slot ≠ .free || !s.ownsSlot c slot || !requestOk b stops || !s.requestModels c b then (s, some .protocol)
  else
    let s1 := s.put .slots (512 * slot) (s.joinStore b stops)
    match s1.claimFor slot (fldObj b 8) (fldObj b 12) (pagesFor (fld b 20 4)) with
    | none => (s, some .noPages)
    | some t => (({ t with slotStats := t.slotStats.set slot { proposals := 0, acceptances := 0, projected := 0 } } : State).modServing c
        (fun v => { v with ends := v.ends.filter (fun e => e.1.toNat != slot) }), none)

/-- A hand-off decided: its fields of the query result record written, and its QUERY freed of it (R293, R294, R298); a record whose host check fails ends the QUERY
UNCORRECTABLE (R327). -/
def settleHandoff (s : State) (c : CtxId) (h : Handoff) (code : Option Code) : State :=
  let p := (s.ctx h.d.ctx).port
  let hc := descFlag h.d 3
  let a := h.result.toNat
  let flags := (s.hostRd p (a + 5) 1).map (fun b => if code.isNone then b ||| 8 else b &&& 0xF7)
  let s1 := s.hostPart p hc a h.area 5 (flags ++ [BitVec.ofNat 8 ((code.getD .ok).num)])
  let s2 := s1.hostPart p hc a h.area 48 (toLE 8 s.now.toNat)
  let s3 := s2.modCtx h.d.ctx (fun x => { x with finishing := x.finishing.map (fun r =>
    if r.d = h.d ∧ code = some .uncorrectable then { r with codes := .uncorrectable :: r.codes } else r) })
  (s3.modCtx c (fun x => { x with handoffs := x.handoffs.filter (fun y => y != h) })).settle h.d.ctx

/-- A request to join at a boundary: a GENERATE's JOIN, or a hand-off. -/
structure Joining where
  slot   : Nat
  record : Nat
  hand   : Option Handoff
deriving DecidableEq, Repr


/-- Step 5 of R258: JOINs and hand-offs in ascending slot order; the refusals of GENERATE's JOINs. -/
def joinAll (s : State) (c : CtxId) (js : List Joining) : State × List (Nat × Code) :=
  js.foldl (fun (acc : State × List (Nat × Code)) j =>
    let (t, code) := acc.1.joinSlot c j.slot j.record (match j.hand with | none => false | some h => descFlag h.d 3)
    match j.hand with
    | some h => (t.settleHandoff c h code, acc.2)
    | none => (t, match code with | none => acc.2 | some k => acc.2 ++ [(j.slot, k)])) (s, [])

/-- What the boundary decides for a GENERATE's list: slots that ended, slots that switched, JOINs refused. -/
structure Bound where
  ended    : List (Nat × Code)
  switched : List Nat
  refused  : List (Nat × Code)
deriving DecidableEq, Repr

/-- The code of a request that steps 1 and 2 of a boundary ended: UNCORRECTABLE or CANCELLED. -/
def cutCode (s : State) (slot : Nat) : Code := if s.slotNat slot 5 1 = Code.uncorrectable.num then .uncorrectable else .cancelled

/-- The boundary (R258) with the slots a GENERATE names STEP and JOIN; a boundary without a GENERATE names none.  A slot that steps 1 and 2 end is
among those that ended (R267, R269). -/
def boundary (s : State) (c : CtxId) (steps : List Nat) (joins : List Joining) : State × Bound :=
  let s1 := s.boundaryFrees c
  let asc := sortOn id steps
  let cut := (s.liveSlots c).filter (fun k => decide (s.slotState k ≠ .ended) && decide (s1.slotState k = .ended))
  let s2 := asc.foldl (fun t k => if t.slotFlag k 5 && decide (t.slotState k = .running) then t.releaseSlot k else t) s1
  let (s3, ended, switched) := asc.foldl (fun (acc : State × List (Nat × Code) × List Nat) k =>
    let (t, code, sw) := acc.1.growOne c k
    (t, (match code with | none => acc.2.1 | some x => acc.2.1 ++ [(k, x)]), if sw then acc.2.2 ++ [k] else acc.2.2)) (s2, cut.map (fun k => (k, s1.cutCode k)), [])
  let rs := sortOn (fun r => descSlot r.d) (s3.ctx c).serving.resumes
  let s4 := rs.foldl (fun t r => t.grantResume c r) s3
  let hs := (s4.ctx c).handoffs.map (fun h => ({ slot := h.slot.toNat, record := h.record.toNat, hand := some h } : Joining))
  let (s5, refused) := s4.joinAll c (sortOn Joining.slot (joins ++ hs))
  (s5, { ended := ended, switched := switched, refused := refused })

end State

/-! ### LIST -/

/-- One entry of a slot list: slot, op, request record (R252). -/
structure ListEntry where
  slot   : Nat
  op     : Nat
  record : Nat
  bad    : Bool
deriving DecidableEq, Repr

namespace State

/-- The slot list of a GENERATE (R252). -/
def slotList (s : State) (d : Desc) : List ListEntry :=
  let p := (s.ctx d.ctx).port
  (List.range (descField d 16 8)).map (fun i =>
    let b := s.hostRd p (descField d 24 8 + 16 * i) 16
    { slot := fld b 0 2, op := fld b 2 1, record := fld b 8 8,
      bad := !(zeroBytes b 3 7 && decide (fld b 2 1 ≤ 1) && (fld b 2 1 == 1 || fld b 8 8 == 0)) })
/-- Whether a slot list passes R252. -/
def slotListOk (s : State) (c : CtxId) (l : List ListEntry) : Bool :=
  decide (1 ≤ l.length) && decide (l.length ≤ 256) && l.all (fun e => !e.bad && s.ownsSlot c e.slot) && decide (l.map ListEntry.slot).Nodup

/-- The step of a list entry after the boundary, whose slot's stream held `held` bytes before it (R255, R257, R264, R272).  A request that an earlier
boundary ended while no list named it shows its terminal code in the first entry that names its slot STEP (R267, R269). -/
def slotStep (s : State) (c : CtxId) (r : Bound) (held : Nat) (e : ListEntry) : SlotStep :=
  let base : SlotStep := { slot := BitVec.ofNat 16 e.slot, join := e.op == 1, code := none, terminal := false, skip := true, prefill := false,
                           drafted := 0, ready := false, accepted := 0, ending := none, replayed := false, tag := 0, dropped := 0 }
  let late := match (s.ctx c).serving.ends.find? (fun x => x.1.toNat == e.slot) with
    | some x => { base with code := some x.2.1, terminal := true, dropped := x.2.2 }
    | none => { base with code := some .protocol }
  if e.op = 1 then
    match (r.refused.find? (fun x => x.1 == e.slot)) with
    | some x => { base with code := some x.2, tag := BitVec.ofNat 32 (leNat (s.hostRd (s.ctx c).port (e.record + 4) 4)) }
    | none => { base with skip := false, prefill := true }
  else
    match (r.ended.find? (fun x => x.1 == e.slot)) with
    | some x => { base with code := some x.2, terminal := true, dropped := held }
    | none =>
      match s.slotState e.slot with
      | .free => late
      | .ended => late
      | .pausing => { base with code := some .busy }
      | .resuming => { base with code := some .busy }
      | .joining => { base with skip := false, prefill := true }
      | .running =>
        if r.switched.contains e.slot then { base with skip := false, prefill := true }
        else { base with skip := false, drafted := s.effDraft e.slot }

/-- A 32-byte entry of the step table (R257). -/
def stepEntry (s : State) (v : SlotStep) : Bytes :=
  let k := v.slot.toNat
  let st := s.slotState k
  let live := decide (st ≠ .free)
  let draft := if live then s.draftOf k else 0
  let flags := (if live && s.slotFlag k 3 then 1 else 0) + (if draft = 0 then 0 else 2) + (if live && s.slotFlag k 6 then 4 else 0) +
    (if live && s.slotFlag k 7 then 8 else 0) + (if v.skip then 16 else 0)
  let plen := s.slotNat k 24 4
  let gen := s.slotNat k 28 4
  let (first, count) := if v.skip then (0, 0) else if v.prefill then (0, plen + gen) else (plen + gen - 1, v.drafted + 1)
  toLE 2 k ++ [if v.join then 1 else 0, BitVec.ofNat 8 st.num, BitVec.ofNat 8 v.drafted, BitVec.ofNat 8 flags, 0, 0] ++
  toLE 4 first ++ toLE 4 count ++ toLE 4 (if live then s.inForce k else 0).toNat ++ toLE 4 draft.toNat ++ toLE 4 (Config.pageListBase + k) ++ toLE 4 0

/-- The requests that a boundary ended and no entry of its list shows, kept for the entry that will (R267, R269); `s` is the state before it. -/
def noteEnds (t s : State) (c : CtxId) (ended : List (Nat × Code)) (named : List Nat) : State :=
  t.modServing c (fun v => { v with ends :=
    (v.ends.filter (fun e => !named.contains e.1.toNat)) ++
      (ended.filter (fun e => !named.contains e.1)).map (fun e => (BitVec.ofNat 16 e.1, e.2, s.heldBytes e.1)) })

/-- The GENERATE that started the context's step. -/
def generateOf (s : State) (c : CtxId) : Option Desc :=
  match (s.ctx c).runOf .serving 0x0B with | none => none | some r => if descOp r.d = 0x05 then some r.d else none

/-- LIST's effect: a bad list ends the step PROTOCOL; else the boundary, the step table and the cursor at entry 0 (R252, R257, R258). -/
def listEff (s : State) (c : CtxId) (tobj : U32) (d : Desc) : State :=
  let l := s.slotList d
  if !s.slotListOk c l then s.stopStep c .protocol
  else if !s.hcrcOk (s.ctx c).port (descFlag d 3) (descField d 24 8) (16 * l.length) ||
      l.any (fun e => e.op == 1 && !s.requestArea c (descFlag d 3) e.record) then (s.hostCheckFailed c).stopStep c .uncorrectable
  else
    let steps := (l.filter (fun e => e.op == 0)).map ListEntry.slot
    let joins := (l.filter (fun e => e.op == 1)).map (fun e => ({ slot := e.slot, record := e.record, hand := none } : Joining))
    let (s1, r) := s.boundary c steps joins
    let vs := l.map (fun e => s1.slotStep c r (s.heldBytes e.slot) e)
    let s2 := (s1.noteEnds s c r.ended (l.map ListEntry.slot)).modServing c (fun v => { v with entries := vs, cursor := 0, listed := true })
    s2.wr tobj 0 (vs.flatMap s2.stepEntry)

end State

/-- LIST (R257). -/
def execList (c : CtxId) (q : SeqId) (b : Bytes) (s : State) : Host.Outcome State Fault Refusal :=
  let tobj := fldObj b 4
  let n := match s.generateOf c with | none => 0 | some d => descField d 16 8
  let acc : List Access := [⟨tobj, 0, 32 * n, true⟩]
  .next (s.runCommand c (State.copyOf 0x0B q b)
    (mayIssue 0x0B q && blockOk 0x0B b && zeroBytes b 1 3 && zeroBytes b 8 63 && (s.generateOf c).isSome && acc.all (s.accOk c [0]))
    acc State.noPoisonRule
    (fun t => match t.generateOf c with | none => t | some d => t.listEff c tobj d)
    (fun t => t.engineDone c q 0x0B))

/-! ### ACCEPT (R263, R267) -/

/-- What acceptance yields: the list L, draft tokens accepted, the end it meets. -/
structure Accepted where
  tokens   : List Nat
  accepted : Nat
  ending   : Option Code
deriving DecidableEq, Repr

/-- Whether a mask allows no token below V (R157). -/
def deadMask (v : Nat) (mask : Option Bytes) : Bool :=
  match mask with | none => false | some m => (List.range v).all (fun t => !maskBit (some m) t)

/-- The residual of p_j over q_j in the order of p_j's tokens, or p_j where the left fold of the residual is +0 (R263, log 36). -/
def residual (p : List (Nat × F32)) (q : List F32) : List (Nat × F32) :=
  let r := (p.map (fun x => (x.1, F32.sub x.2 ((q[x.1]?).getD 0)))).filter (fun x => (0 : F32).lt x.2)
  if (foldValues r).isZero then p else r

/-- R263 from position j on: rows p and q, masks and the proposals that remain. -/
def acceptFrom (k : SampleParams) (pos v : Nat) (p q : List (List F32)) (masks : List Bytes) : Nat → List Nat → Accepted
  | j, [] =>
    let mask := masks[j]?
    if deadMask v mask then { tokens := [], accepted := 0, ending := some .grammarDeadEnd }
    else match sampleRow ((p[j]?).getD []) mask { k with c0 := pos + j, c1 := 0, c2 := 0 } with
      | none => { tokens := [], accepted := 0, ending := some .faulted }
      | some (t, _) => { tokens := [t], accepted := 0, ending := none }
  | j, x :: xs =>
    let mask := masks[j]?
    -- a draft row with no token left (R261)
    if x = 0xFFFFFFFF then { tokens := [], accepted := 0, ending := some .faulted }
    else if deadMask v mask then { tokens := [], accepted := 0, ending := some .grammarDeadEnd }
    else
      let more := fun (_ : Unit) =>
        let r := acceptFrom k pos v p q masks (j + 1) xs
        ({ r with tokens := x :: r.tokens, accepted := r.accepted + 1 } : Accepted)
      match chooseFrom ((p[j]?).getD []) mask k.temp k.topp k.topk with
      | .dead => { tokens := [], accepted := 0, ending := some .faulted }
      | .greedy t => if x = t then more () else { tokens := [t], accepted := 0, ending := none }
      | .among e =>
        let rs := recip (foldValues e)
        let pj := e.map (fun y => (y.1, F32.mul y.2 rs))
        let qj := (q[j]?).getD []
        let px := ((pj.find? (fun y => y.1 == x)).map Prod.snd).getD 0
        if (F32.mul (uniform k.seed (pos + j) j 2) ((qj[x]?).getD 0)).lt px then more ()
        else
          let r := residual pj qj
          match drawFrom (F32.mul (uniform k.seed (pos + j) 0 0) (foldValues r)) none r with
          | none => { tokens := [], accepted := 0, ending := some .faulted }
          | some t => { tokens := [t], accepted := 0, ending := none }

/-- Part 5 of R256: L cut at the first end-of-sequence token or at maxnew (R267 orders 2 and 3); `n` tokens lie before. -/
def trimTokens (eos maxnew : Nat) : Nat → List Nat → List Nat × Option Code
  | _, [] => ([], none)
  | n, t :: ts =>
    if t = eos then ([t], some .endOfSequence)
    else if maxnew ≤ n + 1 then ([t], some .lengthLimit)
    else let (r, e) := trimTokens eos maxnew (n + 1) ts; (t :: r, e)

/-- The fields of an ACCEPT block (R257). -/
structure AcceptCmd where
  pobj : U32
  qobj : U32
  xobj : U32
  mobj : U32
  lobj : U32
  poff : Nat
  qoff : Nat
  xoff : Nat
  moff : Nat
  loff : Nat
deriving DecidableEq, Repr

/-- The block's fields with the offsets of entry i. -/
def AcceptCmd.of (b : Bytes) (i : Nat) : AcceptCmd :=
  { pobj := fldObj b 4, qobj := fldObj b 8, xobj := fldObj b 12, mobj := fldObj b 16, lobj := fldObj b 20,
    poff := fld b 24 4 + i * fld b 44 4, qoff := fld b 28 4 + i * fld b 48 4, xoff := fld b 32 4 + i * fld b 52 4,
    moff := fld b 36 4 + i * fld b 56 4, loff := fld b 40 4 + i * fld b 60 4 }

namespace State

/-- The state with the entry at the cursor changed. -/
def modEntry (s : State) (c : CtxId) (f : SlotStep → SlotStep) : State :=
  s.modServing c (fun v => { v with entries := v.entries.mapIdx (fun i e => if i = v.cursor then f e else e) })

/-- The ranges an ACCEPT reads and writes for an entry. -/
def acceptAcc (s : State) (x : AcceptCmd) (e : SlotStep) (v : Nat) : List Access :=
  let slot := e.slot.toNat
  let d := e.drafted
  let greedy := F32.isZero (s.slotNat slot 72 4)
  [⟨x.pobj, x.poff, 4 * v * (d + 1), false⟩, ⟨x.lobj, x.loff, 40, true⟩] ++
  (if d = 0 then [] else [⟨x.xobj, x.xoff, 4 * d, false⟩] ++ (if greedy then [] else [⟨x.qobj, x.qoff, 4 * v * d, false⟩])) ++
  (if s.slotFlag slot 6 && x.mobj != 0 then [⟨x.mobj, x.moff, (d + 1) * ceilDiv v 8, false⟩] else [])

/-- ACCEPT's effect on an entry that takes part: L formed, cut and written, and kept for the commit (R263, R267). -/
def acceptEff (s : State) (c : CtxId) (x : AcceptCmd) (e : SlotStep) (m : Model) : State :=
  let slot := e.slot.toNat
  let d := e.drafted
  let plen := s.slotNat slot 24 4
  let gen := s.slotNat slot 28 4
  let k : SampleParams := { seed := s.slotNat slot 64 8, c0 := 0, c1 := 0, c2 := 0, temp := s.slotNat slot 72 4, topp := s.slotNat slot 76 4,
                            topk := s.slotNat slot 80 4 }
  let row := fun (id : U32) (off j : Nat) => decodeF32 0 m.v (s.rd id (off + 4 * m.v * j) (4 * m.v))
  let p := (List.range (d + 1)).map (row x.pobj x.poff)
  let q := if k.temp.isZero then [] else (List.range d).map (row x.qobj x.qoff)
  let masks := if s.slotFlag slot 6 && x.mobj != 0 then
    (List.range (d + 1)).map (fun j => s.rd x.mobj (x.moff + ceilDiv m.v 8 * j) (ceilDiv m.v 8)) else []
  let xs := (List.range d).map (fun j => s.rdNat x.xobj (x.xoff + 4 * j) 4)
  let a := acceptFrom k (plen + gen) m.v p q masks 0 xs
  let (l, cut) := trimTokens m.eos (s.slotNat slot 32 4) gen a.tokens
  let rows := if e.prefill then plen + gen + l.length - 1 else s.slotNat slot 40 4 + l.length
  -- a draft row with no token left ends its request FAULTED whatever else the list meets (R261, log 126)
  let ending := if xs.contains 0xFFFFFFFF then some .faulted else match cut with
    | some k => some k
    | none => match a.ending with
      | some k => some k
      | none => if rowsMax ≤ rows then some .lengthLimit else none
  let s1 := s.wr x.lobj x.loff (slice (toLE 4 l.length ++ l.flatMap (toLE 4)) 0 40)
  s1.modEntry c (fun e => { e with ready := true, accepted := a.accepted, ending := if e.ending.isSome then e.ending else ending })

/-- The ranges of its block that an ACCEPT is held to on an entry that takes no part: its objects and offsets (R96, R257). -/
def acceptNames (x : AcceptCmd) : List Access :=
  [⟨x.pobj, x.poff, 0, false⟩, ⟨x.lobj, x.loff, 40, true⟩] ++ (if x.mobj = 0 then [] else [⟨x.mobj, x.moff, 0, false⟩]) ++
  (if x.xobj = 0 then [] else [⟨x.xobj, x.xoff, 0, false⟩]) ++ (if x.qobj = 0 then [] else [⟨x.qobj, x.qoff, 0, false⟩])

end State

/-- ACCEPT (R257); no effect on an entry that takes no part. -/
def execAccept (c : CtxId) (q : SeqId) (b : Bytes) (s : State) : Host.Outcome State Fault Refusal :=
  let on := State.copyOf 0x0B q b
  let base := mayIssue 0x0B q && blockOk 0x0B b && zeroBytes b 1 3
  .next (match s.entryAt c with
    | none => s.runCommand c on false [] State.noPoisonRule id id
    | some e =>
      let x := AcceptCmd.of b (s.ctx c).serving.cursor
      if e.skip then s.runCommand c on (base && (State.acceptNames x).all (s.accOk c [0])) [] State.noPoisonRule id (fun t => t.engineDone c q 0x0B)
      else match s.model? (s.inForce e.slot.toNat) with
        | none => s.runCommand c on false [] State.noPoisonRule id id
        | some m =>
          let acc := s.acceptAcc x e m.v
          s.runCommand c on (base && acc.all (s.accOk c [0])) acc State.noPoisonRule (fun t => t.acceptEff c x e m) (fun t => t.engineDone c q 0x0B))

/-! ### COMMIT (R265, R267, R268, R270, R271) -/

/-- The draft length and run byte after a commit (R265). -/
def nextDraft (dcur dmax run d accepted : Nat) (fb : Bool) : Nat × Nat :=
  let n := run % 16
  let pend := run / 16 % 2 = 1
  if 1 ≤ d ∧ accepted = 0 then (if pend then (dcur / 2, 0) else (dcur, 16))
  else if 1 ≤ d ∧ accepted = d then (if n + 1 = 4 then (min (2 * dcur) dmax, 0) else (dcur, n + 1))
  else if 1 ≤ d then (dcur, 0)
  else if dcur = 0 ∧ 0 < dmax ∧ !fb then (if n + 1 = 16 then (1, 0) else (0, n + 1))
  else (dcur, run)

/-- The deadline monitor's means D and A after a commit of n tokens, and whether D is defined (R270). -/
def monitorMeans (commits : Nat) (now prev : Nat) (d a n : Nat) : Int × Int × Bool :=
  if commits = 0 then (d, a, false)
  else if commits = 1 then ((now : Int) - prev, 256 * n, true)
  else ((d : Int) + ((now : Int) - prev - d) / 8, (a : Int) + (256 * n - a) / 8, true)
/-- The projected completion T (R271). -/
def projectedT (e gen now : Nat) (d a : Int) : Int :=
  let r : Int := max 1 ((e : Int) - gen)
  let m := max a 1
  (now : Int) + (256 * r + m - 1) / m * d

/-- The codes that are natural ends (R267, R272). -/
def naturalEnd (k : Code) : Bool :=
  k == .grammarDeadEnd || k == .endOfSequence || k == .lengthLimit || k == .stopString

namespace State

/-- A slot's result entry written, the cursor advanced, the step's result and FALLBACK flag brought up to date (R255, R378). -/
def resultEntry (s : State) (c : CtxId) (d : Desc) (e : SlotStep) (code : Code) (terminal : Bool) (tokens now : Nat) : State :=
  let k := e.slot.toNat
  let v := (s.ctx c).serving
  let live := !e.skip || decide (s.slotState k ≠ .free)
  let n := fun lo w => if live then s.slotNat k lo w else 0
  let fb := live && (s.slotFlag k 3 || s.slotFlag k 5)
  let bytes := toLE 2 k ++ [BitVec.ofNat 8 code.num, BitVec.ofNat 8 ((if fb then 1 else 0) + (if terminal then 2 else 0) + (if e.replayed then 4 else 0)),
      BitVec.ofNat 8 tokens, BitVec.ofNat 8 (if e.skip then 0 else e.drafted), BitVec.ofNat 8 (if e.skip then 0 else e.accepted), BitVec.ofNat 8 (n 6 1)] ++
    toLE 4 (n 28 4) ++ toLE 4 (n 120 4) ++ toLE 4 (if live then n 8 4 else e.tag.toNat) ++ toLE 4 (n 40 4) ++ toLE 8 now
  let s1 := s.hostPart (s.ctx c).port (descFlag d 3) (descField d 32 8) (32 * descField d 16 8) (32 * v.cursor) bytes
  (s1.modServing c (fun v => { v with cursor := v.cursor + 1 })).modCtx c (fun x =>
    x.modRun .serving 0x0B (fun r => { r with result := r.result + 1, fallback := r.fallback || fb }))

/-- Part 10: the slot ends with its code, or goes on with the next draft; either way its result entry is written (R259, R269 to R271). -/
def commitEnd (s : State) (c : CtxId) (d : Desc) (e : SlotStep) (n now : Nat) (ending : Option Code) : State :=
  let k := e.slot.toNat
  match ending with
  | some code =>
    let nat := s.slotFlag k 3 && naturalEnd code
    let final := if nat then Code.fallbackUsed else code
    (s.endSlot c k final (if nat then code.num else 0) (!naturalEnd code)).resultEntry c d e final true n now
  | none =>
    let (dcur, run) := nextDraft (s.slotNat k 2 1) (s.slotNat k 3 1) (s.slotNat k 4 1) e.drafted e.accepted (s.slotFlag k 3)
    ((s.setSlot k 2 1 dcur).setSlot k 4 1 run).resultEntry c d e .ok false n now

/-- Parts 9 and 10 for an entry that takes part: `n` tokens and `emitted` text bytes (R268, R270, R271). -/
def commitEff (s : State) (c : CtxId) (d : Desc) (e : SlotStep) (count consumed emitted : Nat) (stopped : Bool) : State :=
  let k := e.slot.toNat
  let now := s.now.toNat
  let ending := if stopped && e.ending != some .faulted && e.ending != some .uncorrectable then some Code.stopString else e.ending
  if s.slotFlag k 4 then
    (s.endSlot c k .cancelled 0 true).resultEntry c d e .cancelled true 0 now
  else if ending = some .uncorrectable then
    (s.endSlot c k .uncorrectable 0 true).resultEntry c d e .uncorrectable true 0 now
  else
    let n := min consumed count
    let plen := s.slotNat k 24 4
    let gen := s.slotNat k 28 4 + n
    let rows0 := s.slotNat k 40 4
    let rows := if e.prefill then plen + gen - 1 else rows0 + n
    let commits := s.slotNat k 52 4
    let deadline := s.slotNat k 56 8
    let (dm, am, defined) :=
      if deadline = 0 then ((s.slotNat k 96 4 : Int), (s.slotNat k 100 4 : Int), false)
      else monitorMeans commits now (s.slotNat k 404 8) (s.slotNat k 96 4) (s.slotNat k 100 4) n
    let expect := if s.slotNat k 36 4 = 0 then s.slotNat k 32 4 else s.slotNat k 36 4
    let t := projectedT expect (s.slotNat k 28 4) now dm am
    -- not at the first commit (R270), but for a hand-off's, whose prompt no GENERATE joined (R299)
    let examined := decide (deadline ≠ 0) && (decide (commits ≠ 0) || !e.join) && ending.isNone
    let miss := examined && ((defined && decide ((deadline : Int) - 1000 * s.slotNat k 92 4 < t)) || decide (deadline ≤ now))
    let switch := miss && (s.ctx c).modeNow.relaxed && s.slotNat k 20 4 != 0 && !s.slotFlag k 3
    let ending' := if miss && !switch then some Code.deadline else ending
    let s1 := (((s.setSlot k 28 4 gen).setSlot k 40 4 rows).setSlot k 120 4 (s.slotNat k 120 4 + emitted)).setSlot k 52 4 (commits + 1)
    let s2 := ((s1.setSlot k 404 8 now).setSlot k 96 4 (dm % 0x100000000).toNat).setSlot k 100 4 (am % 0x100000000).toNat
    let s3 := s2.modServing c (fun v => { v with staged := v.staged ++ [(e.slot, if e.prefill then 0 else rows0, rows)] })
    let st := s3.slotStats.getD k { proposals := 0, acceptances := 0, projected := 0 }
    let st' : SlotStat := { proposals := st.proposals + e.drafted, acceptances := st.acceptances + e.accepted,
                            projected := if examined && defined then t else st.projected }
    let s4 : State := { s3 with slotStats := s3.slotStats.set k st' }
    let s5 := if switch then s4.setSlotFlag k 5 true else s4
    s5.commitEnd c d e n now ending'

end State

/-- COMMIT on an entry that takes no part: its result entry; a request that SUMMARY found uncorrectable ends there (R257, R280). -/
def State.commitSkip (s : State) (c : CtxId) (d : Desc) (e : SlotStep) : State :=
  match e.ending with
  | some code => (s.endSlot c e.slot.toNat code 0 true).resultEntry c d e code true 0 s.now.toNat
  | none => s.resultEntry c d e (e.code.getD .ok) e.terminal 0 s.now.toNat

/-- COMMIT (R257): on an entry that takes no part, only its result entry. -/
def execCommit (c : CtxId) (q : SeqId) (b : Bytes) (s : State) : Host.Outcome State Fault Refusal :=
  let lobj := fldObj b 4
  let dobj := fldObj b 8
  let i := (s.ctx c).serving.cursor
  let loff := fld b 12 4 + i * fld b 16 4
  let doff := fld b 20 4 + i * fld b 24 4
  let on := State.copyOf 0x0B q b
  let base := mayIssue 0x0B q && blockOk 0x0B b && zeroBytes b 1 3 && zeroBytes b 28 63
  .next (match s.entryAt c, s.generateOf c with
    | some e, some d =>
      let acc : List Access := [⟨lobj, loff, 40, false⟩, ⟨dobj, doff, 16, false⟩]
      if e.skip then
        s.runCommand c on (base && acc.all (s.accOk c [0])) [] State.noPoisonRule (fun t => t.commitSkip c d e) (fun t => t.engineDone c q 0x0B)
      else
        let count := s.rdNat lobj loff 4
        let r := s.rd dobj doff 16
        s.runCommand c on (base && e.ready && acc.all (s.accOk c [0]) && (!s.resident acc || decide (count ≤ 9))) acc State.noPoisonRule
          (fun t => t.commitEff c d e count (fld r 4 1) (fld r 0 4) (fld r 5 1 == 1)) (fun t => t.engineDone c q 0x0B)
    | _, _ => s.runCommand c on false [] State.noPoisonRule id id)

/-! ### SUMMARY (R275 to R277) -/

/-- The left fold of rows, element by element. -/
def foldRows (w : Nat) (rows : List (List F32)) : List F32 :=
  (List.range w).map (fun i => foldSum (rows.map (fun r => (r[i]?).getD 0)))
/-- A group of rows pooled into one (R275). -/
def poolRows (w : Nat) (rows : List (List F32)) : List F32 :=
  let k := if rows.length = 4 then (0x3E800000 : F32) else recip (F32.ofNat rows.length)
  (foldRows w rows).map (fun x => F32.mul x k)

namespace State

/-- The rows of one region of a slot's model, compressed and converted to JB4 (R275). -/
def compressRegion (s : State) (slot first rows crow g : Nat) (m : Model) : Bytes :=
  let row := fun r => decodeF32 3 m.w (s.rd m.pool (s.rowOffset slot first r g m.psize m.regionSize m.rowSize) m.rowSize)
  let n := rows - 1024 - crow
  let old := (List.range crow).map row
  let pooled := (List.range (ceilDiv n 4)).map (fun i =>
    poolRows m.w ((List.range (min 4 (n - 4 * i))).map (fun j => row (crow + 4 * i + j))))
  let kept := (List.range (rows - (crow + n))).map (fun i => row (crow + n + i))
  ((if rows ≤ crow then (List.range rows).map row else old ++ pooled ++ kept).map (encodeRow 4 none)).flatten

/-- A model's part of a summary: for each layer its K rows, then its V rows (R276). -/
def compressModel (s : State) (slot first rows crow : Nat) (id : U32) : Bytes :=
  if id = 0 then []
  else match s.model? id with
    | none => []
    | some m => ((List.range (2 * m.lam)).map (fun g => s.compressRegion slot first rows crow g m)).flatten

/-- The summary of a slot (R276). -/
def summaryBytes (s : State) (slot : Nat) : Bytes :=
  let rows := s.slotNat slot 40 4
  let crow := s.slotNat slot 44 4
  let rows' := rowsAfter rows crow
  let crow' := if rows - 1024 ≤ crow then crow else crow + poolGroups rows crow
  let body := s.compressModel slot 0 rows crow (s.inForce slot) ++ s.compressModel slot 512 rows crow (s.draftOf slot)
  s.get .slots (512 * slot) 512 ++ toLE 4 0x4D55534A ++ toLE 2 1 ++ toLE 2 0 ++ toLE 4 rows' ++ toLE 4 crow' ++
    toLE 8 (s.summarySize slot rows') ++ List.replicate 104 0 ++ body

/-- A model's rows of a summary loaded into a slot's pages, JB4 to JB8 (R277); the offset after them. -/
def loadModel (s : State) (slot first rows off : Nat) (id : U32) (bytes : Bytes) : State × Nat :=
  if id = 0 then (s, off)
  else match s.model? id with
    | none => (s, off)
    | some m =>
      let sz := summaryRow m
      let s1 := s.putRows slot first m 0 rows (fun g r => encodeRow 3 none (decodeF32 4 m.w (slice bytes (off + (g * rows + r) * sz) sz)))
      (s1, off + 2 * m.lam * rows * sz)

/-- The ranges of a slot's pages: each page of its main and draft lists. -/
def slotPages (s : State) (slot : Nat) (out : Bool) : List Access :=
  let part := fun (id : U32) (first n : Nat) => if id = 0 then [] else match s.model? id with
    | none => []
    | some m => (List.range n).map (fun i => (⟨m.pool, s.pageEntry slot (first + i) * m.psize, m.psize, out⟩ : Access))
  part (s.inForce slot) 0 (s.slotNat slot 48 2) ++ part (s.draftOf slot) 512 (s.slotNat slot 50 2)

/-- The ranges of a RESUMING slot's pages that the rows of its summary take (R276, R277). -/
def resumeRows (s : State) (c : CtxId) (slot : Nat) : List Access :=
  match (s.ctx c).serving.resumes.find? (fun r => descSlot r.d == slot && r.granted && !r.loaded) with
  | none => []
  | some r =>
    let rows := min (leNat (s.hostRd (s.ctx c).port (descField r.d 24 8 + 520) 4)) rowsMax
    s.rowAccs slot 0 (s.inForce slot) 0 rows ++ s.rowAccs slot 512 (s.draftOf slot) 0 rows

/-- A summary built and written to the PAUSE's destination; what the staging object then holds is open (R274, R275, log 121). -/
def buildSummary (s : State) (c : CtxId) (slot : Nat) (wobj : U32) : State :=
  match (s.ctx c).serving.pauses.find? (fun p => descSlot p.d == slot && p.taken && p.written.isNone) with
  | none => s
  | some p =>
    let b := s.summaryBytes slot
    let s1 := (s.wr wobj 0 (freeOf b 0x100000)).hostArea (s.ctx c).port (descFlag p.d 3) (descField p.d 24 8) b
    s1.modServing c (fun v => { v with pauses := v.pauses.map (fun x => if x.d = p.d then { x with written := some b.length } else x) })

/-- A summary loaded: rows into pages, the slot store restored (R277). -/
def loadSummary (s : State) (c : CtxId) (slot : Nat) (wobj : U32) : State :=
  match (s.ctx c).serving.resumes.find? (fun r => descSlot r.d == slot && r.granted && !r.loaded) with
  | none => s
  | some r =>
    let p := (s.ctx c).port
    let a := descField r.d 24 8
    let n := descField r.d 32 8
    if !s.hcrcOk p (descFlag r.d 3) a n then (s.hostCheckFailed c).modEntry c (fun v => { v with ending := some .uncorrectable })
    else
      let bytes := s.hostRd p a n
      let pages := s.get .slots (512 * slot + 48) 4
      let s1 := (s.wr wobj 0 (freeOf bytes 0x100000)).put .slots (512 * slot) (bytes.take 512)
      let s2 := ((s1.put .slots (512 * slot + 48) pages).setSlotState slot .resuming).setSlotFlag slot 4 (s.slotFlag slot 4)
      let s3 := (s2.setSlot slot 40 4 (fld bytes 520 4)).setSlot slot 44 4 (fld bytes 524 4)
      let (s4, off) := s3.loadModel slot 0 (fld bytes 520 4) 640 (s3.inForce slot) bytes
      let (s5, _) := s4.loadModel slot 512 (fld bytes 520 4) off (s4.draftOf slot) bytes
      s5.modServing c (fun v => { v with resumes := v.resumes.map (fun x => if x.d = r.d then { x with loaded := true } else x) })

end State

/-- SUMMARY (R257): builds the summary of a PAUSING entry, loads that of a RESUMING one, has no effect on others.  A page that it cannot read, or
write a row into, ends the request UNCORRECTABLE at the entry's COMMIT (R280, R321). -/
def execSummary (c : CtxId) (q : SeqId) (b : Bytes) (s : State) : Host.Outcome State Fault Refusal :=
  let wobj := fldObj b 4
  let stage : Access := ⟨wobj, 0, 0x100000, true⟩
  let on := State.copyOf 0x0B q b
  let base := mayIssue 0x0B q && blockOk 0x0B b && zeroBytes b 1 3 && zeroBytes b 8 63 && s.accOk c [0] stage
  .next (match s.entryAt c with
    | none => s.runCommand c on false [] State.noPoisonRule id id
    | some e =>
      let slot := e.slot.toNat
      let fin := fun (t : State) => t.engineDone c q 0x0B
      let lost : Access → Option (State → State) := fun a =>
        if a.id = wobj then none else some (fun t => t.modEntry c (fun v => { v with ending := some .uncorrectable }))
      match s.slotState slot with
      | .pausing => s.runCommand c on base (stage :: s.slotPages slot false) lost (fun t => t.buildSummary c slot wobj) fin
      | .resuming => s.runCommand c on base (stage :: s.resumeRows c slot) lost (fun t => t.loadSummary c slot wobj) fin
      | _ => s.runCommand c on base [] State.noPoisonRule id fin)

end Sys2Proof.Machine
end

