-- ==== Sys2Proof/Machine/Packer.lean ====
section
/-! DEFINITION. The packer's PACK, the query results and the hand-offs (R291 to R299). -/

namespace Sys2Proof.Machine

/-! ### Packing (R291) -/

/-- A passage offered to the packer: its tokens. -/
abbrev PassageTokens := List Nat

/-- The packer's progress: passages packed, room left, passages skipped, whether it has stopped. -/
structure Packing where
  packed  : List PassageTokens
  room    : Nat
  skipped : Nat
  stop    : Bool
deriving DecidableEq, Repr

/-- One entry of the re-ranked list considered (R291). -/
def Packing.take (x : Pipeline) (sep : Nat) (p : Packing) (e : PassageTokens) : Packing :=
  if p.stop then p
  else if 0 < x.maxpass ∧ p.packed.length = x.maxpass then { p with stop := true }
  else if sep + e.length ≤ p.room then { p with packed := p.packed ++ [e], room := p.room - (sep + e.length) }
  else if x.trunc then
    if sep ≤ p.room ∧ x.mintail ≤ p.room - sep then { packed := p.packed ++ [e.take (p.room - sep)], room := 0, skipped := p.skipped, stop := true }
    else { p with stop := true }
  else { p with skipped := p.skipped + 1 }

/-- A packed prompt: its tokens, the query tokens used, whether they were cut, passages packed and skipped. -/
structure Prompt where
  tokens  : List Nat
  qtokens : Nat
  qtrunc  : Bool
  packed  : Nat
  skipped : Nat
deriving DecidableEq, Repr

/-- The prompt of a query (R291). -/
def packPrompt (x : Pipeline) (t : Template) (query : List Nat) (list : List PassageTokens) : Prompt :=
  let q0 := query.take x.qcap
  let q := if x.budget < t.fixed + q0.length then q0.take (x.budget - t.fixed) else q0
  let p := list.foldl (Packing.take x t.sep.length) { packed := [], room := x.budget - t.fixed - q.length, skipped := 0, stop := false }
  let ps := if x.rev then p.packed.reverse else p.packed
  { tokens := (t.prompt.map (fun g => match g.kind with
      | 0 => t.lit g
      | 1 => q
      | _ => (ps.map (fun e => t.sep ++ e)).flatten)).flatten
    qtokens := q.length, qtrunc := decide (q.length < query.length), packed := p.packed.length, skipped := p.skipped }

/-! ### PACK (R292) -/

/-- The fields of a PACK block. -/
structure Pack where
  robj : U32
  tobj : U32
  qobj : U32
  lobj : U32
  sobj : U32
  oobj : U32
  xobj : U32
  qoff : Nat
  loff : Nat
  soff : Nat
  ooff : Nat
  xoff : Nat
  qstride : Nat
  q    : Nat
deriving DecidableEq, Repr

def Pack.of (b : Bytes) : Pack :=
  { robj := fldObj b 4, tobj := fldObj b 8, qobj := fldObj b 12, lobj := fldObj b 16, sobj := fldObj b 20, oobj := fldObj b 24,
    xobj := fldObj b 28, qoff := fld b 32 4, loff := fld b 36 4, soff := fld b 40 4, ooff := fld b 44 4, xoff := fld b 48 4,
    qstride := fld b 52 4, q := fld b 56 4 }

namespace State

/-- u32 tokens of an object. -/
def rdTokens (s : State) (id : U32) (off n : Nat) : List Nat := (List.range n).map (fun i => s.rdNat id (off + 4 * i) 4)
/-- Query i's tokens as the object holds them. -/
def packQuery (s : State) (x : Pack) (i : Nat) : List Nat :=
  let o := x.qoff + i * x.qstride
  s.rdTokens x.qobj (o + 4) (s.rdNat x.qobj o 4)
/-- Query i's re-ranked entries' count. -/
def packCount (s : State) (x : Pack) (i : Nat) : Nat := s.rdNat x.lobj (x.loff + i * x.qstride) 4
/-- n store records from an offset: their offsets and the end. -/
def storeWalk (s : State) (id : U32) : Nat → Nat → List Nat × Nat
  | 0, off => ([], off)
  | n + 1, off =>
    let (l, e) := storeWalk s id n (off + storeLen (s.rdNat id (off + 6) 2) (s.rdNat id (off + 8) 2))
    (off :: l, e)
/-- Query i's passages, in list order. -/
def packPassages (s : State) (x : Pack) (i : Nat) : List PassageTokens :=
  ((s.storeWalk x.sobj (s.packCount x i) (x.soff + i * x.qstride)).1).map (fun o => s.rdTokens x.sobj (o + 16) (s.rdNat x.sobj (o + 6) 2))

/-! #### What a QUERY's PACK gives the host (R293 to R295; log 41) -/

/-- A query's code: the first of R295 that applies while its step runs on. -/
def queryCode (s : State) (c : CtxId) (x : Pipeline) (w : QueryWork) : Code :=
  if w.integrity then .integrity else if (s.ctx c).modeNow.graph then .approx else if w.list.length < x.depth then .short else .ok

/-- A query's result record, before its hand-off is decided (R294). -/
def resultRecord (s : State) (d : Desc) (x : Pipeline) (w : QueryWork) (p : Prompt) : Bytes :=
  let again := match (s.ctx d.ctx).runOf .packer 0x0A with | none => false | some r => r.replayed
  let flags := (if (s.ctx d.ctx).modeNow.graph then 1 else 0) + (if fld w.record 12 4 = 0 then 0 else 2) + (if again then 4 else 0) +
    (if p.qtrunc || w.cut then 16 else 0)
  toLE 4 w.list.length ++ [BitVec.ofNat 8 (s.queryCode d.ctx x w).num, BitVec.ofNat 8 flags, 0xFF, 0] ++ toLE 4 (fld w.record 12 4) ++
    toLE 4 (fld w.record 8 4) ++ toLE 4 (fld w.record 20 4) ++ toLE 4 p.qtokens ++ toLE 4 w.ranked.length ++ toLE 4 (w.found.filter (·.isNone)).length ++
    toLE 4 p.packed ++ toLE 4 p.tokens.length ++ toLE 4 p.skipped ++ [0, 0, 0, 0] ++ toLE 8 s.now.toNat ++ List.replicate 8 0

/-- n entries' bytes, padded (R206, R294). -/
def padded (n : Nat) (l : List Bytes) : Bytes := (l.take n).flatten ++ (List.replicate (n - l.length) padEntry).flatten

/-- A query's result area, and its hand-off: with GEN set and a slot given, the prompt at the request record's kaddr and plen in the record (R253, R293,
R294). -/
def packResult (s : State) (d : Desc) (x : Pipeline) (i : Nat) (w : QueryWork) (p : Prompt) : State :=
  let e := s.queryEntry d i
  let port := (s.ctx d.ctx).port
  let area := resultArea x
  let s1 := s.hostPart port (descFlag d 3) e.res area 0
    (s.resultRecord d x w p ++ padded x.depth w.list ++ padded x.ntop w.ranked ++ p.tokens.flatMap (toLE 4))
  if x.gen && e.slot != 0xFFFF then
    let kaddr := leNat (s1.hostRd port (e.rrec + 64) 8)
    let s2 := (s1.hostWr port kaddr (p.tokens.flatMap (toLE 4))).hostWr port (e.rrec + 20) (toLE 4 p.tokens.length)
    s2.modCtx (handCtx d) (fun y => { y with handoffs := y.handoffs ++
      [{ d := d, slot := BitVec.ofNat 16 e.slot, record := BitVec.ofNat 64 e.rrec, result := BitVec.ofNat 64 e.res, area := area }] })
  else s1

/-- The effect of a PACK: prompts and results in query order, and for a QUERY's step its part of the result areas. -/
def packEff (s : State) (c : CtxId) (x : Pack) : State :=
  let r := s.pipeline x.robj
  let t := s.template x.tobj
  (List.range x.q).foldl (fun u i =>
    let p := packPrompt r t (u.packQuery x i) (u.packPassages x i)
    let u1 := u.wr x.oobj (x.ooff + i * x.qstride) (p.tokens.flatMap (toLE 4))
    let u2 := u1.wr x.xobj (x.xoff + i * x.qstride)
      (toLE 4 p.qtokens ++ [if p.qtrunc then 1 else 0, 0, 0, 0] ++ toLE 4 p.packed ++ toLE 4 p.skipped ++ toLE 4 p.tokens.length ++ List.replicate 12 0)
    match (u.ctx c).runOf .packer 0x0A with
    | none => u2
    | some run =>
      if descOp run.d = 0x01 ∧ i < descField run.d 16 8 then u2.packResult run.d (u.recordOf run.d) i (run.work.getD i QueryWork.init) p else u2) s

/-- The ranges a PACK reads and writes. -/
def packAcc (s : State) (x : Pack) : List Access :=
  let r := s.pipeline x.robj
  [⟨x.robj, 0, 128, false⟩, ⟨x.tobj, 0, s.templateLen x.tobj, false⟩] ++
  ((List.range x.q).map (fun i =>
    let o := i * x.qstride
    ([⟨x.qobj, x.qoff + o, 4 + 4 * s.rdNat x.qobj (x.qoff + o) 4, false⟩, ⟨x.lobj, x.loff + o, 8 + 16 * s.packCount x i, false⟩,
      ⟨x.sobj, x.soff + o, (s.storeWalk x.sobj (s.packCount x i) (x.soff + o)).2 - (x.soff + o), false⟩,
      ⟨x.oobj, x.ooff + o, 4 * r.budget, true⟩, ⟨x.xobj, x.xoff + o, 32, true⟩] : List Access))).flatten

/-- The checks of R96, R290 and R292. -/
def packOk (s : State) (c : CtxId) (b : Bytes) (x : Pack) : Bool :=
  blockOk 0x0A b && fld b 0 1 == 1 && zeroBits b 1 7 1 && zeroBits b 2 7 4 && zeroBytes b 3 3 && decide (1 ≤ x.q) && decide (x.q ≤ 64) &&
  zeroBytes b 60 63 && (s.packAcc x).all (s.accOk c [0]) &&
  (!s.readable [⟨x.robj, 0, 128, false⟩, ⟨x.tobj, 0, s.templateLen x.tobj, false⟩] ||
    (let r := s.pipeline x.robj
     pipelineFieldsOk (s.rd x.robj 0 128) && r.kind == 0 && s.templateOk x.tobj false (2 ^ 32) &&
     decide ((s.template x.tobj).fixed + 1 ≤ r.budget)))

end State

/-- PACK (R291, R292). -/
def execPack (c : CtxId) (q : SeqId) (b : Bytes) (s : State) : Host.Outcome State Fault Refusal :=
  let x := Pack.of b
  .next (s.runCommand c (State.copyOf 0x0A q b) (mayIssue 0x0A q && s.packOk c b x) (s.packAcc x) State.noPoisonRule (fun t => t.packEff c x)
    (fun t => t.engineDone c q 0x0A))

end Sys2Proof.Machine
end

