-- ==== Sys2Proof/Machine/Dma.lean ====
section
/-! DEFINITION. The DMA engine: COPY and WFILL (R316, R317, R327, R514), and objects and images moved in and out by LOAD and EVICT (R305 to R313,
R516). -/

namespace Sys2Proof.Machine

/-! ### Transfers into device memory (R514) -/

/-- How a DMA command's attempt ends. -/
inductive DmaEnd where
  | done                      -- finished
  | more (bytes : Nat)        -- part-way: bytes moved so far
  | skipped                   -- some destination parcels were not written (R514)
  | failed                    -- a host-supplied check failed after its replay (R327)
deriving DecidableEq, Repr

namespace State

/-- The state after a DMA transfer writes a range: poisoned parcels written in part are left alone; and the bytes written (R514). -/
def dmaWr (s : State) (id : U32) (off : Nat) (bs : Bytes) : Nat × State :=
  match s.obj? id with
  | none => (0, s)
  | some o =>
    if !o.blocks off bs.length then (bs.length, s.wr id off bs)
    else
      (List.range (ceilDiv (off + bs.length) 256 - off / 256)).foldl (fun (a : Nat × State) i =>
        let k := off / 256 + i
        let lo := max off (256 * k)
        let hi := min (off + bs.length) (256 * (k + 1))
        if o.poisoned.contains k && !o.covers off bs.length k then a
        else (a.1 + (hi - lo), a.2.wr id lo (slice bs (lo - off) (hi - lo)))) (0, s)

/-- The bytes a DMA command reads as its source: a device object, or host memory behind a tier 3 object. -/
def dmaRd (s : State) (c : CtxId) (id : U32) (off n : Nat) : Bytes :=
  match s.obj? id with
  | none => s.rd id off n
  | some o => if o.tier = 3 then s.hostRd (s.ctx c).port (o.base.toNat + off) n else s.rd id off n

/-- A DMA command's run: as every engine command, on the context's channel.  On a halted channel it is set aside and waits, a queue wait; a window without
room makes it wait for a credit; a poisoned source stalls it or halts the channel (R316, R317, R325, R327, R514). -/
def runDma (s : State) (c : CtxId) (q : SeqId) (b : Bytes) (allowed : Bool) (acc : List Access) (src : List Access)
    (eff : State → DmaEnd × State) (full : Option U32 := none) : State :=
  let on := copyOf 0x0C q b
  if !(s.ctx c).active || !s.started c on then s
  else if !allowed then s.faultCtx c
  else if !s.channelOpen c then (s.noteWait c on 2 0x0C).setAside (queueIx 0x0C q)
  else if !s.resident (src ++ acc) then s.noteWait c on 0 (s.firstAbsent (src ++ acc))
  else
    match s.poisonedAccess src with
    | some a => if s.stalls a.id then s.stall c on a else (s.haltChannel c).stopStep c .uncorrectable
    | none =>
      match full with
      | some w => s.noteWait c on 1 w.toNat
      | none =>
      let key := progKey c q 0x0C
      match eff (s.endWait c on) with
      | (.done, t) => ({ t with progress := t.progress.erase key } : State).engineDone c q 0x0C
      | (.more n, t) => ({ t with progress := t.progress.set key (b, n) } : State).noteWait c on 1 (fldObj b 4).toNat
      | (.skipped, t) => t.stopStep c .uncorrectable
      | (.failed, t) => (t.hostCheckFailed c).stopStep c .uncorrectable

end State

/-! ### COPY (R317) -/

/-- The fields of a COPY block. -/
structure Copy where
  hsub : Bool
  hcrc : Bool
  dir  : Nat
  sobj : U32
  dobj : U32
  soff : Nat
  doff : Nat
  len  : Nat
deriving DecidableEq, Repr

def Copy.of (b : Bytes) : Copy :=
  { hsub := bitAt b 1 1, hcrc := bitAt b 1 2, dir := fld b 3 1, sobj := fldObj b 4, dobj := fldObj b 8, soff := fld b 12 8, doff := fld b 20 8,
    len := fld b 28 8 }

/-- The source comes from the host by address. -/
def Copy.hostSrc (x : Copy) : Bool := x.hsub && x.dir == 1
/-- The destination is a host address. -/
def Copy.hostDst (x : Copy) : Bool := x.hsub && x.dir == 2

namespace State

/-- The tier of an object, 4 for none. -/
def tierOf (s : State) (id : U32) : Nat := match s.obj? id with | none => 4 | some o => o.tier.toNat

/-- The device ranges a COPY reads. -/
def copySrc (s : State) (x : Copy) : List Access :=
  if x.hostSrc then [] else if s.tierOf x.sobj = 3 then [⟨x.sobj, 0, 0, false⟩] else [⟨x.sobj, x.soff, x.len, false⟩]
/-- The object a COPY writes, for residence. -/
def copyDst (x : Copy) : List Access := if x.hostDst then [] else [⟨x.dobj, 0, 0, false⟩]

/-- The checks of R96, R314 and R317. -/
def copyOk (s : State) (c : CtxId) (b : Bytes) (x : Copy) : Bool :=
  blockOk 0x0C b && fld b 0 1 == 1 && zeroBits b 1 7 3 && decide (x.dir ≤ 2) && decide (1 ≤ x.len) && decide (x.len ≤ 2 ^ 40) && zeroBytes b 36 63 &&
  (!x.hsub || x.dir != 0) &&
  (if x.hostSrc then x.sobj == 0
   else s.objIn c x.sobj (if x.dir = 1 then [3] else [0, 1, 2, 3]) && s.fits x.sobj x.soff x.len) &&
  (if x.hostDst then x.dobj == 0
   else if x.dir = 2 then s.objIn c x.dobj [3] && s.fits x.dobj x.doff x.len
   else s.accOk c [0, 1] ⟨x.dobj, x.doff, x.len, true⟩)

/-- The host address on the host side of a COPY. -/
def copyAddr (s : State) (x : Copy) : Nat :=
  if x.dir = 2 then (if x.hsub then x.doff else (match s.obj? x.dobj with | none => 0 | some o => o.base.toNat) + x.doff)
  else (if x.hsub then x.soff else (match s.obj? x.sobj with | none => 0 | some o => o.base.toNat) + x.soff)
/-- The source of a COPY lies in host memory: of every dir 1, and of a dir 0 from a tier 3 object. -/
def copyFromHost (s : State) (x : Copy) : Bool := x.dir == 1 || s.tierOf x.sobj == 3

/-- The effect of a COPY.  A failed host check leaves the destination as it was (log 43). -/
def copyEff (s : State) (c : CtxId) (x : Copy) : DmaEnd × State :=
  let p := (s.ctx c).port
  if x.dir = 2 then (.done, s.hostArea p x.hcrc (s.copyAddr x) (s.dmaRd c x.sobj x.soff x.len))
  else if s.copyFromHost x && (s.port p).lost then (.skipped, s)          -- a command that reads from a lost host ends UNCORRECTABLE (R367)
  else if s.copyFromHost x ∧ !s.hcrcOk p x.hcrc (s.copyAddr x) x.len then (.failed, s)
  else
    let bs := if x.dir = 1 then s.hostRd p (s.copyAddr x) x.len else s.dmaRd c x.sobj x.soff x.len
    let (n, t) := s.dmaWr x.dobj x.doff bs
    (if n = x.len then .done else .skipped, t)

end State

/-- COPY (R317). -/
def execCopy (c : CtxId) (q : SeqId) (b : Bytes) (s : State) : Host.Outcome State Fault Refusal :=
  let x := Copy.of b
  .next (s.runDma c q b (s.copyOk c b x) (State.copyDst x) (s.copySrc x) (fun t => t.copyEff c x))

/-! ### WFILL (R315, R316) -/

/-- The fields of a WFILL block. -/
structure Wfill where
  routed : Bool
  wobj : U32
  sobj : U32
  robj : U32
  e    : Nat
  soff : Nat
  len  : Nat
  stride : Nat
deriving DecidableEq, Repr

def Wfill.of (b : Bytes) : Wfill :=
  { routed := bitAt b 1 1, wobj := fldObj b 4, sobj := fldObj b 8, robj := fldObj b 12, e := fld b 16 2, soff := fld b 20 8, len := fld b 28 8,
    stride := fld b 36 8 }

namespace State

/-- The source ranges a WFILL appends, in order (R316). -/
def wfillRanges (s : State) (x : Wfill) : List (Nat × Nat) :=
  if x.routed then
    ((List.range x.e).filter (fun e => s.rdNat x.robj (8 * e + 4) 4 != 0)).map (fun e => (x.soff + e * x.stride, x.len))
  else [(x.soff, x.len)]
/-- The ranges left after the first n bytes of a list of ranges. -/
def dropRange : Nat → List (Nat × Nat) → List (Nat × Nat)
  | _, [] => []
  | n, (o, l) :: t => if l ≤ n then dropRange (n - l) t else (o + n, l - n) :: t
/-- The first n bytes of a list of ranges. -/
def takeRange : Nat → List (Nat × Nat) → List (Nat × Nat)
  | _, [] => []
  | n, (o, l) :: t => if n = 0 then [] else if l ≤ n then (o, l) :: takeRange (n - l) t else [(o, n)]
/-- Bytes of a list of ranges. -/
def rangeLen (l : List (Nat × Nat)) : Nat := (l.map Prod.snd).sum

/-- The source ranges that fit the window now. -/
def wfillNow (s : State) (c : CtxId) (q : SeqId) (b : Bytes) (x : Wfill) : List (Nat × Nat) :=
  let room := match s.obj? x.wobj with | none => 0 | some o => o.size - o.fill
  takeRange room (dropRange (s.progressOf (progKey c q 0x0C) b) (s.wfillRanges x))

/-- Bytes appended at a window's tail, and how many of them were written (R315, R514). -/
def windowPut (s : State) (id : U32) (bs : Bytes) : Nat × State :=
  match s.obj? id with
  | none => (0, s)
  | some o =>
    if o.size = 0 then (0, s)
    else
      let tail := (o.head + o.fill) % o.size
      let k := min bs.length (o.size - tail)
      let (n1, s1) := s.dmaWr id tail (bs.take k)
      let (n2, s2) := s1.dmaWr id 0 (bs.drop k)
      (n1 + n2, s2.modObj id (fun o => { o with fill := o.fill + bs.length }))

/-- The effect of a WFILL's attempt: what fits is appended; the rest waits for room (R316). -/
def wfillEff (s : State) (c : CtxId) (q : SeqId) (b : Bytes) (x : Wfill) : DmaEnd × State :=
  let all := rangeLen (s.wfillRanges x)
  let done := s.progressOf (progKey c q 0x0C) b
  let bs := ((s.wfillNow c q b x).map (fun r => s.rd x.sobj r.1 r.2)).flatten
  let (n, t) := s.windowPut x.wobj bs
  let key := progKey c q 0x0C + 512
  let skips := decide (n < bs.length) || decide (0 < s.progressOf key b)
  if all ≤ done + bs.length then (if skips then .skipped else .done, t)
  else (.more (done + bs.length), if skips then { t with progress := t.progress.set key (b, 1) } else t)

/-- The window that has no room for any byte a WFILL has left to append (R316). -/
def wfillFull (s : State) (c : CtxId) (q : SeqId) (b : Bytes) (x : Wfill) : Option U32 :=
  if (s.wfillNow c q b x).isEmpty && decide (s.progressOf (progKey c q 0x0C) b < rangeLen (s.wfillRanges x)) then some x.wobj else none

/-- The checks of R96 and R316. -/
def wfillOk (s : State) (c : CtxId) (b : Bytes) (x : Wfill) : Bool :=
  blockOk 0x0C b && fld b 0 1 == 0x10 && zeroBits b 1 7 2 && zeroBits b 2 7 4 && zeroBytes b 3 3 && zeroBytes b 18 19 && zeroBytes b 44 63 &&
  s.names c x.wobj && s.isWindow x.wobj && s.outOk x.wobj && s.objIn c x.sobj [1, 2] &&
  (if x.routed then decide (1 ≤ x.e) && decide (x.e ≤ 1024) && s.accOk c [0] ⟨x.robj, 0, 8 * x.e, false⟩
   else x.robj == 0 && x.e == 0 && x.stride == 0) &&
  (x.routed && !s.readable [⟨x.robj, 0, 8 * x.e, false⟩] || (s.wfillRanges x).all (fun r => s.fits x.sobj r.1 r.2))

end State

/-- WFILL (R316). -/
def execWfill (c : CtxId) (q : SeqId) (b : Bytes) (s : State) : Host.Outcome State Fault Refusal :=
  let x := Wfill.of b
  .next (s.runDma c q b (s.wfillOk c b x) [⟨x.wobj, 0, 0, false⟩, ⟨x.sobj, 0, 0, false⟩]
    ((if x.routed then [⟨x.robj, 0, 8 * x.e, false⟩] else []) ++ (s.wfillNow c q b x).map (fun r => (⟨x.sobj, r.1, r.2, false⟩ : Access)))
    (fun t => t.wfillEff c q b x) (s.wfillFull c q b x))

/-! ### Placement (R305 to R307) -/

/-- A base that leaves placement open (R34). -/
def openBase : U64 := BitVec.ofNat 64 0xFFFFFFFFFFFFFFFF
/-- A MiB. -/
def mib : Nat := 1048576
/-- Object space of an HBM stack with so many step-memory units when so many stacks are trained: the reservations of all twenty lie in equal shares, whole
parcels, on those (R305, R494; log 80). -/
def stackRoom (units trained : Nat) : Nat := 65536 * mib - roundUp (ceilDiv (20 * (1024 * mib + 16 * mib + 64 * mib * units)) trained) 256
/-- Bytes of a fitted DIMM's data space: 256 GiB less its top 1/64 (R304, R305, log 44). -/
def dimmRoom : Nat := 262144 * mib - 4096 * mib

namespace State

/-- Object space of a stack or channel. -/
def unitRoom (s : State) (tier n : Nat) : Nat :=
  if tier = 1 then stackRoom s.stepUnits (popCount s.regs.statusHbm.toNat)
  else (if s.regs.dimms.getLsbD (2 * n) then dimmRoom else 0) + (if s.regs.dimms.getLsbD (2 * n + 1) then dimmRoom else 0)
/-- Whether a stack or channel exists. -/
def unitExists (s : State) (tier n : Nat) : Bool :=
  if tier = 1 then s.regs.statusHbm.getLsbD n else s.regs.statusDdr.getLsbD n

/-- The parcels a placement takes: unit, first and past-the-last byte (R306). -/
def extents (tier size : Nat) (base : U64) (mask : U32) : List (Nat × Nat × Nat) :=
  if tier = 0 then [(0, base.toNat / 256 * 256, roundUp (base.toNat + size) 256)]
  else if tier = 3 then []
  else
    let us := maskBits mask.toNat
    let per := 256 * ceilDiv (ceilDiv size 256) us.length
    us.map (fun n => (n, base.toNat, base.toNat + per))

/-- Two placements share a parcel. -/
def overlap (a b : List (Nat × Nat × Nat)) : Bool :=
  a.any (fun x => b.any (fun y => x.1 == y.1 && decide (x.2.1 < y.2.2) && decide (y.2.1 < x.2.2)))

/-- Whether a placement keeps to R306. -/
def placeShape (s : State) (o : Obj) (base : U64) (mask : U32) : Bool :=
  match o.tier.toNat with
  | 0 =>
    let h := base.toNat / (320 * mib)
    mask == 0 && decide (h ≤ 1) && decide (base.toNat + o.size ≤ (h + 1) * (320 * mib)) &&
    (match o.half with | none => true | some b => decide (h = if b then 1 else 0))
  | 3 => mask == 0
  | t =>
    mask != 0 && base.toNat % 256 == 0 && (maskBits mask.toNat).all (fun n => s.unitExists t n) &&
    (extents t o.size base mask).all (fun e => decide (e.2.2 ≤ s.unitRoom t e.1))

/-- Whether a placement of an object keeps to R306 and R307. -/
def placeOk (s : State) (id : U32) (o : Obj) (base : U64) (mask : U32) : Bool :=
  s.placeShape o base mask &&
  s.objs.all (fun e => e.1 == id.toNat || e.2.tier != o.tier || decide (e.2.state = .absent) ||
    !overlap (extents o.tier.toNat o.size base mask) (extents e.2.tier.toNat e.2.size e.2.base e.2.mask)) &&
  s.loads.all (fun r => r.isImage || decide (r.object = id) || (match s.obj? r.object, r.moveTo with
    | some p, some (b, m) => p.tier != o.tier || !overlap (extents o.tier.toNat o.size base mask) (extents p.tier.toNat p.size b m)
    | _, _ => true))

end State

/-! ### Commands in progress (R310, R312) -/

namespace State

/-- The objects of shards: their own, their vectors' and their graphs'. -/
def shardUses (s : State) (ns : List Nat) : List U32 :=
  ((ns.filterMap s.shards.get?).map (fun id => [id, (s.shard id).vobj, (s.shard id).gobj])).flatten
/-- The objects that a command in progress on an engine uses: those its block names, a composed table's partner, and a shard's objects. -/
def entryUses (s : State) (engine : Nat) (b : Bytes) : List U32 :=
  blockNames engine b ++
  (if engine = 1 then [(s.table (fldObj b 4)).partner]
   else if engine = 5 ∧ fld b 0 1 = 2 then s.shardUses [fld b 4 1]
   else if 2 ≤ engine ∧ engine ≤ 5 then s.shardUses (maskShards (fld b 8 8)) else [])

/-- Whether an activity of the maintenance lane has begun and uses an object: a refresh its table and manifest; a merge its shard's objects and its target's
(R356). -/
def actUses (s : State) (id : U32) (a : Activity) : Bool :=
  a.begun && (if a.code = 4 then decide (a.target = id) || decide (BitVec.ofNat 32 (fld a.args 12 4) = id)
    else a.code != 5 && (let n := fld a.args 1 1
      (s.shardUses [n]).contains id ||
        ((s.shards.get? n).map (fun i => (s.shard i).mtarget == id.toNat && (s.shard i).mstate != 0)).getD false))

/-- Whether a command in progress uses an object: one that runs or has been set aside, a posted RECV, a SEND not yet acknowledged, an activity.  The
stalled ones, set aside at a poisoned parcel of the object, count when asked for (R310, R312). -/
def inUse (s : State) (id : U32) (stalledToo : Bool) : Bool :=
  let stalled := match s.obj? id with | none => [] | some o => o.stalled.map Prod.fst
  s.queues.any (fun e => (e.2.running.toList ++ e.2.saved.filter (fun x => x.consumed && (stalledToo || !stalled.contains (.command x.ctx e.1 x.src)))).any
    (fun x => (s.entryUses (queueEngine e.1) x.b).contains id)) ||
  s.recvs.any (fun r => decide (r.object = id) || decide (r.robj = id)) || s.sends.any (fun r => decide (r.object = id)) ||
  s.acts.any (fun a => s.actUses id a && (stalledToo || !stalled.contains (.maint a.code a.target)))

end State

/-- An object while its LOAD writes it: a relocation's has been switched to its new place, with no parcel poisoned and no reader waiting (R310). -/
def LoadRun.written (r : LoadRun) (o : Obj) : Obj :=
  match r.moveTo with
  | none => o
  | some (base, mask) => { o with base := base, mask := mask, poisoned := [], stalled := [] }

/-! ### LOAD (R309, R310, R313) -/

/-- The operands of a LOAD (R378). -/
structure LoadOps where
  id    : U32
  range : Bool
  img   : Bool
  shard : Nat
  src   : Nat
  off   : Nat
  len   : Nat
  base  : U64
  mask  : U32
deriving DecidableEq, Repr

def LoadOps.of (d : Desc) : LoadOps :=
  { id := BitVec.ofNat 32 (descField d 16 4), range := bitAt d.bytes 20 0, img := bitAt d.bytes 20 1, shard := descField d 21 1,
    src := descField d 24 8, off := descField d 32 8, len := descField d 40 8, base := BitVec.ofNat 64 (descField d 48 8),
    mask := BitVec.ofNat 32 (descField d 56 4) }

/-- Whether a LOAD gives a RESIDENT object a base or mask that differs from the current one (R310). -/
def LoadOps.moves (x : LoadOps) (o : Obj) : Bool := (x.base != openBase && x.base != o.base) || (x.mask != 0 && x.mask != o.mask)

namespace State

/-- Whether a context is bound to an image. -/
def imageBound (s : State) (i : U32) : Bool := s.ctxs.any (fun e => decide (e.2.image = some i))
/-- Bytes of step memory (R305). -/
def stepRoom (s : State) : Nat := 20 * (64 * mib) * s.stepUnits

/-- Whether a LOAD or EVICT of an object or image is under way. -/
def lineBusy (s : State) (isImage : Bool) (id : U32) : Bool :=
  s.loads.any (fun r => r.isImage == isImage && decide (r.object = id)) || (!isImage && s.evicts.any (fun d => decide ((LoadOps.of d).id = id)))

/-- The tables other than one that are placed. -/
def otherTables (s : State) (id : U32) : Tab Obj :=
  s.objs.filter (fun e => e.1 != id.toNat && e.2.kind == kindTable && decide (e.2.state ≠ .absent))
/-- A hashed or composed table: by its own header, or, while it is LOADING, by that of the LOAD's source (R159, R160). -/
def hashedTable (s : State) (id : U32) (o : Obj) : Bool :=
  let kind := match s.loads.find? (fun r => !r.isImage && r.whole && decide (r.object = id)) with
    | some r => if o.state = .loading then leNat (s.hostRd (s.ctx r.d.ctx).port ((LoadOps.of r.d).src + 6) 1) else s.rdNat id 6 1
    | none => s.rdNat id 6 1
  kind == 1 || kind == 2
/-- Whether 64 other tables are hashed or composed (R159). -/
def hashedFull (s : State) (id : U32) : Bool :=
  decide (64 ≤ ((s.otherTables id).filter (fun e => s.hashedTable (BitVec.ofNat 32 e.1) e.2)).length)

/-- A whole LOAD that would pass a limit: tables (R159), page pools (R246), a shard number in use, its own too (R190). -/
def loadOver (s : State) (d : Desc) (x : LoadOps) (o : Obj) : Bool :=
  let others := s.objs.filter (fun e => e.1 != x.id.toNat && decide (e.2.state ≠ .absent))
  if o.kind = kindTable then
    let kind := leNat (s.hostRd (s.ctx d.ctx).port (x.src + 6) 1)
    decide (4096 ≤ (s.otherTables x.id).length) || ((kind == 1 || kind == 2) && s.hashedFull x.id)
  else if o.kind = 0x04 then
    decide (200 * 1024 * mib < o.size + ((others.filter (fun e => e.2.kind == 0x04)).map (fun e => e.2.size)).sum)
  else if o.kind = kindShard ∧ x.shard ≠ 0xFF then
    (s.shards.get? x.shard).isSome ||
    s.loads.any (fun r => !r.isImage && r.whole && decide (r.object ≠ x.id) && decide ((LoadOps.of r.d).shard = x.shard) &&
      (match s.obj? r.object with | none => false | some p => p.kind == kindShard))
  else false

/-- The code with which a LOAD of a named object is refused, if it is (R309; log 99): the checks in order, with the base and mask that would be in force. -/
def loadRefusal (s : State) (d : Desc) (x : LoadOps) (o : Obj) (base : U64) (mask : U32) : Option Code :=
  if (!x.range && (x.off != 0 || x.len != 0)) || (x.range && x.len == 0) then some .protocol
  else if base = openBase ∨ ((o.tier = 1 ∨ o.tier = 2) ∧ mask = 0) then some .protocol
  else if x.range then
    if o.state ≠ .resident ∨ o.size < x.off + x.len ∨ !s.placeOk x.id o base mask then some .protocol else none
  else if o.kind = 0x06 ∧ (maskBits mask.toNat).length < 12 then some .protocol
  else if o.kind = kindShard ∧ 63 < x.shard ∧ x.shard ≠ 0xFF then some .protocol
  else if !s.placeOk x.id o base mask then some .protocol
  else if s.loadOver d x o then some .busy
  else none

/-- A LOAD under way: a range of a RESIDENT object, a whole object to its place, or a whole RESIDENT one to another place (R309, R310). -/
def loadStart (s : State) (d : Desc) (x : LoadOps) (o : Obj) (base : U64) (mask : U32) : State :=
  let run : LoadRun := { d := d, isImage := false, object := x.id, offset := x.off, length := x.len, whole := false, moveTo := none, moved := false }
  if x.range then { s with loads := s.loads ++ [run] }
  else
    let here := decide (o.state = .resident)
    let moving := here && x.moves o
    let o' : Obj := if here then o else { o with state := .loading, base := base, mask := mask }
    { (s.setObj x.id o') with
      loads := s.loads ++ [{ run with offset := 0, length := o.size, whole := true, moveTo := if moving then some (base, mask) else none }] }

/-- A LOAD of an object begins: completed when refused, else in progress (R309, R310).  What it gives no base or mask for, its entry gives; a LOAD that
leaves an open one unset is refused whether its object is RESIDENT or not, and so is one, of a range too, whose placement breaks R306 or R307 (log 99).  An
object to be relocated stays RESIDENT for the commands in progress; no other command that names it starts (R336).  What goes on lying where it lies, a
RESIDENT object that the LOAD does not move or a range, is held to the place in force. -/
def loadBegin (s : State) (d : Desc) : State :=
  let x := LoadOps.of d
  match s.obj? x.id with
  | none => s.complete d (Done.of .protocol 0)
  | some o =>
    let stays := decide (o.state = .resident) && (x.range || !x.moves o)
    let base := if x.base ≠ openBase then x.base else if stays && o.entryBase != openBase then o.base else o.entryBase
    let mask := if x.mask ≠ 0 then x.mask else if stays && o.entryMask != 0 then o.mask else o.entryMask
    match s.loadRefusal d x o base mask with
    | some c => s.complete d (Done.of c 0)
    | none => s.loadStart d x o base mask

/-- A LOAD of a step image begins (R516). -/
def loadImageBegin (s : State) (d : Desc) : State :=
  let x := LoadOps.of d
  let done := fun (c : Code) => s.complete d (Done.of c 0)
  let have_ := match s.images.get? x.id.toNat with | none => none | some m => if m.loaded then some m else none
  if !s.boot.locked || x.base != openBase || x.mask != 0 then done .protocol
  else if x.range then
    match have_ with
    | none => done .protocol
    | some m =>
      if x.len = 0 ∨ m.length < x.off + x.len then done .protocol
      else { s with loads := s.loads ++ [{ d := d, isImage := true, object := x.id, offset := x.off, length := x.len, whole := false,
                                           moveTo := none, moved := false }] }
  else if x.off ≠ 0 ∨ x.len % 256 ≠ 0 ∨ x.len < 512 ∨ 1024 * mib < x.len ∨ s.imageBound x.id then done .protocol
  else if s.stepRoom < x.len + ((s.images.filter (fun e => e.1 != x.id.toNat)).map (fun e => e.2.length)).sum then done .busy
  else
    let m : Image := { length := x.len, poisoned := [], loaded := false }
    { s with images := s.images.set x.id.toNat m
             loads := s.loads ++ [{ d := d, isImage := true, object := x.id, offset := 0, length := x.len, whole := true, moveTo := none,
                                    moved := false }] }

/-- An EVICT of an object begins (R312). -/
def evictBegin (s : State) (d : Desc) : State :=
  let id := (LoadOps.of d).id
  match s.obj? id with
  | none => s.complete d (Done.of .protocol 0)
  | some o =>
    if !o.stalled.isEmpty then s.complete d (Done.of .busy 0)
    else if o.state = .absent then s.complete d (Done.of .ok 0)
    else { (s.setObj id { o with state := .evicting }) with evicts := s.evicts ++ [d] }

/-- An EVICT of a step image (R516). -/
def evictImageBegin (s : State) (d : Desc) : State :=
  let id := (LoadOps.of d).id
  match s.images.get? id.toNat with
  | none => s.complete d (Done.of .protocol 0)
  | some m =>
    if s.imageBound id then s.complete d (Done.of .busy 0)
    else ({ (s.wipe (.image id) 0 m.length) with images := s.images.erase id.toNat } : State).complete d (Done.of .ok 0)

/-- A descriptor of an object's line begins. -/
def lineBegin (s : State) (d : Desc) : State :=
  match descOp d, bitAt d.bytes 20 1 with
  | 0x0C, false => s.loadBegin d
  | 0x0C, true => s.loadImageBegin d
  | 0x0D, false => s.evictBegin d
  | _, _ => s.evictImageBegin d

/-- Whether a descriptor waits in the line of an object or image. -/
def lineOf (isImage : Bool) (id : U32) (d : Desc) : Bool := bitAt d.bytes 20 1 == isImage && decide ((LoadOps.of d).id = id)

/-- The waiting LOADs and EVICTs of an object begin, in order, while none is under way, with fuel (R313). -/
def lineNext (isImage : Bool) (id : U32) : Nat → State → State
  | 0, s => s
  | f + 1, s =>
    if s.lineBusy isImage id then s
    else match s.objLine.find? (lineOf isImage id) with
      | none => s
      | some d => lineNext isImage id f (({ s with objLine := s.objLine.eraseP (fun e => decide (e = d)) } : State).lineBegin d)

/-- A LOAD or EVICT is expanded: it begins, or waits for the ones of the same object before it (R313). -/
def lineEnter (s : State) (d : Desc) : State :=
  let id := (LoadOps.of d).id
  let img := bitAt d.bytes 20 1
  if s.lineBusy img id || s.objLine.any (lineOf img id) then { s with objLine := s.objLine ++ [d] }
  else s.lineBegin d

/-- The state with whatever a RESIDENT object carries besides its bytes forgotten: its shard number, pages, hot rows. -/
def forget (s : State) (id : U32) : State :=
  { s with shards := s.shards.filter (fun e => e.2 != id), pools := s.pools.erase id.toNat, hot := s.hot.filter (fun h => h.table != id) }

/-- An object ABSENT again, at its entry's placement, its bytes gone (R308, R309). -/
def makeAbsent (s : State) (id : U32) : State :=
  match s.obj? id with
  | none => s
  | some o =>
    ((s.forget id).wipe (.obj id) 0 o.size).setObj id
      { o with state := .absent, base := o.entryBase, mask := o.entryMask, poisoned := [], head := 0, fill := 0, stalled := [], saved := none }

/-- The first LOAD under way of an object or image. -/
def loadOf? (s : State) (isImage : Bool) (id : U32) : Option LoadRun :=
  s.loads.find? (fun r => r.isImage == isImage && decide (r.object = id))

/-- A LOAD ends: out of the list, its descriptor completed, the object's next LOAD or EVICT begun. -/
def loadEnd (s : State) (r : LoadRun) (code : Code) (result : Nat) : State :=
  let s1 : State := { s with loads := s.loads.eraseP (fun x => decide (x = r)) }
  let s2 := s1.complete r.d (Done.of code result)
  lineNext r.isImage r.object s2.objLine.length s2

/-- What the device reads of a shard's vector and graph objects when it computes its parts of the shard (R193). -/
def buildReads (s : State) (id : U32) : List Access :=
  let h := s.shard id
  ⟨h.vobj, 0, h.slots * h.vstride, false⟩ :: (if h.degree = 0 then [] else [⟨h.gobj, 0, 256, false⟩])

/-- A parcel of a tier's address space: of unit n of tiers 1 and 2, and flat in tier 0. -/
def unitBytes (tier : Nat) : Nat := if tier = 1 then 65536 * mib else if tier = 2 then 524288 * mib else 0
/-- Free parcels that scrub found poisoned are sound again where a whole IMAGE LOAD has placed an image's parcels in step memory (R323; log 149). -/
def imageOver (s : State) (id : U32) (parcels : Nat) : State :=
  { s with freePoison := s.freePoison.filter (fun p => p.1 != 1 || !(List.range parcels).any (fun k => decide (Config.imageParcel id.toNat k = p.2))) }
/-- Free parcels that scrub found poisoned are sound again where a whole LOAD has written an object (R323). -/
def placedOver (s : State) (o : Obj) : State :=
  let tier := o.tier.toNat
  let at_ := (extents tier o.size o.base o.mask).map (fun e => (e.1 * unitBytes tier + e.2.1, e.1 * unitBytes tier + e.2.2))
  { s with freePoison := s.freePoison.filter (fun p => p.1 != tier || !at_.any (fun e => decide (e.1 ≤ 256 * p.2) && decide (256 * p.2 < e.2))) }

/-- A whole LOAD of a shard has written it: it is checked and its parts are built; one whose vectors or graph are poisoned is not built before they are sound
again, and its LOAD stays under way (R193, R222, R325).  Only the LOAD that makes a shard RESIDENT gives it a number (R190). -/
def shardArrived (s : State) (r : LoadRun) (o : Obj) (n : Nat) : State :=
  let s1 := s.setObj r.object { o with state := .resident }
  if !s1.shardLoadOk r.object then (s1.makeAbsent r.object).loadEnd r .protocol 0
  else match s1.poisonedAccess (s1.buildReads r.object) with
    | some x => s.noteStall (.build r.object) x
    | none =>
      let num := (LoadOps.of r.d).shard
      let s2 := s1.buildShard r.object
      let s3 : State := if num = 0xFF ∨ o.state = .resident ∨ r.moveTo.isSome then s2 else
        { s2 with shards := Tab.set (s2.shards.filter (fun e => e.2 != r.object)) num r.object
                  retained := s2.retained.filter (fun k => decide (k.shard.toNat ≠ num)) }
      s3.loadEnd r .ok n

/-- A LOAD of an object whose data is in: the object is RESIDENT (R310). -/
def loadArrived (s : State) (r : LoadRun) (n : Nat) : State :=
  match s.obj? r.object with
  | none => s.loadEnd r .protocol 0
  | some o =>
    let s1 := s.setObj r.object { o with state := .resident }
    if !r.whole then s1.loadEnd r (if n = r.length then .ok else .uncorrectable) n
    else if o.kind = kindShard then (s.placedOver o).shardArrived r o n
    else (s1.placedOver o).loadEnd r .ok n

/-- A LOAD, of a range too, whose data would make a table hashed or composed past the limit of such tables (R159). -/
def hashedOver (s : State) (r : LoadRun) (o : Obj) : Bool :=
  let kind := leNat (s.hostRd (s.ctx r.d.ctx).port ((LoadOps.of r.d).src + 6 - r.offset) 1)
  o.kind == kindTable && decide (r.offset ≤ 6) && decide (6 < r.offset + r.length) && (kind == 1 || kind == 2) && s.hashedFull r.object
/-- Such a LOAD completes BUSY and loads nothing: a RESIDENT table stays as it was, at its place (R159). -/
def loadOverEnd (s : State) (r : LoadRun) (o : Obj) : State :=
  (if o.state = .resident then s else if r.moveTo.isSome then s.setObj r.object { o with state := .resident } else s.makeAbsent r.object).loadEnd r .busy 0

/-- A LOAD ends with its channel halted: a whole one leaves its object ABSENT, or its image not loaded; a range stays poisoned (R327). -/
def loadHalted (s : State) (r : LoadRun) : State :=
  let ks := (List.range (ceilDiv (r.offset + r.length) 256 - r.offset / 256)).map (fun i => r.offset / 256 + i)
  let s1 : State :=
    if r.isImage then
      match s.images.get? r.object.toNat with
      | none => s
      | some m =>
        if r.whole then { (s.wipe (.image r.object) 0 m.length) with images := s.images.erase r.object.toNat }
        else { s with images := s.images.set r.object.toNat { m with poisoned := (m.poisoned ++ ks).dedup } }
    else if r.whole then s.makeAbsent r.object
    else s.modObj r.object (fun o => { o with poisoned := (o.poisoned ++ ks).dedup })
  s1.loadEnd r .uncorrectable 0

/-- The end of an object's LOAD (R310, R327, R514; the bytes are read when it completes, log 13). -/
def loadObjDone (s : State) (r : LoadRun) : State :=
  let x := LoadOps.of r.d
  let p := (s.ctx r.d.ctx).port
  match s.obj? r.object with
  | none => s.loadEnd r .protocol 0
  | some o =>
    if o.tier = 3 then (s.setObj r.object { r.written o with state := .resident }).loadEnd r .ok 0
    else if !s.hcrcOk p (descFlag r.d 3) x.src r.length then
      (s.hostCheckFailed r.d.ctx).loadHalted r
    else if s.hashedOver r o then s.loadOverEnd r o
    else
      let (n, t) := (s.setObj r.object (r.written o)).dmaWr r.object r.offset (s.hostRd p x.src r.length)
      t.loadArrived r n

/-- The end of an image's LOAD (R516, R514). -/
def loadImageDone (s : State) (r : LoadRun) : State :=
  let x := LoadOps.of r.d
  let p := (s.ctx r.d.ctx).port
  match s.images.get? r.object.toNat with
  | none => s.loadEnd r .protocol 0
  | some m =>
    let ks := (List.range (ceilDiv (r.offset + r.length) 256 - r.offset / 256)).map (fun i => r.offset / 256 + i)
    let covers := fun k => decide (r.offset ≤ 256 * k) && decide (256 * (k + 1) ≤ r.offset + r.length)
    if !s.hcrcOk p (descFlag r.d 3) x.src r.length then
      (s.hostCheckFailed r.d.ctx).loadHalted r
    else
      let data := s.hostRd p x.src r.length
      let good := ks.filter (fun k => !m.poisoned.contains k || covers k)
      let s1 := good.foldl (fun t k =>
        let lo := max r.offset (256 * k)
        let hi := min (r.offset + r.length) (256 * (k + 1))
        t.put (.image r.object) lo (slice data (lo - r.offset) (hi - lo))) s
      let n := (good.map (fun k => min (r.offset + r.length) (256 * (k + 1)) - max r.offset (256 * k))).sum
      let m' : Image := { m with poisoned := m.poisoned.filter (fun k => !covers k), loaded := true }
      let s2 := if r.whole then s1.imageOver r.object (r.length / 256) else s1
      ({ s2 with images := s2.images.set r.object.toNat m' } : State).loadEnd r (if n = r.length then .ok else .uncorrectable) n

end State

/-- LOAD_COMPLETE: the last parcel of a LOAD is written; nothing while its channel is halted, or before a relocation has switched the object
(R309, R310, R327); a LOAD from the memory of a lost port ends UNCORRECTABLE (R367). -/
def execLoadComplete (isImage : Bool) (object : U32) (s : State) : Host.Outcome State Fault Refusal :=
  .next (match s.loadOf? isImage object with
    | none => s
    | some r =>
      if (s.port (s.ctx r.d.ctx).port).lost then s.loadHalted r
      else if !s.channelOpen r.d.ctx || (r.moveTo.isSome && !r.moved) then s
      else if isImage then s.loadImageDone r else (s.loadObjDone r).woken r.object)

/-- RELOCATION_PROCEED: commands in progress on the object have finished, but for stalled ones, and its LOAD goes on to write it at the new place; before
they have, nothing (R310).  LOAD_COMPLETE then writes it there, switches it and frees the old parcels. -/
def execRelocationProceed (object : U32) (s : State) : Host.Outcome State Fault Refusal :=
  .next (match s.loadOf? false object with
    | none => s
    | some r =>
      match r.moveTo with
      | none => s
      | some _ =>
        if r.moved || !s.channelOpen r.d.ctx || s.inUse object false then s
        else
          let s1 := s.modObj object (fun o => { o with state := .loading })
          { s1 with loads := s1.loads.map (fun x => if x = r then { x with moved := true } else x) })

/-- EVICT_FREE: no command in progress names the object; its parcels are freed, it is ABSENT and the EVICT completes; while one does, nothing (R312). -/
def execEvictFree (object : U32) (s : State) : Host.Outcome State Fault Refusal :=
  .next (match s.evicts.find? (fun d => decide ((LoadOps.of d).id = object)) with
    | none => s
    | some d =>
      if s.inUse object true then s
      else
      let s1 := s.makeAbsent object
      let s2 : State := { s1 with evicts := s1.evicts.eraseP (fun e => decide (e = d)) }
      let s3 := s2.complete d (Done.of .ok 0)
      State.lineNext false object s3.objLine.length s3)

end Sys2Proof.Machine
end

