-- ==== Sys2Proof/Machine/RegMap.lean ====
section
/-! DEFINITION. The setup registers as BAR0 shows them (R481 to R497, and the registers R393, R394, R434, R455 and 17_dawn_security_vesper.md lay
out), and their RT fields as records of the retained state (R471, R473, R497). -/

namespace Sys2Proof.Machine

/-- A ring register's value: log2size and base (R489). -/
def RingReg.value (r : RingReg) : Nat := r.log2size.toNat + r.base.toNat
/-- CTX.MODE's value. -/
def Mode.value (m : Mode) : Nat := flagNat m.relaxed + 2 * flagNat m.graph + 4 * flagNat m.merge

/-- Register `off` of a context's record (R489). -/
def Ctx.reg (x : Ctx) (off : Nat) : Nat :=
  match off with
  | 0x00 => x.state.num + 8 * flagNat x.broken + 16 * x.stopped.toNat
  | 0x08 => flagNat x.suspendReq
  | 0x10 => x.port.toNat
  | 0x18 => x.prio.toNat
  | 0x20 => x.mode.value
  | 0x28 => x.slotBase.toNat + 65536 * x.slotCount.toNat
  | 0x30 => x.syncBase.toNat + 65536 * x.syncCount.toNat
  | 0x38 => x.dma.toNat
  | 0x40 => x.save.toNat
  | 0x48 => x.irq.toNat
  | 0x50 => x.cq.value
  | 0x60 => (x.sq.getD 0 RingReg.init).value
  | 0x68 => (x.sq.getD 1 RingReg.init).value
  | 0x70 => (x.sq.getD 2 RingReg.init).value
  | 0x78 => (x.sq.getD 3 RingReg.init).value
  | _ => 0

/-- A LINK.PORT state's code (R394). -/
def LinkState.num : LinkState → Nat
  | .down => 0 | .training => 1 | .up8 => 2 | .up4 => 3

/-- The vectors of a port. -/
def allVectors : List (BitVec 6) := (List.range 64).map (BitVec.ofNat 6)

namespace State

/-- HOST.OWNER.owner as the owning port, if there is one (R365). -/
def owner? (s : State) : Option HostPort :=
  if s.regs.owner = 0 then some 0 else if s.regs.owner = 1 then some 1 else none

/-- Whether a write from port p to the owner's registers is taken: from the owner, from W6 on (R366, R459, R484). -/
def ownerMay (s : State) (p : HostPort) : Bool := s.owner? == some p && decide (3 ≤ s.boot.state.toNat)
/-- Whether a write from port p to its own HOST and INTC registers is taken: from W3 on (R366, R459). -/
def bankMay (s : State) : Bool := s.boot.bars
/-- Whether a write from port p to a context's record is taken (R366). -/
def ctxMay (s : State) (p : HostPort) (c : CtxId) : Bool := (s.ctx c).port == p && decide (3 ≤ s.boot.state.toNat)

/-- A word of the MSI-X table (R363): address, then data and vector control. -/
def msixWord (s : State) (p : HostPort) (k : Nat) : Nat :=
  let e := (s.port p).vec (BitVec.ofNat 6 (k / 2))
  if k % 2 = 0 then e.address.toNat else e.data.toNat + 4294967296 * flagNat e.masked

/-- The pending-bit array (R363). -/
def pba (s : State) (p : HostPort) : Nat :=
  (allVectors.map (fun v => flagNat ((s.port p).vec v).pending * 2 ^ v.toNat)).sum

/-- The HOST and INTC registers of a port (R487, R493). -/
def bankedReg (s : State) (p : HostPort) (off : Nat) : Nat :=
  let t := s.port p
  if off = 0x10000 then s.regs.owner.toNat
  else if off = 0x10008 then t.dbpage.toNat
  else if off = 0x10010 then t.hdpage.toNat
  else if off = 0x10018 then t.idlepage.toNat
  else if off = 0x10020 then t.pollActive.toNat + 65536 * t.pollIdle.toNat + 4294967296 * t.pollMax.toNat
  else if off = 0x10028 then t.ptm.toNat
  else if 0x18000 ≤ off ∧ off < 0x18400 then s.msixWord p ((off - 0x18000) / 8)
  else if off = 0x19000 then s.pba p
  else if off = 0x40000 then t.attnLog.toNat + 16 * t.attnVector.toNat + t.attnBase.toNat
  else if off = 0x40010 then t.swpend.toNat
  else if 0x40100 ≤ off ∧ off < 0x40300 then
    let e := t.vec (BitVec.ofNat 6 ((off - 0x40100) / 8))
    e.count.toNat + 256 * e.time.toNat + 16777216 * e.resend.toNat
  else 0

/-- The MODE and MEM registers (R455, and MEM in 18_setup_registers.md). -/
def modeMemReg (s : State) (off : Nat) : Nat :=
  let w := s.power
  let r := s.regs
  if off = 0x50000 then w.level.toNat + 16 * w.current.toNat + 64 * flagNat w.ramp + 256 * flagNat w.autotrim
  else if off = 0x50008 then w.throttle.toNat + 65536 * w.offset.toNat + 16777216 * w.cause.toNat
  else if off = 0x50010 then 2 * w.duskState.toNat + 65536 * w.grace.toNat
  else if 0x50100 ≤ off ∧ off < 0x50138 then
    let t := w.trims.getD ((off - 0x50100) / 8) Trim.init
    t.noon.toNat + 16 * t.afternoon.toNat + 256 * t.evening.toNat
  else if off = 0x60000 then r.stepmem.toNat
  else if off = 0x60008 then r.scrubStore.toNat + 256 * r.scrubHbm.toNat + 65536 * r.scrubDdr.toNat
  else if off = 0x60010 then r.dmahalt.toNat
  else if off = 0x60018 then r.ddrEnable.toNat + 65536 * r.ddrRate.toNat
  else if off = 0x60020 then r.statusHbm.toNat + 2 ^ 20 * r.statusDdr.toNat + 2 ^ 36 * r.statusRate.toNat
  else if off = 0x60028 then r.dimms.toNat
  else 0

/-- LINK.TREE's value (R393). -/
def treeReg (s : State) : Nat :=
  let r := s.regs
  r.treeIndex.toNat + 2 ^ 10 * r.treeRole.toNat + 2 ^ 12 * r.treeUplink.toNat + 2 ^ 16 * r.treeChildren.toNat +
    2 ^ 26 * r.treeSize.toNat + 2 ^ 36 * r.treeId.toNat + 2 ^ 52 * flagNat r.treeFormed

/-- The LINK, ENGINE, SYNC and INTEG registers (R393, R394, R410, R434, R495, R496). -/
def linkEngineReg (s : State) (off : Nat) : Nat :=
  let r := s.regs
  if off = 0x80000 then s.treeReg
  else if off = 0x80008 then r.timeInterval.toNat
  else if 0x80100 ≤ off ∧ off < 0x80150 then
    let l := s.links.getD ((off - 0x80100) / 8) Link.init
    flagNat l.enable + 2 * flagNat l.x4 + 4 * l.state.num
  else if off = 0xA0000 then r.preempt.toNat
  else if off = 0xA0008 then r.inherit.toNat
  else if off = 0xA0010 then r.maintCap.toNat
  else if off = 0xC0008 then flagNat r.syncDiscarded
  else if 0xD0008 ≤ off ∧ off < 0xD0078 then
    let t := r.thresh.getD ((off - 0xD0000) / 8) Thresh.init
    t.detected.toNat + 65536 * t.correctable.toNat
  else 0

/-- The VESPER and BOOT registers (17_dawn_security_vesper.md). -/
def vesperBootReg (s : State) (off : Nat) : Nat :=
  let v := s.vesper
  let b := s.boot
  if off = 0xE0000 then v.card.toNat + 8 * flagNat v.restored + 16 * v.cert.toNat + 65536 * v.good.toNat
  else if off = 0xE0008 then v.serial.toNat % 2 ^ 64
  else if off = 0xE0010 then v.serial.toNat / 2 ^ 64
  else if off = 0xE0018 then v.remaining.toNat + 65536 * v.days.toNat + 2 ^ 32 * v.warn.toNat
  else if off = 0xE0020 then v.interval.toNat
  else if off = 0xE0028 then v.seq.toNat
  else if off = 0xE0030 then v.certAddr.toNat
  else if off = 0xE0038 then v.certLen.toNat
  else if off = 0xF0000 then b.state.toNat + 256 * b.status.toNat + 65536 * b.attempts.toNat
  else if off = 0xF0008 then b.imageLength.toNat
  else if off = 0xF0018 then flagNat b.locked
  else if off = 0xF0020 then popCount b.fuses.floor.toNat + 256 * b.fuses.revoked.toNat + 1024 * b.slot.toNat
  else if 0xF0040 ≤ off ∧ off < 0xF0060 ∧ b.firmware then fld b.idKey (off - 0xF0040) 8
  else if 0xF0080 ≤ off ∧ off < 0xF00C0 ∧ b.firmware then fld b.fwDigest (off - 0xF0080) 8
  else 0

/-- The IDENT registers (R486). -/
def identReg (s : State) (p : HostPort) (off : Nat) : Nat :=
  if off = 0x00 then 0xB10980
  else if off = 0x08 then 1
  else if off = 0x10 then 20 + 16 * 2 ^ 5 + 10 * 2 ^ 10 + 2 * 2 ^ 14 + 256 * 2 ^ 16 + 16384 * 2 ^ 25
  else if off = 0x18 then p.toNat
  else if off = 0x20 ∨ off = 0x28 then fld s.boot.devId (off - 0x20) 8
  else if off = 0x30 then s.boot.fwid.toNat
  else 0

/-- The 64 bits at an 8-byte boundary of BAR0 as port p sees them; what no register takes reads zero (R12, R482). -/
def regValue (s : State) (p : HostPort) (off : Nat) : Nat :=
  if off < 0x10000 then s.identReg p off
  else if off < 0x20000 then s.bankedReg p off
  else if off < 0x30000 then (s.ctx (BitVec.ofNat 8 ((off - 0x20000) / 256))).reg (off % 256)
  else if off < 0x50000 then s.bankedReg p off
  else if off < 0x80000 then s.modeMemReg off
  else if off < 0xE0000 then s.linkEngineReg off
  else s.vesperBootReg off

/-- BAR0's answer to a read from a port: of an aligned 4 or 8 bytes the register as every earlier write has left it, since commands are taken in order; any
other read completes with Unsupported Request, and before W3 no read is answered (R364, R459). -/
def bar0Read (s : State) (p : HostPort) (off n : Nat) : Option Bytes :=
  if s.boot.bars && ((n == 8 && decide (off % 8 = 0)) || (n == 4 && decide (off % 4 = 0))) then
    some (slice (toLE 8 (s.regValue p (off / 8 * 8))) (off % 8) n)
  else none
/-- BAR2's answer to a read: zero during Dawn, Unsupported Request afterwards (R363, R460). -/
def bar2Read (s : State) (n : Nat) : Option Bytes := if s.boot.bars && decide (s.boot.state.toNat ≤ 3) then some (List.replicate n 0) else none

/-! ### The RT fields (R497) -/

/-- The offsets of the registers with RT fields. -/
def rtOffsets : List Nat :=
  [0x50000, 0x50008, 0x50010] ++ (List.range 7).map (fun d => 0x50100 + 8 * d) ++ [0x60008, 0x60018] ++
    (List.range 10).map (fun n => 0x80100 + 8 * n) ++ [0xA0000, 0xA0008, 0xA0010] ++
    (List.range 14).map (fun k => 0xD0008 + 8 * k) ++ [0xE0018, 0xE0020]

/-- The RT records of a checkpoint (R471). -/
def rtRecords (s : State) : List RtRecord :=
  rtOffsets.map (fun o => { offset := BitVec.ofNat 32 o, value := BitVec.ofNat 64 (s.regValue 0 o) })

/-- The RT fields of the MODE block taken from a value. -/
def setModeRt (s : State) (off v : Nat) : State :=
  let w := s.power
  let w' : Power :=
    if off = 0x50000 then { w with level := BitVec.ofNat 2 v, autotrim := v.testBit 8 }
    else if off = 0x50008 then { w with throttle := BitVec.ofNat 7 v }
    else if off = 0x50010 then { w with grace := BitVec.ofNat 16 (v / 65536) }
    else if 0x50100 ≤ off ∧ off < 0x50138 then
      let t : Trim := { noon := BitVec.ofNat 4 v, afternoon := BitVec.ofNat 4 (v / 16), evening := BitVec.ofNat 4 (v / 256) }
      { w with trims := w.trims.set ((off - 0x50100) / 8) t }
    else w
  { s with power := w' }

/-- The RT fields of the MEM, ENGINE and INTEG blocks taken from a value. -/
def setRegsRt (s : State) (off v : Nat) : State :=
  let r := s.regs
  let r' : Regs :=
    if off = 0x60008 then { r with scrubStore := BitVec.ofNat 8 v, scrubHbm := BitVec.ofNat 8 (v / 256), scrubDdr := BitVec.ofNat 16 (v / 65536) }
    else if off = 0x60018 then { r with ddrEnable := BitVec.ofNat 16 v, ddrRate := BitVec.ofNat 3 (v / 65536) }
    else if off = 0xA0000 then { r with preempt := BitVec.ofNat 32 v }
    else if off = 0xA0008 then { r with inherit := BitVec.ofNat 16 v }
    else if off = 0xA0010 then { r with maintCap := BitVec.ofNat 9 v }
    else if 0xD0008 ≤ off ∧ off < 0xD0078 then
      let t : Thresh := { detected := BitVec.ofNat 16 v, correctable := BitVec.ofNat 16 (v / 65536) }
      { r with thresh := r.thresh.set ((off - 0xD0000) / 8) t }
    else r
  { s with regs := r' }

/-- A restored record applied: only the bits of RT fields, and nothing at any other offset (R473). -/
def applyRt (s : State) (x : RtRecord) : State :=
  let off := x.offset.toNat
  let v := x.value.toNat
  if off % 8 ≠ 0 then s
  else if 0x80100 ≤ off ∧ off < 0x80150 then
    let n := (off - 0x80100) / 8
    { s with links := s.links.set n { (s.links.getD n Link.init) with enable := v.testBit 0, x4 := v.testBit 1 } }
  else if off = 0xE0018 then { s with vesper := { s.vesper with warn := BitVec.ofNat 7 (v / 2 ^ 32) } }
  else if off = 0xE0020 then { s with vesper := { s.vesper with interval := BitVec.ofNat 11 v } }
  else if off < 0x60000 then s.setModeRt off v
  else s.setRegsRt off v

end State
end Sys2Proof.Machine
end

