-- ==== Sys2Proof/Machine/Lane.lean ====
section
/-! DEFINITION. How an activity of the maintenance lane ends: its completion, its record, or the maintenance-done event (R357, R360). -/

namespace Sys2Proof.Machine

/-- The context that started an activity, if one did. -/
def Activity.ctx? (a : Activity) : Option CtxId :=
  match a.desc, a.start with
  | some d, _ => some d.ctx
  | none, some (c, _, _, _) => some c
  | none, none => none

/-- The tag of the descriptor that started an activity, or zero (R360). -/
def Activity.tag (a : Activity) : Nat := (a.desc.map (fun d => descField d 4 4)).getD 0

/-- The completion code of a value; unnamed values stand for OK. -/
def Code.ofNum (n : Nat) : Code :=
  ([.short, .cancelled, .lateCancel, .grammarDeadEnd, .fallbackUsed, .noPages, .integrity, .uncorrectable, .faulted, .protocol, .linkLost,
    .deadline, .stopString, .lengthLimit, .endOfSequence, .busy, .inheritTimeout, .approx].find? (fun c => decide (Code.num c = n))).getD .ok

namespace State

/-- The maintenance-done event (R360). -/
def maintDone (s : State) (activity : Byte) (outcome : Nat) (c : Option CtxId) (discarded dropped : Bool) (target : U32) (tag result : Nat) :
    State :=
  s.devEvent 0x05 ([activity, BitVec.ofNat 8 outcome, c.getD 0xFF, BitVec.ofNat 8 (flagNat discarded + 2 * flagNat dropped)] ++
    toLE 4 target.toNat ++ toLE 4 tag ++ toLE 8 result)

/-- A descriptor leaves the outstanding ones with no completion; a FENCE it held up completes (R360, R348). -/
def discardDesc (s : State) (d : Desc) : State :=
  if (s.ctx d.ctx).outstanding.any (fun e => decide (e.1 = d)) then
    (s.modCtx d.ctx (fun x => { x with outstanding := x.outstanding.eraseP (fun e => decide (e.1 = d)),
                                       reserved := x.reserved - 1 })).fenceDone d.ctx
  else s

/-- A context to which an activity's completion goes (R360). -/
def takesDone (s : State) (c : CtxId) : Bool := decide ((s.ctx c).state = .ready) || decide ((s.ctx c).state = .suspended)

/-- An activity's descriptor completes, or its completion is discarded and reported: also when the context's rings have been set up afresh since
(R360; log 47). -/
def actDescEnd (s : State) (a : Activity) (d : Desc) (code : Code) (result : Nat) : State :=
  if s.takesDone d.ctx && (s.ctx d.ctx).outstanding.any (fun e => decide (e.1 = d)) then s.complete d (Done.of code result)
  else (s.discardDesc d).maintDone a.code code.num (some d.ctx) true false a.target a.tag result

/-- An activity that a START began ends: its record written, once robj is RESIDENT, and its command finished under WAIT (R311, R357; log 109). -/
def actStartEnd (s : State) (a : Activity) (c : CtxId) (q : SeqId) (robj : U32) (wait : Bool) (code : Code) (result : Nat) : State :=
  let s1 := if s.takesDone c then s else s.maintDone a.code code.num (some c) true false a.target 0 result
  let r : LaneRec := { object := robj, bytes := BitVec.ofNat 8 code.num :: (List.replicate 7 0 ++ toLE 8 result), cmd := if wait then some (c, q) else none }
  if (s.obj? robj).isNone || s1.resident [⟨robj, 0, 16, true⟩] then s1.writeLaneRec r else { s1 with laneRecs := s1.laneRecs ++ [r] }

/-- An activity ends with an outcome and result. -/
def actEnd (s : State) (a : Activity) (code : Code) (result : Nat) : State :=
  match a.desc, a.start with
  | some d, _ => s.actDescEnd a d code result
  | none, some (c, q, robj, wait) => s.actStartEnd a c q robj wait code result
  | none, none => s

/-- An activity refused as the lane receives it, which no context that runs has to have started: its descriptor completes (R359, R360). -/
def actRefused (s : State) (a : Activity) (code : Code) : State :=
  match a.desc with | some d => s.complete d (Done.of code 0) | none => s.actEnd a code 0

/-- No reader is stalled as this one any longer. -/
def unstall (s : State) (r : Reader) : State :=
  { s with objs := s.objs.map (fun e => (e.1, { e.2 with stalled := e.2.stalled.filter (fun d => decide (d.1 ≠ r)) })) }
/-- An activity leaves the lane; it is stalled nowhere. -/
def actLeaves (s : State) (a : Activity) : State :=
  ({ s with acts := s.acts.eraseP (fun x => decide (x = a)) } : State).unstall (.maint a.code a.target)

/-- The activities of a drained context that were received and have not begun are dropped, and reported; the outcome
reported is free (R360, log 48). -/
def dropActs (s : State) (c : CtxId) : State :=
  let gone := s.acts.filter (fun a => !a.begun && decide (a.ctx? = some c))
  let s1 : State := { s with acts := s.acts.filter (fun a => a.begun || decide (a.ctx? ≠ some c)) }
  gone.foldl (fun s a =>
    let s1 := match a.desc with | some d => s.discardDesc d | none => s
    let (n, s2) := s1.freeWord
    s2.maintDone a.code n (some c) false true a.target a.tag 0) s1

end State
end Sys2Proof.Machine
end

