-- ==== Sys2Proof/Machine/Vesper.lean ====
section
/-! DEFINITION. Measurements, attestation and certificates (R465 to R468), and the Vesper card: checkpoints, wear, life and the restore at Dawn (R469
to R478). -/

namespace Sys2Proof.Machine

/-- ASCII bytes of a label, with no terminator (R458). -/
def ascii (t : String) : Bytes := t.toList.map (fun c => BitVec.ofNat 8 c.toNat)

/-- The identity seeds from the device secret (R458). -/
def identitySeeds (secret : BitVec 256) : Bytes := shake256 (toLE 32 secret.toNat ++ ascii "JORIND IDENTITY 1") 48
/-- The card key: 32 bytes from the device secret and the card's serial (R458). -/
def cardKey (secret : BitVec 256) (serial : Bytes) : Bytes := shake256 (toLE 32 secret.toNat ++ ascii "JORIND VESPER 1" ++ serial) 32
/-- The identity public key: PK.seed and PK.root (R458, log 12). -/
def identityKey (secret : BitVec 256) : Bytes :=
  let seeds := identitySeeds secret
  (seeds.drop 32).take 16 ++ (List.range 16).map (Config.slhRoot128f seeds)
/-- The device ID (R458). -/
def deviceId (key : Bytes) : Bytes := shake256 key 16

namespace State

/-! ### The measurement log (R465) -/

/-- An entry made in the measurement log (R465). -/
def measure (s : State) (kind ctx card : Byte) (id : Nat) (digest : Bytes) : State :=
  let b := s.boot
  let e : Bytes := [kind, 0, ctx, card] ++ toLE 4 b.logTotal ++ toLE 8 s.now.toNat ++ toLE 8 id ++ slice digest 0 64 ++ List.replicate 8 0
  { s with boot := { b with log := if b.log.length < 65536 then b.log ++ [e] else b.log, logTotal := b.logTotal + 1,
                            accumulator := shake256 (b.accumulator ++ e) 64 } }

/-- The bytes of an attestation report before its signature (R466). -/
def reportBody (s : State) (nonce : Bytes) : Bytes :=
  let b := s.boot
  let v := s.vesper
  let n := b.log.length
  let head : Bytes := toLE 4 0x5454414A ++ toLE 2 1 ++ toLE 2 0x0980 ++ slice nonce 0 32 ++ slice b.devId 0 16 ++
    toLE 16 v.serial.toNat ++ [0xB1, v.card.setWidth 8, 0, 0] ++ toLE 8 s.now.toNat ++ toLE 4 n ++ toLE 4 b.logTotal ++
    toLE 4 (flagNat (decide (n < b.logTotal)) + 2 * flagNat (!v.bundle.isEmpty)) ++ slice b.idKey 0 32 ++ slice b.accumulator 0 64 ++
    toLE 4 v.bundle.length
  slice head 0 256 ++ b.log.flatten ++ slice v.bundle 0 (roundUp v.bundle.length 8)

/-- The size of an attestation report (R466). -/
def reportSize (s : State) : Nat := 256 + 96 * s.boot.log.length + roundUp s.vesper.bundle.length 8 + 17088

/-- An ATTEST: the report written and completed, or PROTOCOL with the size needed (R466, R467). -/
def attest (s : State) (d : Desc) : State :=
  let size := s.reportSize
  if descField d 56 4 < size then s.complete d (Done.of .protocol size)
  else
    let body := s.reportBody (slice d.bytes 16 32)
    let sig := (List.range 17088).map (Config.slhSign128f (identitySeeds s.boot.fuses.secret) body)
    (s.hostArea (s.ctx d.ctx).port (descFlag d 3) (descField d 48 8) (body ++ sig)).complete d (Done.of .ok size)

/-! ### Wear and life (R476, R477) -/

/-- A card whose wear table is in force: blank, valid or failed (R476). -/
def tableInForce (s : State) : Bool := s.vesper.card == 2 || s.vesper.card == 5 || s.vesper.card == 6
/-- The erase count of a block. -/
def eraseCount (s : State) (k : Nat) : Nat := (s.vesper.wear.getD k 0).toNat
/-- The mark of a bad block (R471). -/
def badMark : U32 := 0xFFFFFFFF
/-- The blocks for checkpoints (R469). -/
def cardBlocks : List Nat := (List.range 2047).map (· + 1)
/-- The good blocks for checkpoints. -/
def goodBlocks (s : State) : List Nat := cardBlocks.filter (fun k => s.vesper.wear.getD k 0 != badMark)
/-- The erases that remain (R476). -/
def erasesLeft (s : State) : Nat := (s.goodBlocks.map (fun k => 100000 - s.eraseCount k)).sum

/-- The Vesper life event (R477). -/
def lifeDetail (s : State) (reason : Byte) (seq : Nat) : Bytes :=
  [reason, 0] ++ toLE 2 s.vesper.remaining.toNat ++ toLE 2 s.vesper.days.toNat ++ toLE 2 s.vesper.good.toNat ++ toLE 8 seq
/-- The event raised. -/
def lifeEvent (s : State) (reason : Byte) (seq : Nat) : State := s.devEvent 0x07 (s.lifeDetail reason seq)

/-- A day of device time, ns. -/
def dayNs : Nat := 86400000000000

/-- The life figures worked out again from the wear table in force (R476): remaining to the nearest unit, days rounded down (log 50). -/
def refreshLife (s : State) : State :=
  let v := s.vesper
  if s.tableInForce then
    let left := s.erasesLeft
    let day := ((v.eraseLog.filter (fun e => decide (s.now.toNat < e.1.toNat + dayNs))).map Prod.snd).sum
    { s with vesper := { v with good := BitVec.ofNat 12 s.goodBlocks.length
                                remaining := BitVec.ofNat 14 ((2 * 10000 * left + 204700000) / (2 * 204700000))
                                days := if day = 0 then 65535 else BitVec.ofNat 16 (min 65535 (left / day)) } }
  else { s with vesper := { v with good := 0, remaining := 0, days := 0 } }

/-- Reason 7 when remaining has fallen below the warning threshold by a further whole percent (R477). -/
def warnLife (s : State) : State :=
  let v := s.vesper
  let pct := v.remaining.toNat / 100
  if s.tableInForce ∧ v.remaining.toNat < 100 * v.warn.toNat ∧ (v.lastWarn = 0 ∨ pct + 1 < v.lastWarn) then
    ({ s with vesper := { v with lastWarn := pct + 1 } } : State).lifeEvent 7 v.seq.toNat
  else s

/-- Blocks erased once more, at the present device time. -/
def eraseBlocks (s : State) (ks : List Nat) : State :=
  let v := s.vesper
  let w := ks.foldl (fun w k => Tab.set w k (w.getD k 0 + 1)) v.wear
  { s with vesper := { v with wear := w, eraseLog := v.eraseLog ++ [(s.now, ks.length)] } }

/-! ### Taking a checkpoint (R471 to R475) -/

/-- The GLEN record of a shard; the counts of a context's last SEARCH are given (R387). -/
def glenRecord (s : State) (num : Nat) (id : U32) (refined occ : Nat) : Bytes :=
  let h := s.shard id
  slice ([BitVec.ofNat 8 num, BitVec.ofNat 8 h.mstate, 0, 0] ++ toLE 4 h.epoch ++ toLE 8 h.slots ++ toLE 4 h.scount ++ toLE 4 h.sdead ++
    toLE 4 h.lcount ++ toLE 8 h.tcount ++ toLE 4 refined ++ toLE 4 occ) 0 64

/-- The resident shards. -/
def residentShards (s : State) : List (Nat × U32) :=
  s.shards.filter (fun e => match s.obj? e.2 with | none => false | some o => decide (o.state = .resident))

/-- Bytes of the manifest section that a manifest takes (R174, R471). -/
def manifestBytes (m : List (U32 × U64)) : Nat := 16 + 16 * m.length
/-- The manifests that fit in 12 MiB, in ascending table object ID (R471). -/
def fitManifests : Nat → Tab (List (U32 × U64)) → Tab (List (U32 × U64))
  | _, [] => []
  | n, (k, m) :: t => if n + manifestBytes m ≤ 12 * 1048576 then (k, m) :: fitManifests (n + manifestBytes m) t else []

/-- Entries of a class with its overflow entry. -/
def classEntries (s : State) (correctable : Bool) : List Counter :=
  s.counters correctable ++ (if correctable then s.integ.overCorrectable else s.integ.overDetected).toList

/-- The checkpoint that would be taken now, but for its blocks (R471); the GLEN records' last two counts are free. -/
def takeCkpt (s : State) : Ckpt :=
  let ms := fitManifests 0 s.manifests
  { seq := s.vesper.seq + 1, deviceId := s.boot.devId, tagOk := true, time := s.now, fwid := s.boot.fwid, blocks := [],
    rt := s.rtRecords, detected := s.classEntries false, correctable := s.classEntries true, manifests := ms,
    dropped := decide (ms.length < s.manifests.length),
    shards := s.residentShards.map (fun e =>
      { shard := BitVec.ofNat 6 e.1,
        record := s.glenRecord e.1 e.2 (Config.freeWord (s.fresh + 2 * e.1)).toNat (Config.freeWord (s.fresh + 2 * e.1 + 1)).toNat,
        object := e.2, vobj := (s.shard e.2).vobj, gobj := (s.shard e.2).gobj }),
    bundle := s.vesper.bundle, wear := s.vesper.wear, remaining := s.vesper.remaining, days := s.vesper.days }

/-- Payload bytes of a checkpoint (R471); the life record counts 8 (log 51). -/
def Ckpt.payload (k : Ckpt) : Nat :=
  16 * k.rt.length + 32 * (k.detected.length + k.correctable.length) + (k.manifests.map (fun e => manifestBytes e.2)).sum +
    80 * k.shards.length + k.bundle.length + 8192 + 8
/-- Blocks of a checkpoint: header page, payload and tag in pages of 2,048 bytes, 64 to a block (R472). -/
def Ckpt.blockCount (k : Ckpt) : Nat := ceilDiv (1 + ceilDiv (Ckpt.payload k + 64) 2048) 64

/-- The blocks of the last valid checkpoint. -/
def validBlocks (s : State) : List Nat :=
  ((s.vesper.socket.ckpts.filter (fun k => k.tagOk && decide (k.deviceId = s.boot.devId) && decide (k.seq = s.vesper.seq))).map Ckpt.blocks).flatten
/-- The blocks a new checkpoint may take, in order: ascending erase count, then number (R474). -/
def freeBlocks (s : State) (without : List Nat) : List Nat :=
  let held := s.validBlocks
  sortOn (fun k => s.eraseCount k) (s.goodBlocks.filter (fun k => !held.contains k && !without.contains k))

/-- The card takes checkpoints (R470). -/
def cardTakes (s : State) : Bool := s.tableInForce

/-- A free completion code, for an outcome the spec gives no code (log 46). -/
def freeCode (s : State) : Code × State := let (n, s1) := s.freeWord; (Code.ofNum (n % 19), s1)

/-- Every activity that the finished checkpoint met ends, and device Dusk when it was Dusk's (R453, R475). -/
def ckptMet (s : State) (ok dusk : Bool) : State :=
  let met := s.acts.filter (fun a => a.code == 5 && a.begun)
  let s1 : State := { s with acts := s.acts.filter (fun a => !(a.code == 5 && a.begun))
                             vesper := { s.vesper with running := none, duskRuns := false, lastOk := ok } }
  let s2 := met.foldl (fun s a => if ok then s.actEnd a .ok 0 else let (c, t) := s.freeCode; t.actEnd a c 0) s1
  if dusk then
    ({ s2 with power := { s2.power with duskState := 2 } } : State).maintDone 0x10 (if ok then 0 else 1) none false false 0 0 0
  else s2

/-- A checkpoint starts: every request so far is met by it (R471, R475); with no card that takes it, or too few free good blocks, it ends
unwritten (R470, R478). -/
def startCkpt (s : State) : State :=
  let dusk := s.vesper.forDusk
  let s1 : State := { s with acts := s.acts.map (fun a => if a.code = 5 then { a with begun := true } else a)
                             vesper := { s.vesper with forDusk := false } }
  if !s1.cardTakes then s1.ckptMet false dusk
  else
    let k := s1.takeCkpt
    let bs := s1.freeBlocks []
    if bs.length < Ckpt.blockCount k then (s1.lifeEvent 8 k.seq.toNat).ckptMet false dusk
    else { s1 with vesper := { s1.vesper with running := some { k with blocks := bs.take (Ckpt.blockCount k) }, duskRuns := dusk }
                   fresh := s1.fresh + 128 }

/-- A retention checkpoint requested: it starts, or the one further checkpoint after the running one is noted (R475). -/
def requestCkpt (s : State) : State :=
  match s.vesper.running with
  | some _ => { s with vesper := { s.vesper with next := true } }
  | none => s.startCkpt

/-- The further checkpoint that was requested starts (R475). -/
def nextCkpt (s : State) : State :=
  if s.vesper.next then ({ s with vesper := { s.vesper with next := false } } : State).startCkpt else s

/-- Blocks that reported failure: marked bad, each retirement reported (R469, R477). -/
def retire (s : State) (bad : List Nat) (seq : Nat) : State :=
  let ks := (bad.filter (fun k => decide (1 ≤ k) && decide (k ≤ 2047) && s.vesper.wear.getD k 0 != badMark)).dedup
  ks.foldl (fun s k =>
    let v := s.vesper
    (({ s with vesper := { v with wear := Tab.set v.wear k badMark } } : State).refreshLife).lifeEvent 9 seq) s

/-- The running checkpoint's write fails: status 6 and the event (R470). -/
def ckptFailed (s : State) (k : Ckpt) (reason : Byte) : State :=
  let dusk := s.vesper.duskRuns
  let s1 : State := if reason = 6 then { s with vesper := { s.vesper with card := 6 } } else s
  (((s1.refreshLife).lifeEvent reason k.seq.toNat).ckptMet false dusk).nextCkpt

/-- The running checkpoint is written, in its blocks or the next free ones in place of bad ones: the card holds it and the status is valid (R474). -/
def ckptWritten (s : State) (k : Ckpt) (bad : List Nat) : State :=
  let kept := k.blocks.filter (fun b => !bad.contains b)
  let more := (s.freeBlocks k.blocks).take (k.blocks.length - kept.length)
  let bs := kept ++ more
  if bs.length < k.blocks.length then s.ckptFailed k 8
  else
    let dusk := s.vesper.duskRuns
    let s1 := s.eraseBlocks bs
    let v := s1.vesper
    let card := v.socket.ckpts.filter (fun x => !x.blocks.any (fun b => bs.contains b))
    let s2 : State := { s1 with vesper := { v with card := 5, seq := k.seq, socket := { v.socket with ckpts := card ++ [{ k with blocks := bs }] } } }
    ((s2.refreshLife.warnLife).ckptMet true dusk).nextCkpt

/-! ### Restoring at Dawn (R470, R473) -/

/-- The checkpoint restored: the valid one of highest sequence (R473). -/
def bestCkpt (ks : List Ckpt) : Option Ckpt :=
  ks.foldl (fun b k => match b with
    | none => some k
    | some x => if x.seq.toNat < k.seq.toNat then some k else some x) none

/-- The card's status (R470). -/
def cardStatus (devId : Bytes) (t : Socket) : BitVec 3 :=
  if !t.present then 0
  else if !t.genuine then 1
  else if t.ckpts.isEmpty then 2
  else if t.ckpts.any (fun k => decide (k.deviceId = devId) && k.tagOk) then 5
  else if t.ckpts.all (fun k => decide (k.deviceId ≠ devId)) then 4
  else 3

/-- An entry of this Dawn with a restored one joined: the counts add, the restored next stands (R437; log 52). -/
def joinedWith (x k : Counter) : Counter :=
  { x with restored := true, count := BitVec.ofNat 32 (min 0xFFFFFFFF (x.count.toNat + k.count.toNat)), next := k.next
           time := if x.time.ult k.time then k.time else x.time }
/-- A restored entry that finds no free one, counted to the overflow entry: it raises no event again, and the next one comes at the next doubling (R436,
R437; log 52). -/
def spillInto (spill : Option Counter) (k : Counter) : Option Counter :=
  let o := spill.getD (Counter.blank Location.overflow 1)
  let j := joinedWith o k
  some { j with next := nextAbove 1 j.count }

/-- A restored counter entry joined to the entries of this Dawn; in a full class it goes to the overflow entry (R436, R437). -/
def joinCounter (ks : List Counter × Option Counter) (k : Counter) : List Counter × Option Counter :=
  if ks.1.any (fun x => decide (x.loc = k.loc)) then (ks.1.map (fun x => if x.loc = k.loc then joinedWith x k else x), ks.2)
  else if ks.1.length < Config.counterRoom then (ks.1 ++ [{ k with restored := true }], ks.2)
  else (ks.1, spillInto ks.2 k)

/-- A class restored: its entries, and its overflow entry joined to this Dawn's (R436, R437). -/
def restoreClass (s : State) (correctable : Bool) (ks : List Counter) : State :=
  let own := ks.filter (fun k => decide (k.loc.kind ≠ 0xF))
  let mine := if correctable then s.integ.overCorrectable else s.integ.overDetected
  let spill := match ks.find? (fun k => decide (k.loc.kind = 0xF)) with
    | none => mine
    | some k => some (match mine with | none => { k with restored := true } | some o => joinedWith o k)
  let r := own.foldl joinCounter (s.counters correctable, spill)
  let s1 := s.setCounters correctable r.1
  { s1 with integ := if correctable then { s1.integ with overCorrectable := r.2 } else { s1.integ with overDetected := r.2 } }

/-- The state a valid checkpoint gives back (R473). -/
def restoreCkpt (s : State) (k : Ckpt) : State :=
  let s1 := k.rt.foldl State.applyRt s
  let s2 := (s1.restoreClass false k.detected).restoreClass true k.correctable
  let v := s2.vesper
  { s2 with manifests := k.manifests
            retained := k.shards.map (fun r => { r with record := setFld r.record 1 1 0xFF })
            vesper := { v with restored := true, seq := k.seq, bundle := k.bundle, cert := if k.bundle.isEmpty then 0 else 1, wear := k.wear } }

/-- The life event of Dawn: on a port whose attention ring is already set up at once, and queued for the others (R439, R470). -/
def dawnLife (s : State) (reason : Byte) : State :=
  let detail := s.lifeDetail reason s.vesper.seq.toNat
  let s1 := [0, 1].foldl (fun s p => if s.integ.attnSeen.getD p false then s.attnOn (BitVec.ofNat 1 p) 0x07 detail else s) s
  { s1 with integ := { s1.integ with queued := s1.integ.queued ++ [(0x07, detail)] } }

/-- The card is read (W6): classified, restored or reported, and the second entry of the measurement log made (R465, R470, R473).  The digest of
a restored checkpoint is free, since its life record's layout is not given (log 51). -/
def readCard (s : State) (t : Socket) : State :=
  let card := cardStatus s.boot.devId t
  let s0 : State := { s with vesper := { s.vesper with socket := t, card := card, serial := if card = 0 ∨ card = 1 then 0 else t.serial } }
  let best := bestCkpt (t.ckpts.filter (fun k => decide (k.deviceId = s.boot.devId) && k.tagOk))
  match card, best with
  | 5, some k =>
    let s1 := (s0.restoreCkpt k).refreshLife
    let (digest, s2) := s1.freeBytes 64
    s2.measure 2 0 5 k.seq.toNat digest
  | _, _ => ((s0.refreshLife).dawnLife (card.setWidth 8 + 1)).measure 2 0 (card.setWidth 8) 0 (shake256 [] 64)

end State

/-! ### Certificates and the wipe (R468, R470) -/

/-- A well-formed bundle of the device's own key (R468; log 53: the header's lengths fill it exactly). -/
def bundleOk (key b : Bytes) : Bool :=
  decide (64 ≤ b.length) && decide (b.length ≤ 65536) && fld b 0 4 == 0x54524543 && fld b 4 2 == 1 && zeroBytes b 6 7 &&
    decide (slice b 8 32 = slice key 0 32) && fld b 40 4 + 64 == b.length && zeroBytes b 44 63

/-- A bundle read from a port's host: accepted, measured and checkpointed, or rejected (R468). -/
def State.loadBundle (s : State) (p : HostPort) : State :=
  let b := s.hostRd p s.vesper.certAddr.toNat s.vesper.certLen.toNat
  if bundleOk s.boot.idKey b then
    let s1 : State := { s with vesper := { s.vesper with bundle := b, cert := 1 } }
    (s1.measure 4 0 0 0 (shake256 b 64)).requestCkpt
  else { s with vesper := { s.vesper with cert := 2 } }

/-- CERTLOAD: the owner's write of 1 to VESPER.CTRL.certload (R468). -/
def execCertload (p : HostPort) (s : State) : Host.Outcome State Fault Refusal := .next (if s.ownerMay p then s.loadBundle p else s)

/-- Blocks 1 to 2,047 erased and the card blank; there is nothing to erase on a card that is absent or not genuine (R470, R476; log 49). -/
def State.wipeCard (s : State) : State :=
  if s.vesper.card = 0 ∨ s.vesper.card = 1 then s
  else
    let v := s.vesper
    let wear : Tab U32 := if s.tableInForce then v.wear else []
    let s1 : State := { s with vesper := { v with card := 2, seq := 0, wear := wear, socket := { v.socket with ckpts := [] } } }
    ((s1.eraseBlocks s1.goodBlocks).refreshLife).warnLife

/-- CARD_WIPE: the owner's write of 1 to VESPER.CTRL.wipe (R470). -/
def execCardWipe (p : HostPort) (s : State) : Host.Outcome State Fault Refusal := .next (if s.ownerMay p then s.wipeCard else s)

/-- CHECKPOINT_TIMER: the interval of VESPER.CKPT expires and firmware starts a retention checkpoint; 0 disables it (R356, R471). -/
def execCheckpointTimer (s : State) : Host.Outcome State Fault Refusal :=
  .next (if s.boot.state.toNat < 3 ∨ s.vesper.interval = 0 then s else s.requestCkpt)

/-- CHECKPOINT_WRITTEN: the running checkpoint's tag is written and read back, or the card's write fails; blocks that reported failure are retired, and a
checkpoint that was requested meanwhile starts (R470, R474, R475). -/
def execCheckpointWritten (ok : Bool) (bad : List Nat) (s : State) : Host.Outcome State Fault Refusal :=
  .next (match s.vesper.running with
    | none => s
    | some k =>
      let s1 := s.retire bad k.seq.toNat
      if ok then s1.ckptWritten k bad else s1.ckptFailed k 6)

end Sys2Proof.Machine
end

