-- ==== Sys2Proof/Machine/Bind.lean ====
section
/-! DEFINITION. Binding and unbinding a step image: the checks of R32, with the decode checks of R38 to R40, the placement entries of R35 and the Saddle
plan of R36, and what a bind or an unbind changes (R33). -/

namespace Sys2Proof.Machine

/-! ### Instruction words (R37 to R40, check 6) -/

/-- What a decode check needs of a program: its sequencer, instruction words, section, the context's window and the plan's entries. -/
structure DecodeEnv where
  q      : SeqId
  count  : Nat
  sect   : Bytes
  lo     : Nat
  n      : Nat
  plan   : Nat
deriving DecidableEq, Repr

/-- A general counter in the window (R38, R345). -/
def DecodeEnv.counterOk (e : DecodeEnv) (a : Nat) : Bool :=
  decide (a < Config.generalCounters) && decide (e.lo ≤ a) && decide (a < e.lo + e.n)

/-- An ISSUE's operands (R38 to R40). -/
def DecodeEnv.issueOk (e : DecodeEnv) (a b : Nat) : Bool :=
  let engine := a / 4096
  let len := a % 256
  a / 256 % 16 == 0 && decide (1 ≤ len) && mayIssue engine e.q && b % 32 == 0 && decide (8 * e.count ≤ b) &&
    decide (b + 32 * len ≤ e.sect.length) && cmdWords engine (fld e.sect b 1) == some len

/-- Whether an instruction word passes the decode checks of R38. -/
def DecodeEnv.wordOk (e : DecodeEnv) (w : Nat) : Bool :=
  let op := w / 2 ^ 56
  let a := w / 2 ^ 32 % 2 ^ 20
  let b := w % 2 ^ 32
  w / 2 ^ 52 % 16 == 0 &&
  (match op with
   | 0x00 | 0x0D | 0x0F => a == 0 && b == 0
   | 0x01 => e.issueOk a b
   | 0x02 => a % 4096 == 0 && decide (a / 4096 ≤ 0x0E)
   | 0x03 => e.counterOk a && decide (1 ≤ b) && decide (b ≤ Config.maxCount)
   | 0x04 => e.counterOk a && decide (b ≤ Config.maxCount)
   | 0x05 | 0x06 => e.counterOk a && b == 0
   | 0x07 | 0x09 => a % 65536 == 0
   | 0x08 => a % 65536 / 8 == 0 && b == 0
   | 0x0A | 0x0B => a % 65536 == 0 && decide (b < e.count)
   | 0x0C => a == 0 && decide (b < e.count)
   | 0x0E => decide (a < e.plan) && b == 0
   | 0x10 => a == 0
   | _ => false)

/-- Every instruction word of a program passes. -/
def DecodeEnv.ok (e : DecodeEnv) : Bool := (List.range e.count).all (fun i => e.wordOk (fld e.sect (8 * i) 8))

/-! ### Placement entries (R34, R35) -/

/-- The object of a placement entry, ABSENT (R308). -/
def entryObj (e : Bytes) : Obj :=
  let base := BitVec.ofNat 64 (fld e 24 8)
  let mask := BitVec.ofNat 32 (fld e 8 4)
  { kind := BitVec.ofNat 8 (fld e 4 1), tier := BitVec.ofNat 8 (fld e 5 1), readOnly := bitAt e 6 0, home := bitAt e 6 1,
    half := if bitAt e 6 2 then some (bitAt e 6 3) else none, size := fld e 16 8, entryMask := mask, entryBase := base, mask := mask, base := base,
    state := .absent, poisoned := [], head := 0, fill := 0, stalled := [], saved := none }

/-- The ID of a placement entry. -/
def entryId (e : Bytes) : U32 := BitVec.ofNat 32 (fld e 0 4)

/-- The fields of a placement entry alone (R35, R315); an entry of a FIFO window out of R315's sizes fails here, at the bind (DEDUCED, log 153). -/
def entryFieldsOk (e : Bytes) : Bool :=
  let kind := fld e 4 1
  let tier := fld e 5 1
  let mask := fld e 8 4
  decide (1 ≤ kind) && decide (kind ≤ 6) && decide (tier ≤ 3) && (decide (tier < 2) || bitAt e 6 0) && zeroBits e 6 7 4 && zeroBytes e 7 7 &&
    zeroBytes e 12 15 && decide (fld e 16 8 < 2 ^ 48) && (tier == 0 || zeroBits e 6 3 2) && (bitAt e 6 2 || !bitAt e 6 3) &&
    (match tier with | 1 => decide (mask < 2 ^ 20) | 2 => decide (mask < 2 ^ 16) | _ => mask == 0) &&
    decide (1 ≤ fld e 16 8) && decide (fld e 0 4 < Config.pageListBase) && (kind != 5 || (tier == 0 && decide (65536 ≤ fld e 16 8) && decide (fld e 16 8 % 256 = 0)))

namespace State

/-- The capacity of a tier's object space, in bytes; host memory has none of its own (R35, R304). -/
def tierRoom (s : State) (tier : Nat) : Nat :=
  match tier with
  | 0 => 640 * mib
  | 1 => (((List.range 20).filter (fun n => s.unitExists 1 n)).map (fun n => s.unitRoom 1 n)).sum
  | 2 => (((List.range 16).filter (fun n => s.unitExists 2 n)).map (fun n => s.unitRoom 2 n)).sum
  | _ => 2 ^ 64

/-- Whether an entry agrees with the other bound tables' entry for its ID (R307). -/
def entryAgrees (s : State) (e : Bytes) : Bool :=
  match s.obj? (entryId e) with
  | none => true
  | some o => let x := entryObj e; o.kind == x.kind && o.tier == x.tier && decide (o.size = x.size) && o.readOnly == x.readOnly

/-- Whether a placement entry is accepted (R35, R307). -/
def entryOk (s : State) (e : Bytes) : Bool :=
  let tier := fld e 5 1
  entryFieldsOk e && (maskBits (fld e 8 4)).all (fun n => s.unitExists tier n) &&
    (BitVec.ofNat 64 (fld e 24 8) == openBase || decide (fld e 24 8 + fld e 16 8 ≤ s.tierRoom tier)) && s.entryAgrees e

/-! ### The Saddle plan (R36, check 8) -/

/-- A Selyn port that is trained. -/
def trained (s : State) (n : SelynPort) : Bool := (s.link n).up

/-- Whether a plan entry is accepted (R32 check 8, R36). -/
def planOk (s : State) (e : Bytes) : Bool :=
  let up := fld e 6 1
  decide (64512 ≤ fld e 4 2) && zeroBits e 7 7 1 && zeroBytes e 10 11 &&
    up == (if s.regs.treeUplink = 0xF then 0xFF else s.regs.treeUplink.toNat) && fld e 8 2 == s.regs.treeChildren.toNat &&
    (match planUplink e with | some n => s.trained n | none => up == 0xFF) && (planChildren e).all s.trained

/-! ### Directory and header (R29, R30, checks 2 to 5) -/

/-- Whether directory entry k is well formed for an image of length L (R30).  Two points are this model's (DESIGN CHOICE, log 134): the offset of an empty
Saddle plan must be a multiple of 256, at least 256 and inside the image, as every other section's is; and a placement table or plan section may be longer
than its entries. -/
def dirEntryOk (s : State) (i : U32) (l k : Nat) : Bool :=
  let e := s.get (.image i) (0x20 + 16 * k) 16
  let (off, len, count) := s.section i k
  let (kind, seq, unit) := if k < 12 then (1, k, 8) else if k = 12 then (2, 0xFF, 32) else (3, 0xFF, 16)
  fld e 8 1 == kind && fld e 9 1 == seq && zeroBytes e 12 15 && off % 256 == 0 && decide (256 ≤ off) && decide (off + len + 64 ≤ l) &&
    decide (unit * count ≤ len) && (len != 0 || k == 13)

/-- Whether two sections overlap. -/
def sectionsMeet (s : State) (i : U32) (j k : Nat) : Bool :=
  let (o1, l1, _) := s.section i j
  let (o2, l2, _) := s.section i k
  decide (0 < l1) && decide (0 < l2) && decide (o1 < o2 + l2) && decide (o2 < o1 + l1)

/-- Checks 2 to 4 of R32 for an image of length L. -/
def formatOk (s : State) (i : U32) (l : Nat) : Bool :=
  let h := s.get (.image i) 0 32
  fld h 0 4 == 0x53544A49 && fld h 4 2 == 3 && fld h 6 2 == 0x0980 && fld h 8 1 == 0xB1 && fld h 9 1 == 12 && decide (fld h 10 2 < 8) &&
    fld h 12 4 == l && zeroBytes h 28 31 && (List.range 14).all (fun k => s.dirEntryOk i l k) &&
    (List.range 14).all (fun k => (List.range k).all (fun j => !s.sectionsMeet i j k))

/-- Check 5 of R32. -/
def treeOk (s : State) (i : U32) : Bool :=
  let index := s.img i 0x18 2
  let size := s.img i 0x1A 2
  if s.treeImage i then s.regs.treeFormed && index == s.regs.treeIndex.toNat && size == s.regs.treeSize.toNat
  else index == 0 && size == 1

/-- The decode environment of program k. -/
def decodeEnv (s : State) (c : CtxId) (i : U32) (k : Nat) : DecodeEnv :=
  let (off, len, count) := s.section i k
  let x := s.ctx c
  { q := SeqId.ofId k, count := count, sect := s.get (.image i) off len, lo := x.syncBase.toNat, n := x.syncCount.toNat,
    plan := (s.section i 13).2.2 }

/-- Checks 2 to 9 of R32. -/
def imageOk (s : State) (c : CtxId) (i : U32) (l : Nat) : Bool :=
  let table := s.tableEntries i
  let plan := s.planEntries i
  s.formatOk i l && s.treeOk i && (List.range 12).all (fun k => (s.decodeEnv c i k).ok) && table.all s.entryOk &&
    decide (table.map entryId).Nodup && (if s.treeImage i then plan.all s.planOk else plan.isEmpty && (s.section i 13).2.1 == 0) &&
    !((s.img i 0x0A 2).testBit 1 && (s.ctx c).mode.relaxed)

/-- Check 1 of R32: the digest over the loaded length, and no poisoned parcel (R31). -/
def digestOk (s : State) (i : U32) (m : Image) : Bool :=
  m.poisoned.isEmpty && decide (s.get (.image i) (m.length - 64) 64 = shake256 (s.get (.image i) 0 (m.length - 64)) 64)

/-! ### The save area (R332, check 0) -/

/-- The images that contexts bind. -/
def boundImages (s : State) : List U32 := (s.ctxs.filterMap (fun e => e.2.image)).dedup

/-- Whether a placement entry can be a save area (R332). -/
def saveEntryOk (e : Bytes) : Bool :=
  fld e 4 1 == 6 && fld e 5 1 == 1 && decide (512 * mib ≤ fld e 16 8) && (fld e 8 4 == 0 || decide (12 ≤ (maskBits (fld e 8 4)).length))

/-- Whether a context's CTX.SAVE meets R332 for a bind of an image. -/
def saveOk (s : State) (c : CtxId) (i : U32) : Bool :=
  let id := (s.ctx c).save
  ((i :: s.boundImages).any (fun j => (s.tableEntries j).any (fun e => entryId e == id && saveEntryOk e))) &&
    s.ctxs.all (fun e => e.1 == c.toNat || e.2.save != id || !(e.2.state == .ready || e.2.state == .suspended || e.2.state == .faulted))

/-! ### What a bind and an unbind change (R33) -/

/-- The objects of an image's table come into being, ABSENT, unless another bound table names them (R307, R308). -/
def adopt (s : State) (i : U32) : State :=
  (s.tableEntries i).foldl (fun s e => if (s.obj? (entryId e)).isSome then s else s.setObj (entryId e) (entryObj e)) s

/-- Objects that no bound table names any more are gone, with their bytes (log 75). -/
def dropUnnamed (s : State) : State :=
  let named := ((s.boundImages.map (fun i => (s.tableEntries i).map entryId)).flatten)
  let gone := (s.objs.map (fun e => (BitVec.ofNat 32 e.1 : U32))).filter (fun id => !named.contains id)
  gone.foldl (fun s id => let t := s.makeAbsent id; { t with objs := t.objs.erase id.toNat, laneRecs := t.laneRecs.filter (fun r => r.object != id) }) s

/-- The windows that a context's table names are emptied (R315). -/
def emptyWindows (s : State) (c : CtxId) : State :=
  match (s.ctx c).image with
  | none => s
  | some i => (s.tableEntries i).foldl (fun s e =>
      if fld e 4 1 = 5 then s.modObj (entryId e) (fun o => { o with head := 0, fill := 0 }) else s) s

/-- A context's image leaves it: its resident slots and accumulator entries released unsaved, its windows emptied (R33, R120, R315). -/
def unbind (s : State) (c : CtxId) : State := (((s.emptyWindows c).releaseClaims c).modCtx c (fun x => { x with image := none }))

/-- An image bound: the old one unbound (log 77), counters and modes as R33, R51, R93 and R407 say, the mark of R414 cleared; a standing suspension
request keeps the context from starting (R351), and a finished device Dusk is over (R453). -/
def bind (s : State) (c : CtxId) (i : U32) : State :=
  let s1 := ((s.adopt i).unbind c).modCtx c (fun x =>
    { x with image := some i, broken := false, modeNow := x.mode, stepNo := 0, steppeW := 0, steppeE := 0, state := .ready,
             suspending := x.suspendReq && x.state == .idle })
  let s2 := s1.dropUnnamed
  let s3 : State := { s2 with passes := (s2.planEntries i).foldl (fun t e => Tab.set t (planCounter e) 0) s2.passes
                              saddles := s2.saddles.filter (fun e => decide (e.2.ctx ≠ c))
                              power := { s2.power with duskState := if s2.power.duskState = 2 then 0 else s2.power.duskState } }
  let l := match s.images.get? i.toNat with | none => 0 | some m => m.length
  s3.measure 3 c 0 (s3.img i 0x10 8) (s3.get (.image i) (l - 64) 64)

/-- A STEP that takes effect: checked, and bound or refused (R32, R33).  A digest that differs is counted at the object (R428). -/
def bindNow (s : State) (d : Desc) : State :=
  let c := d.ctx
  let i : U32 := BitVec.ofNat 32 (descField d 16 4)
  match s.images.get? i.toNat with
  | none => s.complete d (Done.of .protocol 0)
  | some m =>
    if !m.loaded || !s.saveOk c i then s.complete d (Done.of .protocol 0)
    else if !s.digestOk i m then
      (s.countLoc false { kind := 0xE, a := 0, b := 0, c := 0, row := i }).complete d (Done.of .integrity 0)
    else if !s.imageOk c i m.length then s.complete d (Done.of .protocol 0)
    else (s.bind c i).complete d (Done.of .ok (s.img i 0x10 8))

/-- A STEP with UNBIND that takes effect (R33). -/
def unbindNow (s : State) (d : Desc) : State :=
  let c := d.ctx
  match (s.ctx c).image with
  | none => s.complete d (Done.of .ok 0)
  | some _ =>
    if !(s.liveSlots c).isEmpty then s.complete d (Done.of .protocol 0)
    else (((s.unbind c).dropUnnamed).modCtx c (fun x => { x with state := .idle })).complete d (Done.of .ok 0)

/-- A STEP or a STEP with UNBIND takes effect. -/
def stepEffect (s : State) (d : Desc) : State := if bitAt d.bytes 20 0 then s.unbindNow d else s.bindNow d

/-- Whether a bind or unbind of a context may take effect: every step descriptor expanded before it has completed, and the context is not set aside
(R33, R351). -/
def bindFree (s : State) (c : CtxId) : Bool :=
  let x := s.ctx c
  x.run.isNone && x.finishing.isEmpty && (decide (x.state = .idle) || x.active)

/-- A STEP is expanded: at once when nothing is before it, else after the steps before it; before the lock PROTOCOL (R33, R464). -/
def stepDesc (s : State) (d : Desc) : State :=
  if !s.boot.locked then s.complete d (Done.of .protocol 0)
  else if s.bindFree d.ctx && (s.ctx d.ctx).steps.isEmpty then s.stepEffect d
  else s.modCtx d.ctx (fun x => { x with steps := x.steps ++ [d] })

/-- A step descriptor is expanded: PROTOCOL with no image, LINK_LOST in a broken context, else it waits its turn, behind any STEP (R33, R376, R414). -/
def stepEnter (s : State) (d : Desc) : State :=
  let x := s.ctx d.ctx
  if x.steps.any (fun e => descOp e == 0x11) then s.modCtx d.ctx (fun x => { x with steps := x.steps ++ [d] })
  else if x.image.isNone then s.complete d (Done.of .protocol 0)
  else if x.broken then s.complete d (Done.of .linkLost 0)
  else s.modCtx d.ctx (fun x => { x with steps := x.steps ++ [d] })

end State

/-- BIND_EFFECT: a STEP at the head of the steps that wait takes effect once those before it have completed (R33). -/
def execBindEffect (c : CtxId) (s : State) : Host.Outcome State Fault Refusal :=
  .next (match (s.ctx c).steps with
    | [] => s
    | d :: rest =>
      if descOp d = 0x11 ∧ s.bindFree c then (s.modCtx c (fun x => { x with steps := rest })).stepEffect d else s)

/-- The result a step descriptor starts with: the queries or passages it names (R378). -/
def firstResult (d : Desc) : Nat :=
  match descOp d with
  | 0x01 | 0x02 | 0x03 | 0x04 => descField d 16 8
  | _ => 0

/-- STEP_START: the next step descriptor starts the twelve programs at word 0 with p0 to p15 zero, once all have halted for the step before (R37, R376);
one that finds no image or a broken context completes instead. -/
def execStepStart (c : CtxId) (s : State) : Host.Outcome State Fault Refusal :=
  let x := s.ctx c
  .next (match x.steps with
    | [] => s
    | d :: rest =>
      let s1 := s.modCtx c (fun x => { x with steps := rest })
      if descOp d = 0x11 ∨ x.run.isSome ∨ x.draining then s
      else if x.image.isNone then s1.complete d (Done.of .protocol 0)
      else if x.broken then s1.complete d (Done.of .linkLost 0)
      else if !x.active || !x.allHalted then s
      else s1.modCtx c (fun x =>
        { (x.modSeqs (fun v => { v with pos := 0, regs := [], status := .running })) with
            stepNo := x.stepNo + 1
            run := some { (StepRun.start d (x.stepNo + 1)) with result := BitVec.ofNat 64 (firstResult d) } }))

end Sys2Proof.Machine
end

