-- ==== Sys2Proof/Machine/Maint.lean ====
section
/-! DEFINITION. The maintenance lane (R356 to R360): side-list merges (R217 to R220), the hot-row refresh (R174 to R176) and requested checkpoints. -/

namespace Sys2Proof.Machine

/-- An activity's operand at an offset of the descriptor's layout (R357, R378). -/
def Activity.arg (a : Activity) (off n : Nat) : Nat := fld a.args (off - 16) n
/-- The shard an activity names. -/
def Activity.shard (a : Activity) : Nat := a.arg 17 1
/-- The host port of the context that started an activity. -/
def State.actPort (s : State) (a : Activity) : HostPort := (s.ctx (a.ctx?.getD 0)).port
/-- Whether an activity's host areas carry parcel checks (R377). -/
def Activity.hcrc (a : Activity) : Bool := match a.desc with | some d => descFlag d 3 | none => false

/-- Whether two activities have one target (R356). -/
def Activity.sameTarget (a b : Activity) : Bool := (a.code == 4) == (b.code == 4) && decide (a.target = b.target)

/-! ### The merged shard (R217, R218) -/

/-- A slot of the merged shard: its passage, stored vector, and codes when it was a main slot. -/
structure NewSlot where
  id   : Nat
  attr : Nat
  nrm  : Nat
  vec  : Bytes
  code : Option Bytes
  main : Option Nat
deriving DecidableEq, Repr

namespace State

/-- The new slots: kept main slots ascending, then the side entries before S that are not DEAD (R217). -/
def newSlots (s : State) (h : Shard) (snap : Nat) : List NewSlot :=
  (((List.range h.slots).filter (fun i => !s.tomb h i)).map (fun i =>
    { id := s.slotId h i, attr := s.slotAttr h i, nrm := s.rdNat h.id (h.rofs + 16 * i + 8) 4, vec := s.slotVec h i,
      code := some (s.rd h.id (h.cofs + i * h.codeLen) h.codeLen), main := some i })) ++
  (((List.range (min snap h.scount)).filter (fun j => !s.sideDead h j)).map (fun j =>
    { id := s.sideId h j, attr := s.sideAttr h j, nrm := s.rdNat h.id (sideOff h j + 16) 4, vec := s.sideVec h j, code := none, main := none }))

end State

/-- A graph being formed: each node's record, unused entries as none. -/
abbrev Nodes := List (List (Option Nat))

/-- A record with a neighbour in its first unused entry. -/
def fillFirst (m : Nat) : List (Option Nat) → List (Option Nat)
  | [] => []
  | none :: t => some m :: t
  | some x :: t => some x :: fillFirst m t

/-- The edge of lowest score, the higher global ID among equals: its node and score (R218). -/
def lowestEdge (score : Nat → F32) (gid : Nat → Nat) (es : List Nat) : Option (Nat × F32) :=
  es.foldl (fun b x => match b with
    | none => some (x, score x)
    | some (y, t) => if (score x).lt t || (!t.lt (score x) && decide (gid y < gid x)) then some (x, score x) else some (y, t)) none

/-- What the graph needs of each new slot: stored values, FP32, sketch, ID. -/
structure GNode where
  vals   : List Val
  f32    : List F32
  sketch : List F32
  gid    : Nat

/-- Node p of the side list joined to the graph built so far (R218). -/
def joinNode (metric degree : Nat) (entries : List Nat) (g : List GNode) (p : Nat) (ns : Nodes) : Nodes :=
  let at_ := fun (i : Nat) => g[i]?
  match at_ p with
  | none => ns ++ [List.replicate degree none]
  | some me =>
    let walk : Graph := { ef := 4 * degree, slack := 0, entries := entries.filter (fun e => decide (e < p)),
                          next := ns.zipIdx.map (fun (r, i) => (i, r.filterMap id)),
                          nodes := ((g.take p).zipIdx).map (fun (x, i) =>
                            (i, exactScore metric me.f32 x.vals, sketchScore me.f32 x.sketch, x.gid, false)) }
    let out := (walk.walk.beam.map (fun e => e.2.1)).take degree
    let mine := (out.map some) ++ List.replicate (degree - out.length) none
    let back := out.foldl (fun (ns : Nodes) m =>
      match at_ m, ns[m]? with
      | some q, some r =>
        if r.any (·.isNone) then ns.set m (fillFirst p r)
        else
          let score := fun (x : Nat) => match at_ x with | none => F32.nan | some y => exactScore metric q.f32 y.vals
          match lowestEdge score (fun x => ((at_ x).map GNode.gid).getD 0) (r.filterMap id) with
          | none => ns
          | some (x, t) => if t.lt (exactScore metric q.f32 me.vals) then ns.set m (r.map (fun e => if e = some x then some p else e)) else ns
      | _, _ => ns) ns
    back ++ [mine]

/-- A node record's bytes (R200). -/
def nodeBytes (len : Nat) (r : List (Option Nat)) : Bytes :=
  slice ((r.map (fun e => toLE 5 (e.getD 0xFFFFFFFFFF))).flatten) 0 len

/-- Where the build puts a graph image's sketches: node records from byte 256, sketches at the next 32-byte boundary (log 56). -/
def sketchBase (h : Shard) (n : Nat) : Nat := roundUp (256 + h.nodeLen * n) 32

namespace State

/-- The graph image of the merged shard (R200, R218). -/
def graphImage (s : State) (h : Shard) (new : List NewSlot) : Bytes :=
  let kept := new.filterMap NewSlot.main
  let renum := fun (i : Nat) => kept.findIdx? (fun k => k == i)
  let pad := fun (l : List Nat) => ((l.map some) ++ List.replicate (h.degree - l.length) none : List (Option Nat))
  let g : List GNode := new.map (fun x =>
    let f := decodeF32 h.vfmt h.dims x.vec
    { vals := decodeVals h.vfmt h.dims x.vec, f32 := f, sketch := decodeF32 5 h.dims (encodeRow 5 none f), gid := x.id })
  let entries0 := (s.entrySlots h).filterMap renum
  let entries := if entries0.isEmpty then [0] else entries0
  let base : Nodes := kept.map (fun i => pad ((s.neighbours h i).filterMap renum))
  let ns := (List.range (new.length - kept.length)).foldl (fun ns k => joinNode h.metric h.degree entries g (kept.length + k) ns) base
  let n := new.length
  let head := slice (toLE 4 0x48505247 ++ [BitVec.ofNat 8 h.degree, BitVec.ofNat 8 entries.length, 0, 0] ++ toLE 8 n ++ toLE 8 256 ++
    toLE 8 (sketchBase h n)) 0 128 ++ slice ((entries.map (toLE 8)).flatten) 0 128
  slice (head ++ (ns.map (nodeBytes h.nodeLen)).flatten) 0 (sketchBase h n) ++
    (new.map (fun x => encodeRow 5 none (decodeF32 h.vfmt h.dims x.vec))).flatten

/-- The state with the new slots written into the target: codes, records, attributes, IDs; the ID map and tombstones start clear (R217). -/
def fillTarget (s : State) (h t : Shard) (new : List NewSlot) : State :=
  let recs := s.dimRecs h
  let s0 := (s.clearObj t.id t.mofs (16 * 2 ^ t.mbits)).clearObj t.id t.tofs (ceilDiv t.slots 8)
  let (rs, s1) := (new.zipIdx).foldl (fun (a : List DimRec × State) (e : NewSlot × Nat) =>
    let (x, n) := e
    let (rs', code) := match x.code with
      | some b => (a.1, b)
      | none => match codeVector h.qmax a.1 (decodeF32 h.vfmt h.dims x.vec) with
        | (r, some l) => (r, codeBytes h.code l)
        | (r, none) => (r, [])
    (rs', (((a.2.wr t.id (t.aofs + 8 * n) (toLE 8 x.attr)).wr t.id (t.rofs + 16 * n) (toLE 6 x.id ++ [0, 0] ++ toLE 4 x.nrm ++ [0, 0, 0, 0])
      ).wr t.id (t.cofs + n * t.codeLen) code).hashPut t.id t.mofs t.mbits x.id n)) (recs, s0)
  s1.wr t.id t.dofs ((rs.map DimRec.toBytes).flatten)

/-! ### Merge builds, installs and aborts (R217 to R220) -/

/-- The object of the shard an activity names. -/
def shardOf? (s : State) (a : Activity) : Option U32 := s.shards.get? a.shard

/-- The conditions on a build's target (R217). -/
def buildOk (s : State) (h : Shard) (target : U32) : Bool :=
  let t := s.shard target
  (match s.obj? target with | none => false | some o => o.kind == kindShard && decide (o.state = .resident)) && s.shardOk target &&
  t.metric == h.metric && t.code == h.code && t.vfmt == h.vfmt && t.degree == h.degree && t.dims == h.dims &&
  decide (h.slots + h.scount ≤ t.slots + h.tcount) && target != h.id

/-- An activity removed from the lane and ended. -/
def actFinish (s : State) (a : Activity) (code : Code) (result : Nat) : State := (s.actLeaves a).actEnd a code result
/-- An activity refused before it has started anything: removed from the lane, its descriptor completed, and no event (R359, R360). -/
def actTurned (s : State) (a : Activity) (code : Code) : State := (s.actLeaves a).actRefused a code
/-- An activity marked as begun. -/
def actBegun (s : State) (a : Activity) : State :=
  { s with acts := s.acts.map (fun x => if x = a then { a with begun := true } else x) }

/-- Whether a shard's header is poisoned: an activity that must read or write it ends UNCORRECTABLE (R321, R325; log 55). -/
def headerPoisoned (s : State) (id : U32) : Bool := (s.poisonedAccess [⟨id, 0, 256, false⟩]).isSome

/-- A build begins: step 1 of R217. -/
def buildBegin (s : State) (a : Activity) : State :=
  match s.shardOf? a with
  | none => s.actTurned a .protocol
  | some id =>
    let h := s.shard id
    let target := BitVec.ofNat 32 (a.arg 24 4)
    if s.headerPoisoned id then s.actTurned a .uncorrectable
    else if h.mstate ≠ 0 then s.actTurned a .busy
    else if !s.buildOk h target then s.actTurned a .protocol
    else
      let s1 := ((s.setHdr id 140 1 1).setHdr id 152 8 target.toNat).setHdr id 136 4 0
      ({ s1 with snapshots := s1.snapshots.set a.shard h.scount } : State).actBegun a

/-- The side entries that an install copies: those from S on that are not DEAD (R219 step 3). -/
def tailEntries (s : State) (h : Shard) (snap : Nat) : List Nat := ((List.range h.scount).drop snap).filter (fun j => !s.sideDead h j)
/-- Whether the target's side list holds the entries to be copied.  DEDUCED (log 55): a target whose side list does not is an object smaller than its
image. -/
def tailFits (s : State) (a : Activity) (h : Shard) : Bool :=
  decide ((s.tailEntries h (s.snapshots.getD a.shard 0)).length ≤ (s.shard (BitVec.ofNat 32 (a.arg 24 4))).scap)

/-- The conditions of R219. -/
def installOk (s : State) (a : Activity) (h : Shard) : Bool :=
  let target := BitVec.ofNat 32 (a.arg 24 4)
  let t := s.shard target
  let v := BitVec.ofNat 32 (a.arg 28 4)
  let g := BitVec.ofNat 32 (a.arg 32 4)
  let epoch := a.arg 36 4
  h.mstate == 2 && h.mtarget == target.toNat && (s.obj? target).isSome && s.tailFits a h && s.tier2Ok v (t.slots * t.vstride) &&
  (if h.degree = 0 then g == 0 else s.tier2Ok g (sketchBase h t.slots + h.sketchLen * t.slots)) &&
  decide (h.epoch < epoch) && decide (epoch < 2 ^ 31)

/-- The shards that a SEARCH or WRITE on an engine names. -/
def namedShards (engine : Nat) (b : Bytes) : List Nat := if engine = 5 ∧ fld b 0 1 = 2 then [fld b 4 1] else maskShards (fld b 8 8)
/-- Whether the engines have taken every copy of a search or write, so that it has started (R203, R219). -/
def copiesTaken (s : State) (engine : Nat) (e : QEntry) : Bool :=
  (engine == 5 && fld e.b 0 1 == 2) || (searchIssuers (Search.of e.b).graph).all (fun p => (s.queue (queueIx p.2 p.1)).taken.any (fun x => x.ctx == e.ctx && x.src == p.1))
/-- The copies of the searches and writes in progress on a shard, by queue (R219 step 1). -/
def inProgress (s : State) (n : Nat) : List (Nat × QEntry) :=
  (s.queues.map (fun q =>
    let g := queueEngine q.1
    if 2 ≤ g ∧ g ≤ 5 then q.2.taken.filterMap (fun e => if (namedShards g e.b).contains n && s.copiesTaken g e then some (q.1, e) else none) else [])).flatten
/-- Whether a search or write that was in progress when an install began is not over (R219 step 1). -/
def installWaits (s : State) (n : Nat) : Bool := s.installOpen.any (fun e => e.1 == n && (s.queue e.2.1).taken.contains e.2.2)

/-- An install begins: searches and writes that have not started are held (R219). -/
def installBegin (s : State) (a : Activity) : State :=
  match s.shardOf? a with
  | none => s.actTurned a .protocol
  | some id =>
    if s.headerPoisoned id then s.actTurned a .uncorrectable
    else if !s.installOk a (s.shard id) then s.actTurned a .protocol
    else ({ s with
      installing := s.installing ++ [BitVec.ofNat 6 a.shard]
      installOpen := s.installOpen ++ (s.inProgress a.shard).map (fun e => (a.shard, e)) } : State).actBegun a

/-- A merge cancelled: mstate 0, the log discarded, the target unused (R220). -/
def cancelMerge (s : State) (num : Nat) (id : U32) : State :=
  let s1 := (s.setHdr id 140 1 0).setHdr id 136 4 0
  { s1 with snapshots := s1.snapshots.erase num }

/-- An abort begins: a build on the shard stops and completes BUSY (R359), and the merge is cancelled. -/
def abortBegin (s : State) (a : Activity) : State :=
  match s.shardOf? a with
  | none => s.actTurned a .protocol
  | some id => if s.headerPoisoned id then s.actTurned a .uncorrectable else (s.cancelMerge a.shard id).actBegun a

/-- Whether a context is running a training step on a table (R359). -/
def training (s : State) (table : U32) (but : Option CtxId) : Bool :=
  s.ctxs.any (fun e =>
    let c := BitVec.ofNat 8 e.1
    decide (some c ≠ but) && s.names c table && (match e.2.run with | none => false | some r => descOp r.d == 0x0B))

/-- A placed object that is not RESIDENT: what reads it waits (R311). -/
def awaits (s : State) (id : U32) : Bool := match s.obj? id with | none => false | some o => decide (o.state ≠ .resident)
/-- An activity on a shard waits for the shard object, and an install for its target, to be RESIDENT (R311; log 139). -/
def actAwaits (s : State) (a : Activity) : Bool :=
  decide (a.code.toNat ≤ 3) && (match s.shardOf? a with | none => false | some id => s.awaits id || (a.code == 2 && s.awaits (BitVec.ofNat 32 (a.arg 24 4))))

/-- An activity that may begin: none before it of its kind or on its target, for a refresh no training step on its table (R359), and its objects there. -/
def canBegin (s : State) (before : List Activity) (a : Activity) : Bool :=
  !a.begun && a.code != 5 && before.all (fun b => b.code == 5 || (b.code != a.code && !b.sameTarget a)) &&
  (a.code != 4 || !s.training a.target none) && !s.actAwaits a

/-- The first activity that may begin, if any. -/
def nextAct (s : State) : List Activity → List Activity → Option Activity
  | _, [] => none
  | before, a :: t => if s.canBegin before a then some a else nextAct s (before ++ [a]) t

/-- An activity begins. -/
def actBegin (s : State) (a : Activity) : State :=
  match a.code.toNat with
  | 1 => s.buildBegin a
  | 2 => s.installBegin a
  | 3 => s.abortBegin a
  | _ => s.actBegun a

/-- Every activity that may begin does, with fuel. -/
def actNext : Nat → State → State
  | 0, s => s
  | f + 1, s => match s.nextAct [] s.acts with | none => s | some a => actNext f (s.actBegin a)
/-- The lane looks for activities that may begin. -/
def laneNext (s : State) : State := actNext s.acts.length s

/-- The lane receives an activity: conflicts of R359 decided, a checkpoint requested, anything else queued and begun when it may. -/
def actReceive (s : State) (a : Activity) : State :=
  let same := s.acts.any (fun b => b.code == a.code && decide (b.target = a.target))
  match a.code.toNat with
  | 5 => ({ s with acts := s.acts ++ [a] } : State).requestCkpt
  | 1 =>
    match s.shardOf? a with
    | none => s.actRefused a .protocol
    | some id => if same || decide ((s.shard id).mstate ≠ 0) then s.actRefused a .busy else ({ s with acts := s.acts ++ [a] } : State).laneNext
  | 4 => if same then s.actRefused a .busy else ({ s with acts := s.acts ++ [a] } : State).laneNext
  | 3 =>
    let builds := s.acts.filter (fun b => b.code == 1 && decide (b.target = a.target))
    let s1 := builds.foldl (fun s b => s.actFinish b .busy 0) s
    ({ s1 with acts := s1.acts ++ [a] } : State).laneNext
  | _ => ({ s with acts := s.acts ++ [a] } : State).laneNext

/-- The target of an activity as its operands give it: the table of a refresh, the shard of a merge, 0 for a checkpoint (R356). -/
def actTarget (code : Nat) (args : Bytes) : U32 :=
  match code with
  | 4 => BitVec.ofNat 32 (fld args 8 4)
  | 5 => 0
  | _ => BitVec.ofNat 32 (fld args 1 1)

/-- The activity that operand bytes [59:16] describe. -/
def actOf (args : Bytes) (desc : Option Desc) (start : Option (CtxId × SeqId × U32 × Bool)) : Activity :=
  { code := BitVec.ofNat 8 (fld args 0 1), target := actTarget (fld args 0 1) args, desc := desc, start := start, begun := false,
    outcome := .ok, result := 0, args := args }

/-- The operand bytes an activity's layout uses are the only ones that are not zero, and a shard number lies in range (R375, R378). -/
def actArgsOk (args : Bytes) : Bool :=
  let shard := decide (fld args 1 1 ≤ 63) && zeroBytes args 2 7
  match fld args 0 1 with
  | 1 => shard && zeroBytes args 12 15 && zeroBytes args 40 43
  | 2 => shard && zeroBytes args 24 43
  | 3 => decide (fld args 1 1 ≤ 63) && zeroBytes args 2 43
  | 4 => zeroBytes args 2 7 && zeroBytes args 16 43
  | 5 => zeroBytes args 1 43
  | _ => false

/-- What a build reads: of the source its header, dimension records, tombstones, side list, and each kept slot's codes, attribute word, record, vector
and graph record; of the graph its header; of the target its header (R217, R218). -/
def buildAcc (s : State) (h t : Shard) (snap : Nat) : List Access :=
  let kept := (List.range h.slots).filter (fun i => !s.tomb h i)
  [⟨h.id, 0, 256, false⟩, ⟨t.id, 0, 256, false⟩, ⟨h.id, h.dofs, 16 * h.dims, false⟩, ⟨h.id, h.tofs, ceilDiv h.slots 8, false⟩,
   ⟨h.id, h.sofs, h.sideStride * min snap h.scount, false⟩] ++
  (kept.map (fun i => scanReads h i ++ [(⟨h.id, h.aofs + 8 * i, 8, false⟩ : Access)])).flatten ++
  (if h.degree = 0 then [] else ⟨h.gobj, 0, 256, false⟩ :: kept.map (fun i => (⟨h.gobj, (s.graphOffs h).1 + i * h.nodeLen, h.nodeLen, false⟩ : Access)))
/-- What a build writes into the target, each write of its own: the cleared ID map and tombstones, then each slot's entries, then the dimension records
(R217, R321). -/
def buildWrites (t : Shard) (n : Nat) : List Access :=
  [⟨t.id, t.mofs, 16 * 2 ^ t.mbits, true⟩, ⟨t.id, t.tofs, ceilDiv t.slots 8, true⟩, ⟨t.id, t.dofs, 16 * t.dims, true⟩] ++
  ((List.range n).map (fun i => ([⟨t.id, t.aofs + 8 * i, 8, true⟩, ⟨t.id, t.rofs + 16 * i, 16, true⟩, ⟨t.id, t.cofs + t.codeLen * i, t.codeLen, true⟩] :
    List Access))).flatten

/-- What a build leaves: the target's index and header, the vector and graph objects into host memory, and their record (R217, R218).  Of the remaining
host-set fields of the header it copies the epoch and the two object IDs; mbits, sbits, scap and the section offsets describe the target object's own
sections, where the build has put everything, and stay the target's (log 55). -/
def buildOut (s : State) (a : Activity) (id : U32) (h t : Shard) : State :=
  let new := s.newSlots h (s.snapshots.getD a.shard 0)
  let vecs := (new.map NewSlot.vec).flatten
  let graph := if h.degree = 0 then [] else s.graphImage h new
  let p := s.actPort a
  let s1 := s.fillTarget h t new
  let s2 := ((s1.setHdr t.id 16 8 new.length).setHdr t.id 28 4 h.epoch).wr t.id 32 (s.rd id 32 8)
  let s3 := (s2.hostArea p a.hcrc (a.arg 32 8) vecs).hostArea p a.hcrc (a.arg 40 8) graph
  let s4 := s3.hostArea p a.hcrc (a.arg 48 8) (toLE 8 new.length ++ toLE 8 vecs.length ++ toLE 8 graph.length ++ toLE 8 0)
  (s4.setHdr id 140 1 2).actFinish a .ok new.length

/-- A build ends: steps 2 to 5 of R217.  It waits for what is not RESIDENT and stalls at a read-only object's poison (R311, R325); at other poison it
ends UNCORRECTABLE and its merge is cancelled (log 55). -/
def buildEnd (s : State) (a : Activity) : State :=
  match s.shardOf? a with
  | none => s.actFinish a .protocol 0
  | some id =>
    let h := s.shard id
    let t := s.shard (BitVec.ofNat 32 h.mtarget)
    let snap := s.snapshots.getD a.shard 0
    let acc := s.buildAcc h t snap ++ buildWrites t (s.newSlots h snap).length
    if !s.resident ([⟨t.id, 0, 0, false⟩, ⟨h.vobj, 0, 0, false⟩] ++ acc) then s
    else
      match s.poisonedAccess acc with
      | some x => if s.stalls x.id || s.shardDdr x.id then s.noteStall (.maint a.code a.target) x else (s.cancelMerge a.shard id).actFinish a .uncorrectable 0
      | none =>
        s.buildOut a id h t

/-- The delete log replayed on the target: IDs its map finds live are tombstoned (R219 step 2). -/
def replayLog (s : State) (h : Shard) (target : U32) : State :=
  (List.range h.lcount).foldl (fun t i =>
    match t.liveSlot? (t.shard target) (s.rdNat h.id (h.lofs + 8 * i) 6) with
    | none => t
    | some k => t.tombstone target k) s

/-- The side entries from S on that are not DEAD copied to the target in order, and its side hash built from them (R219 step 3). -/
def copyTail (s : State) (h : Shard) (target : U32) (snap : Nat) : State :=
  let t := s.shard target
  let js := s.tailEntries h snap
  let s1 := s.clearObj target t.hofs (16 * 2 ^ t.sbits)
  let s2 := (js.zipIdx).foldl (fun u (j, n) =>
    (u.wr target (sideOff t n) (s.rd h.id (sideOff h j) h.sideStride)).hashPut target t.hofs t.sbits (s.sideId h j) n) s1
  (s2.setHdr target 128 4 js.length).setHdr target 132 4 0

/-- What an install reads and writes: the log and the side entries from S on; the target's header, ID map and tombstones; its side hash, cleared, and
each side entry (R219, R321). -/
def installAcc (s : State) (h t : Shard) (snap : Nat) : List Access :=
  let js := s.tailEntries h snap
  [⟨h.id, 0, 256, false⟩, ⟨t.id, 0, 256, false⟩, ⟨h.id, h.lofs, 8 * h.lcount, false⟩,
   ⟨h.id, sideOff h snap, h.sideStride * (h.scount - snap), false⟩, ⟨t.id, t.mofs, 16 * 2 ^ t.mbits, false⟩,
   ⟨t.id, t.tofs, ceilDiv t.slots 8, false⟩, ⟨t.id, t.hofs, 16 * 2 ^ t.sbits, true⟩] ++
  js.zipIdx.map (fun e => (⟨t.id, sideOff t e.2, t.sideStride, true⟩ : Access))

/-- An install's turn is over: its shard's commands are held no longer. -/
def installOver (s : State) (a : Activity) : State :=
  { s with installing := s.installing.filter (fun n => n.toNat != a.shard), installOpen := s.installOpen.filter (fun e => e.1 != a.shard) }
/-- The slot of an install's shard names the target, and its snapshot and its turn are over (R219). -/
def installDone (s : State) (a : Activity) (target : U32) : State :=
  ({ s with shards := s.shards.set a.shard target, snapshots := s.snapshots.erase a.shard } : State).installOver a

/-- An install that meets poison ends UNCORRECTABLE, and one whose target's side list no longer holds the tail PROTOCOL, having changed nothing, and the
held commands go on (R325; log 55). -/
def installFails (s : State) (a : Activity) (code : Code) : State := (s.installOver a).actFinish a code 0

/-- The install's replay, copy and rebinding, and the held commands released (R219 steps 2 to 5). -/
def installEff (s : State) (a : Activity) (id : U32) : State :=
  let h := s.shard id
  let target := BitVec.ofNat 32 (a.arg 24 4)
  let s1 := (s.replayLog h target).copyTail h target (s.snapshots.getD a.shard 0)
  let s2 := (s1.setHdr target 28 4 (a.arg 36 4)).wr target 32 (toLE 4 (a.arg 28 4) ++ toLE 4 (a.arg 32 4))
  s2.installDone a target

end State

/-! ### The hot-row refresh (R173 to R176) -/

/-- Bytes of the hot-row store (R173). -/
def hotRoom : Nat := 96 * 1048576

/-- Free slots of the three pools while tiers are assigned: FP16, JB8, JB4. -/
structure Room where
  hot  : Nat
  warm : Nat
  cold : Nat
deriving DecidableEq, Repr

/-- A pool's free slots. -/
def Room.of (r : Room) (tier : Nat) : Nat := match tier with | 0 => r.hot | 1 => r.warm | _ => r.cold
/-- A slot of a pool taken. -/
def Room.take (r : Room) (tier : Nat) : Room :=
  match tier with | 0 => { r with hot := r.hot - 1 } | 1 => { r with warm := r.warm - 1 } | _ => { r with cold := r.cold - 1 }

/-- A slot of a pool given back. -/
def Room.give (r : Room) (tier : Nat) : Room :=
  match tier with | 0 => { r with hot := r.hot + 1 } | 1 => { r with warm := r.warm + 1 } | _ => { r with cold := r.cold + 1 }

/-- A row beyond FP16's range (R176). -/
def tooBig (xs : List F32) : Bool := xs.any (fun x => x.isInf || !x.isNan && (F32.ofDy { m := 65504, e := 0 }).lt (x % 0x80000000))

/-- The tier a row takes (R175 step 1); where that would move a row beyond FP16's range to FP16, a JB8 slot, or where it is (R176). -/
def pickTier (t : Table) (r : Room) (d : DirWord) (big : Bool) : Nat :=
  let hotOk := !big || d.tier == 0
  if t.thot ≠ 0 ∧ t.thot ≤ d.count ∧ 0 < r.hot then
    if hotOk then 0 else if 0 < r.warm then 1 else d.tier
  else if t.twarm ≤ d.count ∧ 0 < r.warm then 1
  else if 0 < r.of t.coldest then t.coldest
  else if 0 < r.warm then 1
  else if hotOk then 0
  else d.tier

/-- A row in a refresh: its number, old word, new tier, old bytes and values. -/
structure RowPlan where
  row   : Nat
  old   : DirWord
  tier  : Nat
  bytes : Bytes           -- its bytes in the new tier
  extra : Nat
  first : Nat             -- first copy's slot in the replica area
deriving DecidableEq, Repr

namespace State

/-- A row's bytes as it stands. -/
def rowRaw (s : State) (t : Table) (row : Nat) : Bytes := s.rd t.id ((s.rowPlaces t row).headD 0) (t.rowLen (s.dirWord t row).tier)

/-- A row as it stands, in FP32. -/
def rowVals (s : State) (t : Table) (row : Nat) : List F32 := decodeF32 (tierFmt (s.dirWord t row).tier) t.dim (s.rowRaw t row)
/-- Whether a row may have to stay where it is: beyond FP16's range and not in it (R176). -/
def mayStay (s : State) (t : Table) (row : Nat) : Bool := tooBig (s.rowVals t row) && (s.dirWord t row).tier != 0

/-- The free slots a refresh starts with: a row that may have to stay keeps a slot of its tier until it is visited (R176, log 57). -/
def startRoom (s : State) (t : Table) : Room :=
  ((List.range t.rows).filter (s.mayStay t)).foldl (fun r row => r.take (s.dirWord t row).tier)
    { hot := t.hslots, warm := t.wslots, cold := t.cslots }

/-- Every row's tier and converted bytes, in ascending index (R175 step 1, R176). -/
def planTiers (s : State) (t : Table) : List RowPlan :=
  ((List.range t.rows).foldl (fun (a : Room × List RowPlan) row =>
    let d := s.dirWord t row
    let xs := s.rowVals t row
    let room := if s.mayStay t row then a.1.give d.tier else a.1
    let tier := pickTier t room d (tooBig xs)
    let bs := if tier = d.tier then s.rowRaw t row else encodeRow (tierFmt tier) none xs
    (room.take tier, a.2 ++ [{ row := row, old := d, tier := tier, bytes := bs, extra := 0, first := 0 }]))
    (s.startRoom t, [])).2

/-- The stacks, as positions in a mask of m of them, that n copies from a slot of the replica area lie on, copy by copy (R163, R306). -/
def copyStacks (t : Table) (m tier slot n : Nat) : List Nat :=
  ((List.range n).map (fun k =>
    let lo := t.roff + (slot + k) * t.stride tier
    ((List.range (ceilDiv (lo + t.rowLen tier) 256 - lo / 256)).map (fun i => (lo / 256 + i) % m)).dedup)).flatten
/-- The first slot from `slot` on at which n copies lie on distinct stacks and end before `room` bytes; `slot` itself where there is none (R175 step 2,
log 57). -/
def apartFrom (t : Table) (m tier slot n room : Nat) : Nat :=
  (((List.range (64 * m)).map (slot + ·)).find? (fun k => decide ((k + n) * t.stride tier ≤ room) && decide ((copyStacks t m tier k n).Nodup))).getD slot

/-- Replicas given in ascending index while the area has room, each row's copies in consecutive slots of its stride from the next slot on at which they lie
on distinct stacks (R163, R175 step 2, log 57).  m is the number of stacks that the table's mask names. -/
def planCopies (t : Table) (m : Nat) (ps : List RowPlan) : List RowPlan :=
  (ps.foldl (fun (a : Nat × Nat × List RowPlan) p =>
    let want := if t.trep = 0 then 0 else min 7 (p.old.count / t.trep)
    let st := t.stride p.tier
    let slot := if want = 0 then 0 else apartFrom t m p.tier (ceilDiv a.1 st) (want + 1) (t.rslots * t.stride 0)
    if want ≠ 0 ∧ a.2.1 + want + 1 ≤ t.rslots ∧ (slot + want + 1) * st ≤ t.rslots * t.stride 0 then
      ((slot + want + 1) * st, a.2.1 + want + 1, a.2.2 ++ [{ p with extra := want, first := slot }])
    else (a.1, a.2.1, a.2.2 ++ [p])) (0, 0, [])).2.2

/-- Pool slots: a row that keeps its tier and lay in its pool keeps its slot, any other takes the lowest free one (log 57). -/
def planSlots (t : Table) (ps : List RowPlan) : List (RowPlan × Nat) :=
  let keeps := fun (p : RowPlan) => p.tier == p.old.tier && p.old.extra == 0
  let held := fun (tier : Nat) => (ps.filter (fun p => keeps p && p.tier == tier)).map (fun p => p.old.slot)
  let free := fun (tier : Nat) => (List.range (t.slots tier)).filter (fun k => !(held tier).contains k)
  (ps.foldl (fun (a : (List Nat × List Nat × List Nat) × List (RowPlan × Nat)) p =>
    if keeps p then (a.1, a.2 ++ [(p, p.old.slot)])
    else match p.tier with
      | 0 => ((a.1.1.drop 1, a.1.2), a.2 ++ [(p, a.1.1.headD p.old.slot)])
      | 1 => ((a.1.1, a.1.2.1.drop 1, a.1.2.2), a.2 ++ [(p, a.1.2.1.headD p.old.slot)])
      | _ => ((a.1.1, a.1.2.1, a.1.2.2.drop 1), a.2 ++ [(p, a.1.2.2.headD p.old.slot)])) ((free 0, free 1, free 2), [])).2

/-- Where a row with a given word lies (R162, R163). -/
def placesOf (t : Table) (d : DirWord) : List Nat :=
  if d.extra = 0 then [t.poolOff d.tier + d.slot * t.stride d.tier]
  else (List.range (d.extra + 1)).map (fun k => t.roff + (d.slot + k) * t.stride d.tier)

/-- The rows written at their new places, their words set with count zero and the hot bit clear (R175). -/
def writeRows (s : State) (t : Table) (ps : List (RowPlan × Nat)) : State :=
  ps.foldl (fun u (p, slot) =>
    let d : DirWord := { tier := p.tier, extra := p.extra, hot := false, slot := if p.extra = 0 then slot else p.first, count := 0 }
    (placesOf t d).foldl (fun u o => u.wr t.id o p.bytes) (u.setDirWord t p.row d)) s
/-- A table that rows can be loaded from: resident, its header good (R174), and in tier 1 without the read-only flag, since a copy sets a bit of the row's
directory word (R10, R162, R314).  DESIGN CHOICE (log 138): an entry that names a table in tier 2 is ignored as one of a table not resident is. -/
def hotTable (s : State) (id : U32) : Bool :=
  (match s.obj? id with
    | none => false
    | some o => o.kind == kindTable && decide (o.state = .resident) && decide (o.tier = 1) && !o.readOnly) && s.tableGood id

/-- The manifest's entries loaded in order until one does not fit: rows copied, and how many are loaded (R174). -/
def loadHot (s : State) : List (U32 × Nat) → List HotRow → List (U32 × Nat) → List (U32 × Nat) → List (U32 × Nat)
  | [], _, _, acc => acc
  | (id, row) :: rest, kept, seen, acc =>
    let t := s.table id
    if seen.contains (id, row) || !s.hotTable id || decide (t.rows ≤ row) then loadHot s rest kept seen acc
    else
      let size := fun (e : U32 × Nat) => let u := s.table e.1; u.stride (s.dirWord u e.2).tier
      let used := ((acc.map size) ++ ((kept.filter (fun h => !acc.contains (h.table, h.row))).map (fun h => size (h.table, h.row)))).sum
      let have_ := kept.any (fun h => decide ((h.table, h.row) = (id, row)))
      if !have_ && decide (hotRoom < used + size (id, row)) then acc
      else loadHot s rest kept ((id, row) :: seen) (acc ++ [(id, row)])

/-- The hot set after a refresh of a table: the entries loaded, and other tables' copies kept, written one after another (R173, R175 step 3). -/
def refreshHot (s : State) (t : U32) (entries : List (U32 × Nat)) : Nat × State :=
  let kept := s.hot.filter (fun h => h.table != t)
  let loaded := s.loadHot entries kept [] []
  let all := loaded ++ ((kept.map (fun h => (h.table, h.row))).filter (fun e => !loaded.contains e))
  let (hot, _, s1) := all.foldl (fun (a : List HotRow × Nat × State) e =>
    let u := s.table e.1
    let tier := (s.dirWord u e.2).tier
    let n := u.rowLen tier
    (a.1 ++ [{ table := e.1, row := e.2, offset := a.2.1, length := n }], a.2.1 + u.stride tier,
     (a.2.2.put .hot a.2.1 (s.rowRaw u e.2)).setDirWord u e.2 { a.2.2.dirWord u e.2 with hot := true })) ([], 0, s)
  (loaded.length, { s1 with hot := hot })

/-- A manifest object's entries (R174). -/
def manifestOf (s : State) (id : U32) : List (U32 × U64) :=
  (List.range (s.rdNat id 0 4)).map (fun i =>
    (BitVec.ofNat 32 (s.rdNat id (16 + 16 * i) 4), BitVec.ofNat 64 (s.rdNat id (16 + 16 * i + 8) 8)))

/-- What a refresh reads and writes of its table and manifest. -/
def refreshAcc (s : State) (t m : U32) : List Access :=
  [⟨t, 0, (s.table t).size, false⟩] ++ (if m = 0 then [] else [⟨m, 0, 16 + 16 * s.rdNat m 0 4, false⟩])

/-- A table and manifest that a refresh takes: a table in tier 1 that is not read-only, a manifest in tier 0 or 1 with its reserved bytes zero (R174,
R314; log 57). -/
def refreshOk (s : State) (t m : U32) : Bool :=
  (match s.obj? t with | none => false | some o => o.kind == kindTable && decide (o.tier = 1) && !o.readOnly) &&
  (m == 0 || (match s.obj? m with
    | none => false
    | some o => decide (o.tier.toNat ≤ 1) && decide (16 + 16 * s.rdNat m 0 4 ≤ o.size) && zeroBytes (s.rd m 0 16) 4 15))

/-- How many stacks an object's mask names (R306). -/
def stacksOf (s : State) (id : U32) : Nat := match s.obj? id with | none => 0 | some o => (maskBits o.mask.toNat).length

/-- A refresh runs and ends (R174 to R176). -/
def refreshEnd (s : State) (a : Activity) : State :=
  let t := a.target
  let m := BitVec.ofNat 32 (a.arg 28 4)
  if (s.obj? t).isNone || (m != 0 && (s.obj? m).isNone) then s.actTurned a .protocol
  else if !s.resident ((⟨t, 0, 0, false⟩ : Access) :: (if m = 0 then [] else [⟨m, 0, 0, false⟩])) then s
  else if !s.refreshOk t m || !s.tableGood t then s.actTurned a .protocol
  else
    match s.poisonedAccess (s.refreshAcc t m) with
    | some x => if s.stalls x.id then s.noteStall (.maint a.code a.target) x else s.actFinish a .uncorrectable 0
    | none =>
      let entries := if m = 0 then s.manifests.getD t.toNat [] else s.manifestOf m
      let tab := s.table t
      let s1 := s.writeRows tab (planSlots tab (planCopies tab (s.stacksOf t) (s.planTiers tab)))
      let (n, s2) := s1.refreshHot t (entries.map (fun e => (e.1, e.2.toNat)))
      ({ s2 with manifests := s2.manifests.set t.toNat entries } : State).actFinish a .ok n

/-- The first begun activity of a code on a target. -/
def actOn? (s : State) (code : Byte) (target : U32) : Option Activity :=
  s.acts.find? (fun a => a.code == code && decide (a.target = target) && a.begun)

end State

/-- An activity a START hands the lane: operands that a MAINT descriptor would be refused for end it PROTOCOL in its record (R357; log 86). -/
def State.startReceive (s : State) (args : Bytes) (a : Activity) : State :=
  if State.actArgsOk args then s.actReceive a else s.actRefused a .protocol

/-- A START with WAIT whose activity has not ended yet: its queue still runs it (R357). -/
def State.startPends (s : State) (c : CtxId) (q : SeqId) : Bool :=
  s.acts.any (fun a => match a.start with | some (d, p, _, w) => w && decide (d = c) && decide (p = q) | none => false) ||
    s.laneRecs.any (fun r => r.cmd == some (c, q))

/-- START: hands the lane an activity whose operands come from the block or the descriptor that started the step; without WAIT the command finishes when
the lane has it (R357, R359). -/
def execStart (c : CtxId) (q : SeqId) (b : Bytes) (s : State) : Host.Outcome State Fault Refusal :=
  let wait := bitAt b 1 0
  let desc := bitAt b 1 1
  let args := if desc then (match (s.ctx c).runOf q 0x0D with | none => [] | some r => slice r.d.bytes 16 44) else slice b 16 44
  let robj := fldObj b 60
  .next (if s.startPends c q then s else s.runCommand c (State.copyOf 0x0D q b)
    (mayIssue 0x0D q && blockOk 0x0D b && zeroBits b 1 7 2 && zeroBytes b 2 15 && s.accOk c [0] ⟨robj, 0, 16, true⟩)
    [] State.noPoisonRule
    (fun t => t.startReceive args (State.actOf args none (some (c, q, robj, wait))))
    (fun t => if wait then t else t.engineDone c q 0x0D))

/-- INSTALL_PROCEED: once the searches and writes in progress on the shard have finished, the install replays, copies and rebinds, and the held commands go
on; before they have, nothing (R219). -/
def execInstallProceed (shard : BitVec 6) (s : State) : Host.Outcome State Fault Refusal :=
  .next (match s.actOn? 2 (shard.setWidth 32), s.shards.get? shard.toNat with
    | some a, some id =>
      if !s.installing.contains shard || s.installWaits shard.toNat then s
      else
        let h := s.shard id
        match s.poisonedAccess (s.installAcc h (s.shard (BitVec.ofNat 32 (a.arg 24 4))) (s.snapshots.getD a.shard 0)) with
        | some x => if s.stalls x.id then s.noteStall (.maint a.code a.target) x else s.installFails a .uncorrectable
        | none => if s.tailFits a h then s.installEff a id else s.installFails a .protocol
    | _, _ => s)

/-- MAINT_ACTIVITY_COMPLETE: a begun activity ends, with its completion or the maintenance-done event; an install ends once it has proceeded; then
whatever may begin does (R359, R360). -/
def execMaintActivityComplete (activity : Byte) (target : U32) (s : State) : Host.Outcome State Fault Refusal :=
  .next (
    let s0 := s.laneNext
    match s0.actOn? activity target with
    | none => s0
    | some a =>
      match activity.toNat with
      | 1 => (s0.buildEnd a).laneNext
      | 2 => if s0.installing.any (fun n => n.toNat == a.shard) then s0 else (s0.actFinish a .ok 0).laneNext
      | 3 => (s0.actFinish a .ok 0).laneNext
      | 4 => (s0.refreshEnd a).laneNext
      | _ => s0)

end Sys2Proof.Machine
end

