-- ==== Sys2Proof/Machine/Levels.lean ====
section
/-! DEFINITION. The operating levels: caps, voltages, throttle, averages and junction readings (R441 to R450). -/

namespace Sys2Proof.Machine

/-- A level's nominal core voltage in mV (R441). -/
def nominalMv (level : Nat) : Nat := match level with | 0 => 820 | 1 => 720 | _ => 600
/-- A level's power cap in W (R441). -/
def levelCap (level : Nat) : Nat := match level with | 0 => 2800 | 1 => 2000 | _ => 1200
/-- A domain's trim at a level, in steps (R447). -/
def Trim.at (t : Trim) (level : Nat) : Nat := (match level with | 0 => t.noon | 1 => t.afternoon | _ => t.evening).toNat
namespace State

/-- The nominal core voltage of the moment: on the way of a ramp at 10 mV/µs (R444). -/
def coreMv (s : State) : Nat :=
  let w := s.power
  if w.ramp then
    let moved := (s.now - w.rampStart).toNat / 100
    if w.rampFrom ≤ w.rampTo then min w.rampTo (w.rampFrom + moved) else max w.rampTo (w.rampFrom - moved)
  else nominalMv w.current.toNat
/-- A domain's trim in steps at the level in force. -/
def trimSteps (s : State) (d : Nat) : Nat := (s.power.trims.getD d Trim.init).at s.power.current.toNat
/-- A domain's trim in mV: on its way to a new value at 10 mV/µs (R447). -/
def trimMv (s : State) (d : Nat) : Nat :=
  let to_ := 5 * s.trimSteps d
  match s.power.trimRamp.get? d with
  | none => to_
  | some (from_, t0) =>
    let moved := (s.now - t0).toNat / 100
    if from_ ≤ to_ then min to_ (from_ + moved) else max to_ (from_ - moved)
/-- A domain's trims changed: the one of the level in force ramps from what it has reached (R447). -/
def trimTo (s : State) (d : Nat) (t : Trim) : State :=
  { s with power := { s.power with trims := s.power.trims.set d t, trimRamp := s.power.trimRamp.set d (s.trimMv d, s.now) } }
/-- A domain's voltage in mV (R447, log 70). -/
def domainMv (s : State) (d : Nat) : Nat := max 550 (min 880 (s.coreMv + s.trimMv d - 5 * s.power.offset.toNat))

/-- The throttle offset that brings every domain to 0.55 V, in steps of 5 mV: what the domain with the largest trim needs (R449, log 70). -/
def fullOffset (s : State) : Nat :=
  ceilDiv (s.coreMv + 5 * (((List.range 7).map s.trimSteps).foldl max 0) - 550) 5

/-- The mean of the newest n samples of input power, in mW (R449). -/
def meanPower (s : State) (n : Nat) : Nat :=
  let l := s.power.samples.take n
  if l.isEmpty then 0 else l.sum / l.length
/-- The 1 ms average power, in W. -/
def avgWatts (s : State) : Nat := s.meanPower 1000 / 1000

/-- The hottest junction, in units of 0.25 °C (R450). -/
def hottest (s : State) : Nat := (s.power.sensors.map BitVec.toNat).foldl max 0
/-- The die of sensor i: 0 west, 1 east, 2 north, 3 south (R387, R450). -/
def sensorDie (i : Nat) : Nat := if i < 16 then 0 else if i < 32 then 1 else if i < 36 then 2 else 3
/-- The number of sensor i on its die. -/
def sensorNum (i : Nat) : Nat := if i < 16 then i else if i < 32 then i - 16 else if i < 36 then i - 32 else i - 36
/-- The die of the hottest sensor, the first of several (log 72). -/
def hottestDie (s : State) : Nat := sensorDie (s.power.sensors.findIdx (fun t => t.toNat == s.hottest))

/-- The thermal event (R451). -/
def thermalEvent (s : State) (reason : Byte) : State :=
  s.devEvent 0x04 ([reason, BitVec.ofNat 8 s.hottestDie] ++ toLE 2 s.hottest ++ toLE 4 s.avgWatts ++ toLE 2 (5 * s.power.offset.toNat))

end State
end Sys2Proof.Machine
end

