-- ==== Sys2Proof/Machine/Stats.lean ====
section
/-! DEFINITION. STATS snapshots (R386 to R388): the sections of each class.  Figures that the model does not time are free (log 69). -/

namespace Sys2Proof.Machine

/-- A section of a snapshot: class, part, record size and records (R386). -/
structure Sect where
  cls  : Nat
  part : Nat
  size : Nat
  recs : List Bytes
deriving DecidableEq, Repr

/-- A section's bytes. -/
def Sect.bytes (x : Sect) : Bytes :=
  toLE 2 x.cls ++ toLE 2 x.part ++ toLE 4 (16 + x.recs.length * x.size) ++ toLE 4 x.recs.length ++ toLE 4 x.size ++ x.recs.flatten

/-- The descriptor's fields: class mask, destination, capacity, scope (R378). -/
def statsMask (d : Desc) : Nat := descField d 16 8
/-- Device scope. -/
def statsDevice (d : Desc) : Bool := descField d 36 1 == 1

/-- An arbitration record's place in the ARB class: arbiter and requester, a context at the command arbiters, else the number of R387. -/
def arbPlace (key : Nat) : Nat × Nat :=
  let a := key / 65536
  let w := key % 65536
  (a, if a < 96 then w else if a ≤ 112 then w / 16 else w % 256)
/-- Two requesters' counts as one. -/
def ArbRec.join (x y : ArbRec) : ArbRec :=
  { x with grants := x.grants + y.grants, waits := x.waits + y.waits, total := x.total + y.total,
           longest := if x.longest.ult y.longest then y.longest else x.longest }

namespace State

/-- n free bytes of record k of a snapshot (log 69). -/
def statsFree (s : State) (k n : Nat) : Bytes := (List.range n).map (fun i => Config.freeByte s.fresh (65536 * k + i))

/-- A cause's part of a lag record: 32 bucket counts and the total (R387). -/
def lagCause (v : Seq) (cause : Nat) : Bytes :=
  let l := v.lag.getD cause { buckets := [], total := 0 }
  ((List.range 32).map (fun b => toLE 8 (l.buckets.getD b 0))).flatten ++ toLE 8 l.total
/-- The buffer with the largest total wait, the lowest ID among equals; 0 when nothing has waited (R58, log 69). -/
def lagBuffer (t : Tab Nat) : Nat := (t.foldl (fun (a : Nat × Nat) e => if a.2 < e.2 then e else a) (0, 0)).1
/-- The engine that a lag record names beside its buffers: that of the internal path with the largest total wait, the token's before the credit's (R58, R387). -/
def lagPath (v : Seq) : Nat :=
  let t := lagBuffer v.tokenBuf
  let d := lagBuffer v.creditBuf
  if 2 ^ 32 ≤ t then t - 2 ^ 32 else if 2 ^ 32 ≤ d then d - 2 ^ 32 else 0
/-- A lag record's buffer field: 0 for an internal path (R387). -/
def lagField (t : Tab Nat) : Bytes := toLE 4 (if 2 ^ 32 ≤ lagBuffer t then 0 else lagBuffer t)
/-- A lag record (R387): the open waits counted at their present length (R23, log 127).  Every wait of this model on a token or a credit names its object, so no
producing engine stands at [15:12] (log 69). -/
def lagRecord (s : State) (c q : Nat) : Bytes :=
  let v := ((s.ctx (BitVec.ofNat 8 c)).seq (SeqId.ofId q)).closed s.now
  [BitVec.ofNat 8 q, BitVec.ofNat 8 c, 0, 0] ++ lagField v.tokenBuf ++ lagField v.creditBuf ++ toLE 4 (lagPath v) ++
    ((List.range 7).map (lagCause v)).flatten
/-- A manager's histogram of a device's Saddle lag (R59). -/
def saddleLagRecord (e : Nat × Tab Nat) : Bytes :=
  toLE 8 e.1 ++ ((List.range 32).map (fun b => toLE 8 (e.2.getD b 0))).flatten

/-- The ARB records of the requesters that have asked (R344, log 71). -/
def arbRecords (s : State) : List Bytes :=
  let rows := s.arbs.filter (fun e => decide (e.1 / 65536 ≤ 122))
  let places := (rows.map (fun e => arbPlace e.1)).dedup
  places.map (fun p =>
    let r := (rows.filter (fun e => arbPlace e.1 == p)).foldl (fun a e => a.join e.2) ArbRec.init
    toLE 2 p.1 ++ toLE 2 p.2 ++ [0, 0, 0, 0] ++ toLE 8 r.grants.toNat ++ toLE 8 r.waits.toNat ++ toLE 8 r.total.toNat ++ toLE 8 r.longest.toNat)

/-- The GLEN records: resident shards with the counts of the context's last SEARCH, and under device scope the retained ones (R387, R473, log 68). -/
def glenRecords (s : State) (c : CtxId) (dev : Bool) : List Bytes :=
  let x := s.ctx c
  ((s.residentShards.filter (fun e => dev || s.names c e.2)).map (fun e => s.glenRecord e.1 e.2 x.refined.toNat x.occupancy.toNat)) ++
    (if dev then s.retained.map ShardRecord.record else [])

/-- A slot's SERVING record (R387). -/
def slotRecord (s : State) (k : Nat) : Bytes :=
  let st := s.slotStats.getD k { proposals := 0, acceptances := 0, projected := 0 }
  toLE 2 k ++ [BitVec.ofNat 8 (s.slotState k).num, BitVec.ofNat 8 (s.slotNat k 2 1)] ++ toLE 4 (s.slotNat k 28 4) ++ toLE 4 (s.slotNat k 40 4) ++
    toLE 4 (s.slotNat k 96 4) ++ toLE 4 (s.slotNat k 100 4) ++ toLE 8 (st.projected % 2 ^ 64).toNat ++ toLE 8 st.proposals ++ toLE 8 st.acceptances ++
    toLE 2 (s.slotNat k 48 2) ++ toLE 2 (s.slotNat k 50 2) ++ List.replicate 16 0
/-- The page size of a pool: that of a resident model that names it. -/
def poolPage (s : State) (id : U32) : Nat :=
  ((s.objs.filterMap (fun e => match s.model? (BitVec.ofNat 32 e.1) with
    | none => none
    | some m => if m.pool = id then some m.psize else none)).head?).getD 0
/-- A pool's SERVING record (R387). -/
def poolRecord (s : State) (id : U32) : Bytes :=
  let n := s.poolPages id (s.poolPage id)
  toLE 4 id.toNat ++ toLE 4 n ++ toLE 4 (n - (s.poolUsed id).length) ++ toLE 4 0
/-- The slots of a scope that are not FREE. -/
def statsSlots (s : State) (c : CtxId) (dev : Bool) : List Nat :=
  if dev then (List.range Config.slots).filter (fun k => decide (s.slotState k ≠ .free)) else s.liveSlots c
/-- The page pools of a scope. -/
def statsPools (s : State) (c : CtxId) (dev : Bool) : List U32 :=
  ((s.objs.filter (fun e => e.2.kind == 0x04)).map (fun e => (BitVec.ofNat 32 e.1 : U32))).filter (fun i => dev || s.names c i)

/-- A residence state's code, in R308's order (log 73). -/
def residenceNum : Residence → Nat
  | .absent => 0 | .loading => 1 | .resident => 2 | .evicting => 3
/-- An object's MEM record (R387). -/
def objRecord (e : Nat × Obj) : Bytes :=
  let o := e.2
  toLE 4 e.1 ++ [BitVec.ofNat 8 (residenceNum o.state), o.tier, o.kind, 0] ++ toLE 8 o.size ++ toLE 8 o.poisoned.length ++ toLE 8 0

/-- A PCIe port's LINK record; its counts are free (log 69). -/
def pcieRecord (s : State) (p : HostPort) : Bytes :=
  let t := s.port p
  [0, BitVec.ofNat 8 p.toNat, if t.linkUp then 1 else 0, BitVec.ofNat 8 (if t.linkUp then t.lanes else 0)] ++ toLE 4 t.rate ++
    s.statsFree (4000 + p.toNat) 40 ++ List.replicate 16 0
/-- A Selyn port's LINK record; the time without credits is free (log 69). -/
def selynRecord (s : State) (n : SelynPort) : Bytes :=
  let l := s.link n
  let lanes := match l.state with | .up8 => 8 | .up4 => 4 | _ => 0
  [1, BitVec.ofNat 8 n.val, BitVec.ofNat 8 l.state.num, BitVec.ofNat 8 lanes] ++ toLE 4 400000 ++ toLE 8 l.stats.sent ++ toLE 8 l.stats.resent ++
    toLE 8 l.stats.retrains ++ s.statsFree (4010 + n.val) 8 ++ toLE 8 l.stats.discarded ++ List.replicate 16 0

/-- The POWER record of the device (R387). -/
def powerRecord (s : State) : Bytes :=
  let w := s.power
  [BitVec.ofNat 8 w.current.toNat, if w.ramp then 1 else 0, BitVec.ofNat 8 w.cause.toNat, 0] ++ toLE 2 (5 * w.offset.toNat) ++ toLE 2 s.hottest ++
    [BitVec.ofNat 8 s.hottestDie, 0, 0, 0] ++ toLE 4 s.avgWatts ++ toLE 4 w.vinMv.toNat ++ List.replicate 12 0
/-- A core domain's record; which sensors lie in a domain is not given, so its hottest reading is free (log 69). -/
def domainRecord (s : State) (d : Nat) : Bytes :=
  [BitVec.ofNat 8 d, BitVec.ofNat 8 (s.trimSteps d)] ++ toLE 2 (s.domainMv d) ++ s.statsFree (4050 + d) 4 ++ s.statsFree (4030 + d) 2 ++
    List.replicate 6 0
/-- A junction sensor's record. -/
def sensorRecord (s : State) (i : Nat) : Bytes :=
  [BitVec.ofNat 8 (sensorDie i), BitVec.ofNat 8 (sensorNum i)] ++ toLE 2 (s.power.sensors.getD i 0).toNat

/-- Whether device time follows a source: the uplink of a formed tree below its top, else the owner's port (R389, R410). -/
def governs (s : State) (i : Nat) : Bool :=
  if s.regs.treeFormed && s.uplink?.isSome then i == 2 else s.owner? == some (BitVec.ofNat 1 i) && decide (i < 2)
/-- A time source's record (R387). -/
def timeRecord (s : State) (i : Nat) : Bytes :=
  let x := s.clock.sources.getD i TimeSource.init
  [BitVec.ofNat 8 i, BitVec.ofNat 8 (flagNat x.exchanged + 2 * flagNat (s.governs i)), 0, 0, 0, 0, 0, 0] ++ toLE 8 x.last.toNat ++
    toLE 8 (x.offset % 2 ^ 64).toNat ++ toLE 4 x.roundTrip.toNat ++ [0, 0, 0, 0]

/-- Records of a device-scope class: none under context scope (R387). -/
def devOnly (dev : Bool) (l : List Bytes) : List Bytes := if dev then l else []

/-- The sections of a class (R387), in part order. -/
def classSections (s : State) (c : CtxId) (dev : Bool) : Nat → List Sect
  | 0 =>
    let cs := if dev then List.range 256 else [c.toNat]
    [{ cls := 0, part := 0, size := 1864, recs := (cs.map (fun c => (List.range 12).map (s.lagRecord c))).flatten },
     { cls := 0, part := 1, size := 264, recs := devOnly dev (s.saddleLag.map saddleLagRecord) }]
  | 1 => [{ cls := 1, part := 0, size := 40, recs := devOnly dev s.arbRecords }]
  | 2 => [{ cls := 2, part := 0, size := 64, recs := s.glenRecords c dev }]
  | 3 => [{ cls := 3, part := 0, size := 64, recs := (s.statsSlots c dev).map s.slotRecord },
          { cls := 3, part := 1, size := 16, recs := (s.statsPools c dev).map s.poolRecord }]
  | 4 => [{ cls := 4, part := 0, size := 32, recs := devOnly dev ((s.classEntries false).map (fun k => k.bytes false)) }]
  | 5 => [{ cls := 5, part := 0, size := 32, recs := devOnly dev (s.objs.map objRecord) },
          { cls := 5, part := 1, size := 32, recs := devOnly dev ((s.classEntries true).map (fun k => k.bytes true)) }]
  | 6 => [{ cls := 6, part := 0, size := 64, recs := devOnly dev ([s.pcieRecord 0, s.pcieRecord 1] ++ selynPorts.map s.selynRecord) }]
  | 7 => [{ cls := 7, part := 0, size := 32, recs := devOnly dev [s.powerRecord] },
          { cls := 7, part := 1, size := 16, recs := devOnly dev ((List.range 7).map s.domainRecord) },
          { cls := 7, part := 2, size := 4, recs := devOnly dev ((List.range 40).map s.sensorRecord) }]
  | 8 => [{ cls := 8, part := 0, size := 32, recs := devOnly dev ((List.range 3).map s.timeRecord) }]
  | _ => []

/-- The sections of a snapshot. -/
def statsSections (s : State) (d : Desc) : List Sect :=
  (((List.range 9).filter (fun k => (statsMask d).testBit k)).map (s.classSections d.ctx (statsDevice d))).flatten
/-- The size of a snapshot (R386). -/
def statsSize (l : List Sect) : Nat := 64 + (l.map (fun x => 16 + x.recs.length * x.size)).sum

/-- A STATS descriptor: the snapshot written, or PROTOCOL: with the size needed when the capacity is short, and for device scope from a context of
another port than the owner's, a scope above 1 or a class that R387 does not define (R386, R388; log 74). -/
def stats (s : State) (d : Desc) : State :=
  let port := (s.ctx d.ctx).port
  if 1 < descField d 36 1 ∨ 2 ^ 9 ≤ statsMask d then s.complete d (Done.of .protocol 0)
  else if statsDevice d && s.owner? != some port then s.complete d (Done.of .protocol 0)
  else
    let l := s.statsSections d
    let n := statsSize l
    if descField d 32 4 < n then s.complete d (Done.of .protocol n)
    else
      let head := toLE 4 0x53544154 ++ toLE 2 1 ++ [BitVec.ofNat 8 (descField d 36 1), d.ctx] ++ toLE 8 (statsMask d) ++ toLE 8 s.now.toNat ++
        toLE 8 s.now.toNat ++ toLE 4 n ++ List.replicate 28 0
      let s1 := s.hostArea port (descFlag d 3) (descField d 24 8) (head ++ (l.map Sect.bytes).flatten)
      ({ s1 with fresh := s1.fresh + 1 } : State).complete d (Done.of .ok n)

end State
end Sys2Proof.Machine
end

