-- ==== Sys2Proof/Machine/Descriptors.lean ====
section
/-! DEFINITION. The dispatch unit: descriptors fetched, held back, checked and expanded (R24, R25, R345 to R348, R372 to R379), and the effect of every
opcode. -/

namespace Sys2Proof.Machine

/-! ### The header (R375, R377 check 2) -/

/-- The operand bytes an opcode uses whole, as ranges (R378); `act` is byte [16] of a MAINT. -/
def usedBytes (op act : Nat) : List (Nat × Nat) :=
  match op with
  | 0x01 => [(16, 23), (24, 28), (32, 47)]
  | 0x02 => [(16, 23), (24, 27), (32, 55)]
  | 0x03 => [(16, 31), (32, 43)]
  | 0x04 => [(16, 23), (24, 27), (32, 43)]
  | 0x05 => [(16, 31), (32, 39)]
  | 0x06 => [(16, 17), (20, 39)]
  | 0x07 => [(16, 17), (24, 39)]
  | 0x08 => [(16, 17), (20, 23)]
  | 0x09 => [(16, 24), (32, 55)]
  | 0x0A => [(16, 24), (40, 47)]
  | 0x0B => [(16, 43)]
  | 0x0C => [(16, 19), (21, 21), (24, 59)]
  | 0x0D => [(16, 19)]
  | 0x0E => match act with
    | 1 => [(16, 17), (24, 27), (32, 55)]
    | 2 => [(16, 17), (24, 39)]
    | 4 => [(16, 17), (24, 31)]
    | _ => [(16, 17)]
  | 0x0F => [(16, 16), (18, 23)]
  | 0x10 => [(16, 36)]
  | 0x11 => [(16, 19)]
  | 0x12 => [(16, 27), (32, 55)]
  | 0x13 => [(16, 19), (24, 27), (32, 55)]
  | 0x15 => [(16, 59)]
  | 0x17 => [(16, 16), (24, 31)]
  | _ => []

/-- The byte an opcode uses in part, and the bits it uses (R378). -/
def usedBits (op : Nat) : Nat × Nat :=
  match op with
  | 0x01 => (48, 0x01)
  | 0x0C => (20, 0x03)
  | 0x0D => (20, 0x02)
  | 0x11 => (20, 0x01)
  | 0x12 => (28, 0x07)
  | 0x13 => (28, 0x05)
  | _ => (0, 0)

/-- Whether every reserved bit of the operands is zero. -/
def operandsClean (b : Bytes) : Bool :=
  let op := fld b 0 1
  let used := usedBytes op (fld b 16 1)
  let (part, mask) := usedBits op
  ((List.range 44).map (· + 16)).all (fun i =>
    used.any (fun r => decide (r.1 ≤ i) && decide (i ≤ r.2)) || (if i = part then fld b i 1 &&& mask == fld b i 1 else fld b i 1 == 0))

/-- Check 2 of R377. -/
def headerOk (d : Desc) : Bool :=
  descField d 2 1 == d.ctx.toNat && decide (1 ≤ descOp d) && decide (descOp d ≤ 0x17) && decide (descField d 1 1 < 16) && operandsClean d.bytes

/-- Whether a descriptor's CRC holds (R375). -/
def descCrcOk (b : Bytes) : Bool := crc32c (slice b 0 60) == fld b 60 4

/-- A context whose descriptors are expanded (R331, R452). -/
def Ctx.expands (x : Ctx) : Bool := (x.state == .idle || x.state == .ready || x.state == .suspended) && !x.draining

/-- The fetched and not expanded descriptors of a ring. -/
def Ctx.waits (x : Ctx) (r : BitVec 2) : List (Desc × Bool) := x.waiting.getD r.toNat []
/-- A context with a ring's waiting descriptors replaced. -/
def Ctx.setWaits (x : Ctx) (r : BitVec 2) (l : List (Desc × Bool)) : Ctx :=
  { x with waiting := if l.isEmpty then x.waiting.erase r.toNat else x.waiting.set r.toNat l }

namespace State

/-- Check 3 of R377: the counters that WAITEN and SIGEN name (R345). -/
def countersOk (s : State) (d : Desc) : Bool :=
  let x := s.ctx d.ctx
  (!descFlag d 1 || (x.inWindow (descField d 8 2) && decide (descField d 12 4 ≤ Config.maxCount))) &&
    (!descFlag d 2 || (x.inWindow (descField d 10 2) && decide (1 ≤ descField d 3 1)))

/-- Check 4 of R377: the descriptor wait (R346). -/
def waitMet (s : State) (d : Desc) : Bool :=
  let w := s.counter (descField d 8 2)
  !descFlag d 1 || (!isLock w && decide (descField d 12 4 ≤ w.toNat))

/-! ### Check 5: the operands of step descriptors (R282, R283, R300, R378, R379) -/

/-- An object of a context's table, of a kind, in one of the tiers, and not ABSENT. -/
def namedKind (s : State) (c : CtxId) (id : U32) (kinds : List Byte) (tiers : List Nat) : Bool :=
  s.names c id && (match s.obj? id with
    | none => false
    | some o => kinds.contains o.kind && tiers.contains o.tier.toNat && o.state != .absent)

/-- The parts of R282 about the objects a record names.  The passage store must be on a device that holds shards under the mask, the feature table on a
re-rank device; elsewhere they need not be, but an object of theirs that the context names must be of the right kind (log 66).  What lies in them is
checked once they are RESIDENT. -/
def recordObjects (s : State) (c : CtxId) (x : Pipeline) : Bool :=
  let store := s.namedKind c x.pstore [0x01] [1, 2] && (!s.resident [⟨x.pstore, 0, 0, false⟩] || s.storeOk x.pstore)
  let gtab := s.namedKind c x.gtab [0x02] [1, 2] && (!s.resident [⟨x.gtab, 0, 0, false⟩] || (s.table x.gtab).kind == 1 || (s.table x.gtab).kind == 2)
  s.namedKind c x.tobj [0x01] [1] &&
  (x.kind != 0 || (s.namedKind c x.tmpl [0x01] [0, 1] && (store || (!s.shards.any (fun e => x.mask.testBit e.1) && !s.names c x.pstore)))) &&
  (!x.rerank || gtab)

/-- The shard an EMBED inserts into is resident, with the dimensions the step image declares (R282, log 67). -/
def insertFits (s : State) (c : CtxId) (x : Pipeline) : Bool :=
  match s.shards.get? x.shard, (s.ctx c).image with
  | some id, some i => (s.shard id).dims == Config.encoderDims (s.img i 0x10 8)
  | _, _ => false

/-- The pipeline record of a descriptor passes R281 and R282. -/
def recordOk (s : State) (d : Desc) (kind : Nat) : Bool :=
  let c := d.ctx
  let id : U32 := BitVec.ofNat 32 (descField d 24 4)
  let x := s.pipeline id
  s.namedKind c id [0x01] [0, 1] && s.fits id 0 128 && pipelineFieldsOk (s.rd id 0 128) && x.kind == kind && s.recordObjects c x &&
  (x.rdev.take x.rworkers).all (fun n => decide (n < s.regs.treeSize.toNat)) &&
  (x.kind != 0 ||
    (match s.tokTable? x.tobj with
     | none => false
     | some t => s.templateOk x.tmpl x.rerank t.v && decide ((s.template x.tmpl).fixed + 1 ≤ x.budget) &&
        (!x.rerank || decide ((s.template x.tmpl).rfixed + 2 ≤ x.rcap)))) &&
  (x.kind != 1 || ((x.insert || x.vout) && (!x.insert || s.insertFits c x)))

/-- A QUERY's list (R283). -/
def queryListOk (s : State) (d : Desc) : Bool :=
  (List.range (descField d 16 8)).all (fun i =>
    let e := s.queryEntry d i
    !e.bad && decide (1 ≤ e.len) && decide (e.len ≤ 65536))

/-- An EMBED's list (R300). -/
def embedListOk (s : State) (d : Desc) : Bool :=
  let p := (s.ctx d.ctx).port
  let ins := (s.pipeline (BitVec.ofNat 32 (descField d 24 4))).insert
  (List.range (descField d 16 8)).all (fun i =>
    let b := s.hostRd p (descField d 32 8 + 32 * i) 32
    decide (fld b 8 4 ≤ 16777216) && zeroBytes b 12 15 && zeroBytes b 22 23 && (ins || fld b 16 6 == 0))

/-- Bytes of a search area (R379); the dimensions are those of the first resident shard of the mask (log 65). -/
def searchAreaLen (s : State) (d : Desc) (k : Nat) (share : Bool) : Nat :=
  let q := descField d 16 8
  let dims := match (maskShards (descField d 24 8)).filterMap (fun n => s.shards.get? n) with
    | [] => 0
    | id :: _ => (s.shard id).dims
  64 + 4 * q * dims + 128 * (if share then 1 else q) + 16 * q * k + 32 * q

/-- A SEARCH's area: the header's ranges and the length (R203, R204, R379; log 65). -/
def searchAreaOk (s : State) (d : Desc) : Bool :=
  let h := s.hostRd (s.ctx d.ctx).port (descField d 32 8) 64
  let q := descField d 16 8
  let k := fld h 0 2
  let f := fld h 2 1
  let ef := fld h 4 2
  let slack : F32 := fld h 8 4
  let graph := (s.ctx d.ctx).modeNow.graph
  decide (64 ≤ descField d 40 4) && decide (1 ≤ k) && decide (k ≤ 4096) && decide (1 ≤ f) && decide (f ≤ 16) && zeroBits h 3 7 2 && zeroBytes h 6 7 &&
    zeroBytes h 12 63 && decide (k * f ≤ 65536) && decide (q * k * f ≤ 1048576) &&
    (if graph then decide (16 ≤ ef) && decide (ef ≤ 4096) && decide (k * f ≤ 4096) && !slack.isNan && !slack.lt 0 else ef == 0 && slack == 0) &&
    decide (s.searchAreaLen d k (bitAt h 3 1) ≤ descField d 40 4)

/-- A RERANK's area: one entry a query, its candidates between 1 and ntop (R379). -/
def rerankAreaOk (s : State) (d : Desc) : Bool :=
  let p := (s.ctx d.ctx).port
  let x := s.pipeline (BitVec.ofNat 32 (descField d 24 4))
  decide (32 * descField d 16 8 ≤ descField d 40 4) && x.rerank &&
  (List.range (descField d 16 8)).all (fun i =>
    let n := leNat (s.hostRd p (descField d 32 8 + 32 * i + 12) 4)
    decide (1 ≤ n) && decide (n ≤ x.ntop))

/-- A field of n between two bounds. -/
def nIn (d : Desc) (lo hi : Nat) : Bool := decide (lo ≤ descField d 16 8) && decide (descField d 16 8 ≤ hi)

/-- Check 5 of R377 for a step descriptor. -/
def stepOperandsOk (s : State) (d : Desc) : Bool :=
  match descOp d with
  | 0x01 => nIn d 1 64 && s.recordOk d 0 && s.queryListOk d
  | 0x02 => nIn d 1 65536 && s.recordOk d 1 && s.embedListOk d
  | 0x03 => nIn d 1 64 && s.searchAreaOk d
  | 0x04 => nIn d 1 64 && s.recordOk d 0 && s.rerankAreaOk d
  | 0x05 => nIn d 1 256
  | 0x09 | 0x0A => nIn d 0 65536 && decide (descField d 24 1 ≤ 63)
  | 0x13 => decide (descField d 16 4 ≤ 2 ^ 24)
  | _ => true

/-- The host checks of what the dispatch unit reads of a step descriptor's area: the list of a QUERY or EMBED, the header of a SEARCH's area, the entries of a
RERANK's (R377, R424). -/
def stepAreasOk (s : State) (d : Desc) : Bool :=
  let ok := s.hcrcPart (s.ctx d.ctx).port (descFlag d 3) (descField d 32 8)
  let n := descField d 16 8
  match descOp d with
  | 0x01 => !nIn d 1 64 || ok (32 * n) (32 * n)
  | 0x02 => !nIn d 1 65536 || ok (32 * n) (32 * n)
  | 0x03 => !nIn d 1 64 || ok (descField d 40 4) 64
  | 0x04 => !nIn d 1 64 || ok (descField d 40 4) (32 * n)
  | _ => true

/-- A step descriptor's effect at expansion: LINK_LOST in a broken context (R414, R515), UNCORRECTABLE where a host check of its area fails (R327, log 148),
PROTOCOL, or its place among the context's steps (R376, R377).  A context with no image answers PROTOCOL
whatever the operands. -/
def stepDescriptor (s : State) (d : Desc) : State :=
  let x := s.ctx d.ctx
  if x.broken && x.image.isSome && !x.steps.any (fun e => descOp e == 0x11) then s.complete d (Done.of .linkLost 0)
  else if !s.stepAreasOk d then (s.hostCheckFailed d.ctx).complete d (Done.of .uncorrectable 0)
  else if s.stepOperandsOk d then s.stepEnter d else s.complete d (Done.of .protocol 0)

/-! ### Direct descriptors -/

/-- PAUSE: the terminal code of an ended request; PROTOCOL for a slot outside the range, a FREE slot or another request's tag; else the serving unit holds it
to its next boundary (R274, log 35). -/
def pauseDesc (s : State) (d : Desc) : State :=
  let c := d.ctx
  let k := descSlot d
  if !s.ownsSlot c k || s.slotState k == .free || s.slotNat k 8 4 != descField d 20 4 then s.complete d (Done.of .protocol 0)
  else if s.slotState k = .ended then s.complete d (Done.of (Code.ofNum (s.slotNat k 5 1)) 0)
  else s.modServing c (fun v => { v with pauses := v.pauses ++ [{ d := d, taken := false, written := none }] })

/-- RESUME: the serving unit holds it to its next boundary (R277). -/
def resumeDesc (s : State) (d : Desc) : State :=
  if !s.ownsSlot d.ctx (descSlot d) then s.complete d (Done.of .protocol 0)
  else s.modServing d.ctx (fun v => { v with resumes := v.resumes ++ [{ d := d, granted := false, loaded := false }] })

/-- A slot whose step is in progress and not committed. -/
def stepping (s : State) (c : CtxId) (k : Nat) : Bool :=
  let v := (s.ctx c).serving
  v.listed && (v.entries.drop v.cursor).any (fun e => e.slot.toNat == k && !e.skip)

/-- CANCEL: the latch set when the tag matches a request that has not ended; it completes after the commit of a step in progress, else at once; LATE_CANCEL
otherwise (R268, R269). -/
def cancelDesc (s : State) (d : Desc) : State :=
  let c := d.ctx
  let k := descSlot d
  if !s.ownsSlot c k then s.complete d (Done.of .protocol 0)
  else
    let st := s.slotState k
    if st = .free ∨ st = .ended ∨ s.slotNat k 8 4 ≠ descField d 20 4 then s.complete d (Done.of .lateCancel 0)
    else
      let s1 := s.setSlotFlag k 4 true
      if s.stepping c k then s1.modServing c (fun v => { v with cancels := v.cancels ++ [d] })
      else s1.complete d (Done.of .cancelled 0)

/-- MAINT: received by the lane, or PROTOCOL for operands out of range (R356, R359, R378). -/
def maintDesc (s : State) (d : Desc) : State :=
  let args := slice d.bytes 16 44
  if actArgsOk args && fld args 0 1 != 5 then s.actReceive (actOf args (some d) none) else s.complete d (Done.of .protocol 0)

/-- CHECKPOINT: the retention checkpoint, as a MAINT (R378). -/
def checkpointDesc (s : State) (d : Desc) : State := s.actReceive (actOf (5 :: List.replicate 43 0) (some d) none)

/-- SYNC ADD (R346). -/
def syncAddDesc (s : State) (d : Desc) : State :=
  let k := descField d 18 2
  let v := descField d 20 4
  if !(s.ctx d.ctx).inWindow k || v == 0 || decide (Config.maxCount < v) || isLock (s.counter k) then s.complete d (Done.of .protocol 0)
  else
    let w := satAdd (s.counter k) v
    (s.store k w).complete d (Done.of .ok w.toNat)

/-- SYNC SET: on a lock word only when its holder is FAULTED or DRAINED (R346). -/
def syncSetDesc (s : State) (d : Desc) : State :=
  let k := descField d 18 2
  let v := descField d 20 4
  let h := (s.ctx (lockCtx (s.counter k))).state
  if !(s.ctx d.ctx).inWindow k || decide (Config.maxCount < v) || (isLock (s.counter k) && h != .faulted && h != .drained) then
    s.complete d (Done.of .protocol 0)
  else (s.store k (BitVec.ofNat 32 v)).complete d (Done.of .ok v)

/-- SYNC READ (R346). -/
def syncReadDesc (s : State) (d : Desc) : State :=
  let k := descField d 18 2
  if !(s.ctx d.ctx).inWindow k then s.complete d (Done.of .protocol 0) else s.complete d (Done.of .ok (s.counter k).toNat)

/-- A SYNC by its op (R378). -/
def syncDesc (s : State) (d : Desc) : State :=
  match descField d 16 1 with
  | 0 => s.syncAddDesc d
  | 1 => s.syncSetDesc d
  | 2 => s.syncReadDesc d
  | _ => s.complete d (Done.of .protocol 0)

/-- Software bits of a port set: each new one is an assertion of its vector (R382, R383). -/
def setSwpend (s : State) (p : HostPort) (mask : U64) : State :=
  let old := (s.port p).swpend
  let s1 := s.modPort p (fun t => { t with swpend := t.swpend ||| mask })
  (allVectors.filter (fun v => mask.getLsbD v.toNat && !old.getLsbD v.toNat)).foldl (fun s v => s.noteVec p v 1) s1

/-- TEST: SETPEND, ECHO, or PROTOCOL for an op above 1 (R378). -/
def testDesc (s : State) (d : Desc) : State :=
  match descField d 16 1 with
  | 0 => (s.setSwpend (s.ctx d.ctx).port (BitVec.ofNat 64 (descField d 24 8))).complete d (Done.of .ok 0)
  | 1 => s.complete d (Done.of .ok (descField d 24 8))
  | _ => s.complete d (Done.of .protocol 0)

/-- STEP and STEP with UNBIND; UNBIND with an image ID is refused (R33, R378). -/
def bindDesc (s : State) (d : Desc) : State :=
  if bitAt d.bytes 20 0 && descField d 16 4 != 0 then s.complete d (Done.of .protocol 0) else s.stepDesc d

/-- The effect of an expanded descriptor that passed checks 1 to 4 of R377. -/
def descEffect (s : State) (d : Desc) : State :=
  match descOp d with
  | 0x06 => s.pauseDesc d
  | 0x07 => s.resumeDesc d
  | 0x08 => s.cancelDesc d
  | 0x0C => s.lineEnter d
  | 0x0D => s.lineEnter d
  | 0x0E => s.maintDesc d
  | 0x0F => s.syncDesc d
  | 0x10 => s.stats d
  | 0x11 => s.bindDesc d
  | 0x14 => s.fenceDone d.ctx
  | 0x15 => s.attest d
  | 0x16 => s.checkpointDesc d
  | 0x17 => s.testDesc d
  | _ => s.stepDescriptor d

/-! ### Expansion (R24, R25, R373, R377) -/

/-- A descriptor is expanded: outstanding until it completes, its completion entry reserved (R373). -/
def take (s : State) (d : Desc) (refetched : Bool) : State :=
  s.modCtx d.ctx (fun x => { x with outstanding := x.outstanding ++ [(d, refetched)], reserved := x.reserved + 1 })

/-- Check 1 of R377: a CRC that fails is counted at the ring and the descriptor fetched once more; the descriptor, whether it is a re-fetch, and whether it
passes. -/
def crcCheck (s : State) (d : Desc) (re : Bool) : State × Desc × Bool × Bool :=
  if descCrcOk d.bytes then (s, d, re, true)
  else
    let x := s.ctx d.ctx
    let s1 := s.countLoc false { kind := 0xA, a := d.ctx, b := BitVec.ofNat 8 d.ring.toNat, c := 0, row := 0 }
    let b := s.hostRd x.port ((x.sq.getD d.ring.toNat RingReg.init).base.toNat + 64 * d.index.toNat) 64
    if descCrcOk b then (s1, { d with bytes := b }, true, true)
    else (s1, { d with bytes := [0, BitVec.ofNat 8 (fld b 1 1 % 2)] ++ List.replicate 62 0 }, false, false)

/-- The engine whose queue takes a direct descriptor's entry: the serving unit's, DMA's or the maintenance lane's (R24, R376; log 133). -/
def descEngine (d : Desc) : Option Nat :=
  match descOp d with
  | 0x06 | 0x07 | 0x08 => some 0x0B
  | 0x0C | 0x0D => some 0x0C
  | 0x0E | 0x16 => some 0x0D
  | _ => none
/-- The queue that a descriptor's entry goes to has room for it (R25; log 133: one word). -/
def descRoom (s : State) (d : Desc) : Bool :=
  match descEngine d with
  | none => true
  | some e => decide ((s.queue (queueIx e .steppeW)).used (Config.queueDepth e) < Config.queueDepth e)

/-- A descriptor offered for expansion: the state after it, and the descriptor when it still has to wait: for its context, an outstanding FENCE, room in
the completion ring, its counter, or room in the queue that its entry goes to (R25, R331, R346, R348, R373, R377).  The completion of a descriptor whose CRC fails twice carries opcode and tag 0
(R377, log 64). -/
def tryDesc (s : State) (d : Desc) (re : Bool) : State × Option (Desc × Bool) :=
  let x := s.ctx d.ctx
  if !x.expands || x.outstanding.any (fun e => isFence e.1) || !x.cqRoom then (s, some (d, re))
  else
    match s.crcCheck d re with
    | (s1, d1, re1, ok) =>
      if !ok then ((s1.take d1 re1).completeUnsignalled d1 (Done.of .integrity 0), none)
      else if !headerOk d1 || !s1.countersOk d1 then ((s1.take d1 re1).completeUnsignalled d1 (Done.of .protocol 0), none)
      else if !s1.waitMet d1 || !s1.descRoom d1 then (s1, some (d1, re1))
      else ((s1.take d1 re1).descEffect d1, none)

/-- Whether a descriptor can be fetched from its ring: its context is polled and the ring is not stopped (R370, R372, R452). -/
def fetchable (s : State) (d : Desc) : Bool :=
  (s.ctx d.ctx).expands && !(s.ctx d.ctx).stopped.getLsbD d.ring.toNat

/-- A descriptor's fetch counted (R372). -/
def countFetch (s : State) (d : Desc) : State :=
  s.modCtx d.ctx (fun x => { x with fetchedN := x.fetchedN.set d.ring.toNat (x.fetchedN.getD d.ring.toNat 0 + 1) })

/-- A descriptor reaches the dispatch unit from its ring: it is expanded, or waits behind the ring's earlier ones or for what R25, R346, R348 and R373
say (log 63). -/
def arrive (s : State) (d : Desc) : State :=
  if !s.fetchable d then s
  else
    let s1 := s.countFetch d
    let w := (s1.ctx d.ctx).waits d.ring
    if !w.isEmpty then s1.modCtx d.ctx (fun x => x.setWaits d.ring (w ++ [(d, false)]))
    else
      match s1.tryDesc d false with
      | (s2, none) => s2
      | (s2, some e) => s2.modCtx d.ctx (fun x => x.setWaits d.ring (x.waits d.ring ++ [e]))

/-- A command row for one kind of descriptor: nothing for a descriptor of another kind (log 6). -/
def arriveIf (s : State) (ok : Bool) (d : Desc) : State := if ok then s.arrive d else s

end State

/-! ### The descriptor commands (R378) -/

/-- QUERY. -/
def execQuery (d : Desc) (s : State) : Host.Outcome State Fault Refusal := .next (s.arriveIf (descOp d == 0x01) d)
/-- EMBED. -/
def execEmbed (d : Desc) (s : State) : Host.Outcome State Fault Refusal := .next (s.arriveIf (descOp d == 0x02) d)
/-- SEARCH. -/
def execSearch (d : Desc) (s : State) : Host.Outcome State Fault Refusal := .next (s.arriveIf (descOp d == 0x03) d)
/-- RERANK. -/
def execRerank (d : Desc) (s : State) : Host.Outcome State Fault Refusal := .next (s.arriveIf (descOp d == 0x04) d)
/-- GENERATE. -/
def execGenerate (d : Desc) (s : State) : Host.Outcome State Fault Refusal := .next (s.arriveIf (descOp d == 0x05) d)
/-- PAUSE. -/
def execPause (d : Desc) (s : State) : Host.Outcome State Fault Refusal := .next (s.arriveIf (descOp d == 0x06) d)
/-- RESUME. -/
def execResume (d : Desc) (s : State) : Host.Outcome State Fault Refusal := .next (s.arriveIf (descOp d == 0x07) d)
/-- CANCEL. -/
def execCancel (d : Desc) (s : State) : Host.Outcome State Fault Refusal := .next (s.arriveIf (descOp d == 0x08) d)
/-- INSERT. -/
def execInsert (d : Desc) (s : State) : Host.Outcome State Fault Refusal := .next (s.arriveIf (descOp d == 0x09) d)
/-- DELETE. -/
def execDelete (d : Desc) (s : State) : Host.Outcome State Fault Refusal := .next (s.arriveIf (descOp d == 0x0A) d)
/-- TRAIN_STEP. -/
def execTrainStep (d : Desc) (s : State) : Host.Outcome State Fault Refusal := .next (s.arriveIf (descOp d == 0x0B) d)
/-- LOAD of an object (R309). -/
def execLoad (d : Desc) (s : State) : Host.Outcome State Fault Refusal := .next (s.arriveIf (descOp d == 0x0C && !bitAt d.bytes 20 1) d)
/-- LOAD with IMAGE (R516). -/
def execLoadImage (d : Desc) (s : State) : Host.Outcome State Fault Refusal := .next (s.arriveIf (descOp d == 0x0C && bitAt d.bytes 20 1) d)
/-- EVICT of an object (R312). -/
def execEvict (d : Desc) (s : State) : Host.Outcome State Fault Refusal := .next (s.arriveIf (descOp d == 0x0D && !bitAt d.bytes 20 1) d)
/-- EVICT with IMAGE (R516). -/
def execEvictImage (d : Desc) (s : State) : Host.Outcome State Fault Refusal := .next (s.arriveIf (descOp d == 0x0D && bitAt d.bytes 20 1) d)
/-- MAINT build. -/
def execMergeBuild (d : Desc) (s : State) : Host.Outcome State Fault Refusal := .next (s.arriveIf (descOp d == 0x0E && descField d 16 1 == 1) d)
/-- MAINT install. -/
def execMergeInstall (d : Desc) (s : State) : Host.Outcome State Fault Refusal := .next (s.arriveIf (descOp d == 0x0E && descField d 16 1 == 2) d)
/-- MAINT abort. -/
def execMergeAbort (d : Desc) (s : State) : Host.Outcome State Fault Refusal := .next (s.arriveIf (descOp d == 0x0E && descField d 16 1 == 3) d)
/-- MAINT refresh, and a MAINT of no activity R378 lists. -/
def execHotRowRefresh (d : Desc) (s : State) : Host.Outcome State Fault Refusal :=
  .next (s.arriveIf (descOp d == 0x0E && (descField d 16 1 == 0 || decide (4 ≤ descField d 16 1))) d)
/-- SYNC ADD. -/
def execSyncAdd (d : Desc) (s : State) : Host.Outcome State Fault Refusal := .next (s.arriveIf (descOp d == 0x0F && descField d 16 1 == 0) d)
/-- SYNC SET. -/
def execSyncSet (d : Desc) (s : State) : Host.Outcome State Fault Refusal := .next (s.arriveIf (descOp d == 0x0F && descField d 16 1 == 1) d)
/-- SYNC READ, and a SYNC op above 2. -/
def execSyncRead (d : Desc) (s : State) : Host.Outcome State Fault Refusal := .next (s.arriveIf (descOp d == 0x0F && decide (2 ≤ descField d 16 1)) d)
/-- STATS. -/
def execStats (d : Desc) (s : State) : Host.Outcome State Fault Refusal := .next (s.arriveIf (descOp d == 0x10) d)
/-- STEP. -/
def execStep (d : Desc) (s : State) : Host.Outcome State Fault Refusal := .next (s.arriveIf (descOp d == 0x11 && !bitAt d.bytes 20 0) d)
/-- STEP with UNBIND. -/
def execStepUnbind (d : Desc) (s : State) : Host.Outcome State Fault Refusal := .next (s.arriveIf (descOp d == 0x11 && bitAt d.bytes 20 0) d)
/-- TOKENIZE. -/
def execTokenize (d : Desc) (s : State) : Host.Outcome State Fault Refusal := .next (s.arriveIf (descOp d == 0x12) d)
/-- DETOKENIZE. -/
def execDetokenize (d : Desc) (s : State) : Host.Outcome State Fault Refusal := .next (s.arriveIf (descOp d == 0x13) d)
/-- FENCE. -/
def execFence (d : Desc) (s : State) : Host.Outcome State Fault Refusal := .next (s.arriveIf (descOp d == 0x14) d)
/-- ATTEST. -/
def execAttest (d : Desc) (s : State) : Host.Outcome State Fault Refusal := .next (s.arriveIf (descOp d == 0x15) d)
/-- CHECKPOINT. -/
def execCheckpoint (d : Desc) (s : State) : Host.Outcome State Fault Refusal := .next (s.arriveIf (descOp d == 0x16) d)
/-- TEST SETPEND. -/
def execTestSetpend (d : Desc) (s : State) : Host.Outcome State Fault Refusal := .next (s.arriveIf (descOp d == 0x17 && descField d 16 1 == 0) d)
/-- TEST ECHO, and a TEST op above 1. -/
def execTestEcho (d : Desc) (s : State) : Host.Outcome State Fault Refusal := .next (s.arriveIf (descOp d == 0x17 && decide (1 ≤ descField d 16 1)) d)
/-- A descriptor with an opcode that R378 does not list. -/
def execUnknownOpcode (d : Desc) (s : State) : Host.Outcome State Fault Refusal := .next (s.arriveIf (descOp d == 0 || decide (0x18 ≤ descOp d)) d)

/-- DESCRIPTOR_PLACED: the oldest waiting descriptor of a ring is offered again (R25, R346, R348, R373). -/
def execDescriptorPlaced (c : CtxId) (r : BitVec 2) (s : State) : Host.Outcome State Fault Refusal :=
  .next (match (s.ctx c).waits r with
    | [] => s
    | (d, re) :: rest =>
      match (s.modCtx c (fun x => x.setWaits r rest)).tryDesc d re with
      | (s2, none) => s2
      | (s2, some e) => s2.modCtx c (fun x => x.setWaits r (e :: x.waits r)))

end Sys2Proof.Machine
end

