-- ==== Sys2Proof/Machine/Selyn.lean ====
section
/-! DEFINITION. Selyn (R390 to R419): training, link retry and credits, data streams with SEND and RECV, control parcels, tree formation, time in a
tree, loss and rejoining. -/

namespace Sys2Proof.Machine

/-- A U16 of a number. -/
def u16 (n : Nat) : U16 := BitVec.ofNat 16 n

namespace State

/-! ### The tree around this device (R393, R399) -/

/-- The indices of this device's subtree, as its children's ranges give them. -/
def subtree (s : State) : Nat × Nat :=
  let me := s.regs.treeIndex.toNat
  (me, (s.childPorts.filterMap (fun n => ((s.link n).child).map (fun r => r.2.1.toNat))).foldl max me)
/-- The top manager: no uplink. -/
def isTop (s : State) : Bool := s.uplink?.isNone
/-- A port of the tree: the uplink or a child's. -/
def treePort (s : State) (n : SelynPort) : Bool := s.uplink? == some n || s.childPorts.contains n
/-- The ranges that lie beyond a port (R413). -/
def beyond (s : State) (n : SelynPort) : List (U16 × U16) :=
  if s.uplink? = some n then
    let (lo, hi) := s.subtree
    (if lo = 0 then [] else [(0, u16 (lo - 1))]) ++
    (if hi + 1 < s.regs.treeSize.toNat then [(u16 (hi + 1), u16 (s.regs.treeSize.toNat - 1))] else [])
  else match (s.link n).child with
    | none => []
    | some (lo, hi, _) => [(lo, hi)]
/-- Whether a port leads to an index of a range under R401. -/
def leadsTo (s : State) (n : SelynPort) (r : U16 × U16) : Bool :=
  if s.uplink? = some n then
    let (lo, hi) := s.subtree
    decide (r.1.toNat < lo) || decide (hi < r.2.toNat)
  else match (s.link n).child with
    | none => false
    | some (lo, hi, _) => decide (r.1.toNat ≤ hi.toNat) && decide (lo.toNat ≤ r.2.toNat)

/-- A parcel that originates at a device handed to every port that is up but one (R405). -/
def spread (s : State) (but : Option SelynPort) (origin : Nat) (ty : Byte) (fields : Bytes) : State :=
  s.sendOnOf (selynPorts.filter (fun n => decide (some n ≠ but) && (s.link n).up)) origin ty fields

/-- A SEND of a context under way to an index of a range (R414). -/
def sendsTo (s : State) (c : CtxId) (r : U16 × U16) : Bool :=
  s.sends.any (fun x => decide (x.ctx = c) && decide (r.1.toNat ≤ x.dest.toNat) && decide (x.dest.toNat ≤ r.2.toNat))

/-- Contexts whose Saddle plan reaches an index of a range, and those with a SEND under way to one, end their step LINK_LOST and are broken; a step whose
Saddle was released before goes on (R414, R418). -/
def loseRange (s : State) (r : U16 × U16) : State :=
  s.ctxs.foldl (fun t e =>
    let c := BitVec.ofNat 8 e.1
    let planned := match e.2.image with
      | none => false
      | some i => s.treeImage i && (s.planEntries i).any (fun p => ((planUplink p).toList ++ planChildren p).any (fun n => s.leadsTo n r))
    if s.sendsTo c r then t.loseCtx c else if planned then t.affectCtx c else t) s

/-- A range lost: into the lost set, the event with reason 6, and the contexts it affects (R413, R414). -/
def addLost (s : State) (n : SelynPort) (r : U16 × U16) : State :=
  let s1 : State := { s with lostSet := s.lostSet ++ [r] }
  (s1.linkEvent n.val 6 (s1.widthOf n) r.1.toNat r.2.toNat 0 []).loseRange r

/-! ### Link state (R391, R398, R412, R413) -/

/-- A port starts to retrain; its replay buffer is kept (R398). -/
def retrain (s : State) (n : SelynPort) : State :=
  s.modLink n (fun l => { l with state := .training, lanes := 0, retrain := some s.now, stats := { l.stats with retrains := l.stats.retrains + 1 } })

/-- The slots of forwarded parcels that will never reach the next hop free at the ports they came in on. -/
def freeForwarded (s : State) (fs : List Frame) : State :=
  fs.foldl (fun s f => match f.src with | none => s | some m => s.modLink m (fun l => l.freed f.vc)) s

/-- A device whose uplink is lost runs free: it slews no more, and a time exchange under way is over (R410). -/
def runFree (s : State) : State := { s with clock := { s.clock with slew := 0, sentT1 := none } }
/-- Device time once no port owns the device: it runs at the reference clock's pace, unless it follows the tree (R389, R410). -/
def unowned (s : State) : State := if s.regs.treeFormed && s.uplink?.isSome then s else { s with clock := { s.clock with slew := 0 } }

/-- A port goes down: its buffers discarded, the event with reason 3, and for a tree port of a formed tree a loss that every other port hears of
(R398, R413); why: 1 link down, 2 far end reset. -/
def linkDown (s : State) (n : SelynPort) (why : Byte) : State :=
  let l := s.link n
  let s1 := (s.freeForwarded (l.replay ++ l.waitq)).modLink n (fun l =>
    { Link.init with enable := l.enable, x4 := l.x4, everUp := l.everUp, child := l.child, lostRange := l.lostRange, stats := l.stats })
  let s2 := (if s.uplink? = some n then s1.runFree else s1).linkEvent n.val 3 0 0 0 0 []
  if s2.treePort n && s2.regs.treeFormed then
    let rs := s2.beyond n
    let s3 := s2.modLink n (fun l => { l with lostRange := if s2.uplink? = some n then none else rs.head? })
    rs.foldl (fun t r => (t.addLost n r).spread (some n) s3.regs.treeIndex.toNat 0x08 (toLE 2 r.1.toNat ++ toLE 2 r.2.toNat ++ [why])) s3
  else s2.modLink n (fun l => { l with child := none })

/-- A port comes up at the width its lanes give; a frame kept goes out again (R391, R398), and the event tells the width (R412, log 62). -/
def linkUp (s : State) (n : SelynPort) : State :=
  let l := s.link n
  let wide := l.lanes == 8
  let again := l.replay.length
  let s1 := (s.modLink n (fun l => { l with
      state := if wide then .up8 else .up4, retrain := none, everUp := true, tries := List.replicate again 1
      sent := match l.replay.getLast? with | none => l.sent | some f => some (l.wire (if f.data then 1 else 2) (some f))
      stats := { l.stats with resent := l.stats.resent + again } })).pumpLink n
  if wide then s1.linkEvent n.val 1 8 0 0 0 []
  else if l.x4 then s1
  else s1.linkEvent n.val 2 4 0 0 0 []

/-! ### Forming the tree (R400) -/

/-- The children's ranges with this device's index cover a contiguous range that starts at it, disjointly (R400 step 2). -/
def childRangesOk (s : State) : Bool :=
  let rs := sortOn (fun (r : Nat × Nat) => r.1) (s.childPorts.filterMap (fun n => ((s.link n).child).map (fun r => (r.1.toNat, r.2.1.toNat))))
  let me := s.regs.treeIndex.toNat
  (rs.foldl (fun (a : Option Nat) r => match a with
    | none => none
    | some next => if r.1 = next ∧ r.1 ≤ r.2 then some (r.2 + 1) else none) (some (me + 1))).isSome

/-- This device's depth: 0, or one more than its children's largest. -/
def depth (s : State) : Nat :=
  let ds := s.childPorts.filterMap (fun n => ((s.link n).child).map (fun r => r.2.2.toNat))
  if s.childPorts.isEmpty then 0 else 1 + ds.foldl max 0

/-- FORMED taken or made: the tree is formed, and the children hear of it (R400). -/
def setFormed (s : State) : State :=
  let s1 : State := { s with regs := { s.regs with treeFormed := true }, clock := { s.clock with treeSet := false } }
  s1.sendOn s1.childPorts 0x07 (toLE 2 s.regs.treeId.toNat ++ toLE 2 s.regs.treeSize.toNat)

/-- The device's ROLLCALL on its uplink, once each time that comes up; while it retrains the parcel waits there (R398, R400 step 1). -/
def sendRollcall (s : State) (u : SelynPort) : State :=
  let (lo, hi) := s.subtree
  if ((s.link u).up || (s.link u).retrain.isSome) && !(s.link u).rolled then
    (s.modLink u (fun l => { l with rolled := true })).sendControl u 0x06 (toLE 2 lo ++ toLE 2 hi ++ [BitVec.ofNat 8 s.depth, 0] ++ toLE 2 s.regs.treeId.toNat ++ toLE 2 s.regs.treeSize.toNat)
  else s

/-- A formed device that has lost everything beyond its uplink (R413): it sends ROLLCALL again when that trains (R419). -/
def uplinkLost (s : State) : Bool :=
  match s.uplink? with
  | none => false
  | some u => s.regs.treeFormed && (s.beyond u).all (fun r => s.lostSet.contains r)

/-- Once every child has delivered a ROLLCALL the device checks the ranges and sends its own up, or on the top forms the tree (R400); a formed device
sends its own again when it rejoins (R419). -/
def tryRollcall (s : State) : State :=
  if s.childPorts.any (fun n => !(s.link n).up || (s.link n).child.isNone) then s
  else if s.regs.treeFormed then
    (match s.uplink? with | some u => if s.uplinkLost then s.sendRollcall u else s | none => s)
  else
    let (lo, hi) := s.subtree
    if !s.childRangesOk then s.linkEvent 0 5 (s.widthOf 0) 0 0 0 []
    else match s.uplink? with
      | some u => s.sendRollcall u
      | none =>
        if s.childPorts.isEmpty then s
        else if lo = 0 ∧ hi + 1 = s.regs.treeSize.toNat ∧ s.depth ≤ 3 then s.setFormed
        else s.linkEvent 0 5 (s.widthOf 0) 0 0 0 []

/-! ### Acks, credits and retry (R396, R397) -/

/-- A frame that the first hop has acknowledged: its SEND has one less to wait for and completes at the last, and a forwarded parcel's slot frees (R396,
R402). -/
def acked (s : State) (n : SelynPort) (f : Frame) : State :=
  let s1 := s.freeForwarded [f]
  if !f.data || f.src.isSome || f.stream == 0xFFFF then s1
  else
    let mine := fun (r : SendRun) => r.port == n && r.dest == f.dest && r.dctx == f.ctx && r.stream == f.stream
    match s1.sends.find? mine with
    | none => s1
    | some r =>
      if r.left ≤ 1 then (({ s1 with sends := s1.sends.eraseP mine } : State).lagSend r).finishCommand r.ctx r.src 0x0E
      else
        let i := s1.sends.findIdx mine
        { s1 with sends := s1.sends.set i { r with left := r.left - 1 } }

/-- An ack and returned credits taken: acknowledged frames leave the replay buffer, waiting frames go, Saddles that waited on the ack are tried. -/
def takeAck (s : State) (n : SelynPort) (ack : BitVec 12) (cvc : BitVec 2) (credits : Nat) : State :=
  let l := s.link n
  let k := l.ackedCount ack
  let s1 := s.modLink n (fun l => { l with replay := l.replay.drop k, tries := l.tries.drop k,
                                           credits := l.credits.set cvc.toNat (l.credit cvc + credits) })
  let s2 := (l.replay.take k).foldl (fun s f => s.acked n f) s1
  (s2.pumpLink n).trySaddles

/-- Every unacknowledged frame sent again; a frame sent eight times in a row makes the port retrain (R397, R398). -/
def resend (s : State) (n : SelynPort) : State :=
  let l := s.link n
  if !l.up || l.replay.isEmpty then s
  else if l.tries.any (fun k => decide (8 ≤ k)) then s.retrain n
  else s.modLink n (fun l => { l with tries := l.tries.map (· + 1), sent := l.replay.getLast?.map (fun f => l.wire (if f.data then 1 else 2) (some f)), stats := { l.stats with resent := l.stats.resent + l.replay.length } })

/-- A frame that fails: a replay request with ack at the last good sequence goes out at the first, and everything is discarded until the expected sequence
arrives (R397). -/
def badFrame (s : State) (n : SelynPort) : State :=
  if (s.link n).up then s.modLink n (fun l => if l.discarding then l else { l.emit 3 with discarding := true }) else s

/-- A data or control frame received: refused unless it is the next expected; else its ack and credits are taken and `f` handles it (R397). -/
def receive (s : State) (n : SelynPort) (h : FrameHdr) (f : State → State) : State :=
  if !(s.link n).up then s
  else if h.seq ≠ (s.link n).expected then s.badFrame n
  else
    let s1 := s.modLink n (fun l => { l with expected := l.expected + 1, discarding := false })
    f (s1.takeAck n h.ack h.cvc h.credits.toNat)

/-- A control parcel received: its slot frees at once. -/
def control (s : State) (n : SelynPort) (h : FrameHdr) (f : State → State) : State :=
  s.receive n h (fun s => f (s.modLink n (fun l => l.freed vcControl)))

/-! ### Data streams (R402, R403, R353) -/

/-- A data parcel for this device: taken by the posted RECV of its stream, unless earlier parcels of the stream are stored or its destination is not RESIDENT
(R311), or stored in the context's inbound region (R353, R403). -/
def deliver (s : State) (n : SelynPort) (h : FrameHdr) (payload : Bytes) : State :=
  let c := h.ctx
  let x := s.ctx c
  if x.broken || !(decide (x.state = .ready) || decide (x.state = .suspended)) then
    s.modLink n (fun l => { l with stats := { l.stats with discarded := l.stats.discarded + 1 } })
  else
    match s.recvFor? c h.stream with
    | some r =>
      if x.active && s.recvReady r h.last && !x.inbound.any (fun p => p.stream == h.stream) then s.recvTake r h.last payload
      else s.storeInbound c { stream := h.stream, last := h.last, payload := payload }
    | none => s.storeInbound c { stream := h.stream, last := h.last, payload := payload }

/-- A data frame accepted: forwarded under R401, delivered, or discarded on the top manager when its index lies past the tree. -/
def routeData (s : State) (n : SelynPort) (h : FrameHdr) (payload : Bytes) : State :=
  let bs := slice payload 0 256
  if h.dest.toNat = s.regs.treeIndex.toNat then (s.deliver n h bs).modLink n (fun l => l.freed h.vc)
  else if s.isTop && decide (s.regs.treeSize.toNat ≤ h.dest.toNat) then
    s.modLink n (fun l => ({ l with stats := { l.stats with discarded := l.stats.discarded + 1 } } : Link).freed h.vc)
  else match s.route h.dest.toNat with
    | none => s.modLink n (fun l => l.freed h.vc)
    | some m => s.giveFrame m { seq := 0, vc := h.vc, data := true, last := h.last, dest := h.dest, ctx := h.ctx, stream := h.stream, payload := bs,
                                src := some n, own := none }

/-! ### Device time in a tree (R389, R410) -/

/-- Device time brought toward a source: set forward in one step by the first exchange, stepped forward when more than 1 ms behind the source, else slewed;
never back (R389, R410). -/
def follow (s : State) (offset : Int) (first : Bool) : State :=
  let k := s.clock
  if 0 < offset ∧ (first ∨ 1000000 < offset) then
    { s with clock := { k with now := k.now + BitVec.ofInt 64 offset, slew := 0 } }
  else { s with clock := { k with slew := offset } }

/-- A source's record after an exchange (R387 TIME). -/
def sourceExchange (s : State) (i : Nat) (offset : Int) (roundTrip : U32) : State :=
  let x : TimeSource := { exchanged := true, last := s.now, offset := offset, roundTrip := roundTrip }
  { s with clock := { s.clock with sources := s.clock.sources.set i x } }

end State

/-! ### Engine 0x0E (R402) -/

/-- SEND: its parcels given to the port that leads to the destination, where they wait for credits (R58, R396); it completes when the first hop has
acknowledged them all. -/
def execSend (c : CtxId) (q : SeqId) (b : Bytes) (s : State) : Host.Outcome State Fault Refusal :=
  let dest := fld b 4 2
  let obj := fldObj b 12
  let off := fld b 16 8
  let len := fld b 24 4
  let vc := fld b 2 1
  .next (s.runCommand c (State.copyOf 0x0E q b)
    (mayIssue 0x0E q && blockOk 0x0E b && fld b 0 1 == 1 && zeroBits b 1 7 2 && (vc == 1 || vc == 2) && decide (dest ≤ 910) &&
      decide (fld b 6 2 ≤ 0xFFFE) && zeroBytes b 9 11 && decide (1 ≤ len) && decide (len ≤ 2 ^ 26) && zeroBytes b 28 31 &&
      s.accOk c [0, 1] ⟨obj, off, len, false⟩ && decide (dest ≠ s.regs.treeIndex.toNat))
    [⟨obj, off, len, false⟩] State.noPoisonRule
    (fun t =>
      let t1 := t.clearRunning (queueIx 0x0E q) c
      if t.isLost dest then t1.loseCtx c
      else match t.route dest with
        | none => (t1.dropOwn (ceilDiv len 256)).finishCommand c q 0x0E          -- no port leads there: the parcels are discarded (R401, log 58)
        | some n =>
          if t.isTop && decide (t.regs.treeSize.toNat ≤ dest) then (t1.dropOwn (ceilDiv len 256)).finishCommand c q 0x0E
          else
            let k := ceilDiv len 256
            let data := t.rd obj off len
            let run : SendRun := { ctx := c, src := q, object := obj, port := n, dest := BitVec.ofNat 10 dest, dctx := BitVec.ofNat 8 (fld b 8 1),
                                   stream := u16 (fld b 6 2), left := k, wait := none }
            let t2 : State := { t1 with sends := t1.sends ++ [run] }
            let t3 := (List.range k).foldl (fun u i => u.giveFrame n
              { seq := 0, vc := BitVec.ofNat 2 vc, data := true, last := decide (i + 1 = k), dest := run.dest, ctx := run.dctx, stream := run.stream,
                payload := slice data (256 * i) 256, src := none, own := some c }) t2
            if (t3.link n).waitq.any (State.sendFrame run) then
              { t3 with sends := t3.sends.map (fun r => if r = run then { r with wait := some t3.now } else r) }
            else t3)
    id)

/-- RECV: posted, taking the stored parcels of its stream first; while 1,024 are posted the link unit does not take it, a queue wait (R58, R402). -/
def execRecv (c : CtxId) (q : SeqId) (b : Bytes) (s : State) : Host.Outcome State Fault Refusal :=
  let obj := fldObj b 12
  let off := fld b 16 8
  let cap := fld b 24 4
  let robj := fldObj b 28
  .next (s.runCommand c (State.copyOf 0x0E q b)
    (mayIssue 0x0E q && blockOk 0x0E b && fld b 0 1 == 2 && zeroBytes b 1 5 && decide (fld b 6 2 ≤ 0xFFFE) && zeroBytes b 8 11 &&
      s.accOk c [0, 1] ⟨obj, off, cap, true⟩ && s.accOk c [0] ⟨robj, 0, 8, true⟩)
    [⟨obj, 0, 0, true⟩, ⟨robj, 0, 8, true⟩] State.noPoisonRule
    (fun t =>
        let r : Recv := { ctx := c, src := q, stream := u16 (fld b 6 2), object := obj, offset := BitVec.ofNat 64 off, capacity := BitVec.ofNat 32 cap,
                          robj := robj, since := t.now, taken := 0, received := 0, overflow := false }
        (({ t with recvs := t.recvs ++ [r] } : State).clearRunning (queueIx 0x0E q) c).deliverStored c)
    id (if 1024 ≤ s.recvs.length then some (2, 0x0E) else none))

/-! ### Ports (R391 to R398) -/

/-- The training record that this device sends on a port (R392). -/
def State.trainRecord (s : State) (n : SelynPort) : TrainRec :=
  { member := 0x0980, stepping := 0xB1, port := BitVec.ofNat 4 n.val, uplink := s.regs.treeUplink, children := s.regs.treeChildren, size := s.regs.treeSize,
    treeId := s.regs.treeId }

/-- LANES_LOCKED: `good` gives the lanes that pass equalization; the port takes x8 or an x4 group, a port that is down trains again, and a
retraining port comes up, any other sends its training record (R391, R392, R398). -/
def execLanesLocked (n : SelynPort) (good : Byte) (s : State) : Host.Outcome State Fault Refusal :=
  let l := s.link n
  let lanes := if !l.x4 && good == 0xFF then 8 else if good.toNat % 16 = 15 ∨ good.toNat / 16 = 15 then 4 else 0
  .next (if !(decide (l.state = .training) || (decide (l.state = .down) && l.enable && s.boot.locked)) then s
    else
      let s1 := s.modLink n (fun l => { l with lanes := lanes, state := .training })
      if lanes = 0 then (if l.retrain.isSome then s1 else s1.modLink n (fun l => { l with state := .down }))
      else if l.retrain.isSome && l.everUp then (if s1.childPorts.contains n then (s1.linkUp n).tryRollcall else s1.linkUp n)
      else s1.modLink n (fun l => { l with record := some (s.trainRecord n) }))

/-- TRAINING_RECORD: the far end's identity and tree fields bring the port up, or refuse it with the event (R392). -/
def execTrainingRecord (n : SelynPort) (tr : TrainRec) (s : State) : Host.Outcome State Fault Refusal :=
  let l := s.link n
  let up := s.uplink? == some n
  let down := s.childPorts.contains n
  let refuse := fun (reason : Nat) => (s.modLink n (fun l => { l with state := .down, lanes := 0 })).linkEvent n.val reason 0 0 0 0 []
  .next (if l.state ≠ .training ∨ l.lanes = 0 then s
    else if !s.treePort n then s.modLink n (fun l => { l with state := .down, lanes := 0 })
    else if tr.member ≠ 0x0980 ∨ tr.stepping ≠ 0xB1 then refuse 4
    else if tr.treeId ≠ s.regs.treeId ∨ tr.size ≠ s.regs.treeSize then refuse 5
    else if !((up && tr.children.getLsbD tr.port.toNat) || (down && tr.uplink == tr.port)) then refuse 5
    else (s.linkUp n).tryRollcall)

/-- LANE_LOCK_LOSS: the port retrains (R398). -/
def execLaneLockLoss (n : SelynPort) (s : State) : Host.Outcome State Fault Refusal :=
  .next (if (s.link n).up then s.retrain n else s)

/-- RETRAIN_TIMEOUT: a port that has not come up again goes down, and that is a link loss; `farLost`: at once, the far end having lost its training (R398,
R405). -/
def execRetrainTimeout (n : RetrainEnd) (s : State) : Host.Outcome State Fault Refusal :=
  .next (if (s.link n.port).state = .training ∧ (s.link n.port).retrain.isSome then s.linkDown n.port (if n.farLost then 2 else 1) else s)

/-- LINK_RETRY_TIMER: 4 µs without an ack moving; the unacknowledged frames go again (R397). -/
def execLinkRetryTimer (n : SelynPort) (s : State) : Host.Outcome State Fault Refusal := .next (s.resend n)

/-- REPLAY_REQUEST: frames up to ack are acknowledged, the rest go again (R397). -/
def execReplayRequest (n : SelynPort) (ack : BitVec 12) (s : State) : Host.Outcome State Fault Refusal :=
  .next (if (s.link n).up then (s.takeAck n ack 0 0).resend n else s)

/-- IDLE_FRAME: an ack and credits (R395, R396). -/
def execIdleFrame (n : SelynPort) (ack : BitVec 12) (cvc : BitVec 2) (credits : BitVec 6) (s : State) : Host.Outcome State Fault Refusal :=
  .next (if (s.link n).up then s.takeAck n ack cvc credits.toNat else s)

/-- FAILED_FRAME: a frame whose hcrc, parcel CRC or sequence fails (R397). -/
def execFailedFrame (n : SelynPort) (s : State) : Host.Outcome State Fault Refusal := .next (s.badFrame n)

/-- DATA_FRAME: accepted in order, then forwarded, delivered, stored or discarded (R397, R401, R403). -/
def execDataFrame (n : SelynPort) (h : FrameHdr) (payload : Bytes) (s : State) : Host.Outcome State Fault Refusal :=
  .next (s.receive n h (fun s => s.routeData n h payload))

/-! ### Saddle parcels (R408, R417, R60) -/

/-- The first entry of a context's plan that names a counter.  When several entries name it the spec does not say which of them an ARRIVE starts, with its
timeout: this model takes the first (DESIGN CHOICE, log 132). -/
def State.planIndex (s : State) (c : CtxId) (k : Nat) : Option Nat :=
  match (s.ctx c).image with | none => none | some i => (s.planEntries i).findIdx? (fun e => planCounter e == k)

/-- The event of a pass that is not the counter's (R408). -/
def State.passMismatch (s : State) (n : SelynPort) (pass : U32) (k : U16) (c : CtxId) : State :=
  s.linkEvent n.val 10 (s.widthOf n) 0 0 pass.toNat (toLE 2 k.toNat ++ [c])

/-- ARRIVE: a child's arrival held; the device sends its own or releases when nothing is missing (R408). -/
def execArrive (n : SelynPort) (h : FrameHdr) (a : ArriveRec) (s : State) : Host.Outcome State Fault Refusal :=
  let k := a.counter.toNat
  .next (s.control n h (fun s =>
    if a.pass ≠ s.passes.getD k 0 then s.passMismatch n a.pass a.counter a.ctx
    else
      let entry := (s.planIndex a.ctx k).getD 0
      let v := s.saddles.getD k (Saddle.open a.ctx (u16 entry))
      if v.ctx ≠ a.ctx then s
      else
        let v1 : Saddle := { v with arrives := v.arrives.set n.val a }
        let v2 := match s.planEntry? a.ctx v.entry.toNat with | none => v1 | some e => State.startTimer v1 e s.now
        ({ s with saddles := s.saddles.set k v2 } : State).trySaddle k))

/-- RELEASE: the counter raised, the sequencers released and RELEASE passed down (R408). -/
def execReleaseParcel (n : SelynPort) (h : FrameHdr) (pass : U32) (counter : U16) (c : CtxId) (s : State) : Host.Outcome State Fault Refusal :=
  let k := counter.toNat
  .next (s.control n h (fun s =>
    if pass ≠ s.passes.getD k 0 then s.passMismatch n pass counter c
    else match s.saddles.get? k with
      | some v =>
        match s.planEntry? v.ctx v.entry.toNat with
        | some e => s.releaseSaddle k v e
        | none => { s with passes := s.passes.set k (pass + 1), saddles := s.saddles.erase k }
      | none =>
        ({ s with passes := s.passes.set k (pass + 1) } : State).sendOn s.childPorts 0x02 (toLE 4 pass.toNat ++ toLE 2 k ++ [c])))

/-- ABANDON: passed up, and from the top down; the context's tree step ends LINK_LOST, and the event has reason 9 (R417; once a context, log 60). -/
def execAbandon (n : SelynPort) (h : FrameHdr) (pass : U32) (counter : U16) (c : CtxId) (device : U16) (why : Byte) (s : State) :
    Host.Outcome State Fault Refusal :=
  let fields := toLE 4 pass.toNat ++ toLE 2 counter.toNat ++ [c] ++ toLE 2 device.toNat ++ [why]
  .next (s.control n h (fun s =>
    let s1 := if s.uplink? = some n ∨ s.isTop then s.sendOnOf s.childPorts device.toNat 0x03 fields else s.sendUpOf device.toNat 0x03 fields
    if (s1.ctx c).broken || !s1.inTree c then s1
    else (s1.loseCtx c).linkEvent n.val 9 (s1.widthOf n) device.toNat 0 pass.toNat (toLE 2 counter.toNat ++ [c])))

/-- SADDLE_TIMEOUT: the event names the children still missing, once a Saddle, and the barrier keeps waiting (R60). -/
def execSaddleTimeout (counter : U16) (s : State) : Host.Outcome State Fault Refusal :=
  let k := counter.toNat
  .next (match s.saddles.get? k with
    | none => s
    | some v =>
      match s.planEntry? v.ctx v.entry.toNat with
      | none => s
      | some e =>
        if v.timer.isNone || v.reported || v.sent then s
        else
          let missing := (planChildren e).filter (fun n => (v.arrives.get? n.val).isNone)
          let ranges := (missing.take 8).map (fun n => match (s.link n).child with | none => [0, 0, 0, 0] | some (lo, hi, _) => toLE 2 lo.toNat ++ toLE 2 hi.toNat)
          let detail := toLE 4 (fld e 0 4) ++ toLE 2 k ++ [v.ctx, BitVec.ofNat 8 (flagNat v.arrived.isSome + 2 * flagNat (planUplink e).isNone)] ++
            toLE 2 ((missing.map (fun n => 2 ^ n.val)).sum) ++ [0, 0] ++ ranges.flatten
          ({ s with saddles := s.saddles.set k { v with reported := true } } : State).devEvent 0x06 detail)

/-! ### Time (R410) -/

/-- TIME_REQ: the parent answers with its receive and send times. -/
def execTimeReq (n : SelynPort) (h : FrameHdr) (t1 : U64) (s : State) : Host.Outcome State Fault Refusal :=
  .next (s.control n h (fun s => s.sendControl n 0x05 (toLE 8 t1.toNat ++ toLE 8 s.now.toNat ++ toLE 8 s.now.toNat)))

/-- TIME_RESP: the child computes the offset and, in a formed tree, applies it (R389, R410; halves rounded down, log 61). -/
def execTimeResp (n : SelynPort) (h : FrameHdr) (t1 t2 t3 : U64) (s : State) : Host.Outcome State Fault Refusal :=
  .next (s.control n h (fun s =>
    if s.uplink? ≠ some n ∨ s.clock.sentT1 ≠ some t1 then s
    else
      let t4 := s.now
      let offset : Int := (((t2.toNat : Int) - t1.toNat) + ((t3.toNat : Int) - t4.toNat)) / 2
      let trip : Int := ((t4.toNat : Int) - t1.toNat) - ((t3.toNat : Int) - t2.toNat)
      let s1 : State := { s with clock := { s.clock with sentT1 := none } }
      let s2 := s1.sourceExchange 2 offset (BitVec.ofInt 32 trip)
      if s2.regs.treeFormed && !s2.uplinkLost then
        let s3 := s2.follow offset (!s2.clock.treeSet)
        { s3 with clock := { s3.clock with treeSet := true } }
      else s2))

/-- TIME_EXCHANGE: LINK.TIME.interval has passed; a device below the top of a formed tree sends TIME_REQ on its uplink; one whose uplink was
lost runs free until FORMED (R410). -/
def execTimeExchange (s : State) : Host.Outcome State Fault Refusal :=
  .next (match s.uplink? with
    | none => s
    | some u =>
      if s.regs.treeFormed && (s.link u).up && !s.uplinkLost then
        ({ s with clock := { s.clock with sentT1 := some s.now } } : State).sendControl u 0x04 (toLE 8 s.now.toNat)
      else s)

/-! ### Formation, loss and rejoining (R400, R411, R413, R419) -/

/-- A range is back: whatever of it was lost is lost no more (R419). -/
def State.found (s : State) (r : U16 × U16) : State :=
  { s with lostSet := s.lostSet.filter (fun x => !(decide (r.1.toNat ≤ x.1.toNat) && decide (x.2.toNat ≤ r.2.toNat))) }

/-- A child's ROLLCALL on a port that lost a range: taken back when it names that range, else refused with reason 5 (R419). -/
def State.rejoinChild (s : State) (n : SelynPort) (r lost : U16 × U16) (depth : Byte) : State :=
  if r = lost then
    let s1 := (s.modLink n (fun l => { l with child := some (r.1, r.2, depth), lostRange := none }))
    let s2 := s1.found r
    let s3 := s2.sendControl n 0x07 (toLE 2 s.regs.treeId.toNat ++ toLE 2 s.regs.treeSize.toNat)
    ((s3.spread (some n) s3.regs.treeIndex.toNat 0x09 (toLE 2 r.1.toNat ++ toLE 2 r.2.toNat)).linkEvent n.val 7 (s3.widthOf n) r.1.toNat r.2.toNat 0 []).tryRollcall
  else s.linkEvent n.val 5 (s.widthOf n) 0 0 0 []

/-- ROLLCALL: a child's range and depth; the device goes on with forming the tree, or takes a lost range back (R400, R419). -/
def execRollcall (n : SelynPort) (h : FrameHdr) (low high : U16) (depth : Byte) (treeId size : U16) (s : State) : Host.Outcome State Fault Refusal :=
  .next (s.control n h (fun s =>
    if !s.childPorts.contains n then s
    else if treeId ≠ s.regs.treeId ∨ size ≠ s.regs.treeSize.setWidth 16 then s.linkEvent n.val 5 (s.widthOf n) 0 0 0 []
    else match (s.link n).lostRange with
      | some lost => s.rejoinChild n (low, high) lost depth
      | none => (s.modLink n (fun l => { l with child := some (low, high, depth) })).tryRollcall))

/-- FORMED: from the parent; the tree is formed here, what was lost through the uplink is back, and the children hear of it (R400, R419). -/
def execFormed (n : SelynPort) (h : FrameHdr) (treeId size : U16) (s : State) : Host.Outcome State Fault Refusal :=
  .next (s.control n h (fun s =>
    if s.uplink? ≠ some n ∨ treeId ≠ s.regs.treeId ∨ size ≠ s.regs.treeSize.setWidth 16 then s
    else
      let (lo, hi) := s.subtree
      ({ s with lostSet := s.lostSet.filter (fun r => decide (lo ≤ r.1.toNat) && decide (r.2.toNat ≤ hi)) } : State).setFormed))

/-- LOST: the range is lost here too, and the other ports hear of it (R413). -/
def execLost (n : SelynPort) (h : FrameHdr) (low : RangeFrom) (high : U16) (why : Byte) (s : State) : Host.Outcome State Fault Refusal :=
  .next (s.control n h (fun s =>
    (s.spread (some n) low.origin.toNat 0x08 (toLE 2 low.low.toNat ++ toLE 2 high.toNat ++ [why])).addLost n (low.low, high)))

/-- REJOIN: the range is back, and the other ports hear of it (R419). -/
def execRejoin (n : SelynPort) (h : FrameHdr) (low : RangeFrom) (high : U16) (s : State) : Host.Outcome State Fault Refusal :=
  .next (s.control n h (fun s => (s.found (low.low, high)).spread (some n) low.origin.toNat 0x09 (toLE 2 low.low.toNat ++ toLE 2 high.toNat)))

/-- RELAY: an event of a device below, passed up; the top manager writes it to both of its ports (R411, R412). -/
def execRelay (n : SelynPort) (h : FrameHdr) (origin : U16) (code : Byte) (seq : U32) (detail : Bytes) (s : State) : Host.Outcome State Fault Refusal :=
  .next (s.control n h (fun s =>
    match s.uplink? with
    | some u => s.sendControlOf u origin.toNat 0x0A ([code, 0, 0, 0] ++ toLE 4 seq.toNat ++ slice detail 0 44)
    | none => s.linkEvent n.val 8 (s.widthOf n) origin.toNat code.toNat seq.toNat (slice detail 0 32)))

end Sys2Proof.Machine
end

