-- ==== Sys2Proof/Machine/Suspend.lean ====
section
/-! DEFINITION. What the arbiters of the engine queues grant, engine pre-emption, and a context set aside and brought back (R336 to R344, R349 to
R355). -/

namespace Sys2Proof.Machine

/-! ### Candidates (R336) -/

/-- The oldest entry of each stream of a list in queue order. -/
def oldest (l : List QEntry) : List QEntry :=
  l.foldl (fun acc e => if acc.any (fun x => decide (x.ctx = e.ctx) && decide (x.src = e.src)) then acc else acc ++ [e]) []

/-- A requester of a command arbiter: context and sequencer. -/
def QEntry.who (e : QEntry) : Nat := 16 * e.ctx.toNat + e.src.num

/-- A queue with an entry started: consumed, P advanced over consumed entries at the front, and running (R337). -/
def Queue.begin (u : Queue) (e : QEntry) (depth : Nat) : Queue :=
  if u.saved.contains e then { u with saved := u.saved.erase e, running := some { e with consumed := true } }
  else
    let i := u.entries.findIdx (fun x => decide (x = e))
    ({ u with entries := u.entries.mapIdx (fun j x => if j = i then { x with consumed := true } else x), running := some { e with consumed := true } } : Queue).reap depth

namespace State

/-- The first object that a command names and that it must wait for: for one that has not started, every object that is not RESIDENT or that a LOAD
relocates, a shard that it names by number among them (R310, R311, R336); for one that goes on, every object that is not there (R312). -/
def absentObject (s : State) (engine : Nat) (e : QEntry) : Option U32 :=
  let away := (blockNames engine e.b).find? (fun id => match s.obj? id with
    | none => false
    | some x => if e.consumed then !x.present else decide (x.state ≠ .resident))
  if away.isSome || e.consumed then away
  else (s.entryUses engine e.b).find? (fun id => s.loads.any (fun r => !r.isImage && decide (r.object = id) && r.moveTo.isSome))
/-- Every object that a command names is there for it (R311, R336). -/
def objectsHere (s : State) (engine : Nat) (e : QEntry) : Bool := (s.absentObject engine e).isNone

/-- A command that waits for a poisoned parcel to be re-provisioned: its request is withdrawn until then (R326, R343). -/
def stalledEntry (s : State) (i : Nat) (e : QEntry) : Bool := s.objs.any (fun x => x.2.stalled.any (fun r => decide (r.1 = .command e.ctx i e.src)))
/-- The oldest entries of a queue's streams that are ready, of contexts that run (R336). -/
def heads (s : State) (i : Nat) : List QEntry :=
  (oldest (s.queue i).waiting).filter (fun e => e.ready && (s.ctx e.ctx).active && !s.stalledEntry i e)
/-- Whether an entry is a RECV that the link unit does not take, 1,024 being posted (R402). -/
def postsFull (s : State) (i : Nat) (e : QEntry) : Bool :=
  decide (queueEngine i = 0x0E ∧ fld e.b 0 1 = 2 ∧ 1024 ≤ s.recvs.length)
/-- The candidates of a queue: those whose objects are all there, of DMA's those whose channel is not halted, and no RECV while 1,024 are posted (R327,
R336, R402). -/
def candidates (s : State) (i : Nat) : List QEntry :=
  (s.heads i).filter (fun e => s.objectsHere (queueEngine i) e && (queueEngine i != 0x0C || s.channelOpen e.ctx) && !s.postsFull i e)
/-- Entries held back: by an object that is absent, each a wait for a token of the first one; DMA commands by a halted channel and RECVs by 1,024 posted,
queue waits (R58, R311, R327, R336, R402). -/
def noteHeld (s : State) (i : Nat) : State :=
  (s.heads i).foldl (fun t e =>
    if queueEngine i = 0x0C ∧ !s.channelOpen e.ctx then t.noteWait e.ctx [(i, e.src, e.b)] 2 0x0C
    else if s.postsFull i e then t.noteWait e.ctx [(i, e.src, e.b)] 2 0x0E
    else match s.absentObject (queueEngine i) e with
    | none => t
    | some id => t.noteWait e.ctx [(i, e.src, e.b)] 0 id.toNat) s
/-- Candidates that wait at a command arbiter: each an arbiter wait, unless its command waits on something already (R58, R344). -/
def arbiterHolds (s : State) (i : Nat) (es : List QEntry) : State := es.foldl (fun t e => t.noteWait e.ctx [(i, e.src, e.b)] 3 0) s
/-- The wait of an entry that its arbiter grants ends: it is counted once, under what its command waited on first (R58, R344). -/
def arbiterWait (s : State) (i : Nat) (e : QEntry) : State := s.endWait e.ctx [(i, e.src, e.b)]
/-- A copy waits for a token of its engine's own path while a partner copy is not there (R58, R93, R336; log 147). -/
def partnerWait (s : State) (i : Nat) (e : QEntry) : State := s.noteWait e.ctx [(i, e.src, e.b)] 0 (internalPath (queueEngine i))

/-- The Steppe's candidates: contexts whose two queues both hold their copy (R93, R336). -/
def steppeCandidates (s : State) : List (QEntry × QEntry) :=
  (s.candidates 0).filterMap (fun w => ((s.candidates 1).find? (fun e => decide (e.ctx = w.ctx))).map (fun e => (w, e)))

/-- A candidate as a request to its arbiter (R339). -/
def request (s : State) (e : QEntry) : ArbReq := { who := e.who, base := BitVec.ofNat 4 (s.ctx e.ctx).base, urgent := false, work := some (e.ctx, e.src), leaves := false }

/-- An engine starts an entry of its queue. -/
def beginEntry (s : State) (i : Nat) (e : QEntry) : State := s.modQueue i (fun u => u.begin e (Config.queueDepth (queueEngine i)))

/-- The candidates of one die queue whose partner the other die queue does not offer wait for it (R93). -/
def lonely (s : State) (i j : Nat) : State :=
  ((s.candidates i).filter (fun e => !(s.candidates j).any (fun p => decide (p.ctx = e.ctx)))).foldl (fun t e => t.partnerWait i e) s

/-- The Steppe issue port's round (R338): the requests wait while a command runs or a save is under way (R124, R342). -/
def grantSteppe (s0 : State) : State :=
  let s := (((s0.noteHeld 0).noteHeld 1).lonely 0 1).lonely 1 0
  let cs := s.steppeCandidates
  let holds := fun (t : State) (ps : List (QEntry × QEntry)) => (t.arbiterHolds 0 (ps.map (fun p => p.1))).arbiterHolds 1 (ps.map (fun p => p.2))
  if (s.queue 0).running.isSome || (s.queue 1).running.isSome || s.saving.isSome then
    holds (s.holdAll 96 (cs.map (fun p => s.request p.1))) cs
  else
    match s.arbitrate 96 (cs.map (fun p => s.request p.1)) with
    | (none, s1) => s1
    | (some r, s1) =>
      match cs.find? (fun p => p.1.who == r.who) with
      | none => s1
      | some (w, e) =>
        ((((holds s1 (cs.erase (w, e))).arbiterWait 0 w).arbiterWait 1 e).beginEntry 0 w).beginEntry 1 e

/-- The waits of one round of a memory arbiter that serve a sequencer's command: the winner's is over and counted under the arbiter cause, the others' go on
(R58, R344). -/
def countRound (s : State) (arbiter : Nat) (reqs : List ArbReq) (win : Option ArbReq) : State :=
  reqs.foldl (fun t r => match r.work with
    | none => t
    | some (c, q) => t.modCtx c (fun x => x.modSeq q (fun v =>
        if win = some r then v.cmdGo (16 + arbiter) t.now else v.cmdWait (16 + arbiter) 3 0 t.now))) s

/-- A copy of a SEARCH that an engine has started while a partner copy has not waits for it (R203). -/
def searchWait (s : State) (i : Nat) (e : QEntry) : State :=
  if 2 ≤ queueEngine i ∧ queueEngine i ≤ 5 ∧ fld e.b 0 1 = 1 then
    let graph := (Search.of e.b).graph
    if s.started e.ctx (State.searchCopies graph ((searchIssuers graph).map (fun _ => e.b))) then s else s.partnerWait i e
  else s

/-- A queue's round (R338): the requests wait while its engine runs a command (R342). -/
def grantQueue (s0 : State) (arbiter i : Nat) : State :=
  let s := s0.noteHeld i
  let cs := s.candidates i
  if (s.queue i).running.isSome then (s.holdAll arbiter (cs.map s.request)).arbiterHolds i cs
  else
    match s.arbitrate arbiter (cs.map s.request) with
    | (none, s1) => s1
    | (some r, s1) =>
      match cs.find? (fun e => e.who == r.who) with
      | none => s1
      | some e => (((s1.arbiterHolds i (cs.erase e)).arbiterWait i e).beginEntry i e).searchWait i e

end State

/-- ARBITER_GRANT: one round (R338 to R342).  The requests of a memory channel's arbiter are given; those of an engine's queue are its candidates, and
the one granted starts (R336, R337); those of a Selyn egress are the frames that wait there, and the one granted is sent; a lock's hand-over is part of its RELEASE (R347).  Arbiters are numbered as R387's ARB class numbers them. -/
def execArbiterGrant (arbiter : Nat) (reqs : List ArbReq) (s : State) : Host.Outcome State Fault Refusal :=
  .next (if arbiter < 96 then let r := s.arbitrate arbiter reqs; r.2.countRound arbiter reqs r.1
    else if arbiter = 96 then s.grantSteppe
    else if arbiter = 97 then s.grantQueue 97 2
    else if arbiter = 98 then s.grantQueue 98 3
    else if arbiter ≤ 112 then s.grantQueue arbiter (arbiter - 95)
    else match State.selynPorts.find? (fun n => decide (113 + n.val = arbiter)) with | some n => s.egressRound n | none => s)

/-! ### Engine pre-emption (R349, R350) -/

/-- The engines that have a pre-emption point inside a command: not the detokenizer pipes, the grammar unit or the maintenance lane (R349). -/
def preemptible (engine : Nat) : Bool := engine != 0x08 && engine != 0x09 && engine != 0x0D

namespace State

/-- A context's save area is there: what reaches it before its LOAD waits (R311, R332). -/
def saveHere (s : State) (c : CtxId) : Bool := s.resident [⟨(s.ctx c).save, 0, 0, false⟩]
/-- Bytes of a save area before its reserved part (R332). -/
def saveUsed : Nat := 0x19E00000

/-- The highest base among the candidates that would take a queue's engine. -/
def rivalBase (s : State) (i : Nat) : Nat :=
  let cs := if i < 2 then s.steppeCandidates.map Prod.fst else s.candidates i
  (cs.map (fun e => (s.ctx e.ctx).base)).foldl max 0

end State

/-- ENGINE_PREEMPTION: the running command is set aside for a candidate of higher base priority that has been ready for the delay; 0xFFFFFFFF disables it.
The Steppe saves its owner's state before it takes another command (R124, R350); elsewhere a save area that is not RESIDENT keeps the command where it
is (R332). -/
def execEnginePreemption (queue : Nat) (s : State) : Host.Outcome State Fault Refusal :=
  .next (match (s.queue queue).running with
    | none => s
    | some e =>
      if s.regs.preempt = 0xFFFFFFFF || !preemptible (queueEngine queue) || decide (s.rivalBase queue ≤ (s.ctx e.ctx).base) then s
      else if queue < 2 then { ((s.setAside 0).setAside 1) with saving := some e.ctx }
      else if !s.saveHere e.ctx then s
      else (s.setAside queue).noteSaved e.ctx)

/-- STEPPE_SAVE_COMPLETE: the owner's slots and entries lie in its save area, and the array takes the next context's command (R123, R124). -/
def execSteppeSaveComplete (s : State) : Host.Outcome State Fault Refusal :=
  .next (match s.saving with
    | none => s
    | some c =>
      if !s.saveHere c then s
      else (({ (s.swapOutAll c) with saving := none } : State).noteSaved c).grantSteppe)

/-! ### Suspension and resume (R351, R352) -/

namespace State

/-- The context's commands leave a queue for the save area, in stream order, the one that ran first (R351 steps 2 and 3). -/
def pullQueue (c : CtxId) (depth : Nat) (u : Queue) : Queue :=
  let ran := u.running.toList.filter (fun e => e.ctx == c)
  let mine := u.entries.filter (fun e => e.ctx == c && !e.consumed)
  let u1 : Queue := { u with
    running := u.running.filter (fun e => e.ctx != c)
    saved := ran ++ u.saved ++ mine
    entries := u.entries.map (fun e => if e.ctx = c then { e with consumed := true } else e) }
  u1.reap depth

/-- Every command of a context that is running or queued moved to its save area. -/
def pullQueues (s : State) (c : CtxId) : State :=
  { s with queues := s.queues.map (fun e => (e.1, pullQueue c (Config.queueDepth (queueEngine e.1)) e.2))
           saving := s.saving.filter (fun d => d != c) }

/-- A suspension that stands: its host's request, Dusk, or its lost port (R351). -/
def standing (s : State) (c : CtxId) : Bool := (s.ctx c).suspendReq || (s.ctx c).draining || (s.port (s.ctx c).port).lost

/-- A context begins to be suspended: its sequencers stop in their waits, its requests are withdrawn, a lock's ACQUIREs among them, and its parcels that no
egress has granted (R343, R347, R351, R353). -/
def beginSuspend (s : State) (c : CtxId) : State :=
  if (s.ctx c).state = .ready then (((s.withdrawReqs c).withdrawFrames c).modCtx c (fun x => { x with suspending := true, resuming := false, episode := none })).inherit else s

/-- A suspended context begins to be restored when no suspension of it stands (R352). -/
def beginResume (s : State) (c : CtxId) : State :=
  if (s.ctx c).state = .suspended ∧ !s.standing c then s.modCtx c (fun x => { x with resuming := true }) else s

/-- A context's save is complete: SUSPENDED, with its save area sound and holding everything (R332, R351); one that nothing holds, or that a higher
waiter raises, begins its restore (R352, R355). -/
def suspended (s : State) (c : CtxId) : State :=
  let s1 := (((s.pullQueues c).swapOutAll c).noteSaved c).modObj (s.ctx c).save (fun o =>
    { o with poisoned := o.poisoned.filter (fun k => decide (saveUsed ≤ 256 * k)) })
  let s2 := s1.modCtx c (fun x => { x with state := .suspended, suspending := false, resuming := false, episode := none })
  (s2.beginResume c).inherit

end State

namespace State

/-- A waiting instruction runs again at resume (R351): a WAIT or WAITDONE that is met proceeds. -/
def rewait (s : State) (v : Seq) : Seq :=
  match v.status with
  | .counter k th =>
    let w := s.counter k.toNat
    if !isLock w && decide (th.toNat ≤ w.toNat) then (v.waited 4 s.now).next else v
  | .done e _ => doneRetest v e.toNat
  | _ => v

/-- A waiting ACQUIRE runs again at resume: it takes a free lock, or ends with the step when the holder is FAULTED or DRAINED (R351, R355). -/
def reacquire (s : State) (c : CtxId) (q : SeqId) : State :=
  match ((s.ctx c).seq q).status with
  | .lock k =>
    let w := s.counter k.toNat
    let h := (s.ctx (lockCtx w)).state
    if w = 0 then (s.setCounter k.toNat (lockWord c q)).modCtx c (fun x => x.modSeq q (fun v => (v.waited 4 s.now).next))
    else if isLock w && (decide (h = .faulted) || decide (h = .drained)) then s.stopStep c .inheritTimeout
    else s
  | _ => s

/-- A context's restore is complete: stored parcels delivered, its own parcels back at their egresses, sequencers restarted; a request that came meanwhile suspends it again, unless an
inheritance episode runs it (R352, R353, R355). -/
def restored (s : State) (c : CtxId) : State :=
  let s1 := s.modCtx c (fun x => { x with state := .ready, resuming := false, suspending := false })
  let s2 := ((s1.deliverStored c).returnFrames c).modCtx c (fun x => x.modSeqs s1.rewait)
  let s3 := ((SeqId.all.foldl (fun t q => t.reacquire c q) s2).trySaddles).inherit
  if s3.standing c && (s3.ctx c).episode.isNone then s3.beginSuspend c else s3

end State

/-- CONTEXT_RESTORE_COMPLETE: READY again (R352), or faulted with its saved state lost when the save area is uncorrectable (R325); it waits for the save
area's LOAD (R332). -/
def execContextRestoreComplete (c : CtxId) (s : State) : Host.Outcome State Fault Refusal :=
  .next (if !(s.ctx c).resuming || decide ((s.ctx c).state ≠ .suspended) || !s.saveHere c then s
    else if (s.poisonedAccess [⟨(s.ctx c).save, 0, State.saveUsed, false⟩]).isSome then s.faultWith c .uncorrectable
    else s.restored c)

/-- INHERITANCE_BUDGET_EXPIRY: the holder is suspended again and keeps its locks; every ACQUIRE that waits on the episode's lock from a context of higher base
than the holder's own ends with INHERIT_TIMEOUT (R355). -/
def execInheritanceBudgetExpiry (c : CtxId) (s : State) : Host.Outcome State Fault Refusal :=
  .next (match (s.ctx c).episode with
    | none => s
    | some ep =>
      let s1 := s.modCtx c (fun x => { x with episode := none, suspending := decide (x.state = .ready), resuming := false })
      s1.endWaiters c (fun k => decide (k = ep.counter.toNat)) (fun b => decide ((s.ctx c).prio.toNat < b)))

end Sys2Proof.Machine
end

