-- ==== Sys2Proof/Machine/Dusk.lean ====
section
/-! DEFINITION. Dusk for a context, device Dusk and the loss of a host port (R331, R351, R360, R367, R417, R452 to R454). -/

namespace Sys2Proof.Machine
namespace State

/-! ### Dusk for a context (R452) -/

/-- One fetched and not expanded descriptor completes CANCELLED with no other effect, when the ring has room for its entry (R373, R452 step 1). -/
def cancelOne (s : State) (e : Desc × Bool) : State :=
  let d := e.1
  if (s.ctx d.ctx).cqRoom || (s.port (s.ctx d.ctx).port).lost then
    ((s.modCtx d.ctx (fun x => x.setWaits d.ring ((x.waits d.ring).erase e))).take d e.2).completeUnsignalled d (Done.of .cancelled 0)
  else s

/-- The fetched and not expanded descriptors of a context complete CANCELLED, ring by ring. -/
def cancelWaiting (s : State) (c : CtxId) : State :=
  ((s.ctx c).waiting.map Prod.snd).flatten.foldl cancelOne s

/-- A LOAD or EVICT of a context that is not over. -/
def moving (s : State) (c : CtxId) : Bool :=
  s.loads.any (fun r => decide (r.d.ctx = c)) || s.evicts.any (fun d => decide (d.ctx = c)) || s.objLine.any (fun d => decide (d.ctx = c))

/-- A draining context whose finish is over (R452 step 2): nothing fetched, no LOAD or EVICT of it, and its step finished, or the context set aside or
faulted. -/
def finished (s : State) (c : CtxId) : Bool :=
  let x := s.ctx c
  x.draining && x.waiting.isEmpty && !s.moving c &&
    match x.state with
    | .ready => !x.suspending && x.run.isNone && x.finishing.isEmpty
    | .suspended | .faulted => true
    | _ => false

/-- The step in progress completes CANCELLED, and those that wait behind it with no effect; one whose programs have halted past its local step boundary
completes with its own code; a bind or unbind that waited takes effect in a READY context (R452 step 2). -/
def cancelSteps (s : State) (c : CtxId) : State :=
  let ready := decide ((s.ctx c).state = .ready)
  let waits := (s.ctx c).steps
  let s1 := s.modCtx c (fun x => { x with finishing := x.finishing.map (fun r => if r.passed then r else { r with codes := .cancelled :: r.codes }), steps := [] })
  waits.foldl (fun t d =>
    if ready && descOp d == 0x11 then t.stepEffect d else t.completeUnsignalled d (Done.of .cancelled 0)) (s1.stopStep c .cancelled)

/-- Every request of a context ends CANCELLED with its stream discarded; its slot becomes FREE, and its pages return, at the next boundary of a context
that has it (R452 step 3); what waits in the serving unit completes, and a hand-off to it is refused. -/
def flushSlots (s : State) (c : CtxId) : State :=
  let s1 := (s.liveSlots c).foldl (fun t k => if t.slotState k = .ended then t else t.endSlot c k .cancelled 0 true) s
  let v := (s1.ctx c).serving
  let s2 := s1.modServing c (fun _ => Serving.init)
  let s3 := (v.pauses.map Pausing.d ++ v.resumes.map Resuming.d ++ v.cancels).foldl (fun t d => t.complete d (Done.of .cancelled 0)) s2
  (s3.ctx c).handoffs.foldl (fun t h => t.settleHandoff c h (some .protocol)) s3

/-- A draining context is flushed and reads DRAINED (R452 steps 2 to 4): its saved state discarded, its locks held, the waiters on them ended, its open
Saddle abandoned, its activities that have not begun dropped (R355, R360, R417). -/
def drain (s : State) (c : CtxId) : State :=
  let s1 := (s.cancelSteps c).flushSlots c
  let s2 : State := { s1 with swapped := s1.swapped.filter (fun e => e.1 != c) }
  let s3 := s2.modCtx c (fun x => { x with state := .drained, draining := false, suspending := false, resuming := false, episode := none,
                                           inbound := [], contribs := [] })
  let s4 := s3.endWaiters c (fun _ => true) (fun _ => true)
  let s5 := if s4.inTree c then s4.abandonOpen c 1 else s4
  (s5.dropActs c).inherit

/-- A draining context goes on as far as it can. -/
def drainOn (s : State) (c : CtxId) : State :=
  if (s.ctx c).draining then
    let s1 := s.cancelWaiting c
    if s1.finished c then s1.drain c else s1
  else s

/-- Dusk for a context begins (R452), for one that is READY, SUSPENDED or FAULTED. -/
def beginDusk (s : State) (c : CtxId) : State :=
  let x := s.ctx c
  if (x.state = .ready ∨ x.state = .suspended ∨ x.state = .faulted) ∧ !x.draining then
    (s.modCtx c (fun x => { x with draining := true, resuming := false, episode := if x.state = .ready then x.episode else none })).drainOn c
  else s

/-! ### Loss of a host port (R367) -/

/-- A lost port whose contexts are all DRAINED is reported on the other port (R367, R385). -/
def reportLoss (s : State) (p : HostPort) : State :=
  match (s.port p).report with
  | none => s
  | some cs =>
    if cs.any (fun c => (s.ctx c).draining) then s
    else
      let bitmap := toLE 32 ((cs.dedup.map (fun c => 2 ^ c.toNat)).sum)
      (s.modPort p (fun t => { t with report := none })).attnOn (1 - p) 0x03
        ([BitVec.ofNat 8 (0xF0 + p.toNat), 0, 0, 0, 0, 0, 0, 0] ++ bitmap)

/-- Every draining context goes on, and a lost port is reported when they are DRAINED. -/
def drainAll (s : State) : State :=
  ((s.ctxs.foldl (fun t e => t.drainOn (BitVec.ofNat 8 e.1)) s).reportLoss 0).reportLoss 1

/-- The LOADs that read from the memory of a lost port end UNCORRECTABLE, those that waited behind them too (R367). -/
def endLoads (s : State) (p : HostPort) : State :=
  (List.range (s.loads.length + s.objLine.length)).foldl (fun t _ =>
    match t.loads.find? (fun r => decide ((t.ctx r.d.ctx).port = p)) with | none => t | some r => t.loadHalted r) s

/-- A port is lost: polling and messages stop, its DMA ends, its contexts are suspended and drained, an owner's ownership ends, and the other port hears of it
(R367). -/
def losePort (s : State) (p : HostPort) : State :=
  if (s.port p).lost then s
  else
    let cs := ((s.ctxsOf p).filter (fun e => decide (e.2.state = .ready) || decide (e.2.state = .suspended) || decide (e.2.state = .faulted))).map Prod.fst
    let s1 := s.modPort p (fun t => { t with lost := true, linkUp := false, idle := false, report := some cs
                                             vectors := t.vectors.map (fun e => (e.1, { e.2 with n := 0, first := none, pending := false })) })
    let s2 := if s1.owner? = some p then ({ s1 with regs := { s1.regs with owner := 3 } } : State).unowned else s1
    let s3 := cs.foldl (fun t c => t.beginSuspend c) (s2.endLoads p)
    (cs.foldl (fun t c => t.beginDusk c) s3).drainAll

/-! ### Device Dusk (R453) -/

/-- No activity runs or waits in the lane, and no checkpoint but those of firmware's own request (R453). -/
def laneQuiet (s : State) : Bool := s.acts.isEmpty && s.vesper.running.isNone
/-- Every context DRAINED or IDLE (R453). -/
def allAtRest (s : State) : Bool := s.ctxs.all (fun e => decide (e.2.state = .drained) || decide (e.2.state = .idle))

/-- Activities received and not begun, dropped and reported whatever context began them (R360, R453). -/
def dropAllActs (s : State) : State :=
  ((s.acts.filterMap (fun a => a.ctx?)).dedup).foldl (fun t c => t.dropActs c) s

/-- The builds in progress stop, as an abort would stop them (R359, R453). -/
def stopBuilds (s : State) : State :=
  (s.acts.filter (fun a => a.code == 1 && a.begun)).foldl (fun t a =>
    (match t.shardOf? a with | none => t | some id => t.cancelMerge a.shard id).actFinish a .busy 0) s

end State

/-- CONTEXT_SAVE_COMPLETE (R351 step 4); it waits for the save area's LOAD (R332); a draining context is then flushed (R452). -/
def execContextSaveComplete (c : CtxId) (s : State) : Host.Outcome State Fault Refusal :=
  .next (if !(s.ctx c).suspending || decide ((s.ctx c).state ≠ .ready) || !s.saveHere c then s else (s.suspended c).drainAll)

/-- GRACE_EXPIRY: a step that has not reached its local step boundary is suspended, to be cancelled (R452). -/
def execGraceExpiry (c : CtxId) (s : State) : Host.Outcome State Fault Refusal :=
  .next (let x := s.ctx c
    if !x.draining || x.state != .ready || x.suspending then s
    else match x.run with
      | some r => if r.passed then s else s.beginSuspend c
      | none => s.drainAll)

namespace State

/-- Time passes on an empty queue: what drains goes on, and device time moves (log 5). -/
def idle (s : State) : State := s.drainAll.tick

end State
end Sys2Proof.Machine
end

