-- ==== Sys2Proof/Machine/HostPort.lean ====
section
/-! DEFINITION. The host ports: polling and fetching (R369 to R373, R487), PTM and device time (R389), MSI-X moderation (R383), and how a port is lost and
comes back (R362, R367, R368, R480). -/

namespace Sys2Proof.Machine

/-- The class code of each port's one function: processing accelerator (R361). -/
def classCode : BitVec 24 := 0x120000

/-! ### Polling (R370) -/

/-- A context whose rings are polled: READY, SUSPENDED, or IDLE with a ring set up, and not at Dusk (R370, R452). -/
def Ctx.polled (x : Ctx) : Bool :=
  !x.draining && match x.state with
    | .ready | .suspended => true
    | .idle => x.sq.any (fun e => e.2.log2size != 0)
    | _ => false

/-- A context whose completion head is read: an asserted source, or a ring with no room (R370, R373). -/
def Ctx.headWanted (x : Ctx) : Bool := x.cqAsserted || (x.cqSize != 0 && !x.cqRoom)

namespace State

/-- The idle page read: every vector's byte; zero when the page is not set (R369, R383, R487). -/
def readIdle (s : State) (p : HostPort) : State :=
  let a := (s.port p).idlepage.toNat
  let bs := if a = 0 then List.replicate 64 0 else s.hostRd p a 64
  s.modPort p (fun t => { t with vectors := allVectors.foldl (fun vs v =>
    let b : Byte := (bs[v.toNat]?).getD 0
    let e := vs.getD v.toNat Vector383.init
    if b = e.idle then vs else vs.set v.toNat { e with idle := b }) t.vectors })

/-- The head page's lines of 16 heads read: those with a wanted head, and the attention head; nothing when the page is not set (R369, R370, R487). -/
def readHeads (s : State) (p : HostPort) : State :=
  let a := (s.port p).hdpage.toNat
  if a = 0 then s
  else
    let head := fun i => BitVec.ofNat 32 (leNat (s.hostRd p (a + 4 * i) 4))
    let lines := ((s.ctxsOf p).filter (fun e => e.2.headWanted)).map (fun e => e.1.toNat / 16)
    let s1 := (s.ctxsOf p).foldl (fun t e =>
      if lines.contains (e.1.toNat / 16) then t.modCtx e.1 (fun x => { x with cqHead := head e.1.toNat }) else t) s
    s1.modPort p (fun t => { t with attnHead := head 256 })

/-- Up to eight descriptors of a ring fetched (R370 step D3, R372). -/
def fetchSome (s : State) (c : CtxId) (r : BitVec 2) (n : Nat) : State :=
  let x := s.ctx c
  let ring := x.sq.getD r.toNat RingReg.init
  let size := 2 ^ ring.log2size.toNat
  let f := (x.fetchedN.getD r.toNat 0).toNat
  let ds := (List.range (min 8 n)).map (fun i =>
    let k := (f + i) % 2 ^ 32 % size
    ({ ctx := c, ring := r, index := BitVec.ofNat 16 k, bytes := s.hostRd x.port (ring.base.toNat + 64 * k) 64 } : Desc))
  ds.foldl (fun t d => (t.countFetch d).modCtx c (fun x => x.setWaits r (x.waits r ++ [(d, false)]))) s

/-- One ring polled: its tail read; a pending count above the ring's size stops it, with the ring event (R372); whether the tail has changed. -/
def pollRing (s : State) (c : CtxId) (r : BitVec 2) : State × Bool :=
  let x := s.ctx c
  let ring := x.sq.getD r.toNat RingReg.init
  if ring.log2size = 0 then (s, false)
  else
    let tail := BitVec.ofNat 32 (leNat (s.hostRd x.port ((s.port x.port).dbpage.toNat + 4 * (4 * c.toNat + r.toNat)) 4))
    let f := x.fetchedN.getD r.toNat 0
    let moved := decide (tail ≠ x.tail.getD r.toNat 0)
    let s1 := s.modCtx c (fun x => { x with tail := x.tail.set r.toNat tail })
    if x.stopped.getLsbD r.toNat then (s1, moved)
    else if 2 ^ ring.log2size.toNat < (tail - f).toNat then
      ((s1.modCtx c (fun x => { x with stopped := x.stopped ||| (1#4 <<< r.toNat) })).ringEvent c r 1 tail f 0, moved)
    else (s1.fetchSome c r (tail - f).toNat, moved)

/-- The doorbell lines of a port's polled contexts read; nothing when the page is not set (R370, R487). -/
def pollRings (s : State) (p : HostPort) : State × Bool :=
  if (s.port p).dbpage = 0 then (s, false)
  else ((s.ctxsOf p).filter (fun e => e.2.polled)).foldl (fun a e =>
    [0, 1, 2, 3].foldl (fun (b : State × Bool) r => let (t, m) := b.1.pollRing e.1 r; (t, b.2 || m)) a) (s, false)

/-- Whether a context of a port has a descriptor fetched and not completed (R370). -/
def portBusy (s : State) (p : HostPort) : Bool :=
  (s.ctxsOf p).any (fun e => !e.2.waiting.isEmpty || !e.2.outstanding.isEmpty)

/-- The next poll's interval: the active one after a tail change, else doubled on an idle port (R370). -/
def pace (s : State) (p : HostPort) (moved : Bool) : State :=
  s.modPort p (fun t =>
    if moved then { t with idle := false, interval := t.pollActive.toNat, lastChange := s.now }
    else if s.portBusy p then { t with idle := false, interval := t.pollActive.toNat }
    else if t.idle then { t with interval := min (2 * t.interval) (1000 * t.pollMax.toNat) }
    else { t with interval := t.pollActive.toNat })

end State

/-- PORT_POLL: the idle page, the heads and the tails read, descriptors fetched, and the vectors that the idle page now lets through sent (R370, R372, R383). -/
def execPortPoll (p : HostPort) (s : State) : Host.Outcome State Fault Refusal :=
  .next (if (s.port p).lost || s.boot.state.toNat < 3 then s
    else
      let s1 := (s.readIdle p).readHeads p
      let s2 := allVectors.foldl (fun t v => if ((t.port p).vec v).n = 0 then t else t.tryMsi p v) s1
      let (s3, moved) := s2.pollRings p
      s3.pace p moved)

/-- PORT_IDLE: a port with no descriptor under way whose tails have not changed for HOST.POLL.idle goes idle: its next interval is twice the active one
(R370). -/
def execPortIdle (p : HostPort) (s : State) : Host.Outcome State Fault Refusal :=
  .next (if (s.port p).lost || (s.port p).idle || s.portBusy p then s
    else s.modPort p (fun t => { t with idle := true, interval := min (2 * t.pollActive.toNat) (1000 * t.pollMax.toNat) }))

/-- PTM_EXCHANGE: the port's offset kept for the TIME class; device time follows the owner's port, except on a device below the top of a formed tree (R389,
R410). -/
def execPtmExchange (p : HostPort) (master : U64) (roundTrip : U32) (s : State) : Host.Outcome State Fault Refusal :=
  .next (if (s.port p).lost then s
    else
      let offset : Int := (master.toNat : Int) - s.now.toNat
      let s1 := s.sourceExchange p.toNat offset roundTrip
      if s.owner? ≠ some p ∨ (s.regs.treeFormed ∧ s.uplink?.isSome) then s1
      else
        let s2 := s1.follow offset (!s1.clock.synced)
        { s2 with clock := { s2.clock with synced := true } })

/-! ### MSI-X moderation (R383) -/

namespace State

/-- A message of an asserted vector at an event other than a count: sent, or the pending bit set when it is masked; nothing while MSI-X is off or the port
is lost. -/
def fire (s : State) (p : HostPort) (v : BitVec 6) : State :=
  if !s.vecAsserted p v || !(s.port p).msixEnable || (s.port p).lost then s
  else if s.vecMasked p v then s.modPort p (fun t => t.modVec v (fun e => { e with pending := true }))
  else s.sendMsi p v

end State

/-- MSIX_MODERATION_TIME: INTC.MOD[v].time has passed since the earliest assertion (R383). -/
def execMsixModerationTime (p : HostPort) (v : BitVec 6) (s : State) : Host.Outcome State Fault Refusal :=
  .next (let e := (s.port p).vec v
    if e.time = 0 ∨ e.n = 0 then s else s.fire p v)

/-- MSIX_RESEND: INTC.MOD[v].resend has passed since the vector's last message and a source is still asserted (R383). -/
def execMsixResend (p : HostPort) (v : BitVec 6) (s : State) : Host.Outcome State Fault Refusal :=
  .next (if ((s.port p).vec v).sent.isNone then s else s.fire p v)

/-- A vector at its unmask: it sends at once if a source is asserted, else its pending bit is cleared, if Function Mask or its entry
does not still mask it (R383). -/
def State.fireOrClear (s : State) (p : HostPort) (v : BitVec 6) : State :=
  if s.vecAsserted p v || s.vecMasked p v then s.fire p v else s.modPort p (fun t => t.modVec v (fun e => { e with pending := false }))

/-- MSIX_UNMASK: the vector's entry is unmasked (R383); nothing before the port answers (R459). -/
def execMsixUnmask (p : HostPort) (v : BitVec 6) (s : State) : Host.Outcome State Fault Refusal :=
  .next (if !s.boot.bars then s else
    let s1 := s.modPort p (fun t => t.modVec v (fun e => { e with masked := false }))
    s1.fireOrClear p v)

/-- MSIX_ENABLE: a configuration write of the MSI-X Enable and Function Mask bits. When Enable is set, or Function Mask is cleared while it is, every vector
with an asserted source and an unmasked entry sends at once (R383); nothing before the port answers (R459). -/
def execMsixEnable (p : MsixControl) (s : State) : Host.Outcome State Fault Refusal :=
  .next (if !s.boot.bars then s else
    let u := s.port p.port
    let s1 := s.modPort p.port (fun t => { t with msixEnable := p.on, funcMask := p.mask })
    if p.on && (!u.msixEnable || (u.funcMask && !p.mask)) then allVectors.foldl (fun t v => t.fireOrClear p.port v) s1 else s1)

/-! ### Loss and return (R362, R367, R368, R480) -/

/-- PCIE_DL_DOWN: the link is lost, and the port with it (R367). -/
def execPcieDlDown (p : HostPort) (s : State) : Host.Outcome State Fault Refusal := .next (s.losePort p)

/-- PCIE_COMPLETION_TIMEOUT: a read of the host's memory and its replay got no completion; the link itself stays as it is (R367). -/
def execPcieCompletionTimeout (p : HostPort) (s : State) : Host.Outcome State Fault Refusal :=
  .next (let up := (s.port p).linkUp
    (s.losePort p).modPort p (fun t => { t with linkUp := up }))

namespace State

/-- A port's function as the PCIe rules leave it after a reset: MSI-X disabled, its table masked (log 20). -/
def resetFunction (s : State) (p : HostPort) : State :=
  s.modPort p (fun t => { t with msixEnable := false, funcMask := false
                                 vectors := t.vectors.map (fun e => (e.1, { e.2 with address := 0, data := 0, masked := true, pending := false })) })

end State

/-- FUNCTION_LEVEL_RESET: a loss of the port (R362), whose function returns to its reset state while its link stays up (log 20). -/
def execFunctionLevelReset (p : HostPort) (s : State) : Host.Outcome State Fault Refusal :=
  .next (let up := (s.port p).linkUp
    ((s.losePort p).modPort p (fun t => { t with linkUp := up })).resetFunction p)

/-- D3HOT_ENTRY: a loss of the port (R362); its link stays up. -/
def execD3hotEntry (p : HostPort) (s : State) : Host.Outcome State Fault Refusal :=
  .next (let up := (s.port p).linkUp
    (s.losePort p).modPort p (fun t => { t with linkUp := up }))

/-- PERST: PERST# resets the port's PCIe interface and counts as its loss (R480). -/
def execPerst (p : HostPort) (s : State) : Host.Outcome State Fault Refusal :=
  .next (((s.losePort p).resetFunction p).modPort p (fun t => { t with perstN := false, linkUp := false, lanes := 0, rate := 0 }))

/-- The lane rates at which a PCIe port trains, Mb/s (R361). -/
def pcieRates : List Nat := [2500, 5000, 8000, 16000, 32000, 64000]
/-- A link trained at one of the widths and rates of R361: which ones is free (log 15). -/
def State.trainPort (s : State) (p : HostPort) : State :=
  let (i, s1) := s.freePick 2
  let (j, s2) := s1.freePick pcieRates.length
  s2.modPort p (fun t => { t with perstN := true, linkUp := true, lost := false, idle := false, lanes := if i = 0 then 8 else 4, rate := pcieRates.getD j 64000 })

/-- PORT_LINK_TRAINED: PERST# and RESET# are released and the link trains: the port is there again, with its contexts as the loss left them and no ownership
(R361, R368, R505). -/
def execPortLinkTrained (p : HostPort) (s : State) : Host.Outcome State Fault Refusal :=
  .next (if s.power.pwrgd && s.power.resetN then s.trainPort p else s)

end Sys2Proof.Machine
end

