-- ==== Sys2Proof/Machine/Power.lean ====
section
/-! DEFINITION. Levels and ramps, trims, the power controller and its throttle, device Dusk, and the pins: VIN, PWRGD, RESET#, THERMTRIP# (R441 to R455, R479, R503
to R507). -/

namespace Sys2Proof.Machine
namespace State

/-! ### Levels and ramps (R444, R445) -/

/-- A level requested: a ramp toward it, from the voltage reached; the cap of a higher-power level is in force at once (R444, R445). -/
def requestLevel (s : State) (level : BitVec 2) : State :=
  let w := s.power
  let to_ := nominalMv level.toNat
  let from_ := s.coreMv
  if w.ramp then
    if level = w.level then s
    else { s with power := { w with level := level, rampFrom := from_, rampTo := to_, rampStart := s.now
                                    cap := if from_ ≤ to_ then levelCap level.toNat else w.cap } }
  else if level = w.current then { s with power := { w with level := level } }
  else { s with power := { w with level := level, ramp := true, rampFrom := from_, rampTo := to_, rampStart := s.now
                                  cap := if from_ ≤ to_ then levelCap level.toNat else w.cap } }

/-- A domain's trims written: each field at most 8, a larger one keeping its value (R447, R455, R484). -/
def setTrims (s : State) (dom : Nat) (value : U32) : State :=
  let t := s.power.trims.getD dom Trim.init
  let pick := fun (lo : Nat) (old : BitVec 4) => let v := value.toNat / 2 ^ lo % 16; if v ≤ 8 then BitVec.ofNat 4 v else old
  let t' : Trim := { noon := pick 0 t.noon, afternoon := pick 4 t.afternoon, evening := pick 8 t.evening }
  s.trimTo dom t'

/-- A trim raised by one step at a level. -/
def raiseTrim (t : Trim) (level : Nat) : Trim :=
  match level with
  | 0 => { t with noon := t.noon + 1 }
  | 1 => { t with afternoon := t.afternoon + 1 }
  | _ => { t with evening := t.evening + 1 }

end State

/-- LEVEL_WRITE: the owner's write of MODE.SELECT.level; code 3 is discarded (R444 to R446). -/
def execLevelWrite (p : HostPort) (level : BitVec 2) (s : State) : Host.Outcome State Fault Refusal :=
  .next (if !s.ownerMay p || level == 3 then s else s.requestLevel level)

/-- RAMP_END: the level is in force with its cap, and a retention checkpoint starts, or is one with that of device Dusk (R444, R454). -/
def execRampEnd (s : State) : Host.Outcome State Fault Refusal :=
  .next (if !s.power.ramp then s
    else
      let w := s.power
      let s1 : State := { s with power := { w with current := w.level, ramp := false, cap := levelCap w.level.toNat } }
      if w.duskState = 1 then s1 else s1.requestCkpt)

/-- TRIM_WRITE: the owner's write of MODE.TRIM[d] (R447, R455). -/
def execTrimWrite (p : HostPort) (dom : Fin 7) (value : U32) (s : State) : Host.Outcome State Fault Refusal :=
  .next (if s.ownerMay p then s.setTrims dom.val value else s)

/-- AUTOTRIM: a domain whose measured rate has lagged for 10 ms, as the command says, gets one step at the level in force, when the other conditions of R448
hold. -/
def execAutotrim (dom : Fin 7) (s : State) : Host.Outcome State Fault Refusal :=
  .next (let w := s.power
    let t := w.trims.getD dom.val Trim.init
    let recent := match w.lastTrim with | none => false | some t0 => decide ((s.now - t0).toNat < 100000000)
    if !w.autotrim || s.boot.state.toNat < 3 || decide (95 * w.cap * 10 < s.meanPower 1000) || w.offset != 0 || recent ||
        decide (8 ≤ t.at w.current.toNat) then s
    else
      let s1 := s.trimTo dom.val (State.raiseTrim t w.current.toNat)
      { s1 with power := { s1.power with lastTrim := some s.now } })

/-! ### The power controller (R449 to R451) -/

namespace State

/-- A reading at or beyond the absolute ratings of R512: VIN above 14.0 V, a junction above 125 °C. -/
def beyondRatings (vinMv : U32) (sensors : List U16) : Bool := decide (14000 < vinMv.toNat) || sensors.any (fun t => decide (500 < t.toNat))

/-- The controller's change of the offset: 1 up, 0 hold, −1 down, the larger of what power and temperature ask (R449, R450). -/
def offsetStep (s : State) : Int :=
  let w := s.power
  let avg := s.meanPower 1000
  let hot := s.hottest
  let power : Int := if w.cap * 1000 < avg then 1 else if avg * 100 < w.cap * 1000 * 97 then -1 else 0
  let therm : Int := if 4 * w.throttle.toNat < hot then 1 else if w.thermal ∧ 4 * w.throttle.toNat < hot + 12 then 0 else -1
  max power therm

/-- MODE.THERM.cause from its two parts. -/
def causeOf (thermal power : Bool) : BitVec 2 := BitVec.ofNat 2 (flagNat thermal + 2 * flagNat power)

/-- The events a control period records, against the register fields `w` it began with: 6 where the excess over 3,000 W begins, 1 and 2 where thermal
throttling begins and ends, 3 and 4 where power throttling begins and ends (R449, R451). -/
def regulateEvents (s : State) (w : Power) (excess thermal power : Bool) : State :=
  let s2 := if excess && !w.overLimit then s.thermalEvent 6 else s
  let s3 := if thermal && !w.thermal then s2.thermalEvent 1 else if !thermal && w.thermal then s2.thermalEvent 2 else s2
  if power && !w.cause.getLsbD 1 && !excess then s3.thermalEvent 3 else if !power && w.cause.getLsbD 1 then s3.thermalEvent 4 else s3

/-- The controller's action: the offset moved, the throttle's causes brought up to date, each change of throttle state reported (R449 to R451). -/
def regulate (s : State) : State :=
  let w := s.power
  let th := 4 * w.throttle.toNat
  let holdCritical := w.critical && decide (th ≤ s.hottest)
  let excess := decide (3000000 < s.meanPower 100)
  let offset : Byte :=
    if holdCritical then BitVec.ofNat 8 (max w.offset.toNat s.fullOffset)
    else if excess then BitVec.ofNat 8 s.fullOffset
    else BitVec.ofNat 8 (min 255 ((w.offset.toNat : Int) + s.offsetStep).toNat)
  let hadPower := w.cause.getLsbD 1
  let thermal := holdCritical || decide (th < s.hottest) || (w.thermal && offset != 0)
  let power := excess || decide (w.cap * 1000 < s.meanPower 1000) || (hadPower && offset != 0)
  let s1 : State := { s with power := { w with offset := offset, thermal := thermal, cause := causeOf thermal power, critical := holdCritical,
                                               overLimit := excess } }
  s1.regulateEvents w excess thermal power

/-- The state after everything but the fuses, the card, the hosts' memories and the pins is lost (R479); no checkpoint is written. -/
def lose (s : State) : State :=
  let w := s.power
  let pins : Power := { Power.init with vin := w.vin, rails := w.rails, pwrgd := w.pwrgd, resetN := w.resetN, awaitReset := w.awaitReset
                                        early := w.early, failed := w.failed, thermtrip := w.thermtrip, mgmtIndex := w.mgmtIndex, mgmtOut := w.mgmtOut }
  { State.reset with
    pending := s.pending, fresh := s.fresh, mem := s.mem.filter (fun e => decide (e.1 < Space.boot.key 0))
    power := pins, boot := { Boot.init with fuses := s.boot.fuses }, vesper := { Vesper.init with socket := s.vesper.socket }
    ports := s.ports.map (fun e => (e.1, { Port.init with perstN := e.2.perstN })) }

/-- The thermal trip: core power removed, THERMTRIP# latched low and PWRGD with it, the state lost (R450, R479, R507). -/
def trip (s : State) : State :=
  ({ s with power := { s.power with rails := false, pwrgd := false, thermtrip := true, awaitReset := s.power.resetN, early := false } } : State).lose

/-- A hottest reading at or above 105 °C: the offset at once brings every domain to 0.55 V (R450); the event where it begins (R451). -/
def critical (s : State) : State :=
  let w := s.power
  let s1 : State := { s with power := { w with offset := BitVec.ofNat 8 (max w.offset.toNat s.fullOffset), critical := true, thermal := true
                                               cause := causeOf true (w.cause.getLsbD 1) } }
  if w.critical then s1 else s1.thermalEvent 5

/-- What the junction readings that the controller holds ask at once: the trip from 115 °C, every domain at 0.55 V from 105 °C (R450). -/
def junctions (s : State) : State :=
  if 460 ≤ s.hottest then s.trip
  else if 420 ≤ s.hottest ∧ s.power.resetN = true then s.critical
  else s

end State

/-- The controller's record of a sample: the input power, VIN, and the readings where all forty are given (R449, R450). -/
def State.sampled (s : State) (milliwatts : Nat) (vinMv : U32) (sensors : List U16) : State :=
  { s with power := { s.power with samples := (milliwatts :: s.power.samples).take 1000, vinMv := vinMv
                                   sensors := if sensors.length = 40 then sensors else s.power.sensors } }
/-- The controller's record of one die's reading, at its first sensor (R450; log 151). -/
def State.readAt (s : State) (die : BitVec 2) (reading : U16) : State :=
  { s with power := { s.power with sensors := s.power.sensors.set (if die = 0 then 0 else if die = 1 then 16 else if die = 2 then 32 else 36) reading } }

/-- POWER_SAMPLE: one sample of input power, with VIN and the junction readings, and what these ask at once (R449, R450); beyond the absolute ratings no operation is defined (R512). -/
def execPowerSample (milliwatts : Nat) (vinMv : U32) (sensors : List U16) (s : State) : Host.Outcome State Fault Refusal :=
  if State.beyondRatings vinMv sensors then .fault .outsideRatings
  else .next (if !s.power.rails then s
    else (s.sampled milliwatts vinMv sensors).junctions)

/-- POWER_CONTROL_TICK: the controller's action every 100 µs (R449, R450). -/
def execPowerControlTick (s : State) : Host.Outcome State Fault Refusal :=
  .next (if s.power.rails && s.power.resetN then s.regulate else s)

/-- JUNCTION_CRITICAL: a junction at or above 105 °C brings every domain to 0.55 V until the reading is below the throttle threshold (R450); beyond the
absolute rating no operation is defined (R512). -/
def execJunctionCritical (die : BitVec 2) (reading : U16) (s : State) : Host.Outcome State Fault Refusal :=
  if State.beyondRatings 0 [reading] then .fault .outsideRatings
  else .next (if reading.toNat < 420 || !s.power.rails || !s.power.resetN then s
    else (s.readAt die reading).junctions)

/-! ### Device Dusk (R453) -/

/-- Device Dusk starts: Dusk for every READY, SUSPENDED or FAULTED context, builds stopped, waiting activities dropped; no effect on a Dusk under way (R453). -/
def State.startDusk (s : State) : State :=
  if s.power.duskState = 1 then s
  else
    let s1 : State := { s with power := { s.power with duskState := 1 } }
    let s2 := (({ s1 with vesper := { s1.vesper with next := false } } : State).dropAllActs).stopBuilds          -- a CHECKPOINT not begun is dropped with what it asked for
    (s2.ctxs.foldl (fun t e => t.beginDusk (BitVec.ofNat 8 e.1)) s2).drainAll

/-- DUSK_START: the owner's write of 1 to MODE.DUSK.start (R453). -/
def execDuskStart (p : HostPort) (s : State) : Host.Outcome State Fault Refusal := .next (if s.ownerMay p then s.startDusk else s)

/-- DEVICE_DUSK_DONE: every context DRAINED or IDLE and the lane quiet, the Dusk checkpoint is asked for; its end raises the event and sets MODE.DUSK.state
to 2 (R453). -/
def execDeviceDuskDone (s : State) : Host.Outcome State Fault Refusal :=
  .next (if s.power.duskState != 1 || !s.allAtRest || !s.laneQuiet then s
    else ({ s with vesper := { s.vesper with forDusk := true } } : State).requestCkpt)

/-! ### Power and reset (R479, R503 to R507) -/

/-- RESET_ASSERT: RESET# is asserted; after Dawn has begun the device's state is lost (R479, R505). -/
def execResetAssert (s : State) : Host.Outcome State Fault Refusal :=
  .next (if !s.power.resetN then s
    else ({ s with power := { s.power with resetN := false, awaitReset := false, early := false } } : State).lose)

/-- VIN_RISE: VIN reaches 11.4 V and the rails start (R505). -/
def execVinRise (s : State) : Host.Outcome State Fault Refusal := .next { s with power := { s.power with vin := true } }

/-- RAILS_IN_REGULATION: PWRGD rises and the management target answers; not while the thermal trip is latched (R505, R507). -/
def execRailsInRegulation (s : State) : Host.Outcome State Fault Refusal :=
  .next (if s.power.vin && !s.power.thermtrip then { s with power := { s.power with rails := true, pwrgd := true } } else s)

/-- VIN_LOW: VIN below 10.8 V for 10 µs: PWRGD low, the state lost, and a RESET# that is released waited for to be asserted and released again; while RESET# is
asserted only PWRGD changes (R479, R506). -/
def execVinLow (s : State) : Host.Outcome State Fault Refusal :=
  .next (let w := s.power
    let s1 : State := { s with power := { w with vin := false, rails := false, pwrgd := false, awaitReset := w.resetN, early := false } }
    if w.resetN then s1.lose else s1)

/-- VIN_RETURN: VIN is above 11.4 V again; rail bring-up repeats (R506). -/
def execVinReturn (s : State) : Host.Outcome State Fault Refusal :=
  .next (if s.power.vin then s else { s with power := { s.power with vin := true } })

/-- THERMAL_TRIP: core power removed, THERMTRIP# latched low and PWRGD with it, the state lost (R450, R479, R507). -/
def execThermalTrip (s : State) : Host.Outcome State Fault Refusal :=
  .next (if !s.power.rails then s
    else s.trip)

/-- THERMTRIP_LATCH_CLEAR: VIN below 3.0 V for 100 ms clears the latch (R507). -/
def execThermtripLatchClear (s : State) : Host.Outcome State Fault Refusal :=
  .next (let w := s.power
    let s1 : State := { s with power := { w with vin := false, rails := false, pwrgd := false, thermtrip := false, awaitReset := w.resetN, early := false } }
    s1.lose)

end Sys2Proof.Machine
end

