-- ==== Sys2Proof/Machine/BootRom.lean ====
section
/-! DEFINITION. Dawn: the checker self-test, the boot window, the firmware image, the restore of the retained state and the boot lock (R438, R439, R457 to
R464, R470, R473, R505). -/

namespace Sys2Proof.Machine

/-- Bytes of the boot window (R363). -/
def bootWindow : Nat := 67108864
/-- Bytes of a firmware image before its body (R461). -/
def imageHead : Nat := 29952

namespace State

/-! ### W1 and W2 -/

/-- A checker that fails its self-test: an entry with count and next at the threshold and its event queued, up to 64; further ones count into the overflow entry
(R439). -/
def selftestFail (s : State) (l : Location) : State :=
  if s.integ.detected.length < 64 then
    let t := s.threshold l.kind false
    let k : Counter := { loc := l, selftest := true, restored := false, count := t, next := t, time := s.now }
    { s with integ := { s.integ with detected := s.integ.detected ++ [k], queued := s.integ.queued ++ [(0x02, s.thresholdDetail false k)] } }
  else
    let (k, hit) := (s.integ.overDetected.getD (Counter.blank Location.overflow 1)).bump s.now
    let s1 : State := { s with integ := { s.integ with overDetected := some k } }
    if hit then s1.thresholdEvent false k else s1          -- dropped with its number spent: no ring is set (R436, R493)

/-- W1 and W2: RESET# is released with the rails in regulation and boot ROM tests every checker; no BAR answers, no firmware runs and nothing is locked
(R438, R459, R464). -/
def selfTest (s : State) (failed : List Location) : State :=
  let s1 := failed.dedup.foldl selftestFail s
  { s1 with boot := { s1.boot with state := 0, selftested := true, bars := false, firmware := false, locked := false }, power := { s1.power with early := false, failed := [] } }

end State

/-- RESET_RELEASE: RESET# is released.  With PWRGD high that is W1; before PWRGD rises, W1 waits for PWRGD_RESET_DELAY (R459, R505). -/
def execResetRelease (failed : List Location) (s : State) : Host.Outcome State Fault Refusal :=
  .next (if s.power.resetN then s
    else
      let s1 : State := { s with power := { s.power with resetN := true } }
      if s.power.pwrgd then s1.selfTest failed else { s1 with power := { s1.power with early := true, failed := failed } })

/-- PWRGD_RESET_DELAY: 1 ms after PWRGD rose with RESET# released before it, W1 begins with no further edge (R505). -/
def execPwrgdResetDelay (s : State) : Host.Outcome State Fault Refusal :=
  .next (if s.power.early && s.power.pwrgd && s.power.resetN then s.selfTest s.power.failed else s)

/-- DAWN_BRINGUP: W3: keys derived, HBM trained, BAR0 and BAR2 answer, state 1 (R457 to R459, R494). -/
def execDawnBringup (hbm : BitVec 20) (s : State) : Host.Outcome State Fault Refusal :=
  .next (if !s.power.pwrgd || !s.power.resetN || !s.boot.selftested || s.boot.bars then s
    else
      let key := identityKey s.boot.fuses.secret
      { s with boot := { s.boot with state := 1, bars := true, idKey := key, devId := deviceId key }, regs := { s.regs with statusHbm := hbm } })

/-! ### W4 and W5 -/

/-- BOOT_WINDOW_WRITE: a write through BAR2 from the owner in state 1; any other is discarded (R460). -/
def execBootWindowWrite (p : HostPort) (offset : BitVec 26) (data : Bytes) (s : State) : Host.Outcome State Fault Refusal :=
  .next (if s.owner? = some p ∧ s.boot.state = 1 then s.put .boot offset.toNat (data.take (bootWindow - offset.toNat)) else s)

namespace State

/-- BOOT.CTRL.go from the owner in state 1 starts the verification (R459, R460). -/
def go (s : State) (p : HostPort) : State :=
  if s.owner? = some p ∧ s.boot.state = 1 then { s with boot := { s.boot with state := 2, verifyAt := some s.now } } else s

/-- The bytes of the image: the first BOOT.IMAGE.length of the window (R460). -/
def firmwareImage (s : State) : Bytes := s.get .boot 0 s.boot.imageLength.toNat

/-- The digest of a key slot (R457, R461). -/
def keySlot (s : State) (slot : Nat) : BitVec 256 := if slot = 0 then s.boot.fuses.key0 else s.boot.fuses.key1

/-- The first check of R462 that an image fails, as its status; 0 when it is accepted. -/
def imageStatus (s : State) : Nat :=
  let n := s.boot.imageLength.toNat
  let h := s.get .boot 0 imageHead
  let slot := fld h 9 1
  if n < imageHead ∨ bootWindow < n ∨ n ≠ imageHead + fld h 12 4 then 6
  else if fld h 0 4 ≠ 0x4D57464A ∨ fld h 4 2 ≠ 1 ∨ !zeroBytes h 24 31 ∨ !zeroBytes h 29888 29951 then 1
  else if fld h 6 2 ≠ 0x0980 ∨ fld h 8 1 ≠ 0xB1 then 2
  else if 1 < slot ∨ shake256 (slice h 32 64) 32 ≠ toLE 32 (s.keySlot slot).toNat ∨ s.boot.fuses.revoked.getLsbD slot then 3
  else if fld h 11 1 < popCount s.boot.fuses.floor.toNat then 5
  else if !Config.slhVerify256s (slice h 32 64) (slice h 96 29792) (slice h 0 96 ++ s.firmwareImage.drop imageHead) then 4
  else 0

/-- Fuses after a burn, with the digest that the measurement log takes of it (R463, R465). -/
def burn (s : State) (f : Fuses) : State :=
  if f = s.boot.fuses then s
  else { s with boot := { s.boot with fuses := f, burns := s.boot.burns ++ [shake256 (toLE 8 f.floor.toNat ++ toLE 1 f.revoked.toNat) 64] } }

/-- The burns an accepted image asks for: the floor up to svn under RAISE, slot 0 revoked under REVOKE0 with slot 1 (R463). -/
def burnFuses (s : State) : State :=
  let h := s.get .boot 0 32
  let f := s.boot.fuses
  let mark := BitVec.ofNat 64 (2 ^ fld h 11 1 - 1)
  let s1 := if bitAt h 10 0 then s.burn { f with floor := f.floor ||| mark } else s
  if bitAt h 10 1 ∧ fld h 9 1 = 1 then s1.burn { s1.boot.fuses with revoked := s1.boot.fuses.revoked ||| 1 } else s1

/-- A refused image: its status, one attempt more, and state 1 again (R462). -/
def refuseImage (s : State) (status : Nat) : State :=
  let b := s.boot
  { s with boot := { b with status := BitVec.ofNat 4 status, state := 1, verifyAt := none, attempts := BitVec.ofNat 16 (min 65535 (b.attempts.toNat + 1)) } }

/-- An accepted image: its burns made, then its firmware started and measured (R462, R463, R465). -/
def acceptImage (s : State) : State :=
  let h := s.get .boot 0 32
  let digest := shake256 s.firmwareImage 64
  let s1 := s.burnFuses
  let s2 : State := { s1 with boot := { s1.boot with status := 0, slot := BitVec.ofNat 1 (fld h 9 1), fwid := BitVec.ofNat 64 (fld h 16 8),
                                                     fwDigest := digest, firmware := true, verifyAt := none } }
  s2.measure 1 0 0 (fld h 16 8) digest

end State

/-- BOOT_GO: the owner's write of 1 to BOOT.CTRL.go (R460). -/
def execBootGo (p : HostPort) (s : State) : Host.Outcome State Fault Refusal := .next (s.go p)

/-- IMAGE_VERIFIED: boot ROM's verification ends (R462). -/
def execImageVerified (s : State) : Host.Outcome State Fault Refusal :=
  .next (if s.boot.state ≠ 2 ∨ s.boot.firmware then s
    else if s.imageStatus = 0 then s.acceptImage else s.refuseImage s.imageStatus)

/-! ### W6 and W7 -/

/-- RETAINED_STATE_RESTORE: W6: the card read, its retained state restored, DDR5 trained under MEM.DDR as restored, the level in force that of the restored
register, and the burns entered in the measurement log after its first two entries (R459, R465, R470, R473, R494; log 45, log 79). -/
def execRetainedStateRestore (trained : U16) (dimms : U32) (socket : Socket) (s : State) : Host.Outcome State Fault Refusal :=
  .next (if s.boot.state ≠ 2 ∨ !s.boot.firmware then s
    else
      let s1 := s.readCard socket
      let r := s1.regs
      let w := s1.power
      let s2 : State := { s1 with regs := { r with statusDdr := trained &&& r.ddrEnable, statusRate := r.ddrRate, dimms := dimms }
                                  power := { w with current := w.level, cap := levelCap w.level.toNat } }
      let s3 := s2.boot.burns.foldl (fun t d => t.measure 5 0 0 0 d) s2
      { s3 with boot := { s3.boot with state := 3, burns := [] } })

namespace State

/-- A Selyn port that starts to train, if it is enabled and down (R392 T1). -/
def startTraining (s : State) (n : SelynPort) : State :=
  s.modLink n (fun l => if l.enable && l.state == .down then { l with state := .training, lanes := 0, retrain := none } else l)

/-- BOOT.CTRL.lock from the owner in state 3: RWL fields frozen, step memory sized, BAR2 closed, the Selyn ports enabled, state 4 (R464). -/
def lock (s : State) (p : HostPort) : State :=
  if s.owner? = some p ∧ s.boot.state = 3 then
    let s1 : State := { s with boot := { s.boot with locked := true, state := 4 }, stepUnits := s.regs.stepmem.toNat }
    selynPorts.foldl startTraining s1
  else s

end State

/-- BOOT_LOCK: the owner's write of 1 to BOOT.CTRL.lock (R464). -/
def execBootLock (p : HostPort) (s : State) : Host.Outcome State Fault Refusal := .next (s.lock p)

end Sys2Proof.Machine
end

