-- ==== Sys2Proof/Machine/Integrity.lean ====
section
/-! DEFINITION. Error episodes and scrub (R319 to R327, R428 to R431).  Where an error strikes is given by the command (log 14); what a replay does not
heal meets the response of R325. -/

namespace Sys2Proof.Machine
namespace State

/-- Whether any step of a context is under way. -/
def stepping? (s : State) (c : CtxId) : Bool := (s.ctx c).run.isSome || !(s.ctx c).finishing.isEmpty

/-- An operation of a context was replayed and passed: its step's completion, and of the entries that have not committed that of the slot it was for, or
those of every slot of the step where it was for no one of them, carry REPLAYED (R280, R381, R429). -/
def markReplayed (s : State) (c : CtxId) (slot : Option Nat) : State :=
  s.modCtx c (fun x =>
    let v := x.serving
    let mine := fun (e : SlotStep) => match slot with | none => true | some k => decide (e.slot.toNat = k)
    let x1 : Ctx := { x with serving := { v with entries := v.entries.mapIdx (fun i e => if decide (v.cursor ≤ i) && mine e then { e with replayed := true } else e) } }
    match x.run with
    | some r => { x1 with run := some { r with replayed := true } }
    | none => { x1 with finishing := x.finishing.mapIdx (fun i r => if i + 1 = x.finishing.length then { r with replayed := true } else r) })

/-- An operation ends its context's step with an outcome (R325, R428). -/
def endStep (s : State) (c : CtxId) (code : Code) : State := if s.stepping? c then s.stopStep c code else s

/-- The parcels that a range touches; at least one. -/
def parcelsOf (off len : Nat) : List Nat :=
  (List.range (ceilDiv (off + max 1 len) 256 - off / 256)).map (fun i => off / 256 + i)

/-- The poisoned range that an event names: from a parcel boundary to one, or to the end (R324, R514). -/
def poisonRange (size off len : Nat) : Nat × Nat :=
  let lo := 256 * (off / 256)
  (lo, min (256 * ceilDiv (off + max 1 len) 256) size - lo)

/-- Parcels of an object or a step image join its poisoned set, which is empty while an object is ABSENT (R308). -/
def poison (s : State) (isImage : Bool) (id : U32) (off len : Nat) : State :=
  let ks := parcelsOf off len
  if isImage then
    match s.images.get? id.toNat with
    | none => s
    | some m => { s with images := s.images.set id.toNat { m with poisoned := (m.poisoned ++ ks).dedup } }
  else s.modObj id (fun o => if o.state = .absent then o else { o with poisoned := (o.poisoned ++ ks).dedup })

/-- Bytes of an object or a step image. -/
def heldSize (s : State) (isImage : Bool) (id : U32) : Nat :=
  if isImage then (match s.images.get? id.toNat with | none => 0 | some m => m.length)
  else match s.obj? id with | none => 0 | some o => o.size

/-- The page of a KV page pool that a byte lies in; 0xFFFFFFFF in any other object (R324). -/
def pageAt (s : State) (isImage : Bool) (id : U32) (off : Nat) : Nat :=
  match s.obj? id with
  | none => 0xFFFFFFFF
  | some o =>
    if isImage || decide (o.kind ≠ 0x04) then 0xFFFFFFFF
    else match (s.objs.filterMap (fun e => s.model? (BitVec.ofNat 32 e.1))).find? (fun m => decide (m.pool = id)) with
      | none => 0xFFFFFFFF
      | some m => off / m.psize

/-- The slot whose page list holds a page of a pool; 0xFFFF for none (R324). -/
def slotOfPage (s : State) (id : U32) (page : Nat) : Nat :=
  let mine := fun (m : U32) => match s.model? m with | none => false | some m => decide (m.pool = id)
  let has := fun (slot lo n : Nat) => (List.range n).any (fun i => s.pageEntry slot (lo + i) == page)
  (((List.range Config.slots).filter (fun k => s.slotState k != .free)).find? (fun k =>
    (mine (s.inForce k) && has k 0 (s.slotNat k 48 2)) || (mine (s.draftOf k) && has k 512 (s.slotNat k 50 2)))).getD 0xFFFF

/-- The response that a reader of a parcel meets, by what holds it: 1 to 6, and 8 when nothing does (R324, R325). -/
def responseOf (s : State) (isImage : Bool) (id : U32) : Byte :=
  if isImage then 1
  else match s.obj? id with
    | none => 8
    | some o =>
      if s.stalls id || s.shardDdr id then 2
      else if o.kind = 0x04 then 3
      else if o.kind = 0x03 then 4
      else if o.kind = 0x06 then 5
      else 6

/-- The response of R325 to a parcel that a reader found uncorrectable twice, and its number in the event.  The destination of a DMA transfer only stays
poisoned: the transfer leaves that parcel out and its command ends UNCORRECTABLE (R514). -/
def readFails (s : State) (ep : Episode) : Byte × State :=
  let c := ep.ctx
  let a : Access := ⟨ep.object, ep.offset.toNat, max 1 ep.length.toNat, false⟩
  if ep.isImage then (1, if s.stepping? c then s.faultCtx c else s)
  else if ep.use = .dmaMerge then (s.responseOf false ep.object, s)
  else if s.stalls ep.object then (2, s.noteStall (.context c) a)
  else match ep.use with
    | .fetch => (1, if s.stepping? c then s.faultCtx c else s)
    | .kvPage slot => (3, s.kvPoison c slot.toNat)
    | .slotStore slot =>
      let st := s.slotState slot.toNat
      (3, if (s.ctx c).serving.entries.any (fun e => e.slot == slot) then s.kvPoison c slot.toNat
        else if st = .free ∨ st = .ended then s else s.endSlot c slot.toNat .uncorrectable 0 true)
    | .saveRestore => (5, s.faultWith c .uncorrectable)
    | .dmaMerge => (s.responseOf false ep.object, s)
    | .dmaSource => (7, (s.haltChannel c).endStep c .uncorrectable)
    | .other =>
      match s.responseOf false ep.object with
      | 2 => (2, s.noteStall (.context c) a)
      | 4 => (4, s.endStep c .uncorrectable)
      | _ => (6, s.endStep c .uncorrectable)

/-- The slot of an episode: that of a KV page or a slot store. -/
def useSlot : ReadUse → Nat
  | .kvPage slot => slot.toNat
  | .slotStore slot => slot.toNat
  | _ => 0xFFFF

/-- A read of a submission ring that fails on its replay too: the ring event with reason 2, the tail and F as they stand (R385; log 150). -/
def ringReadFails (s : State) (c : CtxId) (r : BitVec 2) : State :=
  s.ringEvent c r 2 ((s.ctx c).tail.getD r.toNat 0) ((s.ctx c).fetchedN.getD r.toNat 0) 0

/-- The outcome of R428 when a replay has failed. -/
def replayFails (s : State) (ep : Episode) : State :=
  let c := ep.ctx
  match ep.what with
  | .descriptorCrc =>
    match (s.ctx c).waits (BitVec.ofNat 2 ep.loc.b.toNat) with
    | [] => s
    | (d, _) :: rest =>
      let bad : Desc := { d with bytes := [0, BitVec.ofNat 8 (fld d.bytes 1 1 % 2)] ++ List.replicate 62 0 }
      ((s.modCtx c (fun x => x.setWaits d.ring rest)).take bad false).completeUnsignalled bad (Done.of .integrity 0)
  | .imageDigest =>
    match (s.ctx c).steps with
    | d :: rest => if descOp d = 0x11 then (s.modCtx c (fun x => { x with steps := rest })).complete d (Done.of .integrity 0) else s
    | [] => s
  | .uncorrectableRead => (s.readFails ep).2
  | .hostCheck =>
    if ep.use = .fetch then s.ringReadFails c ((ep.direct.getD (0, 0)).1) else
    let s1 := s.haltChannel c
    match s1.loadOf? ep.isImage ep.object with
    | some r => if r.d.ctx = c then s1.loadHalted r else s1.endStep c .uncorrectable
    | none => s1.endStep c .uncorrectable
  | .residueSteppe | .residueGorgeGlen | .selectorOrder => s.endStep c .integrity
  | .corrected => s
  | .mergeConflict | .malformedList => s.modCtx c (fun x => { x with run := x.run.map (fun r => { r with codes := .integrity :: r.codes }) })

/-- What a passed replay leaves: REPLAYED on the descriptor it served (R429). -/
def replayPasses (s : State) (ep : Episode) : State :=
  match ep.what with
  | .descriptorCrc => s.modCtx ep.ctx (fun x =>
      let r := BitVec.ofNat 2 ep.loc.b.toNat
      match x.waits r with
      | [] => x
      | (d, _) :: rest => x.setWaits r ((d, true) :: rest))
  | .imageDigest => s.modCtx ep.ctx (fun x =>
      match x.steps with
      | [] => x
      | d :: _ => { x with outstanding := x.outstanding.map (fun e => if e.1 = d ∧ descOp d = 0x11 then (d, true) else e) })
  | _ => match ep.direct with
    | some (ring, i) => s.modCtx ep.ctx (fun x => { x with outstanding := x.outstanding.map (fun e => if e.1.ring = ring ∧ e.1.index = i then (e.1, true) else e) })
    | none => s.markReplayed ep.ctx (match ep.use with | .kvPage k | .slotStore k => some k.toNat | _ => none)

/-- The uncorrectable event of an episode whose replay has failed (R324, R327). -/
def episodeEvent (s : State) (ep : Episode) (response : Byte) : State :=
  match ep.what with
  | .uncorrectableRead =>
    let slot := match ep.use with | .slotStore _ => true | _ => false
    let (lo, n) := poisonRange (s.heldSize ep.isImage ep.object) ep.offset.toNat ep.length.toNat
    if slot then s.uncorrectable response (some ep.ctx) ep.loc 0 0 0 0xFFFFFFFF (useSlot ep.use)
    else s.uncorrectable response (some ep.ctx) ep.loc ep.object lo n (s.pageAt ep.isImage ep.object lo) (useSlot ep.use)
  | .hostCheck => if ep.use = .fetch then s else s.uncorrectable 7 (some ep.ctx) ep.loc 0 0 0 0xFFFFFFFF 0xFFFF
  | _ => s

/-- Whether an episode reads a parcel that is poisoned already: that goes straight to its response (R324, R430). -/
def alreadyPoisoned (s : State) (ep : Episode) : Bool :=
  decide (ep.what = .uncorrectableRead) &&
    (if ep.isImage then (match s.images.get? ep.object.toNat with
        | none => false
        | some m => (parcelsOf ep.offset.toNat ep.length.toNat).any (fun k => m.poisoned.contains k))
      else match s.obj? ep.object with | none => false | some o => o.poison ep.offset.toNat (max 1 ep.length.toNat))

end State

/-- REPLAY_OUTCOME: a corrected read is counted and nothing else (R320).  Of a detected error: an episode's outcome, then its count, and a second count where the replay found an error elsewhere, which fails it (R428 to
R431). -/
def execReplayOutcome (ep : Episode) (s : State) : Host.Outcome State Fault Refusal :=
  .next (if ep.what = .corrected then s.countLoc true ep.loc
    else if s.alreadyPoisoned ep then (s.readFails ep).2
    else if ep.passed && ep.loc2.isNone then (s.replayPasses ep).countLoc false ep.loc
    else
      let s1 := if ep.what = .uncorrectableRead then s.poison ep.isImage ep.object ep.offset.toNat ep.length.toNat else s
      let response := (s1.readFails ep).1
      let s2 := (s1.replayFails ep).countLoc false ep.loc
      let s3 := match ep.loc2 with | none => s2 | some l => s2.countLoc false l
      s3.episodeEvent ep response)

/-! ### Scrub (R322, R323, R356, R359) -/

namespace State

/-- Bytes of a code word of a tier, and bytes of a tier (R319, R322). -/
def scrubWord (tier : BitVec 2) : Nat := if tier = 0 then 8 else if tier = 1 then 32 else 64
def tierBytes (tier : BitVec 2) : Nat := if tier = 0 then 640 * mib else if tier = 1 then 20 * 64 * 1024 * mib else 16 * 2 * 256 * 1024 * mib

/-- Whether a tier's scrub is stopped: its interval is 0 (R322, MEM.SCRUB). -/
def scrubOff (s : State) (tier : BitVec 2) : Bool :=
  if tier = 0 then s.regs.scrubStore == 0 else if tier = 1 then s.regs.scrubHbm == 0 else s.regs.scrubDdr == 0

/-- The next place that scrub reads in a tier, in address order. -/
def scrubOn (s : State) (tier : BitVec 2) : State :=
  let p := (s.scrubPos.getD tier.toNat 0).toNat + scrubWord tier
  { s with scrubPos := s.scrubPos.set tier.toNat (BitVec.ofNat 64 (p % tierBytes tier)) }

/-- The source or target of a side-list merge that is not over: scrub skips it (R359). -/
def scrubSkips (s : State) (id : U32) : Bool :=
  s.shards.any (fun e =>
    let h := s.shard e.2
    decide (h.mstate ≠ 0) && (decide (e.2 = id) || h.mtarget == id.toNat))

/-- The object, if one holds the parcel: an ABSENT one holds none (R308). -/
def holder (s : State) (object : Option U32) (isImage : Bool) : Option U32 :=
  object.filter (fun id => isImage || (match s.obj? id with | none => false | some o => decide (o.state ≠ .absent)))

/-- Scrub finds an uncorrectable parcel: poisoned, counted and reported, once (R323, R430).  In free space or a reservation the offset is that in the
tier's address space. -/
def scrubFinds (s : State) (tier : BitVec 2) (object : Option U32) (isImage : Bool) (off : Nat) (loc : Location) : State :=
  match s.holder object isImage with
  | none =>
    let k := (tier.toNat, off / 256)
    if s.freePoison.contains k then s
    else ({ (s.countLoc false loc) with freePoison := k :: s.freePoison } : State).uncorrectable 8 none loc 0 0 0 0xFFFFFFFF 0xFFFF
  | some id =>
    let known := if isImage then (match s.images.get? id.toNat with | none => false | some m => m.poisoned.contains (off / 256))
      else match s.obj? id with | none => false | some o => o.poison off 1
    if known then s
    else
      let (lo, n) := poisonRange (s.heldSize isImage id) off 1
      let page := s.pageAt isImage id lo
      let slot := if page = 0xFFFFFFFF then 0xFFFF else s.slotOfPage id page
      ((s.poison isImage id off 1).countLoc false loc).uncorrectable (s.responseOf isImage id) none loc id lo n page slot

end State

/-- SCRUB_READ: the next code word or parcel of a tier, on a running device that is not at device Dusk; a corrected word is written back and counted, an
uncorrectable parcel poisoned and reported; objects of a side-list merge are skipped (R320, R322, R323, R359, R453). -/
def execScrubRead (tier : BitVec 2) (object : Option U32) (isImage : Bool) (offset : U64) (found : ScrubFind) (loc : Location) (s : State) :
    Host.Outcome State Fault Refusal :=
  .next (if s.boot.state.toNat < 3 || s.power.duskState != 0 || tier == 3 || s.scrubOff tier ||
      (!isImage && (match object with | none => false | some id => s.scrubSkips id)) then s
    else
      let s1 := s.scrubOn tier
      match found with
      | .clean => s1
      | .corrected => s1.countLoc true loc
      | .uncorrectable => s1.scrubFinds tier object isImage offset.toNat loc)

end Sys2Proof.Machine
end

