-- ==== Sys2Proof/Machine/Mgmt.lean ====
section
/-! DEFINITION. The I3C management target and ALERT# (R508, R509). -/

namespace Sys2Proof.Machine
namespace State

/-- The bytes the target offers, from index 0x00 to 0x0B (R508). -/
def mgmtBytes (s : State) : Bytes :=
  toLE 2 0x0980 ++ [0xB1, BitVec.ofNat 8 s.boot.state.toNat, BitVec.ofNat 8 s.power.current.toNat, BitVec.ofNat 8 s.power.cause.toNat] ++
    toLE 2 s.hottest ++ toLE 2 s.avgWatts ++ [BitVec.ofNat 8 s.vesper.card.toNat, if s.power.thermtrip then 1 else 0]

/-- ALERT# pulled low: the cause of MODE.THERM is not zero, and Dawn is past W5 (R509). -/
def alertLow (s : State) : Bool := s.power.cause != 0 && s.boot.firmware

end State

/-- The target answers while PWRGD is high, and while the trip it reports holds PWRGD low with VIN up (R505, R507, R508; log 81). -/
def State.mgmtAnswers (s : State) : Bool := s.power.pwrgd || (s.power.vin && s.power.thermtrip)

/-- MGMT_INDEX_WRITE: a one-byte private write sets the index (R508). -/
def execMgmtIndexWrite (index : Byte) (s : State) : Host.Outcome State Fault Refusal :=
  .next (if s.mgmtAnswers then { s with power := { s.power with mgmtIndex := index } } else s)

/-- MGMT_READ: bytes from the index on, taken at one moment; the index moves past them, and bytes that the table does not list are free (R508; log 81). -/
def execMgmtRead (count : Byte) (s : State) : Host.Outcome State Fault Refusal :=
  .next (if !s.mgmtAnswers then s
    else
      let n := count.toNat
      let i := s.power.mgmtIndex.toNat
      let listed := (s.mgmtBytes.drop i).take n
      let (rest, s1) := s.freeBytes (n - listed.length)
      { s1 with power := { s1.power with mgmtOut := listed ++ rest, mgmtIndex := s.power.mgmtIndex + count } })

end Sys2Proof.Machine
end

