-- ==== Sys2Proof/Machine/Registers.lean ====
section
/-! DEFINITION. Writes to the setup registers through BAR0 (R364 to R366, R481 to R497), those with a row of their own first. -/

namespace Sys2Proof.Machine
namespace State

/-! ### HOST.OWNER (R365) -/

/-- A claim from a port: taken when there is no owner or the owner's port is lost. -/
def takeOwner (s : State) (p : HostPort) : State :=
  let free := match s.owner? with | none => true | some o => (s.port o).lost
  if s.bankMay && free then { s with regs := { s.regs with owner := p.setWidth 2 } } else s

/-- A release from a port: taken from the owner. -/
def dropOwner (s : State) (p : HostPort) : State :=
  if s.bankMay && s.owner? == some p then ({ s with regs := { s.regs with owner := 3 } } : State).unowned else s

/-! ### CTX.CONTROL (R351, R352, R372, R452, R492) -/

/-- 1 in CTX.CONTROL.suspend: a request that comes to a READY context suspends it, unless an inheritance episode runs it (R351, R355). -/
def askSuspend (s : State) (c : CtxId) : State :=
  if (s.ctx c).suspendReq then s
  else
    let s1 := s.modCtx c (fun x => { x with suspendReq := true })
    if (s.ctx c).episode.isNone then s1.beginSuspend c else s1

/-- 0 in CTX.CONTROL.suspend: the request is withdrawn (R352). -/
def withdraw (s : State) (c : CtxId) : State := (s.modCtx c (fun x => { x with suspendReq := false })).beginResume c

/-- 1 in CTX.CONTROL.clear: FAULTED to READY; a request that stands suspends it before its first instruction (R331, R492). -/
def clearFault (s : State) (c : CtxId) : State :=
  if (s.ctx c).state = .faulted then
    let s1 := s.modCtx c (fun x => { x with state := .ready, suspending := x.suspendReq })
    s1.drainOn c
  else s

/-- 1 in CTX.CONTROL.ringreset[r]: a stopped ring goes on from the tail last read (R372). -/
def resetRing (s : State) (c : CtxId) (r : BitVec 2) : State :=
  if (s.ctx c).stopped.getLsbD r.toNat then
    s.modCtx c (fun x => { x with stopped := x.stopped &&& ~~~(1#4 <<< r.toNat), fetchedN := x.fetchedN.set r.toNat (x.tail.getD r.toNat 0) })
  else s

/-- The fields of one CTX.CONTROL write: suspend, clear, ringreset, dusk (R489, R492; log 82). -/
def writeControl (s : State) (c : CtxId) (v : Nat) : State :=
  let s1 := if v.testBit 0 then s.askSuspend c else s.withdraw c
  let s2 := if v.testBit 1 then s1.clearFault c else s1
  let s3 := [0, 1, 2, 3].foldl (fun (t : State) (r : Nat) => if v.testBit (2 + r) then t.resetRing c (BitVec.ofNat 2 r) else t) s2
  if v.testBit 6 then s3.beginDusk c else s3

/-! ### CTX.CQ and CTX.SQ (R371, R489, R491) -/

/-- A ring register's write in range: log2size 4 to 16, or 0 for an unused submission ring. -/
def ringOk (v : Nat) (unused : Bool) : Bool := let n := v % 32; (decide (4 ≤ n) && decide (n ≤ 16)) || (unused && n == 0)
/-- The ring register of a value; its reserved bits are ignored. -/
def ringOf (v : Nat) : RingReg := { log2size := BitVec.ofNat 5 v, base := BitVec.ofNat 64 (v / 4096 * 4096) }

/-- A context in a state that takes ring set-up: IDLE, or DRAINED while device Dusk does not hold it (R489, R491). -/
def ringsMay (s : State) (c : CtxId) : Bool :=
  (s.ctx c).state == .idle || ((s.ctx c).state == .drained && s.power.duskState != 1)

/-- CTX.CQ written: the ring set, the counts started afresh; a DRAINED context becomes IDLE, with no image (R331, R371, R491; log 83). -/
def writeCq (s : State) (c : CtxId) (v : Nat) : State :=
  if !s.ringsMay c || !ringOk v false then s
  else
    let s1 := s.modCtx c (fun x => { x with cq := ringOf v, fetchedN := [], tail := [], writtenT := 0, cqHead := 0, irqLast := none })
    if (s.ctx c).state = .drained then
      ((s1.unbind c).modCtx c (fun x => { x with state := .idle, waiting := [], outstanding := [], reserved := 0, steps := [] })).dropUnnamed
    else s1

/-- CTX.SQ[r] written (R371, R491). -/
def writeSq (s : State) (c : CtxId) (r v : Nat) : State :=
  if !s.ringsMay c || !ringOk v true then s else s.modCtx c (fun x => { x with sq := x.sq.set r (ringOf v) })

/-! ### INTC (R382, R383, R384, R493) -/

/-- INTC.ATTN written: a new base or size starts the ring afresh, and the first size that is not zero brings the events queued at Dawn (R439, R493). -/
def writeAttn (s : State) (p : HostPort) (v : Nat) : State :=
  let n := v % 16
  if !s.bankMay || !(n == 0 || (decide (4 ≤ n) && decide (n ≤ 12))) then s
  else
    let t := s.port p
    let base := BitVec.ofNat 64 (v / 4096 * 4096)
    let fresh := t.attnBase != base || t.attnLog != BitVec.ofNat 4 n
    let s1 := s.modPort p (fun t => { t with attnLog := BitVec.ofNat 4 n, attnVector := BitVec.ofNat 6 (v / 16), attnBase := base
                                             attnT := if fresh then 0 else t.attnT, attnHead := if fresh then 0 else t.attnHead })
    if n = 0 ∨ s.integ.attnSeen.getD p.toNat false then s1
    else
      let s2 : State := { s1 with integ := { s1.integ with attnSeen := Tab.set s1.integ.attnSeen p.toNat true } }
      s2.integ.queued.foldl (fun t e => t.attnOn p e.1 e.2) s2

/-- Bits of INTC.SWPEND cleared. -/
def clearSwpend (s : State) (p : HostPort) (mask : U64) : State := s.modPort p (fun t => { t with swpend := t.swpend &&& ~~~mask })

/-! ### MEM.DMAHALT, INTEG, SYNC.CLEAR (R327, R434, R496) -/

/-- Halted channels released. -/
def releaseDma (s : State) (mask : U32) : State := { s with regs := { s.regs with dmahalt := s.regs.dmahalt &&& ~~~mask } }

/-- INTEG.THRESH[k] written: every allocated entry of the kind gets its next trigger afresh in a class whose threshold changes (R434). -/
def writeThresh (s : State) (k : Nat) (v : Nat) : State :=
  let old := s.regs.thresh.getD k Thresh.init
  let new : Thresh := { detected := BitVec.ofNat 16 v, correctable := BitVec.ofNat 16 (v / 65536) }
  let again := fun (t : U16) (l : List Counter) => l.map (fun x => if x.loc.kind.toNat = k then { x with next := nextAbove (t.setWidth 32) x.count } else x)
  let g := s.integ
  { s with regs := { s.regs with thresh := s.regs.thresh.set k new }
           integ := { g with detected := if new.detected = old.detected then g.detected else again new.detected g.detected
                             correctable := if new.correctable = old.correctable then g.correctable else again new.correctable g.correctable } }

/-- INTEG.CLEAR written: the entries of a kind in a class are freed, or all of both classes (R434). -/
def clearInteg (s : State) (v : Nat) : State :=
  let g := s.integ
  let kind := v % 16
  let keep := fun (l : List Counter) => l.filter (fun x => x.loc.kind.toNat != kind)
  let spill := fun (o : Option Counter) => if kind = 15 then none else o
  { s with integ :=
      if v.testBit 4 then { g with detected := [], correctable := [], overDetected := none, overCorrectable := none }
      else if v.testBit 5 then { g with correctable := keep g.correctable, overCorrectable := spill g.overCorrectable }
      else { g with detected := keep g.detected, overDetected := spill g.overDetected } }

/-- Whether a running context's window meets a range of counters (R496). -/
def windowMeets (s : State) (base count : Nat) : Bool :=
  s.ctxs.any (fun e => (e.2.state == .ready || e.2.state == .suspended) && decide (base < e.2.syncBase.toNat + e.2.syncCount.toNat) &&
    decide (e.2.syncBase.toNat < base + count))

/-- SYNC.CLEAR written: the counters set to 0 in one action, or discarded, as SYNC.STATUS then tells; a range outside the general counters is discarded with no
effect on SYNC.STATUS (R484, R496; log 84). -/
def clearSync (s : State) (base count : Nat) : State :=
  if count = 0 ∨ Config.generalCounters < base + count then s
  else if s.windowMeets base count then { s with regs := { s.regs with syncDiscarded := true } }
  else { s with regs := { s.regs with syncDiscarded := false }
                sync := s.sync.filter (fun e => decide (e.1 < base) || decide (base + count ≤ e.1)) }

/-! ### LINK.PORT (R392, R394, R398, R413) -/

/-- LINK.PORT[n] written: a port disabled goes down; one enabled after the lock trains; a width change retrains a port that is up. -/
def writeLinkPort (s : State) (n : SelynPort) (v : Nat) : State :=
  let l := s.link n
  let on := v.testBit 0
  let x4 := v.testBit 1
  let s1 := s.modLink n (fun l => { l with enable := on, x4 := x4 })
  if !on then
    if l.up || l.retrain.isSome then s1.linkDown n 1
    else s1.modLink n (fun l => { l with state := .down, lanes := 0 })
  else if l.state = .down then (if s.boot.locked then s1.startTraining n else s1)
  else if l.x4 = x4 then s1
  else if l.up then s1.retrain n
  else s1.modLink n (fun l => { l with lanes := 0 })

end State

/-! ### The rows with a name of their own -/

/-- OWNER_CLAIM: 1 to HOST.OWNER.claim (R365). -/
def execOwnerClaim (p : HostPort) (s : State) : Host.Outcome State Fault Refusal := .next (s.takeOwner p)
/-- OWNER_RELEASE: 1 to HOST.OWNER.release (R365). -/
def execOwnerRelease (p : HostPort) (s : State) : Host.Outcome State Fault Refusal := .next (s.dropOwner p)
/-- CTX_SUSPEND: 1 to CTX.CONTROL.suspend (R351). -/
def execCtxSuspend (p : HostPort) (c : CtxId) (s : State) : Host.Outcome State Fault Refusal := .next (if s.ctxMay p c then s.askSuspend c else s)
/-- SUSPEND_WITHDRAW: 0 to CTX.CONTROL.suspend (R352). -/
def execSuspendWithdraw (p : HostPort) (c : CtxId) (s : State) : Host.Outcome State Fault Refusal := .next (if s.ctxMay p c then s.withdraw c else s)
/-- CTX_CLEAR: 1 to CTX.CONTROL.clear (R331, R492). -/
def execCtxClear (p : HostPort) (c : CtxId) (s : State) : Host.Outcome State Fault Refusal := .next (if s.ctxMay p c then s.clearFault c else s)
/-- RING_RESET: 1 to CTX.CONTROL.ringreset[r] (R372). -/
def execRingReset (p : HostPort) (c : CtxId) (r : BitVec 2) (s : State) : Host.Outcome State Fault Refusal :=
  .next (if s.ctxMay p c then s.resetRing c r else s)
/-- CTX_DUSK: 1 to CTX.CONTROL.dusk (R452). -/
def execCtxDusk (p : HostPort) (c : CtxId) (s : State) : Host.Outcome State Fault Refusal := .next (if s.ctxMay p c then s.beginDusk c else s)
/-- CQ_WRITE: CTX.CQ (R371, R491). -/
def execCqWrite (p : HostPort) (c : CtxId) (value : U64) (s : State) : Host.Outcome State Fault Refusal :=
  .next (if s.ctxMay p c then s.writeCq c value.toNat else s)
/-- SWSET: INTC.SWSET (R382). -/
def execSwset (p : HostPort) (bits : U64) (s : State) : Host.Outcome State Fault Refusal := .next (if s.bankMay then s.setSwpend p bits else s)
/-- SWPEND_CLEAR: 1 to bits of INTC.SWPEND (R382). -/
def execSwpendClear (p : HostPort) (bits : U64) (s : State) : Host.Outcome State Fault Refusal := .next (if s.bankMay then s.clearSwpend p bits else s)
/-- DMAHALT_RELEASE: the owner's 1 to bits of MEM.DMAHALT (R327). -/
def execDmahaltRelease (p : HostPort) (bits : U32) (s : State) : Host.Outcome State Fault Refusal := .next (if s.ownerMay p then s.releaseDma bits else s)
/-- ATTN_RING_WRITE: INTC.ATTN (R384, R493). -/
def execAttnRingWrite (p : HostPort) (value : U64) (s : State) : Host.Outcome State Fault Refusal := .next (s.writeAttn p value.toNat)
/-- INTEG_THRESH_WRITE: the owner's write of INTEG.THRESH[k], k from 1 to 14 (R434). -/
def execIntegThreshWrite (p : HostPort) (kind : BitVec 4) (value : U32) (s : State) : Host.Outcome State Fault Refusal :=
  .next (if s.ownerMay p && kind != 0 && kind != 15 then s.writeThresh kind.toNat value.toNat else s)
/-- INTEG_CLEAR: the owner's write of INTEG.CLEAR (R434). -/
def execIntegClear (p : HostPort) (value : U32) (s : State) : Host.Outcome State Fault Refusal := .next (if s.ownerMay p then s.clearInteg value.toNat else s)
/-- SYNC_CLEAR: the owner's write of SYNC.CLEAR (R496). -/
def execSyncClear (p : HostPort) (base count : U16) (s : State) : Host.Outcome State Fault Refusal :=
  .next (if s.ownerMay p then s.clearSync base.toNat count.toNat else s)
/-- LINK_PORT_WRITE: the owner's write of LINK.PORT[n] (R394). -/
def execLinkPortWrite (p : HostPort) (n : SelynPort) (value : U32) (s : State) : Host.Outcome State Fault Refusal :=
  .next (if s.ownerMay p then s.writeLinkPort n value.toNat else s)

/-! ### Every register by its offset (R481 to R484) -/

/-- Registers of 64 bits that take a write of either half alone: HOST.POLL, VESPER.LIFE, and the MSI-X table under the PCIe layout (R363, R483). -/
def takesHalves (off : Nat) : Bool := off == 0x10020 || off == 0xE0018 || (decide (0x18000 ≤ off) && decide (off < 0x18400))

/-- Registers that take 8-byte writes only (R483). -/
def wholeOnly (off : Nat) : Bool :=
  off == 0x10008 || off == 0x10010 || off == 0x10018 || off == 0x40000 || off == 0x40010 || off == 0x40018 ||
    (decide (0x40100 ≤ off) && decide (off < 0x40300)) || off == 0x80000 || off == 0xE0030 ||
    (decide (0x20000 ≤ off) && decide (off < 0x30000) && (off % 256 == 0x50 || (decide (0x60 ≤ off % 256) && decide (off % 256 < 0x80))))

namespace State

/-- A number in a range. -/
def within (v lo hi : Nat) : Bool := decide (lo ≤ v) && decide (v ≤ hi)

/-- No READY or SUSPENDED context of a port (R488). -/
def portAtRest (s : State) (p : HostPort) : Bool := (s.ctxsOf p).all (fun e => e.2.state != .ready && e.2.state != .suspended)

/-- A word of the MSI-X table written: its address, or its data and mask; an unmask sends or clears the pending bit at once (R363, R383). -/
def writeMsix (s : State) (p : HostPort) (k v : Nat) : State :=
  let n : BitVec 6 := BitVec.ofNat 6 (k / 2)
  if k % 2 = 0 then s.modPort p (fun t => t.modVec n (fun e => { e with address := BitVec.ofNat 64 v }))
  else
    let was := ((s.port p).vec n).masked
    let s1 := s.modPort p (fun t => t.modVec n (fun e => { e with data := BitVec.ofNat 32 v, masked := v.testBit 32 }))
    if !was || v.testBit 32 then s1
    else if s1.vecAsserted p n then s1.fire p n
    else s1.modPort p (fun t => t.modVec n (fun e => { e with pending := false }))

/-- The HOST registers of a port (R365, R487, R488). -/
def writeHost (s : State) (p : HostPort) (off v : Nat) : State :=
  if off = 0x10000 then
    if v.testBit 8 ∧ v.testBit 9 then s else if v.testBit 8 then s.takeOwner p else if v.testBit 9 then s.dropOwner p else s
  else if !s.bankMay then s
  else if off = 0x10008 then
    if s.portAtRest p then s.modPort p (fun t => { t with dbpage := BitVec.ofNat 64 (v / 4096 * 4096) }) else s
  else if off = 0x10010 then
    if s.portAtRest p then s.modPort p (fun t => { t with hdpage := BitVec.ofNat 64 (v / 4096 * 4096) }) else s
  else if off = 0x10018 then s.modPort p (fun t => { t with idlepage := BitVec.ofNat 64 (v / 64 * 64) })
  else if off = 0x10020 then
    let a := v % 16384
    let m := v / 2 ^ 32 % 1024
    if within a 250 10000 && within m 1 1000 then
      s.modPort p (fun t => { t with pollActive := BitVec.ofNat 14 a, pollIdle := BitVec.ofNat 16 (v / 65536), pollMax := BitVec.ofNat 10 m })
    else s
  else if off = 0x10028 then
    if within (v % 1024) 1 1000 then s.modPort p (fun t => { t with ptm := BitVec.ofNat 10 v }) else s
  else if 0x18000 ≤ off ∧ off < 0x18400 then s.writeMsix p ((off - 0x18000) / 8) v
  else s

/-- The INTC registers of a port (R382, R383, R493). -/
def writeIntc (s : State) (p : HostPort) (off v : Nat) : State :=
  if !s.bankMay then s
  else if off = 0x40000 then s.writeAttn p v
  else if off = 0x40010 then s.clearSwpend p (BitVec.ofNat 64 v)
  else if off = 0x40018 then s.setSwpend p (BitVec.ofNat 64 v)
  else if 0x40100 ≤ off ∧ off < 0x40300 then
    let n : BitVec 6 := BitVec.ofNat 6 ((off - 0x40100) / 8)
    let count := v % 256
    let again := v / 2 ^ 24 % 65536
    if count = 0 ∨ again = 0 then s
    else s.modPort p (fun t => t.modVec n (fun e =>
      { e with count := BitVec.ofNat 8 count, time := BitVec.ofNat 16 (v / 256), resend := BitVec.ofNat 16 again }))
  else s

/-- A context's bound image has header flag [1], a fall-back model (R29, R456). -/
def strictImage (s : State) (c : CtxId) : Bool :=
  match (s.ctx c).image with | none => false | some i => (s.img i 0x0A 2).testBit 1

/-- Whether a slot range meets another context's (R490). -/
def slotsMeet (s : State) (c : CtxId) (base count : Nat) : Bool :=
  s.ctxs.any (fun e => e.1 != c.toNat && decide (base < e.2.slotBase.toNat + e.2.slotCount.toNat) && decide (e.2.slotBase.toNat < base + count) &&
    decide (0 < count) && decide (0 < e.2.slotCount.toNat))

/-- The registers of a context's record that its port writes (R330, R456, R489, R490). -/
def writeCtxReg (s : State) (c : CtxId) (r v : Nat) : State :=
  let idle := (s.ctx c).state == .idle
  if r = 0x08 then s.writeControl c v
  else if r = 0x18 then (s.modCtx c (fun x => { x with prio := BitVec.ofNat 3 v })).inherit
  else if r = 0x20 then
    if v.testBit 0 && s.strictImage c then s
    else s.modCtx c (fun x => { x with mode := { relaxed := v.testBit 0, graph := v.testBit 1, merge := v.testBit 2 } })
  else if r = 0x28 then
    let base := v % 16384
    let count := v / 65536 % 32768
    if idle && decide (base + count ≤ Config.slots) && !s.slotsMeet c base count then
      s.modCtx c (fun x => { x with slotBase := BitVec.ofNat 14 base, slotCount := BitVec.ofNat 15 count })
    else s
  else if r = 0x30 then
    let base := v % 65536
    let count := v / 65536 % 65536
    if idle && decide (base + count ≤ Config.generalCounters) then
      s.modCtx c (fun x => { x with syncBase := BitVec.ofNat 16 base, syncCount := BitVec.ofNat 16 count })
    else s
  else if r = 0x38 then if idle then s.modCtx c (fun x => { x with dma := BitVec.ofNat 5 v }) else s
  else if r = 0x40 then if idle then s.modCtx c (fun x => { x with save := BitVec.ofNat 32 v }) else s
  else if r = 0x48 then if idle then s.modCtx c (fun x => { x with irq := BitVec.ofNat 6 v }) else s
  else if r = 0x50 then s.writeCq c v
  else if r = 0x60 then s.writeSq c 0 v
  else if r = 0x68 then s.writeSq c 1 v
  else if r = 0x70 then s.writeSq c 2 v
  else if r = 0x78 then s.writeSq c 3 v
  else s

/-- The CTX block: CTX.HOST is the owner's, while the context is IDLE; the rest is the named port's (R366, R489). -/
def writeCtx (s : State) (p : HostPort) (off v : Nat) : State :=
  let c : CtxId := BitVec.ofNat 8 ((off - 0x20000) / 256)
  let r := off % 256
  if r = 0x10 then
    if s.ownerMay p && (s.ctx c).state == .idle then s.modCtx c (fun x => { x with port := BitVec.ofNat 1 v }) else s
  else if s.ctxMay p c then s.writeCtxReg c r v
  else s

/-- The MODE block (R455).  MODE.SELECT is discarded whole at level 3; MODE.THERM and MODE.TRIM go field by field (R484). -/
def writeMode (s : State) (off v : Nat) : State :=
  if off = 0x50000 then
    if v % 4 = 3 then s
    else
      let s1 : State := { s with power := { s.power with autotrim := v.testBit 8 } }
      s1.requestLevel (BitVec.ofNat 2 v)
  else if off = 0x50008 then
    if within (v % 128) 70 105 then { s with power := { s.power with throttle := BitVec.ofNat 7 v } } else s
  else if off = 0x50010 then
    let s1 : State := { s with power := { s.power with grace := BitVec.ofNat 16 (v / 65536) } }
    if v.testBit 0 then s1.startDusk else s1
  else if 0x50100 ≤ off ∧ off < 0x50138 then s.setTrims ((off - 0x50100) / 8) (BitVec.ofNat 32 v)
  else s

/-- The MEM block; MEM.STEPMEM is frozen by the lock, and MEM.DDR goes field by field (R15, R484, R494). -/
def writeMem (s : State) (off v : Nat) : State :=
  let r := s.regs
  if off = 0x60000 then if s.boot.locked || !within (v % 64) 1 32 then s else { s with regs := { r with stepmem := BitVec.ofNat 6 v } }
  else if off = 0x60008 then
    { s with regs := { r with scrubStore := BitVec.ofNat 8 v, scrubHbm := BitVec.ofNat 8 (v / 256), scrubDdr := BitVec.ofNat 16 (v / 65536) } }
  else if off = 0x60010 then s.releaseDma (BitVec.ofNat 32 v)
  else if off = 0x60018 then
    let rate := v / 65536 % 8
    { s with regs := { r with ddrEnable := BitVec.ofNat 16 v, ddrRate := if rate ≤ 3 then BitVec.ofNat 3 rate else r.ddrRate } }
  else s

/-- LINK.TREE, frozen by the lock (R393). -/
def writeTree (s : State) (v : Nat) : State :=
  let index := v % 1024
  let up := v / 2 ^ 12 % 16
  let size := v / 2 ^ 26 % 1024
  if s.boot.locked || !within index 0 910 || !(decide (up ≤ 9) || up == 15) || !within size 1 911 then s
  else { s with regs := { s.regs with
      treeIndex := BitVec.ofNat 10 index, treeRole := BitVec.ofNat 2 (v / 2 ^ 10), treeUplink := BitVec.ofNat 4 up,
      treeChildren := BitVec.ofNat 10 (v / 2 ^ 16), treeSize := BitVec.ofNat 10 size, treeId := BitVec.ofNat 16 (v / 2 ^ 36) } }

/-- The LINK, ENGINE, SYNC and INTEG blocks (R393, R394, R410, R434, R495, R496). -/
def writeLinkEngine (s : State) (off v : Nat) : State :=
  if off = 0x80000 then s.writeTree v
  else if off = 0x80008 then
    if within (v % 1024) 1 1000 then { s with regs := { s.regs with timeInterval := BitVec.ofNat 10 v } } else s
  else if 0x80100 ≤ off ∧ off < 0x80150 then s.writeLinkPort (Fin.ofNat 10 ((off - 0x80100) / 8)) v
  else if off = 0xA0000 then { s with regs := { s.regs with preempt := BitVec.ofNat 32 v } }
  else if off = 0xA0008 then if within (v % 65536) 1 65535 then { s with regs := { s.regs with inherit := BitVec.ofNat 16 v } } else s
  else if off = 0xA0010 then if within (v % 512) 1 500 then { s with regs := { s.regs with maintCap := BitVec.ofNat 9 v } } else s
  else if off = 0xC0000 then s.clearSync (v % 65536) (v / 65536 % 65536)
  else if 0xD0008 ≤ off ∧ off < 0xD0078 then s.writeThresh ((off - 0xD0000) / 8) v
  else if off = 0xD0100 then s.clearInteg v
  else s

/-- The VESPER block (17_dawn_security_vesper.md). -/
def writeVesper (s : State) (p : HostPort) (off v : Nat) : State :=
  let w := s.vesper
  if off = 0xE0018 then
    let warn := v / 2 ^ 32 % 128
    if within warn 1 100 then { s with vesper := { w with warn := BitVec.ofNat 7 warn } } else s
  else if off = 0xE0020 then if within (v % 2048) 0 1440 then { s with vesper := { w with interval := BitVec.ofNat 11 v } } else s
  else if off = 0xE0030 then { s with vesper := { w with certAddr := BitVec.ofNat 64 v } }
  else if off = 0xE0038 then { s with vesper := { w with certLen := BitVec.ofNat 17 v } }
  else if off = 0xE0040 then
    let s1 := if v.testBit 0 then s.loadBundle p else s
    if v.testBit 1 then s1.wipeCard else s1
  else s

/-- The BOOT block: the owner's from W3 on (R459, R460, R464). -/
def writeBoot (s : State) (p : HostPort) (off v : Nat) : State :=
  if s.owner? ≠ some p ∨ !s.boot.bars then s
  else if off = 0xF0008 then if s.boot.locked then s else { s with boot := { s.boot with imageLength := BitVec.ofNat 27 v } }
  else if off = 0xF0010 then
    let s1 := if v.testBit 0 then s.go p else s
    if v.testBit 1 then s1.lock p else s1
  else s

/-- A register written with 64 bits: what R366 and R484 do not permit is discarded. -/
def writeReg (s : State) (p : HostPort) (off v : Nat) : State :=
  if off < 0x10000 then s
  else if off < 0x20000 then s.writeHost p off v
  else if 0xF0000 ≤ off then s.writeBoot p off v
  else if off < 0x30000 then s.writeCtx p off v
  else if 0x40000 ≤ off ∧ off < 0x50000 then s.writeIntc p off v
  else if !s.ownerMay p then s
  else if off < 0x60000 then s.writeMode off v
  else if off < 0x80000 then s.writeMem off v
  else if off < 0xE0000 then s.writeLinkEngine off v
  else s.writeVesper p off v

end State

/-- REGISTER_WRITE: a write through BAR0: aligned, of 4 or 8 bytes, to a whole register or a half that takes one (R364, R482 to R485). -/
def execRegisterWrite (p : HostPort) (offset : BitVec 21) (size : Byte) (value : U64) (s : State) : Host.Outcome State Fault Refusal :=
  let at_ := offset.toNat
  let off := at_ / 8 * 8
  .next (if 0x100000 ≤ at_ then s
    else if size = 8 then if at_ % 8 = 0 then s.writeReg p off value.toNat else s
    else if size ≠ 4 ∨ at_ % 4 ≠ 0 ∨ wholeOnly off then s
    else
      let v := value.toNat % 2 ^ 32
      if takesHalves off then
        let old := s.regValue p off
        s.writeReg p off (if at_ % 8 = 0 then old / 2 ^ 32 * 2 ^ 32 + v else old % 2 ^ 32 + 2 ^ 32 * v)
      else if at_ % 8 = 0 then s.writeReg p off v else s)

end Sys2Proof.Machine
end

