-- ==== Sys2Proof/Machine/Sequencer.lean ====
section
/-! DEFINITION. The sequencer instructions (R37 to R43, R335, R346, R347, R408).  Each is one attempt of the instruction at the sequencer's
position, and has its effect when the word there is that instruction with its operands (R38): it completes and the position moves on, or its
wait is recorded (log 7). -/

namespace Sys2Proof.Machine
namespace State

/-- Whether the instruction word at a position of a program is uncorrectable (R42). -/
def wordPoisoned (s : State) (i : U32) (off : Nat) : Bool :=
  match s.images.get? i.toNat with
  | none => false
  | some m => m.poisoned.contains (off / 256)

/-- An instruction word: opcode, A and B (R37). -/
def seqWord (op a b : Nat) : Nat := op * 2 ^ 56 + a * 2 ^ 32 + b
/-- The operand A that names a register in bits [19:16] (R38). -/
def regA (r : BitVec 4) : Nat := r.toNat * 0x10000
/-- The word at a sequencer's position in its section of the bound image (R37). -/
def seqAt (s : State) (c : CtxId) (q : SeqId) : Nat :=
  match (s.ctx c).image with
  | none => 0
  | some i => s.img i ((s.section i q.num).1 + 8 * ((s.ctx c).seq q).pos) 8
/-- The word at the position is an ISSUE of this length to this engine, and the section holds the block at the byte offset B (R38). -/
def issueAt (s : State) (c : CtxId) (q : SeqId) (engine len : Nat) (b : Bytes) : Bool :=
  let w := s.seqAt c q
  w / 2 ^ 32 == seqWord 1 (engine * 0x1000 + len) 0 / 2 ^ 32 &&
    (match (s.ctx c).image with
     | none => false
     | some i => s.get (.image i) ((s.section i q.num).1 + w % 2 ^ 32) b.length == b)

/-- A sequencer executes an instruction: nothing unless it is running a step of an active context (log 6); a fault past the last word or at an
uncorrectable one (R42); nothing when the word there is another instruction (log 90): `here` says whether it is this one. -/
def runSeq (s : State) (c : CtxId) (q : SeqId) (here : Bool) (f : State → State) : State :=
  let x := s.ctx c
  let v := x.seq q
  if !x.active || decide (v.status ≠ .running) || x.run.isNone then s
  else match x.image with
    | none => s
    | some i =>
      let (off, _, n) := s.section i q.num
      if n ≤ v.pos || s.wordPoisoned i (off + 8 * v.pos) then s.faultCtx c else if here then f s else s

/-- The state with a function applied to one sequencer. -/
def modSeq (s : State) (c : CtxId) (q : SeqId) (f : Seq → Seq) : State := s.modCtx c (fun x => x.modSeq q f)
/-- The sequencer moves to the next instruction. -/
def nextSeq (s : State) (c : CtxId) (q : SeqId) : State := s.modSeq c q Seq.next
/-- The sequencer starts to wait. -/
def waitSeq (s : State) (c : CtxId) (q : SeqId) (st : SeqStatus) : State := s.modSeq c q (fun v => v.wait st s.now)

end State

/-- NOP (R38). -/
def execNop (c : CtxId) (q : SeqId) (s : State) : Host.Outcome State Fault Refusal :=
  .next (s.runSeq c q (s.seqAt c q == State.seqWord 0x00 0 0) (fun s => s.nextSeq c q))

/-! ### ISSUE and WAITDONE -/

namespace State

/-- Whether a queue has room for n words (R335). -/
def queueRoom (s : State) (i n : Nat) : Bool :=
  decide ((s.queue i).used (Config.queueDepth (queueEngine i)) + n ≤ Config.queueDepth (queueEngine i))

/-- A command of a sequencer written into its queue: words claimed, the entry ready, one more command unfinished (R334, R335). -/
def enqueue (s : State) (c : CtxId) (q : SeqId) (engine : Nat) (b : Bytes) : State :=
  let i := queueIx engine q
  let n := b.length / 32
  let e : QEntry := { ctx := c, src := q, b := b, words := n, ready := true, consumed := false }
  let s1 := s.modQueue i (fun u => { u with w := (u.w + n) % (2 * Config.queueDepth engine), entries := u.entries ++ [e] })
  s1.modCtx c (fun x =>
    let x1 := x.modSeq q (fun v => { v with unfinished := v.unfinished.set engine (v.unfinished.getD engine 0 + 1) })
    if engine = 0 then (if q = .steppeW then { x1 with steppeW := x1.steppeW + 1 } else { x1 with steppeE := x1.steppeE + 1 }) else x1)

end State

/-- ISSUE: the command, parameters substituted, into the engine's queue, or a wait for room (R38 to R40, R93, R335, R518).  A length or issuer
that no bound image can hold does nothing (log 6). -/
def execIssue (c : CtxId) (q : SeqId) (engine : Byte) (len : Byte) (b : Bytes) (s : State) : Host.Outcome State Fault Refusal :=
  let e := engine.toNat
  .next (s.runSeq c q (s.issueAt c q e len.toNat b) (fun s =>
    if !mayIssue e q || decide (cmdWords e (fld b 0 1) ≠ some len.toNat) || decide (b.length ≠ 32 * len.toNat) then s
    else
      let b' := substitute e b ((s.ctx c).seq q)
      if s.queueRoom (queueIx e q) len.toNat then (s.enqueue c q e b').nextSeq c q
      else s.waitSeq c q (.queue engine len.toNat b')))

/-- QUEUE_CLAIM: a waiting ISSUE claims its words when they are free; the wait counts as a queue wait (R58, R335). -/
def execQueueClaim (c : CtxId) (q : SeqId) (s : State) : Host.Outcome State Fault Refusal :=
  let x := s.ctx c
  .next (match (x.seq q).status with
    | .queue engine len b =>
      if x.active && s.queueRoom (queueIx engine.toNat q) len then
        (s.enqueue c q engine.toNat b).modSeq c q (fun v => (v.waited 2 s.now).next)
      else s
    | _ => s)

/-- WAITDONE (R38). -/
def execWaitdone (c : CtxId) (q : SeqId) (engine : Byte) (most : U32) (s : State) : Host.Outcome State Fault Refusal :=
  .next (s.runSeq c q (s.seqAt c q == State.seqWord 0x02 (engine.toNat * 0x1000) most.toNat) (fun s =>
    if ((s.ctx c).seq q).unfinished.getD engine.toNat 0 ≤ most.toNat then s.nextSeq c q else s.waitSeq c q (.done engine most.toNat)))

/-! ### Sync counters (R346, R347) -/

/-- SIGNAL: added, at most 0x7FFFFFFF; a lock word faults the context (R346). -/
def execSignal (c : CtxId) (q : SeqId) (counter : U16) (inc : U32) (s : State) : Host.Outcome State Fault Refusal :=
  .next (s.runSeq c q (s.seqAt c q == State.seqWord 0x03 counter.toNat inc.toNat) (fun s =>
    if !(s.ctx c).inWindow counter.toNat || inc = 0 then s
    else if isLock (s.counter counter.toNat) then s.faultCtx c
    else (s.nextSeq c q).store counter.toNat (satAdd (s.counter counter.toNat) inc.toNat)))

/-- WAIT: proceeds once the counter holds a count of at least the threshold (R346). -/
def execWait (c : CtxId) (q : SeqId) (counter : U16) (threshold : U32) (s : State) : Host.Outcome State Fault Refusal :=
  .next (s.runSeq c q (s.seqAt c q == State.seqWord 0x04 counter.toNat threshold.toNat) (fun s =>
    let w := s.counter counter.toNat
    if !(s.ctx c).inWindow counter.toNat then s
    else if !isLock w && decide (threshold.toNat ≤ w.toNat) then s.nextSeq c q
    else s.waitSeq c q (.counter counter threshold)))

/-- ACQUIRE: takes a counter that holds 0; its own lock word faults; a holder that is FAULTED or DRAINED ends the step with INHERIT_TIMEOUT;
else it waits, and inheritance may raise or resume the holder (R346, R355). -/
def execAcquire (c : CtxId) (q : SeqId) (counter : U16) (s : State) : Host.Outcome State Fault Refusal :=
  .next (s.runSeq c q (s.seqAt c q == State.seqWord 0x05 counter.toNat 0) (fun s =>
    let k := counter.toNat
    let w := s.counter k
    let h := (s.ctx (lockCtx w)).state
    if !(s.ctx c).inWindow k then s
    else if w = 0 then (s.nextSeq c q).setCounter k (lockWord c q)
    else if w = lockWord c q then s.faultCtx c
    else if isLock w && (decide (h = .faulted) || decide (h = .drained)) then s.stopStep c .inheritTimeout
    else (s.waitSeq c q (.lock counter)).inherit))

/-- RELEASE: the lock of the caller's context passes to a waiter, or the counter becomes 0; an inheritance episode it served ends, and a
standing suspension request suspends the holder again (R346, R347, R355). -/
def execRelease (c : CtxId) (q : SeqId) (counter : U16) (s : State) : Host.Outcome State Fault Refusal :=
  .next (s.runSeq c q (s.seqAt c q == State.seqWord 0x06 counter.toNat 0) (fun s =>
    let k := counter.toNat
    let w := s.counter k
    if !(s.ctx c).inWindow k then s
    else if isLock w && decide (lockCtx w = c) then
      let s1 := (s.nextSeq c q).handOver k
      s1.modCtx c (fun x => match x.episode with
        | none => x
        | some e => if e.counter = counter then { x with episode := none, suspending := x.suspendReq || (s1.port x.port).lost } else x)
    else s.faultCtx c))

/-! ### Parameter registers and branches (R37, R38, R41) -/

/-- SETP: the register takes the immediate, zero-extended. -/
def execSetp (c : CtxId) (q : SeqId) (r : BitVec 4) (imm : U32) (s : State) : Host.Outcome State Fault Refusal :=
  .next (s.runSeq c q (s.seqAt c q == State.seqWord 0x07 (State.regA r) imm.toNat) (fun s => s.modSeq c q (fun v => (v.setReg r (imm.setWidth 64)).next)))

/-- LDP: the register takes an 8-byte word of the descriptor that started the step. -/
def execLdp (c : CtxId) (q : SeqId) (r : BitVec 4) (word : BitVec 3) (s : State) : Host.Outcome State Fault Refusal :=
  .next (s.runSeq c q (s.seqAt c q == State.seqWord 0x08 (State.regA r + word.toNat) 0) (fun s =>
    match (s.ctx c).run with
    | none => s
    | some run => s.modSeq c q (fun v => (v.setReg r (BitVec.ofNat 64 (descField run.d (8 * word.toNat) 8))).next)))

/-- ADDI: the sign-extended immediate added, modulo 2^64. -/
def execAddi (c : CtxId) (q : SeqId) (r : BitVec 4) (imm : U32) (s : State) : Host.Outcome State Fault Refusal :=
  .next (s.runSeq c q (s.seqAt c q == State.seqWord 0x09 (State.regA r) imm.toNat) (fun s => s.modSeq c q (fun v => (v.setReg r (v.reg r + imm.signExtend 64)).next)))

/-- BRZ: a branch if the register is zero. -/
def execBrz (c : CtxId) (q : SeqId) (r : BitVec 4) (target : U32) (s : State) : Host.Outcome State Fault Refusal :=
  .next (s.runSeq c q (s.seqAt c q == State.seqWord 0x0A (State.regA r) target.toNat) (fun s => s.modSeq c q (fun v => if v.reg r = 0 then { v with pos := target.toNat } else v.next)))

/-- BRNZ: a branch if the register is non-zero. -/
def execBrnz (c : CtxId) (q : SeqId) (r : BitVec 4) (target : U32) (s : State) : Host.Outcome State Fault Refusal :=
  .next (s.runSeq c q (s.seqAt c q == State.seqWord 0x0B (State.regA r) target.toNat) (fun s => s.modSeq c q (fun v => if v.reg r ≠ 0 then { v with pos := target.toNat } else v.next)))

/-- JMP. -/
def execJmp (c : CtxId) (q : SeqId) (target : U32) (s : State) : Host.Outcome State Fault Refusal :=
  .next (s.runSeq c q (s.seqAt c q == State.seqWord 0x0C 0 target.toNat) (fun s => s.modSeq c q (fun v => { v with pos := target.toNat })))

/-! ### Boundaries, Saddles and ends -/

namespace State

/-- Another context's training step on a table that has not reached its local step boundary (R359). -/
def otherTraining (s : State) (c : CtxId) (table : U32) : Bool :=
  s.ctxs.any (fun e => decide (e.1 ≠ c.toNat) && s.names (BitVec.ofNat 8 e.1) table &&
    (match e.2.run with | none => false | some r => decide (descOp r.d = 0x0B) && !r.passed))
/-- At a training context's boundary the first refresh that waits for it on a table it names may begin, once no other context's training step on
that table is before its own boundary (R359). -/
def refreshMayBegin (s : State) (c : CtxId) : State :=
  match (s.ctx c).run, s.acts.find? (fun a => a.code == 4) with
  | some r, some a =>
    if descOp r.d = 0x0B ∧ !a.begun ∧ s.names c a.target ∧ !s.otherTraining c a.target then
      { s with acts := s.acts.map (fun x => if x = a then { a with begun := true } else x) }
    else s
  | _, _ => s

/-- Whether the step that starts next is a GENERATE's: the boundary at which it begins is then its LIST's work (R258, log 31). -/
def generateNext (s : State) (c : CtxId) : Bool := match (s.ctx c).steps with | d :: _ => descOp d == 0x05 | [] => false
/-- The serving unit's work at a boundary that no GENERATE's step begins at: no slot is named; the requests it ends are kept for the entry that will
show them (R258, R267, R293). -/
def plainBoundary (s : State) (c : CtxId) : State :=
  let (t, r) := s.boundary c [] []
  t.noteEnds s c r.ended []

/-- The context's local step boundary: modes taken over, the serving unit's boundary work, the twelve sequencers released (R43, R258, R330). -/
def localBoundary (s : State) (c : CtxId) : State :=
  let s1 := (s.modCtx c (fun x => { x with modeNow := x.mode, run := x.run.map (fun r => { r with passed := true }) })).modCtx c
    (fun x => x.modSeqs (fun v => (v.waited 5 s.now).next))
  (if s1.generateNext c then s1 else s1.plainBoundary c).refreshMayBegin c

end State

/-- STEPEND: arrives at the boundary; the last of the twelve releases all (R43). -/
def execStepend (c : CtxId) (q : SeqId) (s : State) : Host.Outcome State Fault Refusal :=
  .next (s.runSeq c q (s.seqAt c q == State.seqWord 0x0D 0 0) (fun s =>
    let s1 := s.waitSeq c q .boundary
    if SeqId.all.all (fun p => decide (((s1.ctx c).seq p).status = .boundary)) then s1.localBoundary c else s1))

/-- SADDLE: joins the barrier of a plan entry; a different entry than another sequencer's, or a counter another context holds open, faults the
context; the last of the twelve is the device's local arrival (R407, R408).  A tree step that goes on in a broken context ends at its next Saddle (R414,
R418). -/
def execSaddle (c : CtxId) (q : SeqId) (entry : U16) (s : State) : Host.Outcome State Fault Refusal :=
  .next (s.runSeq c q (s.seqAt c q == State.seqWord 0x0E entry.toNat 0) (fun s =>
    match s.planEntry? c entry.toNat with
    | none => s
    | some e =>
      let k := planCounter e
      let v := s.saddles.getD k (Saddle.open c entry)
      let other := SeqId.all.any (fun p => match ((s.ctx c).seq p).status with | .saddle n => decide (n ≠ entry) | _ => false)
      if other || decide (v.ctx ≠ c) then s.faultCtx c
      else if (s.ctx c).broken && s.inTree c then s.loseCtx c
      else
        let s1 := s.modSeq c q (fun w => { w.wait (.saddle entry) s.now with arrived := s.now })
        if SeqId.all.all (fun p => decide (((s1.ctx c).seq p).status = .saddle entry)) then
          let v1 := State.startTimer { v with entry := entry, arrived := some s.now } e s.now
          ({ s1 with saddles := s1.saddles.set k v1 } : State).trySaddle k
        else ({ s1 with saddles := s1.saddles.set k { v with entry := entry } } : State)))

/-- HALT: the program ends; when all twelve have halted the step waits only for its writes and completes (R38, R376). -/
def execHalt (c : CtxId) (q : SeqId) (s : State) : Host.Outcome State Fault Refusal :=
  .next (s.runSeq c q (s.seqAt c q == State.seqWord 0x0F 0 0) (fun s =>
    let s1 := s.modSeq c q (fun v => { v with status := .halted })
    if (s1.ctx c).allHalted then
      match (s1.ctx c).run with
      | none => s1
      | some r =>
        let s2 := s1.modCtx c (fun x => { x with run := none, finishing := x.finishing ++ [{ r with left := x.open }] })
        s2.settle c
    else s1))

/-- TRAP: the context faults (R42); the code reaches no field the manual lays out (log 27). -/
def execTrap (c : CtxId) (q : SeqId) (code : U32) (s : State) : Host.Outcome State Fault Refusal :=
  .next (s.runSeq c q (s.seqAt c q == State.seqWord 0x10 0 code.toNat) (fun s => s.faultCtx c))

end Sys2Proof.Machine
end

