-- ==== Sys2Proof/Machine/Dispatch.lean ====
section
/-! DEFINITION. One arm per command: each calls the command's meaning. -/

namespace Sys2Proof.Machine

def exec (i : Instr) (s : State) : Host.Outcome State Fault Refusal :=
  match i with
  | .nop c q => Sys2Proof.Machine.execNop c q s
  | .issue c q engine len b => Sys2Proof.Machine.execIssue c q engine len b s
  | .queueClaim c q => Sys2Proof.Machine.execQueueClaim c q s
  | .waitdone c q engine most => Sys2Proof.Machine.execWaitdone c q engine most s
  | .signal c q counter inc => Sys2Proof.Machine.execSignal c q counter inc s
  | .wait c q counter threshold => Sys2Proof.Machine.execWait c q counter threshold s
  | .acquire c q counter => Sys2Proof.Machine.execAcquire c q counter s
  | .release c q counter => Sys2Proof.Machine.execRelease c q counter s
  | .setp c q r imm => Sys2Proof.Machine.execSetp c q r imm s
  | .ldp c q r word => Sys2Proof.Machine.execLdp c q r word s
  | .addi c q r imm => Sys2Proof.Machine.execAddi c q r imm s
  | .brz c q r target => Sys2Proof.Machine.execBrz c q r target s
  | .brnz c q r target => Sys2Proof.Machine.execBrnz c q r target s
  | .jmp c q target => Sys2Proof.Machine.execJmp c q target s
  | .stepend c q => Sys2Proof.Machine.execStepend c q s
  | .saddle c q entry => Sys2Proof.Machine.execSaddle c q entry s
  | .halt c q => Sys2Proof.Machine.execHalt c q s
  | .trap c q code => Sys2Proof.Machine.execTrap c q code s
  | .loadr c w e => Sys2Proof.Machine.execLoadr c w e s
  | .matmul c w e => Sys2Proof.Machine.execMatmul c w e s
  | .grouped c w e => Sys2Proof.Machine.execGrouped c w e s
  | .rimAdd c w e => Sys2Proof.Machine.execRimAdd c w e s
  | .rimMul c w e => Sys2Proof.Machine.execRimMul c w e s
  | .scaleBias c w e => Sys2Proof.Machine.execScaleBias c w e s
  | .convert c w e => Sys2Proof.Machine.execConvert c w e s
  | .gelu c w e => Sys2Proof.Machine.execGelu c w e s
  | .geluTanh c w e => Sys2Proof.Machine.execGeluTanh c w e s
  | .silu c w e => Sys2Proof.Machine.execSilu c w e s
  | .softmax c w e => Sys2Proof.Machine.execSoftmax c w e s
  | .layernorm c w e => Sys2Proof.Machine.execLayernorm c w e s
  | .rmsnorm c w e => Sys2Proof.Machine.execRmsnorm c w e s
  | .l2norm c w e => Sys2Proof.Machine.execL2norm c w e s
  | .meanpool c w e => Sys2Proof.Machine.execMeanpool c w e s
  | .rope c w e => Sys2Proof.Machine.execRope c w e s
  | .siluMul c w e => Sys2Proof.Machine.execSiluMul c w e s
  | .route c w e => Sys2Proof.Machine.execRoute c w e s
  | .sample c w e => Sys2Proof.Machine.execSample c w e s
  | .dropr c w e => Sys2Proof.Machine.execDropr c w e s
  | .lookup c q b => Sys2Proof.Machine.execLookup c q b s
  | .update c q b => Sys2Proof.Machine.execUpdate c q b s
  | .searchCommand c copies => Sys2Proof.Machine.execSearchCommand c copies s
  | .writeInsert c q b => Sys2Proof.Machine.execWriteInsert c q b s
  | .writeDelete c q b => Sys2Proof.Machine.execWriteDelete c q b s
  | .topk c q b => Sys2Proof.Machine.execTopk c q b s
  | .merge c q b => Sys2Proof.Machine.execMerge c q b s
  | .tokenizeCommand c q b => Sys2Proof.Machine.execTokenizeCommand c q b s
  | .detokenizeCommand c q b => Sys2Proof.Machine.execDetokenizeCommand c q b s
  | .grammarReset c q b => Sys2Proof.Machine.execGrammarReset c q b s
  | .grammarMask c q b => Sys2Proof.Machine.execGrammarMask c q b s
  | .grammarAdvance c q b => Sys2Proof.Machine.execGrammarAdvance c q b s
  | .pack c q b => Sys2Proof.Machine.execPack c q b s
  | .list c q b => Sys2Proof.Machine.execList c q b s
  | .accept c q b => Sys2Proof.Machine.execAccept c q b s
  | .commit c q b => Sys2Proof.Machine.execCommit c q b s
  | .summary c q b => Sys2Proof.Machine.execSummary c q b s
  | .copy c q b => Sys2Proof.Machine.execCopy c q b s
  | .wfill c q b => Sys2Proof.Machine.execWfill c q b s
  | .start c q b => Sys2Proof.Machine.execStart c q b s
  | .send c q b => Sys2Proof.Machine.execSend c q b s
  | .recv c q b => Sys2Proof.Machine.execRecv c q b s
  | .query d => Sys2Proof.Machine.execQuery d s
  | .embed d => Sys2Proof.Machine.execEmbed d s
  | .search d => Sys2Proof.Machine.execSearch d s
  | .rerank d => Sys2Proof.Machine.execRerank d s
  | .generate d => Sys2Proof.Machine.execGenerate d s
  | .pause d => Sys2Proof.Machine.execPause d s
  | .resume d => Sys2Proof.Machine.execResume d s
  | .cancel d => Sys2Proof.Machine.execCancel d s
  | .insert d => Sys2Proof.Machine.execInsert d s
  | .delete d => Sys2Proof.Machine.execDelete d s
  | .trainStep d => Sys2Proof.Machine.execTrainStep d s
  | .load d => Sys2Proof.Machine.execLoad d s
  | .loadImage d => Sys2Proof.Machine.execLoadImage d s
  | .loadComplete isImage object => Sys2Proof.Machine.execLoadComplete isImage object s
  | .relocationProceed object => Sys2Proof.Machine.execRelocationProceed object s
  | .evict d => Sys2Proof.Machine.execEvict d s
  | .evictFree object => Sys2Proof.Machine.execEvictFree object s
  | .evictImage d => Sys2Proof.Machine.execEvictImage d s
  | .mergeBuild d => Sys2Proof.Machine.execMergeBuild d s
  | .mergeInstall d => Sys2Proof.Machine.execMergeInstall d s
  | .installProceed shard => Sys2Proof.Machine.execInstallProceed shard s
  | .mergeAbort d => Sys2Proof.Machine.execMergeAbort d s
  | .hotRowRefresh d => Sys2Proof.Machine.execHotRowRefresh d s
  | .maintActivityComplete activity target => Sys2Proof.Machine.execMaintActivityComplete activity target s
  | .syncAdd d => Sys2Proof.Machine.execSyncAdd d s
  | .syncSet d => Sys2Proof.Machine.execSyncSet d s
  | .syncRead d => Sys2Proof.Machine.execSyncRead d s
  | .stats d => Sys2Proof.Machine.execStats d s
  | .step d => Sys2Proof.Machine.execStep d s
  | .stepUnbind d => Sys2Proof.Machine.execStepUnbind d s
  | .bindEffect c => Sys2Proof.Machine.execBindEffect c s
  | .stepStart c => Sys2Proof.Machine.execStepStart c s
  | .tokenize d => Sys2Proof.Machine.execTokenize d s
  | .detokenize d => Sys2Proof.Machine.execDetokenize d s
  | .fence d => Sys2Proof.Machine.execFence d s
  | .attest d => Sys2Proof.Machine.execAttest d s
  | .checkpoint d => Sys2Proof.Machine.execCheckpoint d s
  | .testSetpend d => Sys2Proof.Machine.execTestSetpend d s
  | .testEcho d => Sys2Proof.Machine.execTestEcho d s
  | .unknownOpcode d => Sys2Proof.Machine.execUnknownOpcode d s
  | .descriptorPlaced c r => Sys2Proof.Machine.execDescriptorPlaced c r s
  | .arbiterGrant arbiter reqs => Sys2Proof.Machine.execArbiterGrant arbiter reqs s
  | .enginePreemption queue => Sys2Proof.Machine.execEnginePreemption queue s
  | .steppeSaveComplete => Sys2Proof.Machine.execSteppeSaveComplete s
  | .contextSaveComplete c => Sys2Proof.Machine.execContextSaveComplete c s
  | .contextRestoreComplete c => Sys2Proof.Machine.execContextRestoreComplete c s
  | .inheritanceBudgetExpiry c => Sys2Proof.Machine.execInheritanceBudgetExpiry c s
  | .replayOutcome ep => Sys2Proof.Machine.execReplayOutcome ep s
  | .scrubRead tier object isImage offset found loc => Sys2Proof.Machine.execScrubRead tier object isImage offset found loc s
  | .checkpointTimer => Sys2Proof.Machine.execCheckpointTimer s
  | .checkpointWritten ok bad => Sys2Proof.Machine.execCheckpointWritten ok bad s
  | .portPoll p => Sys2Proof.Machine.execPortPoll p s
  | .portIdle p => Sys2Proof.Machine.execPortIdle p s
  | .ptmExchange p master roundTrip => Sys2Proof.Machine.execPtmExchange p master roundTrip s
  | .msixModerationTime p v => Sys2Proof.Machine.execMsixModerationTime p v s
  | .msixResend p v => Sys2Proof.Machine.execMsixResend p v s
  | .msixUnmask p v => Sys2Proof.Machine.execMsixUnmask p v s
  | .msixEnable p => Sys2Proof.Machine.execMsixEnable p s
  | .pcieDlDown p => Sys2Proof.Machine.execPcieDlDown p s
  | .pcieCompletionTimeout p => Sys2Proof.Machine.execPcieCompletionTimeout p s
  | .functionLevelReset p => Sys2Proof.Machine.execFunctionLevelReset p s
  | .d3hotEntry p => Sys2Proof.Machine.execD3hotEntry p s
  | .perst p => Sys2Proof.Machine.execPerst p s
  | .portLinkTrained p => Sys2Proof.Machine.execPortLinkTrained p s
  | .ownerClaim p => Sys2Proof.Machine.execOwnerClaim p s
  | .ownerRelease p => Sys2Proof.Machine.execOwnerRelease p s
  | .ctxSuspend p c => Sys2Proof.Machine.execCtxSuspend p c s
  | .suspendWithdraw p c => Sys2Proof.Machine.execSuspendWithdraw p c s
  | .ctxClear p c => Sys2Proof.Machine.execCtxClear p c s
  | .ringReset p c r => Sys2Proof.Machine.execRingReset p c r s
  | .ctxDusk p c => Sys2Proof.Machine.execCtxDusk p c s
  | .graceExpiry c => Sys2Proof.Machine.execGraceExpiry c s
  | .cqWrite p c value => Sys2Proof.Machine.execCqWrite p c value s
  | .swset p bits => Sys2Proof.Machine.execSwset p bits s
  | .swpendClear p bits => Sys2Proof.Machine.execSwpendClear p bits s
  | .dmahaltRelease p bits => Sys2Proof.Machine.execDmahaltRelease p bits s
  | .attnRingWrite p value => Sys2Proof.Machine.execAttnRingWrite p value s
  | .integThreshWrite p kind value => Sys2Proof.Machine.execIntegThreshWrite p kind value s
  | .integClear p value => Sys2Proof.Machine.execIntegClear p value s
  | .syncClear p base count => Sys2Proof.Machine.execSyncClear p base count s
  | .linkPortWrite p n value => Sys2Proof.Machine.execLinkPortWrite p n value s
  | .levelWrite p level => Sys2Proof.Machine.execLevelWrite p level s
  | .rampEnd => Sys2Proof.Machine.execRampEnd s
  | .trimWrite p dom value => Sys2Proof.Machine.execTrimWrite p dom value s
  | .autotrim dom => Sys2Proof.Machine.execAutotrim dom s
  | .duskStart p => Sys2Proof.Machine.execDuskStart p s
  | .deviceDuskDone => Sys2Proof.Machine.execDeviceDuskDone s
  | .bootWindowWrite p offset data => Sys2Proof.Machine.execBootWindowWrite p offset data s
  | .bootGo p => Sys2Proof.Machine.execBootGo p s
  | .imageVerified => Sys2Proof.Machine.execImageVerified s
  | .bootLock p => Sys2Proof.Machine.execBootLock p s
  | .certload p => Sys2Proof.Machine.execCertload p s
  | .cardWipe p => Sys2Proof.Machine.execCardWipe p s
  | .registerWrite p offset size value => Sys2Proof.Machine.execRegisterWrite p offset size value s
  | .vinRise => Sys2Proof.Machine.execVinRise s
  | .railsInRegulation => Sys2Proof.Machine.execRailsInRegulation s
  | .resetRelease failed => Sys2Proof.Machine.execResetRelease failed s
  | .dawnBringup hbm => Sys2Proof.Machine.execDawnBringup hbm s
  | .retainedStateRestore trained dimms socket => Sys2Proof.Machine.execRetainedStateRestore trained dimms socket s
  | .resetAssert => Sys2Proof.Machine.execResetAssert s
  | .vinLow => Sys2Proof.Machine.execVinLow s
  | .vinReturn => Sys2Proof.Machine.execVinReturn s
  | .powerSample milliwatts vinMv sensors => Sys2Proof.Machine.execPowerSample milliwatts vinMv sensors s
  | .powerControlTick => Sys2Proof.Machine.execPowerControlTick s
  | .junctionCritical die reading => Sys2Proof.Machine.execJunctionCritical die reading s
  | .thermalTrip => Sys2Proof.Machine.execThermalTrip s
  | .thermtripLatchClear => Sys2Proof.Machine.execThermtripLatchClear s
  | .mgmtIndexWrite index => Sys2Proof.Machine.execMgmtIndexWrite index s
  | .mgmtRead count => Sys2Proof.Machine.execMgmtRead count s
  | .lanesLocked n good => Sys2Proof.Machine.execLanesLocked n good s
  | .trainingRecord n tr => Sys2Proof.Machine.execTrainingRecord n tr s
  | .laneLockLoss n => Sys2Proof.Machine.execLaneLockLoss n s
  | .retrainTimeout n => Sys2Proof.Machine.execRetrainTimeout n s
  | .linkRetryTimer n => Sys2Proof.Machine.execLinkRetryTimer n s
  | .dataFrame n h payload => Sys2Proof.Machine.execDataFrame n h payload s
  | .replayRequest n ack => Sys2Proof.Machine.execReplayRequest n ack s
  | .idleFrame n ack cvc credits => Sys2Proof.Machine.execIdleFrame n ack cvc credits s
  | .arrive n h a => Sys2Proof.Machine.execArrive n h a s
  | .releaseParcel n h pass counter c => Sys2Proof.Machine.execReleaseParcel n h pass counter c s
  | .abandon n h pass counter c device why => Sys2Proof.Machine.execAbandon n h pass counter c device why s
  | .timeReq n h t1 => Sys2Proof.Machine.execTimeReq n h t1 s
  | .timeResp n h t1 t2 t3 => Sys2Proof.Machine.execTimeResp n h t1 t2 t3 s
  | .timeExchange => Sys2Proof.Machine.execTimeExchange s
  | .rollcall n h low high depth treeId size => Sys2Proof.Machine.execRollcall n h low high depth treeId size s
  | .formed n h treeId size => Sys2Proof.Machine.execFormed n h treeId size s
  | .lost n h low high why => Sys2Proof.Machine.execLost n h low high why s
  | .rejoin n h low high => Sys2Proof.Machine.execRejoin n h low high s
  | .relay n h origin code seq detail => Sys2Proof.Machine.execRelay n h origin code seq detail s
  | .saddleTimeout counter => Sys2Proof.Machine.execSaddleTimeout counter s
  | .failedFrame n => Sys2Proof.Machine.execFailedFrame n s
  | .pwrgdResetDelay => Sys2Proof.Machine.execPwrgdResetDelay s

end Sys2Proof.Machine
end

