-- ==== Sys2Proof/WellFormed.lean ====
section
/-! DEFINITION. Well-formed commands: what a sender's command carries.  A descriptor is 64 bytes with its row's opcode (R375, R378), a
command block is a whole number of 32-byte words of the length R40 gives it, a control parcel's and a frame's fields have the sizes of
R395 and R405, a register write is of 1, 2, 4 or 8 bytes. -/

namespace Sys2Proof

/-- A descriptor of 64 bytes with an opcode (R375). -/
def Desc.wf (d : Desc) (op : Nat) : Bool := d.bytes.length == 64 && fld d.bytes 0 1 == op
/-- A descriptor of 64 bytes with an opcode and a value in byte 16, where R378's rows differ by it. -/
def Desc.wfSub (d : Desc) (op sub : Nat) : Bool := d.wf op && fld d.bytes 16 1 == sub
/-- A descriptor with an opcode and the value of a bit of byte 20 (IMAGE of R516, UNBIND of R33). -/
def Desc.wfBit (d : Desc) (op bit : Nat) (v : Bool) : Bool := d.wf op && bitAt d.bytes 20 bit == v

/-- A command block of n words with a command code (R40). -/
def blockWf (b : Bytes) (n cmd : Nat) : Bool := b.length == 32 * n && fld b 0 1 == cmd
/-- The two copies of a Steppe command (R93). -/
def copiesWf (w e : Bytes) (n cmd : Nat) : Bool := blockWf w n cmd && blockWf e n cmd
/-- The two copies of a RIM command with its op byte (R113). -/
def rimWf (w e : Bytes) (op : Nat) : Bool := copiesWf w e 2 0x04 && fld w 1 1 == op && fld e 1 1 == op

/-- A command whose operands have the forms the manual gives them. -/
def Instr.wf : Instr → Bool
  | .nop _ _ => true
  | .issue _ _ _ len b => b.length == 32 * len.toNat
  | .queueClaim _ _ => true
  | .waitdone _ _ _ _ => true
  | .signal _ _ _ _ => true
  | .wait _ _ _ _ => true
  | .acquire _ _ _ => true
  | .release _ _ _ => true
  | .setp _ _ _ _ => true
  | .ldp _ _ _ _ => true
  | .addi _ _ _ _ => true
  | .brz _ _ _ _ => true
  | .brnz _ _ _ _ => true
  | .jmp _ _ _ => true
  | .stepend _ _ => true
  | .saddle _ _ _ => true
  | .halt _ _ => true
  | .trap _ _ _ => true
  | .loadr _ w e => copiesWf w e 1 0x01
  | .matmul _ w e => copiesWf w e 2 0x02
  | .grouped _ w e => copiesWf w e 2 0x03
  | .rimAdd _ w e => rimWf w e 0x01
  | .rimMul _ w e => rimWf w e 0x02
  | .scaleBias _ w e => rimWf w e 0x03
  | .convert _ w e => rimWf w e 0x04
  | .gelu _ w e => rimWf w e 0x05
  | .geluTanh _ w e => rimWf w e 0x06
  | .silu _ w e => rimWf w e 0x07
  | .softmax _ w e => rimWf w e 0x08
  | .layernorm _ w e => rimWf w e 0x09
  | .rmsnorm _ w e => rimWf w e 0x0A
  | .l2norm _ w e => rimWf w e 0x0B
  | .meanpool _ w e => rimWf w e 0x0C
  | .rope _ w e => rimWf w e 0x0D
  | .siluMul _ w e => rimWf w e 0x0E
  | .route _ w e => rimWf w e 0x0F
  | .sample _ w e => rimWf w e 0x10
  | .dropr _ w e => copiesWf w e 1 0x05
  | .lookup _ _ b => blockWf b 2 0x01
  | .update _ _ b => blockWf b 2 0x02
  | .searchCommand _ bs => !bs.isEmpty && bs.all (fun b => blockWf b 2 0x01)
  | .writeInsert _ _ b => blockWf b 2 0x02 && !bitAt b 1 0
  | .writeDelete _ _ b => blockWf b 2 0x02 && bitAt b 1 0
  | .topk _ _ b => blockWf b 2 0x01
  | .merge _ _ b => blockWf b 2 0x02
  | .tokenizeCommand _ _ b => blockWf b 2 0x01
  | .detokenizeCommand _ _ b => blockWf b 2 0x02
  | .grammarReset _ _ b => blockWf b 2 0x03
  | .grammarMask _ _ b => blockWf b 2 0x03
  | .grammarAdvance _ _ b => blockWf b 2 0x03
  | .pack _ _ b => blockWf b 2 0x01
  | .list _ _ b => blockWf b 2 0x01
  | .accept _ _ b => blockWf b 2 0x02
  | .commit _ _ b => blockWf b 2 0x03
  | .summary _ _ b => blockWf b 2 0x04
  | .copy _ _ b => blockWf b 2 0x01
  | .wfill _ _ b => blockWf b 2 0x10
  | .start _ _ b => blockWf b 2 0x01
  | .send _ _ b => blockWf b 1 0x01
  | .recv _ _ b => blockWf b 1 0x02
  | .query d => d.wf 0x01
  | .embed d => d.wf 0x02
  | .search d => d.wf 0x03
  | .rerank d => d.wf 0x04
  | .generate d => d.wf 0x05
  | .pause d => d.wf 0x06
  | .resume d => d.wf 0x07
  | .cancel d => d.wf 0x08
  | .insert d => d.wf 0x09
  | .delete d => d.wf 0x0A
  | .trainStep d => d.wf 0x0B
  | .load d => d.wfBit 0x0C 1 false
  | .loadImage d => d.wfBit 0x0C 1 true
  | .loadComplete _ _ => true
  | .relocationProceed _ => true
  | .evict d => d.wfBit 0x0D 1 false
  | .evictFree _ => true
  | .evictImage d => d.wfBit 0x0D 1 true
  | .mergeBuild d => d.wfSub 0x0E 1
  | .mergeInstall d => d.wfSub 0x0E 2
  | .installProceed _ => true
  | .mergeAbort d => d.wfSub 0x0E 3
  | .hotRowRefresh d => d.wf 0x0E && (fld d.bytes 16 1 == 0 || decide (4 ≤ fld d.bytes 16 1))
  | .maintActivityComplete _ _ => true
  | .syncAdd d => d.wfSub 0x0F 0
  | .syncSet d => d.wfSub 0x0F 1
  | .syncRead d => d.wf 0x0F && decide (2 ≤ fld d.bytes 16 1)
  | .stats d => d.wf 0x10
  | .step d => d.wfBit 0x11 0 false
  | .stepUnbind d => d.wfBit 0x11 0 true
  | .bindEffect _ => true
  | .stepStart _ => true
  | .tokenize d => d.wf 0x12
  | .detokenize d => d.wf 0x13
  | .fence d => d.wf 0x14
  | .attest d => d.wf 0x15
  | .checkpoint d => d.wf 0x16
  | .testSetpend d => d.wfSub 0x17 0
  | .testEcho d => d.wf 0x17 && decide (1 ≤ fld d.bytes 16 1)
  | .unknownOpcode d => d.bytes.length == 64 && (fld d.bytes 0 1 == 0 || decide (0x18 ≤ fld d.bytes 0 1))
  | .descriptorPlaced _ _ => true
  | .arbiterGrant _ reqs => decide (reqs.map ArbReq.who).Nodup
  | .enginePreemption q => decide (q < 18)
  | .steppeSaveComplete => true
  | .contextSaveComplete _ => true
  | .contextRestoreComplete _ => true
  | .inheritanceBudgetExpiry _ => true
  | .replayOutcome _ => true
  | .scrubRead tier _ _ _ _ _ => decide (tier.toNat ≤ 2)
  | .checkpointTimer => true
  | .checkpointWritten _ _ => true
  | .portPoll _ => true
  | .portIdle _ => true
  | .ptmExchange _ _ _ => true
  | .msixModerationTime _ _ => true
  | .msixResend _ _ => true
  | .msixUnmask _ _ => true
  | .msixEnable _ => true
  | .pcieDlDown _ => true
  | .pcieCompletionTimeout _ => true
  | .functionLevelReset _ => true
  | .d3hotEntry _ => true
  | .perst _ => true
  | .portLinkTrained _ => true
  | .ownerClaim _ => true
  | .ownerRelease _ => true
  | .ctxSuspend _ _ => true
  | .suspendWithdraw _ _ => true
  | .ctxClear _ _ => true
  | .ringReset _ _ _ => true
  | .ctxDusk _ _ => true
  | .graceExpiry _ => true
  | .cqWrite _ _ _ => true
  | .swset _ _ => true
  | .swpendClear _ _ => true
  | .dmahaltRelease _ _ => true
  | .attnRingWrite _ _ => true
  | .integThreshWrite _ _ _ => true
  | .integClear _ _ => true
  | .syncClear _ _ _ => true
  | .linkPortWrite _ _ _ => true
  | .levelWrite _ _ => true
  | .rampEnd => true
  | .trimWrite _ _ _ => true
  | .autotrim _ => true
  | .duskStart _ => true
  | .deviceDuskDone => true
  | .bootWindowWrite _ off data => decide (off.toNat + data.length ≤ 0x4000000)
  | .bootGo _ => true
  | .imageVerified => true
  | .bootLock _ => true
  | .certload _ => true
  | .cardWipe _ => true
  | .registerWrite _ _ size _ => size == 1 || size == 2 || size == 4 || size == 8
  | .vinRise => true
  | .railsInRegulation => true
  | .resetRelease _ => true
  | .dawnBringup _ => true
  | .retainedStateRestore _ _ _ => true
  | .resetAssert => true
  | .vinLow => true
  | .vinReturn => true
  | .powerSample _ _ sensors => sensors.length == 40
  | .powerControlTick => true
  | .junctionCritical _ _ => true
  | .thermalTrip => true
  | .thermtripLatchClear => true
  | .mgmtIndexWrite _ => true
  | .mgmtRead _ => true
  | .lanesLocked _ _ => true
  | .trainingRecord _ _ => true
  | .laneLockLoss _ => true
  | .retrainTimeout _ => true
  | .linkRetryTimer _ => true
  | .dataFrame _ _ payload => payload.length == 256
  | .replayRequest _ _ => true
  | .idleFrame _ _ _ _ => true
  | .arrive _ _ _ => true
  | .releaseParcel _ _ _ _ _ => true
  | .abandon _ _ _ _ _ _ _ => true
  | .timeReq _ _ _ => true
  | .timeResp _ _ _ _ _ => true
  | .timeExchange => true
  | .rollcall _ _ _ _ _ _ _ => true
  | .formed _ _ _ _ => true
  | .lost _ _ _ _ _ => true
  | .rejoin _ _ _ _ => true
  | .relay _ _ _ _ _ detail => detail.length == 44
  | .saddleTimeout _ => true
  | .failedFrame _ => true
  | .pwrgdResetDelay => true

end Sys2Proof
end

