-- ==== Sys2Proof/Safety.lean ====
section
/-! DEFINITION. What counts as a safe state, when a command has its effect, and what it leaves alone, in the terms the statements use. -/

namespace Sys2Proof.Machine

/-! ### Invariants -/

/-- The phases of Dawn fit together (R459, R464): the state is 0 to 4; the BARs answer from state 1 on, and only after the self-test; firmware runs from some
moment of state 2 on; the lock is set in state 4 and in no other. -/
def dawnOrdered (s : State) : Prop :=
  s.boot.state.toNat ≤ 4 ∧ (s.boot.locked = true ↔ s.boot.state = 4) ∧ (s.boot.bars = true ↔ s.boot.state ≠ 0) ∧
    (s.boot.bars = true → s.boot.selftested = true) ∧ (s.boot.firmware = true → 2 ≤ s.boot.state.toNat) ∧
    (3 ≤ s.boot.state.toNat → s.boot.firmware = true)

/-- The commands that end in a reset of the device's own state: the lock clears at these alone (R464, R479, R505 to R507). -/
def resets : Instr → Bool
  | .resetAssert | .resetRelease _ | .pwrgdResetDelay | .vinLow | .thermalTrip | .thermtripLatchClear => true
  | _ => false
/-- A report of a junction that trips the device: the hottest of the readings that the controller then holds is 115 °C or more (R450). -/
def trips (s : State) : Instr → Bool
  | .powerSample mw vin sensors => decide (460 ≤ (s.sampled mw vin sensors).hottest)
  | .junctionCritical die reading => decide (460 ≤ (s.readAt die reading).hottest)
  | _ => false

/-! ### What a command leaves alone -/

/-- Only context c differs. -/
def ctxOnly (s t : State) (c : CtxId) : Prop := t = { s with ctxs := t.ctxs } ∧ ∀ d, d ≠ c → t.ctx d = s.ctx d
/-- Only sequencer q of context c differs. -/
def seqOnly (s t : State) (c : CtxId) (q : SeqId) : Prop :=
  ctxOnly s t c ∧ t.ctx c = { s.ctx c with seqs := (t.ctx c).seqs } ∧ ∀ p, p ≠ q → (t.ctx c).seq p = (s.ctx c).seq p
/-- Sequencer q's parameter register r takes w, its other registers and fields stay, and it goes on at the next instruction. -/
def regWritten (s t : State) (c : CtxId) (q : SeqId) (r : BitVec 4) (w : U64) : Prop :=
  seqOnly s t c q ∧ ((t.ctx c).seq q).reg r = w ∧ (∀ r', r' ≠ r → ((t.ctx c).seq q).reg r' = ((s.ctx c).seq q).reg r') ∧
    (t.ctx c).seq q = { (s.ctx c).seq q with regs := ((t.ctx c).seq q).regs, pos := ((s.ctx c).seq q).pos + 1, status := .running }
/-- Sequencer q goes on at a position, registers and all else as before. -/
def goesTo (s t : State) (c : CtxId) (q : SeqId) (pos : Nat) : Prop :=
  seqOnly s t c q ∧ (t.ctx c).seq q = { (s.ctx c).seq q with pos := pos, status := .running }
/-- Sequencer q starts to wait where it is. -/
def waitsAt (s t : State) (c : CtxId) (q : SeqId) (st : SeqStatus) : Prop :=
  seqOnly s t c q ∧ (t.ctx c).seq q = { (s.ctx c).seq q with status := st, since := s.now }

/-- A SEND in progress without the time since which a frame of it has waited. -/
def bareSend (r : SendRun) : SendRun := { r with wait := none }
/-- No context differs but in its sequencers' lag records of credit waits (R58). -/
def lagsOnly (s t : State) : Prop :=
  ∀ c, t.ctx c = { s.ctx c with seqs := (t.ctx c).seqs } ∧
    ∀ q, (t.ctx c).seq q = { (s.ctx c).seq q with lag := ((t.ctx c).seq q).lag, creditBuf := ((t.ctx c).seq q).creditBuf }

/-- Frames sent move the ports, their arbiters' records, the free choice, and the notes of the SENDs that wait for a credit (R58, R396). -/
def egressOnly (s t : State) : Prop :=
  t = { s with links := t.links, arbs := t.arbs, fresh := t.fresh, ctxs := t.ctxs, sends := t.sends } ∧ lagsOnly s t ∧
    t.sends.map bareSend = s.sends.map bareSend

/-! ### When a command has its effect -/

/-- A sequencer executes an instruction: its context is active and has a step and an image, the sequencer runs, its position holds a good word, and `here`
says that this is the instruction. -/
def seqReady (s : State) (c : CtxId) (q : SeqId) (here : Bool) : Bool :=
  let x := s.ctx c
  let v := x.seq q
  x.active && decide (v.status = .running) && x.run.isSome &&
    (match x.image with
     | none => false
     | some i => decide (v.pos < (s.section i q.num).2.2) && !s.wordPoisoned i ((s.section i q.num).1 + 8 * v.pos)) && here

/-- An engine executes a command of a context: the context is active, the engine has started its copies, and every object is there with no poisoned parcel in
a range. -/
def engineReady (s : State) (c : CtxId) (on : State.Copies) (acc : List Access) : Bool :=
  (s.ctx c).active && s.started c on && s.resident acc && (s.poisonedAccess acc).isNone

/-- A RIM command of an operation is allowed and ready, its two copies being the block w. -/
def rimReady (s : State) (c : CtxId) (w : Bytes) (u : RimUse) (op : Nat) : Bool :=
  let x := Rim.of w
  blockOk 0 w && fld w 0 1 == 4 && s.rimOk c w x u op && engineReady s c (State.steppeCopies w w) (if x.rows = 0 then [] else x.acc u)
/-- A RIM command done: its output rows written, both copies finished with. -/
def rimDone (s : State) (c : CtxId) (w : Bytes) (u : RimUse) (rows : List (List F32)) : State := (s.rimWrite c (Rim.of w) u rows).steppeDone c
/-- The input rows of a RIM command, in FP32. -/
def rimIn (s : State) (w : Bytes) (u : RimUse) : List (List F32) := (List.range (Rim.of w).rows).map (s.rimA (Rim.of w) u)

/-! ### Descriptors -/

/-- The descriptor that a descriptor command carries, when it is of the command's own kind (R378); a MAINT, SYNC or TEST of no kind that R378 lists comes by
HOT_ROW_REFRESH, SYNC_READ or TEST_ECHO. -/
def carries (i : Instr) : Option Desc :=
  let when := fun (ok : Bool) (d : Desc) => if ok then some d else none
  let img := fun (d : Desc) => bitAt d.bytes 20 1
  let kind := fun (d : Desc) => descField d 16 1
  match i with
  | .query d => when (descOp d == 0x01) d
  | .embed d => when (descOp d == 0x02) d
  | .search d => when (descOp d == 0x03) d
  | .rerank d => when (descOp d == 0x04) d
  | .generate d => when (descOp d == 0x05) d
  | .pause d => when (descOp d == 0x06) d
  | .resume d => when (descOp d == 0x07) d
  | .cancel d => when (descOp d == 0x08) d
  | .insert d => when (descOp d == 0x09) d
  | .delete d => when (descOp d == 0x0A) d
  | .trainStep d => when (descOp d == 0x0B) d
  | .load d => when (descOp d == 0x0C && !img d) d
  | .loadImage d => when (descOp d == 0x0C && img d) d
  | .evict d => when (descOp d == 0x0D && !img d) d
  | .evictImage d => when (descOp d == 0x0D && img d) d
  | .mergeBuild d => when (descOp d == 0x0E && kind d == 1) d
  | .mergeInstall d => when (descOp d == 0x0E && kind d == 2) d
  | .mergeAbort d => when (descOp d == 0x0E && kind d == 3) d
  | .hotRowRefresh d => when (descOp d == 0x0E && (kind d == 0 || decide (4 ≤ kind d))) d
  | .syncAdd d => when (descOp d == 0x0F && kind d == 0) d
  | .syncSet d => when (descOp d == 0x0F && kind d == 1) d
  | .syncRead d => when (descOp d == 0x0F && decide (2 ≤ kind d)) d
  | .stats d => when (descOp d == 0x10) d
  | .step d => when (descOp d == 0x11 && !bitAt d.bytes 20 0) d
  | .stepUnbind d => when (descOp d == 0x11 && bitAt d.bytes 20 0) d
  | .tokenize d => when (descOp d == 0x12) d
  | .detokenize d => when (descOp d == 0x13) d
  | .fence d => when (descOp d == 0x14) d
  | .attest d => when (descOp d == 0x15) d
  | .checkpoint d => when (descOp d == 0x16) d
  | .testSetpend d => when (descOp d == 0x17 && kind d == 0) d
  | .testEcho d => when (descOp d == 0x17 && decide (1 ≤ kind d)) d
  | .unknownOpcode d => when (descOp d == 0 || decide (0x18 ≤ descOp d)) d
  | _ => none

/-- A descriptor that arrives meets the checks of R377 at once: its context's rings are polled and its ring is not stopped, nothing waits before it, no FENCE is
outstanding, and the completion ring has room. -/
def admits (s : State) (d : Desc) : Bool :=
  s.fetchable d && ((s.ctx d.ctx).waits d.ring).isEmpty && !(s.ctx d.ctx).outstanding.any (fun e => isFence e.1) && (s.ctx d.ctx).cqRoom
/-- A descriptor that arrives is expanded at once: it is admitted, passes checks 1 to 4 of R377, and its entry fits in its queue (R25). -/
def expandsNow (s : State) (d : Desc) : Bool :=
  admits s d && descCrcOk d.bytes && headerOk d && s.countersOk d && s.waitMet d && s.descRoom d
/-- The state with a descriptor fetched and expanded: counted at its ring, outstanding, its completion entry reserved (R372, R373). -/
def expanded (s : State) (d : Desc) : State := (s.countFetch d).take d false
/-- The descriptor waits at the end of its ring's waiting ones; nothing else differs. -/
def ringWaits (s t : State) (d : Desc) : Prop :=
  ctxOnly s t d.ctx ∧ (t.ctx d.ctx).waits d.ring = (s.ctx d.ctx).waits d.ring ++ [(d, false)]

/-! ### Integrity -/

/-- The count that a class holds for a location, 0 where it has no entry (R432, R433). -/
def countAt (s : State) (correctable : Bool) (l : Location) : Nat :=
  match (s.counters correctable).find? (fun k => k.loc == l) with | none => 0 | some k => k.count.toNat

/-! ### Selyn frames -/

/-- The port and header of a data or control frame that a command brings (R397, R405). -/
def frameOf : Instr → Option (SelynPort × FrameHdr)
  | .dataFrame n h _ | .arrive n h _ | .releaseParcel n h _ _ _ | .abandon n h _ _ _ _ _ | .timeReq n h _ | .timeResp n h _ _ _
  | .rollcall n h _ _ _ _ _ | .formed n h _ _ | .lost n h _ _ _ | .rejoin n h _ _ | .relay n h _ _ _ _ => some (n, h)
  | _ => none
/-- A port accepts a frame: it is up and the frame is the next expected. -/
def accepts (s : State) (n : SelynPort) (h : FrameHdr) : Bool := (s.link n).up && decide (h.seq = (s.link n).expected)
/-- The state with a frame accepted: the next is expected, and its ack and credits are taken (R396, R397). -/
def accepted (s : State) (n : SelynPort) (h : FrameHdr) : State :=
  (s.modLink n (fun l => { l with expected := l.expected + 1, discarding := false })).takeAck n h.ack h.cvc h.credits.toNat
/-- The state with a control parcel accepted: its slot is free again at once. -/
def heard (s : State) (n : SelynPort) (h : FrameHdr) : State := (accepted s n h).modLink n (fun l => l.freed vcControl)
/-- Device time after an exchange of an offset: forward in one step at the first one and when the source is more than 1 ms ahead, else slewed (R389, R410). -/
def steps (offset : Int) (first : Bool) : Bool := decide (0 < offset) && (first || decide (1000000 < offset))

end Sys2Proof.Machine
end

