-- ==== Sys2Proof/Certificates/Slice0/Obligations.lean ====
section
/-! DEFINITION. The statements for the provers, from the numbered rules of the manual. -/

open Sys2Proof
open Sys2Proof.Machine

/-! ### The machine -/

/-- A step takes the command at the front of the queue and runs it on the state with the queue's rest. -/
def Obligations.StepRunsFrontCommand : Prop :=
  ∀ (s : State) (c : Instr) (rest : List Instr), s.pending = c :: rest → step s = exec c { s with pending := rest }

/-- With nothing waiting, time passes: device time gains 5,000 ns, one more or less while it slews (R389), and the command queue stays empty (log 5). -/
def Obligations.IdleStepPassesTime : Prop :=
  ∀ (s : State), s.pending = [] → ∃ t, step s = .next t ∧ t.pending = [] ∧
    t.clock.now = s.clock.now + BitVec.ofInt 64 (if 0 < s.clock.slew then 5001 else if s.clock.slew < 0 then 4999 else 5000)

/-- No command is refused, and only a report of stress beyond the absolute ratings of R512 stops the machine; there the manual defines no operation.
Choices of the model: log 87. -/
def Obligations.OnlyStressStops : Prop :=
  ∀ (i : Instr) (s : State), (∃ t, exec i s = .next t) ∨
    (exec i s = .fault .outsideRatings ∧
      ((∃ mw vin sensors, i = .powerSample mw vin sensors ∧ (14000 < vin.toNat ∨ ∃ r ∈ sensors, 500 < r.toNat)) ∨
       (∃ die r, i = .junctionCritical die r ∧ 500 < r.toNat)))

/-- A command's effect leaves the queue of waiting commands alone. -/
def Obligations.CommandsLeaveQueue : Prop :=
  ∀ (i : Instr) (s t : State), exec i s = .next t → t.pending = s.pending

/-- The memory keeps its canonical form over every step. -/
def Obligations.MemoryStaysCanonical : Prop :=
  ∀ (s t : State), s.mem.wf → step s = .next t → t.mem.wf

/-- The phases of Dawn stay in order over every step (R459, R464). -/
def Obligations.DawnStaysOrdered : Prop :=
  ∀ (s t : State), dawnOrdered s → step s = .next t → dawnOrdered t

/-- The state at reset meets both invariants. -/
def Obligations.ResetMeetsInvariants : Prop := State.reset.mem.wf ∧ dawnOrdered State.reset

/-- The fuse store changes only when boot ROM accepts an image (R457, R463): floor bits are only set, and key slot 0 is only revoked. -/
def Obligations.FusesOnlyBurn : Prop :=
  ∀ (i : Instr) (s t : State), exec i s = .next t →
    (t.boot.fuses = s.boot.fuses ∨ (i = .imageVerified ∧ s.imageStatus = 0)) ∧
    t.boot.fuses = { s.boot.fuses with floor := t.boot.fuses.floor, revoked := t.boot.fuses.revoked } ∧
    (∀ k, s.boot.fuses.floor.getLsbD k = true → t.boot.fuses.floor.getLsbD k = true) ∧
    (∀ k, s.boot.fuses.revoked.getLsbD k = true → t.boot.fuses.revoked.getLsbD k = true)

/-- Once the lock is set only a reset or the thermal trip clears it, and while it stays set no command changes a field that it freezes: MEM.STEPMEM, LINK.TREE, the image length, and
the step memory in force (R13, R15, R464). -/
def Obligations.LockFreezes : Prop :=
  ∀ (i : Instr) (s t : State), dawnOrdered s → s.boot.locked = true → exec i s = .next t →
    (t.boot.locked = false → resets i = true ∨ trips s i = true) ∧
    (t.boot.locked = true →
      t.regs.stepmem = s.regs.stepmem ∧ t.regs.treeIndex = s.regs.treeIndex ∧ t.regs.treeRole = s.regs.treeRole ∧
      t.regs.treeUplink = s.regs.treeUplink ∧ t.regs.treeChildren = s.regs.treeChildren ∧ t.regs.treeSize = s.regs.treeSize ∧
      t.regs.treeId = s.regs.treeId ∧ t.boot.imageLength = s.boot.imageLength ∧ t.stepUnits = s.stepUnits)

/-! ### Sequencers -/

/-- NOP, SETP, LDP and ADDI complete where the sequencer runs and its position holds the instruction: the register takes the immediate, the descriptor's word or the
sum, the position moves to the next word, and no other register, sequencer, context or field moves (R37, R38, R41).
Choices of the model: log 90. -/
def Obligations.SequencerRegisters : Prop :=
  ∀ (s : State) (c : CtxId) (q : SeqId),
    let holds := fun (op a b : Nat) => seqReady s c q (s.seqAt c q == State.seqWord op a b)
    (holds 0x00 0 0 = true → ∃ t, exec (.nop c q) s = .next t ∧ goesTo s t c q (((s.ctx c).seq q).pos + 1)) ∧
    (∀ (r : BitVec 4) (imm : U32), holds 0x07 (State.regA r) imm.toNat = true →
      ∃ t, exec (.setp c q r imm) s = .next t ∧ regWritten s t c q r (imm.setWidth 64)) ∧
    (∀ (r : BitVec 4) (word : BitVec 3) run, holds 0x08 (State.regA r + word.toNat) 0 = true → (s.ctx c).run = some run →
      ∃ t, exec (.ldp c q r word) s = .next t ∧ regWritten s t c q r (BitVec.ofNat 64 (descField run.d (8 * word.toNat) 8))) ∧
    (∀ (r : BitVec 4) (imm : U32), holds 0x09 (State.regA r) imm.toNat = true →
      ∃ t, exec (.addi c q r imm) s = .next t ∧ regWritten s t c q r (((s.ctx c).seq q).reg r + imm.signExtend 64))

/-- BRZ, BRNZ and JMP complete where the sequencer runs and its position holds the instruction: the position is the target when the branch is taken and the next word when
it is not; nothing else moves (R38).
Choices of the model: log 90. -/
def Obligations.SequencerBranches : Prop :=
  ∀ (s : State) (c : CtxId) (q : SeqId) (r : BitVec 4) (target : U32),
    let v := (s.ctx c).seq q
    let holds := fun (op a : Nat) => seqReady s c q (s.seqAt c q == State.seqWord op a target.toNat)
    (holds 0x0C 0 = true → ∃ t, exec (.jmp c q target) s = .next t ∧ goesTo s t c q target.toNat) ∧
    (holds 0x0A (State.regA r) = true →
      ∃ t, exec (.brz c q r target) s = .next t ∧ goesTo s t c q (if v.reg r = 0 then target.toNat else v.pos + 1)) ∧
    (holds 0x0B (State.regA r) = true →
      ∃ t, exec (.brnz c q r target) s = .next t ∧ goesTo s t c q (if v.reg r = 0 then v.pos + 1 else target.toNat))

/-- WAITDONE and WAIT complete when their condition holds, and wait where they are when it does not; nothing else moves (R38, R346).
Choices of the model: log 90. -/
def Obligations.SequencerWaits : Prop :=
  ∀ (s : State) (c : CtxId) (q : SeqId),
    let v := (s.ctx c).seq q
    (∀ (engine : Byte) (most : U32), seqReady s c q (s.seqAt c q == State.seqWord 0x02 (engine.toNat * 0x1000) most.toNat) = true →
      (v.unfinished.getD engine.toNat 0 ≤ most.toNat → ∃ t, exec (.waitdone c q engine most) s = .next t ∧ goesTo s t c q (v.pos + 1)) ∧
      (most.toNat < v.unfinished.getD engine.toNat 0 →
        ∃ t, exec (.waitdone c q engine most) s = .next t ∧ waitsAt s t c q (.done engine most.toNat))) ∧
    (∀ (k : U16) (threshold : U32), seqReady s c q (s.seqAt c q == State.seqWord 0x04 k.toNat threshold.toNat) = true →
      (s.ctx c).inWindow k.toNat = true →
      let met := isLock (s.counter k.toNat) = false ∧ threshold.toNat ≤ (s.counter k.toNat).toNat
      (met → ∃ t, exec (.wait c q k threshold) s = .next t ∧ goesTo s t c q (v.pos + 1)) ∧
      (¬ met → ∃ t, exec (.wait c q k threshold) s = .next t ∧ waitsAt s t c q (.counter k threshold)))

/-- SIGNAL of a count of at least 1 adds to the counter, at most 0x7FFF_FFFF, and touches no other counter and nothing but the counters and the contexts, whose waiters are tested
again; on a lock word the context faults (R346, R347).
Choices of the model: log 90. -/
def Obligations.SignalAddsToCount : Prop :=
  ∀ (s : State) (c : CtxId) (q : SeqId) (k : U16) (inc : U32), seqReady s c q (s.seqAt c q == State.seqWord 0x03 k.toNat inc.toNat) = true →
    (s.ctx c).inWindow k.toNat = true → inc ≠ 0 →
    (isLock (s.counter k.toNat) = true → exec (.signal c q k inc) s = .next (s.faultCtx c)) ∧
    (isLock (s.counter k.toNat) = false → ∃ t, exec (.signal c q k inc) s = .next t ∧
      t.counter k.toNat = BitVec.ofNat 32 (min 0x7FFFFFFF ((s.counter k.toNat).toNat + inc.toNat)) ∧
      (∀ j, j ≠ k.toNat → t.counter j = s.counter j) ∧ t = { s with sync := t.sync, ctxs := t.ctxs } ∧
      ((t.ctx c).seq q).pos = ((s.ctx c).seq q).pos + 1)

/-- ACQUIRE takes a counter at 0 with the caller's lock word, faults on the caller's own lock word, and otherwise waits unless the holder is FAULTED or DRAINED;
RELEASE of a lock of the caller's context that nobody waits for leaves 0, and of anything else faults (R346, R347, R355).
Choices of the model: log 90. -/
def Obligations.LocksTakenAndReleased : Prop :=
  ∀ (s : State) (c : CtxId) (q : SeqId) (k : U16), (s.ctx c).inWindow k.toNat = true →
    let w := s.counter k.toNat
    (seqReady s c q (s.seqAt c q == State.seqWord 0x05 k.toNat 0) = true →
      (w = 0 → ∃ t, exec (.acquire c q k) s = .next t ∧ t.counter k.toNat = lockWord c q ∧ (∀ j, j ≠ k.toNat → t.counter j = s.counter j) ∧
        goesTo { s with sync := t.sync } t c q (((s.ctx c).seq q).pos + 1)) ∧
      (w = lockWord c q → exec (.acquire c q k) s = .next (s.faultCtx c)) ∧
      (w ≠ 0 → w ≠ lockWord c q → isLock w = true → (s.ctx (lockCtx w)).state = .faulted ∨ (s.ctx (lockCtx w)).state = .drained →
        exec (.acquire c q k) s = .next (s.stopStep c .inheritTimeout)) ∧
      (w ≠ 0 → w ≠ lockWord c q → ¬ (isLock w = true ∧ ((s.ctx (lockCtx w)).state = .faulted ∨ (s.ctx (lockCtx w)).state = .drained)) →
        ∃ t, exec (.acquire c q k) s = .next t ∧ ((t.ctx c).seq q).status = .lock k ∧ t.sync = s.sync)) ∧
    (seqReady s c q (s.seqAt c q == State.seqWord 0x06 k.toNat 0) = true →
      (isLock w = true → lockCtx w = c → (s.nextSeq c q).lockWaiters k.toNat = [] →
        ∃ t, exec (.release c q k) s = .next t ∧ t.counter k.toNat = 0 ∧ (∀ j, j ≠ k.toNat → t.counter j = s.counter j) ∧
          ((t.ctx c).seq q).pos = ((s.ctx c).seq q).pos + 1 ∧ t.mem = s.mem) ∧
      (¬ (isLock w = true ∧ lockCtx w = c) → exec (.release c q k) s = .next (s.faultCtx c)))

/-- ISSUE, and QUEUE_CLAIM for an ISSUE that waited for room, complete: the command, its parameters substituted (by ISSUE), becomes the last entry of the engine's queue, W
advances by its words modulo twice the depth, the sequencer has one more command unfinished on the engine and goes on at the next word, and for the Steppe the
context's count of commands in that queue rises by one; no other queue, context, sequencer or field of them moves.  An ISSUE without room waits where it is
(R38, R93, R334, R335, R518).
Choices of the model: log 90. -/
def Obligations.IssueFillsQueue : Prop :=
  ∀ (s : State) (c : CtxId) (q : SeqId) (engine len : Byte) (b : Bytes),
    let i := queueIx engine.toNat q
    let v := (s.ctx c).seq q
    let sub := substitute engine.toNat b v
    let filled := fun (t : State) (bs : Bytes) (n : Nat) (was : Seq) =>
      t = { s with queues := t.queues, ctxs := t.ctxs } ∧
      t.queue i = { s.queue i with
        w := ((s.queue i).w + n) % (2 * Config.queueDepth engine.toNat)
        entries := (s.queue i).entries ++ [({ ctx := c, src := q, b := bs, words := n, ready := true, consumed := false } : QEntry)] } ∧
      (∀ j, j ≠ i → t.queue j = s.queue j) ∧ (∀ d, d ≠ c → t.ctx d = s.ctx d) ∧
      (t.ctx c).seq q = { was with
        unfinished := v.unfinished.set engine.toNat (v.unfinished.getD engine.toNat 0 + 1), pos := v.pos + 1, status := .running } ∧
      (∀ p, p ≠ q → (t.ctx c).seq p = (s.ctx c).seq p) ∧
      t.ctx c = { s.ctx c with
        seqs := (t.ctx c).seqs
        steppeW := (s.ctx c).steppeW + (if engine = 0 ∧ q = .steppeW then 1 else 0)
        steppeE := (s.ctx c).steppeE + (if engine = 0 ∧ q ≠ .steppeW then 1 else 0) }
    (seqReady s c q (s.issueAt c q engine.toNat len.toNat b) = true → mayIssue engine.toNat q = true → cmdWords engine.toNat (fld b 0 1) = some len.toNat →
      b.length = 32 * len.toNat →
      (s.queueRoom i len.toNat = true → ∃ t, exec (.issue c q engine len b) s = .next t ∧ filled t sub len.toNat v) ∧
      (s.queueRoom i len.toNat = false → ∃ t, exec (.issue c q engine len b) s = .next t ∧ waitsAt s t c q (.queue engine len.toNat sub))) ∧
    ((s.ctx c).active = true → v.status = .queue engine len.toNat b → b.length = 32 * len.toNat → s.queueRoom i len.toNat = true →
      ∃ t, exec (.queueClaim c q) s = .next t ∧ filled t b len.toNat (v.waited 2 s.now))

/-- STEPEND, SADDLE, HALT and TRAP complete where the sequencer runs and its position holds the instruction.  STEPEND waits for the other sequencers, and the last of the
twelve passes the context's step boundary.  SADDLE waits for the others at the same plan entry, faults the context when another waits at a different entry or another context
holds the counter open, ends the step where its context is broken by a loss in the tree, and the last of the twelve is the device's arrival: with no ARRIVE to wait for, the top manager releases at once, and a device below it sends its own
ARRIVE.  HALT stops the sequencer, and the last of the twelve ends the step's programs.  TRAP faults the context (R38, R42, R43, R376, R407, R408, R414, R418).
Choices of the model: log 90. -/
def Obligations.BoundariesAndEnds : Prop :=
  ∀ (s : State) (c : CtxId) (q : SeqId),
    let holds := fun (op a b : Nat) => seqReady s c q (s.seqAt c q == State.seqWord op a b)
    let others := fun (f : SeqStatus → Prop) => ∀ p, p ≠ q → f ((s.ctx c).seq p).status
    (holds 0x0D 0 0 = true →
      (others (· = .boundary) → exec (.stepend c q) s = .next ((s.waitSeq c q .boundary).localBoundary c)) ∧
      (¬ others (· = .boundary) → ∃ t, exec (.stepend c q) s = .next t ∧ waitsAt s t c q .boundary)) ∧
    (∀ (entry : U16) (e : Bytes), holds 0x0E entry.toNat 0 = true → s.planEntry? c entry.toNat = some e →
      let k := planCounter e
      let v := s.saddles.getD k (Saddle.open c entry)
      let alone := v.ctx = c ∧ others (fun st => ∀ n, st = .saddle n → n = entry)
      let lost := (s.ctx c).broken = true ∧ s.inTree c = true
      let here := s.modSeq c q (fun w => { w.wait (.saddle entry) s.now with arrived := s.now })
      let v1 := State.startTimer { v with entry := entry, arrived := some s.now } e s.now
      (¬ alone → exec (.saddle c q entry) s = .next (s.faultCtx c)) ∧
      (alone → lost → exec (.saddle c q entry) s = .next (s.loseCtx c)) ∧
      (alone → ¬ lost → ¬ others (· = .saddle entry) →
        exec (.saddle c q entry) s = .next { here with saddles := s.saddles.set k { v with entry := entry } }) ∧
      (alone → ¬ lost → others (· = .saddle entry) →
        exec (.saddle c q entry) s = .next (({ here with saddles := s.saddles.set k v1 } : State).trySaddle k) ∧
        (v.sent = false → planChildren e = [] → planReduces e = false →
          ∃ t, exec (.saddle c q entry) s = .next t ∧
            (planUplink e = none → t.passes.getD k 0 = s.passes.getD k 0 + 1 ∧ t.saddles.get? k = none ∧
              ∀ p, ((t.ctx c).seq p).status = .running ∧ ((t.ctx c).seq p).pos = ((s.ctx c).seq p).pos + 1) ∧
            (∀ n, planUplink e = some n → t.saddles.get? k = some { v1 with sent := true } ∧ t.passes = s.passes ∧
              ∀ p, ((t.ctx c).seq p).status = .saddle entry)))) ∧
    (holds 0x0F 0 0 = true →
      let stopped := s.modSeq c q (fun v => { v with status := .halted })
      (¬ others (fun st => st = .halted ∨ st = .stopped) →
        ∃ t, exec (.halt c q) s = .next t ∧ seqOnly s t c q ∧ (t.ctx c).seq q = { (s.ctx c).seq q with status := .halted }) ∧
      (∀ run, (s.ctx c).run = some run → others (fun st => st = .halted ∨ st = .stopped) →
        exec (.halt c q) s = .next ((stopped.modCtx c (fun x =>
          { x with run := none, finishing := x.finishing ++ [{ run with left := x.open }] })).settle c))) ∧
    (∀ code : U32, holds 0x10 0 code.toNat = true → exec (.trap c q code) s = .next (s.faultCtx c))

/-! ### Engine commands -/

/-- What every engine command of runCommand's form answers to, shown on TOPK once its queue runs it: a refused command faults its context (R96); an object that is not
RESIDENT is waited for, and the wait is noted as one for its token (R58, R311); a poisoned parcel stalls the reader where re-provisioning can mend it, its queue set free, and
stops the step UNCORRECTABLE where it cannot (R325, R326); in a context that does not run, or in a queue that has not started it, nothing happens.
Choices of the model: log 6, log 7, log 90. -/
def Obligations.EngineCommandStops : Prop :=
  ∀ (s : State) (c : CtxId) (q : SeqId) (b : Bytes),
    let x := Topk.of b
    let on := State.copyOf 6 q b
    let acc := State.topkAcc x
    let runs := ((s.ctx c).active && s.started c on) = true
    let allowed := (mayIssue 6 q && s.topkOk c b x) = true
    (¬ runs → exec (.topk c q b) s = .next s) ∧
    (runs → ¬ allowed → exec (.topk c q b) s = .next (s.faultCtx c)) ∧
    (runs → allowed → s.resident acc = false → exec (.topk c q b) s = .next (s.noteWait c on 0 (s.firstAbsent acc))) ∧
    (∀ a, runs → allowed → s.resident acc = true → s.poisonedAccess acc = some a →
      exec (.topk c q b) s = .next (if s.stalls a.id = true then s.stall c on a else s.stopStep c .uncorrectable))

/-- The RIM operations that work element by element complete with these rows, computed from the input rows and from b and c as they stand, where both Steppe queues run the block
(R93, R112, R113, R114).
Rows: RIM_ADD, RIM_MUL, SCALE_BIAS, CONVERT, GELU, GELU_TANH, SILU, SILU_MUL.
Choices of the model: log 10, log 90. -/
def Obligations.RimElementwise : Prop :=
  ∀ (s : State) (c : CtxId) (w : Bytes),
    let x := Rim.of w
    let b2 := x.use (4 * x.n * x.rows) 0
    let bc := x.use (4 * x.n) (4 * x.n)
    let a1 := x.use 0 0
    let t := s.endWait c (State.steppeCopies w w)
    let pair : RimUse := { a1 with nin := 2 * x.n, aRow := rowBytes x.afmt (2 * x.n) }
    let rowB : Nat → List F32 := fun r => t.rdF32 x.bobj (4 * x.n * r) x.n
    (rimReady s c w b2 0x01 = true →
      exec (.rimAdd c w w) s = .next (rimDone t c w b2 ((rimIn t w b2).zipIdx.map (fun p => zip2 F32.add p.1 (rowB p.2))))) ∧
    (rimReady s c w b2 0x02 = true →
      exec (.rimMul c w w) s = .next (rimDone t c w b2 ((rimIn t w b2).zipIdx.map (fun p => zip2 F32.mul p.1 (rowB p.2))))) ∧
    (rimReady s c w bc 0x03 = true → exec (.scaleBias c w w) s = .next (rimDone t c w bc
      ((rimIn t w bc).map (fun a => zip2 F32.add (zip2 F32.mul a (t.rdF32 x.bobj 0 x.n)) (t.rdF32 x.cobj 0 x.n))))) ∧
    (rimReady s c w a1 0x04 = true → exec (.convert c w w) s = .next (rimDone t c w a1 (rimIn t w a1))) ∧
    (rimReady s c w a1 0x05 = true → exec (.gelu c w w) s = .next (rimDone t c w a1 ((rimIn t w a1).map (fun a => a.map rimGelu)))) ∧
    (rimReady s c w a1 0x06 = true → exec (.geluTanh c w w) s = .next (rimDone t c w a1 ((rimIn t w a1).map (fun a => a.map rimGeluTanh)))) ∧
    (rimReady s c w a1 0x07 = true → exec (.silu c w w) s = .next (rimDone t c w a1 ((rimIn t w a1).map (fun a => a.map rimSilu)))) ∧
    (rimReady s c w pair 0x0E = true → exec (.siluMul c w w) s = .next (rimDone t c w pair
      ((rimIn t w pair).map (fun a => zip2 F32.mul ((a.take x.n).map rimSilu) (a.drop x.n)))))

/-- The RIM operations that reduce or turn whole rows complete with these rows, records or table, where both Steppe queues run the block (R93, R114 to R116, R128, R261).
Rows: SOFTMAX, LAYERNORM, RMSNORM, L2NORM, MEANPOOL, ROPE, ROUTE, SAMPLE.
Choices of the model: log 10, log 29, log 30, log 90, log 121. -/
def Obligations.RimRowwise : Prop :=
  ∀ (s : State) (c : CtxId) (w : Bytes),
    let x := Rim.of w
    let a1 := x.use 0 0
    let t := s.endWait c (State.steppeCopies w w)
    let sm := x.use 0 (if x.mask then 4 * x.rows else 0)
    let ln := x.use (4 * x.n) (4 * x.n)
    let rn := x.use (4 * x.n) 0
    let rp := x.use (4 * x.n * x.rows) 0
    let mp : RimUse := { a1 with oRows := 1 }
    let rt : RimUse := { bBytes := 0, cBytes := 0, nin := x.n, aRow := 8 * x.n, oRow := 8 * x.param + 8 * x.n * x.rows, oRows := 1 }
    (rimReady s c w sm 0x08 = true → exec (.softmax c w w) s = .next (rimDone t c w sm ((rimIn t w sm).zipIdx.map (fun p =>
      softmaxRow x.param (if x.mask then maskAfter (t.rdNat x.cobj (4 * p.2) 4) p.1 else p.1))))) ∧
    (rimReady s c w ln 0x09 = true → exec (.layernorm c w w) s = .next (rimDone t c w ln
      ((rimIn t w ln).map (layernormRow x.n x.param (t.rdF32 x.bobj 0 x.n) (t.rdF32 x.cobj 0 x.n))))) ∧
    (rimReady s c w rn 0x0A = true → exec (.rmsnorm c w w) s = .next (rimDone t c w rn
      ((rimIn t w rn).map (rmsnormRow x.n x.param (t.rdF32 x.bobj 0 x.n))))) ∧
    (rimReady s c w a1 0x0B = true → exec (.l2norm c w w) s = .next (rimDone t c w a1 ((rimIn t w a1).map l2normRow))) ∧
    (rimReady s c w mp 0x0C = true → engineReady s c (State.steppeCopies w w) (x.acc mp) = true →
      exec (.meanpool c w w) s = .next (rimDone t c w mp [meanpoolRow x.n (rimIn t w mp)])) ∧
    (rimReady s c w rp 0x0D = true → x.n % 2 = 0 → exec (.rope c w w) s = .next (rimDone t c w rp
      ((rimIn t w rp).zipIdx.map (fun p => ropeRow p.1 (t.rdF32 x.bobj (4 * x.n * p.2) x.n))))) ∧
    (rimReady s c w rt 0x0F = true → 1 ≤ x.param → x.param ≤ 1024 →
      (∀ p, p < x.rows → State.routeRowOk x.param (s.routeRow x rt p) = true) →
      exec (.route c w w) s = .next ((if x.rows = 0 then t
        else t.wr x.oobj x.ooff (State.routeTable x.param ((List.range x.rows).map (t.routeRow x rt)))).steppeDone c)) ∧
    (let masked := (List.range x.rows).any (fun r => bitAt (s.rd x.bobj (32 * r) 32) 14 0)
     let sp : RimUse := { bBytes := 32 * x.rows, cBytes := if masked then ceilDiv x.n 8 * x.rows else 0, nin := x.n, aRow := 4 * x.n, oRow := 16,
                          oRows := x.rows }
     rimReady s c w sp 0x10 = true → x.afmt = 0 → (∀ r, r < x.rows → sampleParamsOk (s.rd x.bobj (32 * r) 32) = true) →
       exec (.sample c w w) s = .next (((List.range x.rows).foldl (fun u r =>
         u.wr x.oobj (x.ooff + r * x.ostride sp) (t.sampleRecord x sp r)) t).steppeDone c))

/-- A RIM command that is done stored to its output rows alone: every byte outside the encoded rows, at the addresses the command gives them, is as before; beside
the memory only the output's poisoned set, the context's commands in progress and the two queues differ (no step of the context waits for its writes). -/
def Obligations.RimStoresOnlyOutputRows : Prop :=
  ∀ (s : State) (c : CtxId) (w : Bytes) (u : RimUse) (rows : List (List F32)), (s.ctx c).finishing = [] →
    let x := Rim.of w
    let t := rimDone s c w u rows
    (∀ a : Nat, (∀ p ∈ rows.zipIdx, let off := x.ooff + p.2 * x.ostride u
        a < (Space.obj x.oobj).key off ∨ (Space.obj x.oobj).key off + (encodeRow x.ofmt (s.srFor c x.oobj x.ofmt off) p.1).length ≤ a) →
      t.mem.get a = s.mem.get a) ∧
    t = { s with mem := t.mem, objs := t.objs, queues := t.queues, ctxs := t.ctxs } ∧
    (∀ d, d ≠ c → t.ctx d = s.ctx d) ∧ (∀ id, id ≠ x.oobj → t.obj? id = s.obj? id)

/-- LOADR, MATMUL, GROUPED and DROPR complete where both Steppe queues run the block: LOADR with its columns loaded; MATMUL with its groups run and drained, and with a window
once the window holds a whole group's rows; GROUPED with its experts run, and with a window once it holds a whole matrix; DROPR with its slots and entries let go
(R93, R98 to R111, R120, R121, R318).
Choices of the model: log 9, log 16, log 28, log 90. -/
def Obligations.ArrayCommandsComplete : Prop :=
  ∀ (s : State) (c : CtxId) (w : Bytes), blockOk 0 w = true →
    let on := State.steppeCopies w w
    let t := s.endWait c on
    (let x := Loadr.of w
     fld w 0 1 = 1 → s.loadrOk c w x = true →
       engineReady s c on ((if x.idle then [] else s.claimAcc c false x.slot x.slots) ++ s.loadrReads x) = true →
       exec (.loadr c w w) s = .next ((t.loadrEff c x).steppeDone c)) ∧
    (let x := Matmul.of w
     fld w 0 1 = 2 → s.matmulOk c w x = true →
       engineReady s c on ((if x.idle then [] else s.claimAcc c false x.slot x.slots ++ s.claimAcc c true x.entry x.entries) ++ s.matmulAcc x ++
         s.matmulTakes c w x) = true →
       (s.isWindow x.sobj = false → exec (.matmul c w w) s = .next ((t.matmulEff c x).steppeDone c)) ∧
       (s.isWindow x.sobj = true → s.matmulWaits c w x = none → exec (.matmul c w w) s = .next (t.matmulWindow c w x))) ∧
    (let x := Grouped.of w
     fld w 0 1 = 3 → s.groupedOk c w x = true → s.groupedWaits c w x = none →
       engineReady s c on ((if x.idle || x.e == 0 then [] else s.claimAcc c false x.slot x.slots ++ s.claimAcc c true State.groupedEntry 1) ++
         s.groupedAcc x ++ s.groupedTakes c w x) = true →
       exec (.grouped c w w) s = .next (t.groupedRun c w x)) ∧
    (let x := Dropr.of w
     fld w 0 1 = 5 → x.ok w = true → engineReady s c on (s.dropAcc c x) = true → exec (.dropr c w w) s = .next ((t.droprEff c x).steppeDone c))

/-- LOOKUP and UPDATE complete, where their queue runs them, with their effect on the rows they name and their result record, an UPDATE of homed rows once every
contributor that is not lost has sent its end marker (R159 to R189); SEARCH in all the queues that take its copies and the two WRITEs in theirs, once no install
holds their shards (R203, R213 to R219).
Rows: SEARCH_COMMAND, WRITE_INSERT, WRITE_DELETE.
Choices of the model: log 18, log 21, log 37, log 39, log 90. -/
def Obligations.TableAndShardCommandsComplete : Prop :=
  (∀ (s : State) (c : CtxId) (q : SeqId) (b : Bytes), mayIssue 1 q = true →
    let on := State.copyOf 1 q b
    let t := s.endWait c on
    (let x := Lookup.of b
     let head := s.headAcc x.tobj x.bags
     s.lookupOk c b x = true →
       engineReady s c on (head ++ s.lookupAcc x ++ (if s.readable (head ++ s.posAcc x.bags) then s.touchedAcc (s.table x.tobj) x.bags else [])) = true →
       exec (.lookup c q b) s = .next ((t.lookupEff c q x).engineDone c q 1)) ∧
    (let x := Update.of b
     let head := s.headAcc x.tobj x.bags
     s.updateOk c b x = true →
       (s.progressOf (State.progKey c q 1) b = 0 ∨ s.missingEnds c x = [] ∨ ∃ d ∈ s.missingEnds c x, s.isLost d = true) →
       engineReady s c on (head ++ s.updateAcc x ++ (if s.readable (head ++ s.posAcc x.bags) then s.updateRows x else [])) = true →
       exec (.update c q b) s = .next (t.updateEff c q b x))) ∧
  (∀ (s : State) (c : CtxId) (q : SeqId) (b : Bytes),
    (let x := Search.of b
     let who := State.searchIssuers x.graph
     let copies := who.map (fun _ => b)
     let on := State.searchCopies x.graph copies
     s.held c on (maskShards x.mask) = false → s.searchOk c copies b x = true → engineReady s c on (s.searchAcc x ++ s.searchStore c x) = true →
       exec (.searchCommand c copies) s = .next (who.foldl (fun u p => u.engineDone c p.1 p.2) ((s.endWait c on).searchEff c x))) ∧
    (let x := Write.of b
     let on := State.copyOf 5 q b
     let t := s.endWait c on
     ∀ id, s.shards.get? x.shard = some id → s.held c on [x.shard] = false → mayIssue 5 q = true → s.writeOk c b x = true →
       engineReady s c on (s.writeAcc x) = true →
       (x.op = 0 → exec (.writeInsert c q b) s = .next ((t.insertEff c x id).engineDone c q 5)) ∧
       (x.op = 1 → exec (.writeDelete c q b) s = .next ((t.deleteEff c x id).engineDone c q 5))))

/-- TOPK, MERGE and PACK complete, where their queue runs them, with their outputs and records, a MERGE once none of its inputs is still to come (R228 to R240, R295 to R302);
TOKENIZE, DETOKENIZE and the three grammar commands with theirs (R137 to R158).
Rows: TOKENIZE_COMMAND, DETOKENIZE_COMMAND, GRAMMAR_RESET, GRAMMAR_MASK, GRAMMAR_ADVANCE.
Choices of the model: log 33, log 40, log 41, log 85, log 90, log 123. -/
def Obligations.SelectionAndTextCommandsComplete : Prop :=
  (∀ (s : State) (c : CtxId) (q : SeqId) (b : Bytes),
    (let x := Topk.of b
     let on := State.copyOf 6 q b
     mayIssue 6 q = true → s.topkOk c b x = true → engineReady s c on (State.topkAcc x) = true →
       exec (.topk c q b) s = .next (((s.endWait c on).topkEff c q x).engineDone c q 6)) ∧
    (let x := Merge.of b
     let on := State.copyOf 6 q b
     mayIssue 6 q = true → s.mergeOk c b x = true → s.mergeWaits c x = none →
       engineReady s c on (State.mergeAcc x ++ s.mergeStore c q x) = true →
       exec (.merge c q b) s = .next (((s.endWait c on).mergeEff c q x).engineDone c q 6)) ∧
    (let x := Pack.of b
     let on := State.copyOf 0x0A q b
     mayIssue 0x0A q = true → s.packOk c b x = true → engineReady s c on (s.packAcc x) = true →
       exec (.pack c q b) s = .next (((s.endWait c on).packEff c x).engineDone c q 0x0A))) ∧
  (∀ (s : State) (c : CtxId) (q : SeqId) (b : Bytes),
    (let x := TokCmd.of b
     let on := State.copyOf 7 q b
     mayIssue 7 q = true → s.tokenizeOk c b x = true → engineReady s c on (s.tokenizeAcc x) = true →
       exec (.tokenizeCommand c q b) s = .next (((s.endWait c on).tokenizeEff c q x).engineDone c q 7)) ∧
    (let x := DetokCmd.of b
     let on := State.copyOf 8 q b
     mayIssue 8 q = true → s.detokOk c b x = true → engineReady s c on (s.detokAcc x) = true →
       exec (.detokenizeCommand c q b) s = .next (((s.endWait c on).detokEff c x).engineDone c q 8)) ∧
    (let x := GrammarCmd.of b
     let on := State.copyOf 9 q b
     let t := s.endWait c on
     ∀ g, s.grammar? x.gobj = some g →
      (s.grammarOk c q b 0 x [⟨x.stobj, 0, 72, true⟩] = true → engineReady s c on [s.grammarRead x.gobj, ⟨x.stobj, 0, 72, true⟩] = true →
        exec (.grammarReset c q b) s = .next ((t.setGState c x { state := g.start, stack := [] }).engineDone c q 9)) ∧
      (let acc : List Access := [⟨x.stobj, 0, 72, false⟩, ⟨x.kobj, x.koff, 4 * x.n, false⟩, ⟨x.mobj, x.moff, (x.n + 1) * s.maskBytes x, true⟩,
                                 ⟨x.robj, x.roff, 37, true⟩]
       let m := t.gMasks g (some (GState.of (t.gStateBytes c x))) 0 none (t.grammarTokens x)
       s.grammarOk c q b 1 x acc = true → x.n ≤ 8 → engineReady s c on (s.grammarRead x.gobj :: acc) = true →
        exec (.grammarMask c q b) s = .next (((t.wr x.mobj x.moff (m.1.map Prod.fst).flatten).wr x.robj x.roff
          (slice (m.1.map (fun m => toLE 4 m.2)).flatten 0 36 ++ [BitVec.ofNat 8 (m.2.getD 0xFF)])).engineDone c q 9)) ∧
      (let acc : List Access := [⟨x.stobj, 0, 72, false⟩, ⟨x.stobj, 0, 72, true⟩, ⟨x.kobj, x.koff, 4 * x.n, false⟩]
       ∀ g', s.gAdvance g (GState.of (s.gStateBytes c x)) (s.grammarTokens x) = some g' →
        s.grammarOk c q b 2 x acc = true → x.n ≤ 9 → engineReady s c on (s.grammarRead x.gobj :: acc) = true →
        exec (.grammarAdvance c q b) s = .next ((t.setGState c x g').engineDone c q 9))))

/-- The serving unit's commands complete where its queue runs them: LIST for the GENERATE in progress, ACCEPT and COMMIT for the entry the cursor stands at, SUMMARY for a slot
that pauses or resumes, and each with nothing to do for an entry that takes no part (R262 to R281).
Choices of the model: log 31, log 34, log 36, log 90. -/
def Obligations.ServingCommandsComplete : Prop :=
  ∀ (s : State) (c : CtxId) (q : SeqId) (b : Bytes), mayIssue 0x0B q = true → blockOk 0x0B b = true → zeroBytes b 1 3 = true →
    let on := State.copyOf 0x0B q b
    let t := s.endWait c on
    let ready := fun (acc : List Access) => engineReady s c on acc = true
    (∀ d, s.generateOf c = some d → zeroBytes b 8 63 = true →
      let acc : List Access := [⟨fldObj b 4, 0, 32 * descField d 16 8, true⟩]
      acc.all (s.accOk c [0]) = true → ready acc → exec (.list c q b) s = .next ((t.listEff c (fldObj b 4) d).engineDone c q 0x0B)) ∧
    (∀ e, s.entryAt c = some e →
      (e.skip = true → (State.acceptNames (AcceptCmd.of b (s.ctx c).serving.cursor)).all (s.accOk c [0]) = true → ready [] →
        exec (.accept c q b) s = .next (t.engineDone c q 0x0B)) ∧
      (∀ m, e.skip = false → s.model? (s.inForce e.slot.toNat) = some m →
        let x := AcceptCmd.of b (s.ctx c).serving.cursor
        (s.acceptAcc x e m.v).all (s.accOk c [0]) = true → ready (s.acceptAcc x e m.v) →
        exec (.accept c q b) s = .next ((t.acceptEff c x e m).engineDone c q 0x0B)) ∧
      (∀ d, s.generateOf c = some d → zeroBytes b 28 63 = true →
        let i := (s.ctx c).serving.cursor
        let loff := fld b 12 4 + i * fld b 16 4
        let doff := fld b 20 4 + i * fld b 24 4
        let acc : List Access := [⟨fldObj b 4, loff, 40, false⟩, ⟨fldObj b 8, doff, 16, false⟩]
        let r := s.rd (fldObj b 8) doff 16
        acc.all (s.accOk c [0]) = true →
        (e.skip = true → e.ending = none → ready [] →
          exec (.commit c q b) s = .next ((t.resultEntry c d e (e.code.getD .ok) e.terminal 0 s.now.toNat).engineDone c q 0x0B)) ∧
        (∀ code, e.skip = true → e.ending = some code → ready [] → exec (.commit c q b) s = .next
          (((t.endSlot c e.slot.toNat code 0 true).resultEntry c d e code true 0 s.now.toNat).engineDone c q 0x0B)) ∧
        (e.skip = false → e.ready = true → ready acc → s.rdNat (fldObj b 4) loff 4 ≤ 9 →
          exec (.commit c q b) s = .next ((t.commitEff c d e (s.rdNat (fldObj b 4) loff 4) (fld r 4 1) (fld r 0 4) (fld r 5 1 == 1)).engineDone c q 0x0B))) ∧
      (let wobj := fldObj b 4
       let stage : Access := ⟨wobj, 0, 0x100000, true⟩
       zeroBytes b 8 63 = true → s.accOk c [0] stage = true →
        (s.slotState e.slot.toNat = .pausing → ready (stage :: s.slotPages e.slot.toNat false) →
          exec (.summary c q b) s = .next ((t.buildSummary c e.slot.toNat wobj).engineDone c q 0x0B)) ∧
        (s.slotState e.slot.toNat = .resuming → ready (stage :: s.resumeRows c e.slot.toNat) →
          exec (.summary c q b) s = .next ((t.loadSummary c e.slot.toNat wobj).engineDone c q 0x0B)) ∧
        (s.slotState e.slot.toNat ≠ .pausing → s.slotState e.slot.toNat ≠ .resuming → ready [] →
          exec (.summary c q b) s = .next (t.engineDone c q 0x0B))))

/-- COPY and WFILL complete on an open channel, where the DMA queue runs them (R316, R317); START gives the lane its activity and is done, or with WAIT stays in progress until
the activity ends; an activity whose words are refused, or that the lane is busy for, is received and ended at once (R357, R358).
Choices of the model: log 43, log 86, log 90. -/
def Obligations.DmaAndLaneCommandsComplete : Prop :=
  ∀ (s : State) (c : CtxId) (q : SeqId) (b : Bytes), (s.ctx c).active = true →
    let done := fun (t : State) => ({ t with progress := t.progress.erase (State.progKey c q 0x0C) } : State).engineDone c q 0x0C
    (let x := Copy.of b
     let on := State.copyOf 0x0C q b
     ∀ t, s.started c on = true → s.copyOk c b x = true → s.channelOpen c = true → s.resident (s.copySrc x ++ State.copyDst x) = true →
       s.poisonedAccess (s.copySrc x) = none → (s.endWait c on).copyEff c x = (.done, t) → exec (.copy c q b) s = .next (done t)) ∧
    (let x := Wfill.of b
     let on := State.copyOf 0x0C q b
     let src := (if x.routed then [(⟨x.robj, 0, 8 * x.e, false⟩ : Access)] else []) ++
       (s.wfillNow c q b x).map (fun r => (⟨x.sobj, r.1, r.2, false⟩ : Access))
     ∀ t, s.started c on = true → s.wfillOk c b x = true → s.channelOpen c = true →
       s.resident (src ++ [⟨x.wobj, 0, 0, false⟩, ⟨x.sobj, 0, 0, false⟩]) = true → s.poisonedAccess src = none → s.wfillFull c q b x = none →
       (s.endWait c on).wfillEff c q b x = (.done, t) → exec (.wfill c q b) s = .next (done t)) ∧
    (let robj := fldObj b 60
     let on := State.copyOf 0x0D q b
     let t := s.endWait c on
     let args := if bitAt b 1 1 then (match (s.ctx c).runOf q 0x0D with | none => [] | some r => slice r.d.bytes 16 44) else slice b 16 44
     s.startPends c q = false → s.started c on = true → mayIssue 0x0D q = true → blockOk 0x0D b = true → zeroBits b 1 7 2 = true → zeroBytes b 2 15 = true →
       s.accOk c [0] ⟨robj, 0, 16, true⟩ = true →
       let got := t.startReceive args (State.actOf args none (some (c, q, robj, bitAt b 1 0)))
       exec (.start c q b) s = .next (if bitAt b 1 0 = true then got else got.engineDone c q 0x0D))

/-- SEND, where its queue runs it, hands its parcels to the port that leads to the destination, leaves its queue and stays in progress until they are acknowledged; RECV is posted
and leaves its queue, or waits there while 1,024 are posted (R58, R402, R403).
Choices of the model: log 24, log 58, log 59, log 90. -/
def Obligations.LinkCommandsComplete : Prop :=
  ∀ (s : State) (c : CtxId) (q : SeqId) (b : Bytes), mayIssue 0x0E q = true → blockOk 0x0E b = true →
    let on := State.copyOf 0x0E q b
    let obj := fldObj b 12
    let off := fld b 16 8
    let len := fld b 24 4
    (∀ n, fld b 0 1 = 1 → zeroBits b 1 7 2 = true → (fld b 2 1 = 1 ∨ fld b 2 1 = 2) → fld b 4 2 ≤ 910 → fld b 6 2 ≤ 0xFFFE → zeroBytes b 9 11 = true →
      1 ≤ len → len ≤ 2 ^ 26 → zeroBytes b 28 31 = true → s.accOk c [0, 1] ⟨obj, off, len, false⟩ = true → fld b 4 2 ≠ s.regs.treeIndex.toNat →
      engineReady s c on [⟨obj, off, len, false⟩] = true → s.isLost (fld b 4 2) = false → s.route (fld b 4 2) = some n →
      (s.isTop && decide (s.regs.treeSize.toNat ≤ fld b 4 2)) = false →
      ∃ t, exec (.send c q b) s = .next t ∧ t.mem = s.mem ∧ lagsOnly (s.endWait c on) t ∧
        t.sends.map bareSend = s.sends.map bareSend ++
          [({ ctx := c, src := q, object := obj, port := n, dest := BitVec.ofNat 10 (fld b 4 2), dctx := BitVec.ofNat 8 (fld b 8 1),
              stream := u16 (fld b 6 2), left := ceilDiv len 256, wait := none } : SendRun)] ∧
        t.queues = (s.clearRunning (queueIx 0x0E q) c).queues ∧
        (∀ m, m ≠ n → t.link m = s.link m) ∧ ((s.link n).waitq = [] →
          ((t.link n).replay.drop (s.link n).replay.length ++ (t.link n).waitq).map Frame.payload =
            (List.range (ceilDiv len 256)).map (fun i => slice (s.rd obj off len) (256 * i) 256))) ∧
    (fld b 0 1 = 2 → zeroBytes b 1 5 = true → fld b 6 2 ≤ 0xFFFE → zeroBytes b 8 11 = true →
      s.accOk c [0, 1] ⟨obj, off, len, true⟩ = true → s.accOk c [0] ⟨fldObj b 28, 0, 8, true⟩ = true →
      engineReady s c on [⟨obj, 0, 0, true⟩, ⟨fldObj b 28, 0, 8, true⟩] = true →
      (1024 ≤ s.recvs.length → exec (.recv c q b) s = .next (s.noteWait c on 2 0x0E)) ∧ (s.recvs.length < 1024 → (s.ctx c).inbound = [] →
      ∃ t, exec (.recv c q b) s = .next t ∧ t.mem = s.mem ∧
        t.recvs = s.recvs ++ [{ ctx := c, src := q, stream := u16 (fld b 6 2), object := obj, offset := BitVec.ofNat 64 off,
                                capacity := BitVec.ofNat 32 len, robj := fldObj b 28, since := s.now, taken := 0, received := 0, overflow := false }] ∧
        t.queues = (s.clearRunning (queueIx 0x0E q) c).queues))


/-! ### Descriptors -/

/-- Every descriptor from a ring meets the same admission (R25, R346, R348, R372, R373, R377): nothing while its ring is not fetched; it waits behind the ring's
waiting ones, for a FENCE, for room in the completion ring, for its counter, and for room in the queue its entry goes to; one whose CRC fails is counted and fetched once more, and
completes INTEGRITY without its signal when it fails again; a header out of range completes PROTOCOL without its signal; else it is expanded and takes its opcode's effect.
DESCRIPTOR_PLACED offers the oldest waiting descriptor of a ring again.
Choices of the model: log 63, log 64, log 133. -/
def Obligations.DescriptorsAdmitted : Prop :=
  (∀ (i : Instr) (s : State) (d : Desc), carries i = some d →
    let passes := headerOk d && s.countersOk d
    (s.fetchable d = false → exec i s = .next s) ∧
    (s.fetchable d = true → admits s d = false → ∃ t, exec i s = .next t ∧ ringWaits s t d) ∧
    (admits s d = true → descCrcOk d.bytes = true → passes = false →
      exec i s = .next ((expanded s d).completeUnsignalled d (Done.of .protocol 0))) ∧
    (admits s d = true → descCrcOk d.bytes = true → passes = true → (s.waitMet d = false ∨ s.descRoom d = false) →
      ∃ t, exec i s = .next t ∧ ringWaits s t d) ∧
    (expandsNow s d = true → exec i s = .next ((expanded s d).descEffect d)) ∧
    (admits s d = true → descCrcOk d.bytes = false →
      let again := s.hostRd (s.ctx d.ctx).port (((s.ctx d.ctx).sq.getD d.ring.toNat RingReg.init).base.toNat + 64 * d.index.toNat) 64
      let counted := (s.countFetch d).countLoc false { kind := 0xA, a := d.ctx, b := BitVec.ofNat 8 d.ring.toNat, c := 0, row := 0 }
      (descCrcOk again = false →
        let d' : Desc := { d with bytes := [0, BitVec.ofNat 8 (fld again 1 1 % 2)] ++ List.replicate 62 0 }
        exec i s = .next ((counted.take d' false).completeUnsignalled d' (Done.of .integrity 0))) ∧
      (descCrcOk again = true →
        let d' : Desc := { d with bytes := again }
        ((headerOk d' && counted.countersOk d') = false → exec i s = .next ((counted.take d' true).completeUnsignalled d' (Done.of .protocol 0))) ∧
        ((headerOk d' && counted.countersOk d') = true → counted.waitMet d' = true → counted.descRoom d' = true →
          exec i s = .next ((counted.take d' true).descEffect d'))))) ∧
  (∀ (s : State) (c : CtxId) (r : BitVec 2),
    ((s.ctx c).waits r = [] → exec (.descriptorPlaced c r) s = .next s) ∧
    (∀ d re rest, (s.ctx c).waits r = (d, re) :: rest → d.ctx = c →
      let u := s.modCtx c (fun x => x.setWaits r rest)
      (s.ctx c).expands = true → (s.ctx c).outstanding.any (fun e => isFence e.1) = false → (s.ctx c).cqRoom = true → descCrcOk d.bytes = true →
        headerOk d = true → s.countersOk d = true → s.waitMet d = true → s.descRoom d = true →
        exec (.descriptorPlaced c r) s = .next ((u.take d re).descEffect d)))

/-- The direct descriptors complete with what R346, R348, R378, R386 and R466 say: SYNC with the counter's word, FENCE once nothing is outstanding, TEST, STATS with its
snapshot, ATTEST with its report; operands out of range, and an opcode or kind that R378 does not list, complete PROTOCOL.
Rows: SYNC_ADD, SYNC_SET, SYNC_READ, TEST_SETPEND, TEST_ECHO, UNKNOWN_OPCODE.
Choices of the model: log 12, log 69, log 74. -/
def Obligations.DirectDescriptorsComplete : Prop :=
  ∀ (s : State) (d : Desc),
    let x := s.ctx d.ctx
    let e := expanded s d
    let k := descField d 18 2
    let v := descField d 20 4
    let holder := (s.ctx (lockCtx (s.counter k))).state
    let refused := fun (i : Instr) (n : Nat) => exec i s = .next (e.complete d (Done.of .protocol n))
    (carries (.unknownOpcode d) = some d → admits s d = true → descCrcOk d.bytes = true →
      exec (.unknownOpcode d) s = .next (e.completeUnsignalled d (Done.of .protocol 0))) ∧
    (expandsNow s d = true →
      (carries (.fence d) = some d → exec (.fence d) s = .next (if x.outstanding.isEmpty then e.completeOne d (Done.of .ok 0) true else e)) ∧
      (carries (.syncAdd d) = some d →
        let ok := x.inWindow k = true ∧ 1 ≤ v ∧ v ≤ 0x7FFFFFFF ∧ isLock (s.counter k) = false
        let w : U32 := BitVec.ofNat 32 (min 0x7FFFFFFF ((s.counter k).toNat + v))
        (ok → exec (.syncAdd d) s = .next ((e.store k w).complete d (Done.of .ok w.toNat))) ∧ (¬ ok → refused (.syncAdd d) 0)) ∧
      (carries (.syncSet d) = some d →
        let ok := x.inWindow k = true ∧ v ≤ 0x7FFFFFFF ∧ (isLock (s.counter k) = true → holder = .faulted ∨ holder = .drained)
        (ok → exec (.syncSet d) s = .next ((e.store k (BitVec.ofNat 32 v)).complete d (Done.of .ok v))) ∧ (¬ ok → refused (.syncSet d) 0)) ∧
      (carries (.syncRead d) = some d →
        let ok := descField d 16 1 = 2 ∧ x.inWindow k = true
        (ok → exec (.syncRead d) s = .next (e.complete d (Done.of .ok (s.counter k).toNat))) ∧ (¬ ok → refused (.syncRead d) 0)) ∧
      (carries (.testSetpend d) = some d →
        exec (.testSetpend d) s = .next ((e.setSwpend x.port (BitVec.ofNat 64 (descField d 24 8))).complete d (Done.of .ok 0))) ∧
      (carries (.testEcho d) = some d →
        (descField d 16 1 = 1 → exec (.testEcho d) s = .next (e.complete d (Done.of .ok (descField d 24 8)))) ∧
        (descField d 16 1 ≠ 1 → refused (.testEcho d) 0)) ∧
      (carries (.stats d) = some d →
        let asked := descField d 36 1 ≤ 1 ∧ statsMask d < 2 ^ 9 ∧ (statsDevice d = true → s.owner? = some x.port)
        let size := State.statsSize (e.statsSections d)
        (¬ asked → refused (.stats d) 0) ∧ (asked → descField d 32 4 < size → refused (.stats d) size) ∧
        (asked → size ≤ descField d 32 4 →
          ∃ bs : Bytes, fld bs 0 4 = 0x53544154 ∧ bs.drop 64 = ((e.statsSections d).map Sect.bytes).flatten ∧
            let u := e.hostArea x.port (descFlag d 3) (descField d 24 8) bs
            exec (.stats d) s = .next (({ u with fresh := u.fresh + 1 } : State).complete d (Done.of .ok size)))) ∧
      (carries (.attest d) = some d →
        (descField d 56 4 < s.reportSize → refused (.attest d) s.reportSize) ∧
        (s.reportSize ≤ descField d 56 4 → ∃ sig : Bytes, sig.length = 17088 ∧
          exec (.attest d) s = .next ((e.hostArea x.port (descFlag d 3) (descField d 48 8) (e.reportBody (slice d.bytes 16 32) ++ sig)).complete d
            (Done.of .ok s.reportSize)))))

/-- A QUERY, EMBED, SEARCH, RERANK, GENERATE, INSERT, DELETE, TRAIN_STEP, TOKENIZE or DETOKENIZE completes with its own effect, which is its place at the end of its context's steps,
outstanding with its completion entry reserved, for STEP_START to run; a broken context answers LINK_LOST before any other check, an area whose host check fails UNCORRECTABLE with the channel
halted, operands out of range or no image PROTOCOL (R33, R327, R376, R377, R414, R515).
Choices of the model: log 148. -/
def Obligations.StepDescriptorsQueue : Prop :=
  ∀ (s : State) (d : Desc), ∀ i ∈ [Instr.query d, .embed d, .search d, .rerank d, .generate d, .insert d, .delete d, .trainStep d, .tokenize d, .detokenize d],
    carries i = some d → expandsNow s d = true →
    let x := s.ctx d.ctx
    let e := expanded s d
    let behind := x.steps.any (fun f => descOp f == 0x11)
    let broken := behind = false ∧ x.image.isSome = true ∧ x.broken = true
    let sound := ¬ broken ∧ e.stepAreasOk d = true
    (broken → exec i s = .next (e.complete d (Done.of .linkLost 0))) ∧
    (¬ broken → e.stepAreasOk d = false → exec i s = .next ((e.hostCheckFailed d.ctx).complete d (Done.of .uncorrectable 0))) ∧
    (sound → e.stepOperandsOk d = false → exec i s = .next (e.complete d (Done.of .protocol 0))) ∧
    (sound → e.stepOperandsOk d = true → behind = false → x.image = none → exec i s = .next (e.complete d (Done.of .protocol 0))) ∧
    (sound → e.stepOperandsOk d = true → (behind = true ∨ x.image.isSome = true) →
      ∃ t, exec i s = .next t ∧ ctxOnly s t d.ctx ∧
        t.ctx d.ctx = { x with
          steps := x.steps ++ [d], outstanding := x.outstanding ++ [(d, false)], reserved := x.reserved + 1
          fetchedN := x.fetchedN.set d.ring.toNat (x.fetchedN.getD d.ring.toNat 0 + 1) })

/-- STEP binds an image that passes R32, when nothing of the context is before it: the image is bound, every mark and count that R33, R51, R407 and R414 name starts
afresh, and the descriptor completes with the image's ID; a digest that fails completes INTEGRITY, any other check PROTOCOL, and before the lock every STEP does.  UNBIND lets the
image go.  One with the context's steps before it waits behind them, and BIND_EFFECT takes it; STEP_START starts the next step with the twelve programs at word 0 and
its number one higher, and starts none in a context whose Dusk drains it (R32, R33, R37, R51, R376, R452).
Rows: STEP_UNBIND.
Choices of the model: log 77, log 78, log 100. -/
def Obligations.BindsAndStarts : Prop :=
  ∀ (s : State),
    (∀ d, carries (.step d) = some d → expandsNow s d = true →
      let e := expanded s d
      let first := s.boot.locked = true ∧ s.bindFree d.ctx = true ∧ (s.ctx d.ctx).steps = []
      let i : U32 := BitVec.ofNat 32 (descField d 16 4)
      let ends := fun (u : State) (code : Code) => exec (.step d) s = .next (u.complete d (Done.of code 0))
      (s.boot.locked = false → ends e .protocol) ∧
      (first → s.images.get? i.toNat = none → ends e .protocol) ∧
      (∀ m, first → s.images.get? i.toNat = some m →
        ((m.loaded && e.saveOk d.ctx i) = false → ends e .protocol) ∧
        ((m.loaded && e.saveOk d.ctx i) = true →
          (e.digestOk i m = false → ends (e.countLoc false { kind := 0xE, a := 0, b := 0, c := 0, row := i }) .integrity) ∧
          (e.digestOk i m = true → e.imageOk d.ctx i m.length = false → ends e .protocol) ∧
          (e.digestOk i m = true → e.imageOk d.ctx i m.length = true →
            ∃ t : State, exec (.step d) s = .next (t.complete d (Done.of .ok (s.img i 0x10 8))) ∧ (t.ctx d.ctx).image = some i ∧
              (t.ctx d.ctx).broken = false ∧ (t.ctx d.ctx).state = .ready ∧ (t.ctx d.ctx).stepNo = 0 ∧ (t.ctx d.ctx).modeNow = (s.ctx d.ctx).mode ∧
              ∀ p ∈ t.planEntries i, t.passes.getD (planCounter p) 0 = 0)))) ∧
    (∀ d, carries (.stepUnbind d) = some d → expandsNow s d = true →
      let e := expanded s d
      let ends := fun (code : Code) => exec (.stepUnbind d) s = .next (e.complete d (Done.of code 0))
      (s.boot.locked = false ∨ descField d 16 4 ≠ 0 → ends .protocol) ∧
      (s.boot.locked = true → descField d 16 4 = 0 → s.bindFree d.ctx = true → (s.ctx d.ctx).steps = [] →
        ((s.ctx d.ctx).image = none → ends .ok) ∧
        (∀ i, (s.ctx d.ctx).image = some i →
          (e.liveSlots d.ctx ≠ [] → ends .protocol) ∧
          (e.liveSlots d.ctx = [] →
            ∃ t : State, exec (.stepUnbind d) s = .next (t.complete d (Done.of .ok 0)) ∧ (t.ctx d.ctx).image = none ∧ (t.ctx d.ctx).state = .idle)))) ∧
    (∀ d, ∀ i ∈ [Instr.step d, .stepUnbind d], carries i = some d → expandsNow s d = true → s.boot.locked = true →
      (bitAt d.bytes 20 0 = true → descField d 16 4 = 0) → (s.bindFree d.ctx = false ∨ (s.ctx d.ctx).steps ≠ []) →
      ∃ t, exec i s = .next t ∧ ctxOnly s t d.ctx ∧ (t.ctx d.ctx).steps = (s.ctx d.ctx).steps ++ [d] ∧
        (t.ctx d.ctx).image = (s.ctx d.ctx).image ∧ (t.ctx d.ctx).outstanding = (s.ctx d.ctx).outstanding ++ [(d, false)]) ∧
    (∀ c d rest, (s.ctx c).steps = d :: rest → descOp d = 0x11 → s.bindFree c = true →
      exec (.bindEffect c) s = .next ((s.modCtx c (fun x => { x with steps := rest })).stepEffect d)) ∧
    (∀ c, (s.ctx c).draining = true → exec (.stepStart c) s = .next s) ∧
    (∀ c d rest, (s.ctx c).steps = d :: rest → descOp d ≠ 0x11 → (s.ctx c).run = none → (s.ctx c).draining = false →
      let u := s.modCtx c (fun x => { x with steps := rest })
      ((s.ctx c).image = none → exec (.stepStart c) s = .next (u.complete d (Done.of .protocol 0))) ∧
      ((s.ctx c).image.isSome = true → (s.ctx c).broken = true → exec (.stepStart c) s = .next (u.complete d (Done.of .linkLost 0))) ∧
      ((s.ctx c).image.isSome = true → (s.ctx c).broken = false → (s.ctx c).active = true → (s.ctx c).allHalted = true →
        ∃ (t : State) (r : StepRun), exec (.stepStart c) s = .next t ∧ ctxOnly s t c ∧ (t.ctx c).steps = rest ∧ (t.ctx c).stepNo = (s.ctx c).stepNo + 1 ∧
          (t.ctx c).run = some r ∧ r.d = d ∧ r.no = (s.ctx c).stepNo + 1 ∧ r.codes = [] ∧
          ∀ q, (t.ctx c).seq q = { (s.ctx c).seq q with pos := 0, regs := [], status := .running }))

/-- PAUSE and RESUME of a slot in the context's range are held to the serving unit's next boundary; a PAUSE of an ended request completes with its terminal code; a CANCEL whose tag
matches sets the request's latch, and of any other completes LATE_CANCEL; a slot outside the range, and a PAUSE of a FREE slot or another request's, completes PROTOCOL
(R268, R274, R277).
Choices of the model: log 31, log 35. -/
def Obligations.ServingControlsComplete : Prop :=
  ∀ (s : State) (d : Desc), expandsNow s d = true →
    let c := d.ctx
    let e := expanded s d
    let k := State.descSlot d
    let st := s.slotState k
    let mine := s.slotNat k 8 4 = descField d 20 4
    (∀ i ∈ [Instr.pause d, .resume d, .cancel d], carries i = some d → s.ownsSlot c k = false → exec i s = .next (e.complete d (Done.of .protocol 0))) ∧
    (s.ownsSlot c k = true →
      (carries (.pause d) = some d →
        (¬ mine ∨ st = .free → exec (.pause d) s = .next (e.complete d (Done.of .protocol 0))) ∧
        (mine → st = .ended → exec (.pause d) s = .next (e.complete d (Done.of (Code.ofNum (s.slotNat k 5 1)) 0))) ∧
        (mine → st ≠ .free → st ≠ .ended → exec (.pause d) s = .next (e.modServing c (fun v =>
          { v with pauses := v.pauses ++ [{ d := d, taken := false, written := none }] })))) ∧
      (carries (.resume d) = some d → exec (.resume d) s = .next (e.modServing c (fun v =>
        { v with resumes := v.resumes ++ [{ d := d, granted := false, loaded := false }] }))) ∧
      (carries (.cancel d) = some d →
        ((st = .free ∨ st = .ended ∨ ¬ mine) → exec (.cancel d) s = .next (e.complete d (Done.of .lateCancel 0))) ∧
        (st ≠ .free → st ≠ .ended → mine → exec (.cancel d) s = .next (
          let u := e.setSlotFlag k 4 true
          if s.stepping c k then u.modServing c (fun v => { v with cancels := v.cancels ++ [d] }) else u.complete d (Done.of .cancelled 0)))))

/-- LOAD and EVICT begin when no other of their object or image is under way, and else wait in its line.  A LOAD that R309 or R516 refuses completes with that code; one that it does not
makes its object LOADING at its placement (or leaves it RESIDENT: a range, or a relocation that waits), and LOAD_COMPLETE writes it and ends the LOAD.  RELOCATION_PROCEED lets a
relocation go on once nothing in progress uses the object, EVICT makes the object EVICTING, and EVICT_FREE frees it once nothing in progress uses it; a stalled reader keeps it, BUSY.  A
LOAD from the memory of a lost port ends UNCORRECTABLE (R309 to R313, R326, R327, R367, R516).
Rows: LOAD_IMAGE, EVICT_IMAGE.
Choices of the model: log 13, log 99, log 107. -/
def Obligations.TransferCommandsComplete : Prop :=
  ∀ (s : State),
    (∀ d, expandsNow s d = true →
      let e := expanded s d
      let x := LoadOps.of d
      let free := fun (img : Bool) => s.lineBusy img x.id = false ∧ s.objLine.any (State.lineOf img x.id) = false
      let ends := fun (i : Instr) (code : Code) => exec i s = .next (e.complete d (Done.of code 0))
      (∀ i ∈ [Instr.load d, .loadImage d, .evict d, .evictImage d], carries i = some d → ¬ free (bitAt d.bytes 20 1) →
        exec i s = .next { e with objLine := s.objLine ++ [d] }) ∧
      (carries (.load d) = some d → free false →
        (s.obj? x.id = none → ends (.load d) .protocol) ∧
        (∀ o, s.obj? x.id = some o →
          let moving := (x.base ≠ openBase ∧ x.base ≠ o.base) ∨ (x.mask ≠ 0 ∧ x.mask ≠ o.mask)
          let stays := o.state = .resident ∧ (x.range = true ∨ ¬ moving)
          let base := if x.base ≠ openBase then x.base else if stays ∧ o.entryBase ≠ openBase then o.base else o.entryBase
          let mask := if x.mask ≠ 0 then x.mask else if stays ∧ o.entryMask ≠ 0 then o.mask else o.entryMask
          (∀ c, e.loadRefusal d x o base mask = some c → ends (.load d) c) ∧
          (e.loadRefusal d x o base mask = none → ∃ t r, exec (.load d) s = .next t ∧ t = { e with objs := t.objs, loads := s.loads ++ [r] } ∧
            r.d = d ∧ r.isImage = false ∧ r.object = x.id ∧ r.whole = !x.range ∧ r.offset = (if x.range = true then x.off else 0) ∧
            r.length = (if x.range = true then x.len else o.size) ∧ r.moved = false ∧
            r.moveTo = (if x.range = false ∧ o.state = .resident ∧ moving then some (base, mask) else none) ∧
            t.obj? x.id = some (if x.range = true ∨ o.state = .resident then o else { o with state := .loading, base := base, mask := mask }) ∧
            ∀ id, id ≠ x.id → t.obj? id = s.obj? id))) ∧
      (carries (.loadImage d) = some d → free true → exec (.loadImage d) s = .next (e.loadImageBegin d) ∧
        (s.boot.locked = true → x.base = openBase → x.mask = 0 → x.range = false → x.off = 0 → x.len % 256 = 0 → 512 ≤ x.len →
          x.len ≤ 1024 * mib → s.imageBound x.id = false →
          x.len + ((s.images.filter (fun e => e.1 != x.id.toNat)).map (fun e => e.2.length)).sum ≤ s.stepRoom →
          exec (.loadImage d) s = .next { e with
            images := s.images.set x.id.toNat { length := x.len, poisoned := [], loaded := false }
            loads := s.loads ++ [{ d := d, isImage := true, object := x.id, offset := 0, length := x.len, whole := true, moveTo := none, moved := false }] })) ∧
      (carries (.evict d) = some d → free false →
        (s.obj? x.id = none → ends (.evict d) .protocol) ∧
        (∀ o, s.obj? x.id = some o →
          (o.stalled ≠ [] → ends (.evict d) .busy) ∧
          (o.stalled = [] → o.state = .absent → ends (.evict d) .ok) ∧
          (o.stalled = [] → o.state ≠ .absent →
            exec (.evict d) s = .next { (e.setObj x.id { o with state := .evicting }) with evicts := s.evicts ++ [d] }))) ∧
      (carries (.evictImage d) = some d → free true →
        (s.images.get? x.id.toNat = none → ends (.evictImage d) .protocol) ∧
        (∀ m, s.images.get? x.id.toNat = some m →
          (s.imageBound x.id = true → ends (.evictImage d) .busy) ∧
          (s.imageBound x.id = false → exec (.evictImage d) s =
            .next (({ (e.wipe (.image x.id) 0 m.length) with images := s.images.erase x.id.toNat } : State).complete d (Done.of .ok 0)))))) ∧
    (∀ isImage object r, s.loadOf? isImage object = some r →
      ((s.port (s.ctx r.d.ctx).port).lost = true → exec (.loadComplete isImage object) s = .next (s.loadHalted r)) ∧
      ((s.port (s.ctx r.d.ctx).port).lost = false → s.channelOpen r.d.ctx = true → (r.moveTo.isSome = true → r.moved = true) →
        exec (.loadComplete isImage object) s = .next (if isImage = true then s.loadImageDone r else (s.loadObjDone r).woken r.object))) ∧
    (∀ object r base mask o, s.loadOf? false object = some r → r.moveTo = some (base, mask) → r.moved = false → s.channelOpen r.d.ctx = true →
      s.obj? object = some o →
      (s.inUse object false = true → exec (.relocationProceed object) s = .next s) ∧
      (s.inUse object false = false → ∃ t, exec (.relocationProceed object) s = .next t ∧ t.obj? object = some { o with state := .loading } ∧
        t.loads = s.loads.map (fun x => if x = r then { x with moved := true } else x) ∧
        t = { s with objs := t.objs, loads := t.loads } ∧ ∀ id, id ≠ object → t.obj? id = s.obj? id)) ∧
    (∀ object d, s.evicts.find? (fun d => decide ((LoadOps.of d).id = object)) = some d →
      let u := ({ (s.makeAbsent object) with evicts := (s.makeAbsent object).evicts.eraseP (fun e => decide (e = d)) } : State).complete d (Done.of .ok 0)
      (s.inUse object true = true → exec (.evictFree object) s = .next s) ∧
      (s.inUse object true = false → exec (.evictFree object) s = .next (State.lineNext false object u.objLine.length u)))

/-- The maintenance lane receives what a MAINT or CHECKPOINT asks for, PROTOCOL where its operands are out of range; INSTALL_PROCEED installs a merge once the commands that were in progress on its shard are over, what it reads is sound and the target's tail holds what is left, and
MAINT_ACTIVITY_COMPLETE ends an activity that has begun: a build and a refresh with their effect, an install and an abort with code OK (R217, R219, R325, R326, R356 to R360).
Rows: MERGE_BUILD, MERGE_INSTALL, MERGE_ABORT, HOT_ROW_REFRESH.
Choices of the model: log 47, log 55. -/
def Obligations.LaneCommandsComplete : Prop :=
  ∀ (s : State),
    (∀ d, expandsNow s d = true →
      let e := expanded s d
      let args := slice d.bytes 16 44
      (carries (.checkpoint d) = some d →
        exec (.checkpoint d) s = .next (({ e with acts := s.acts ++ [State.actOf (5 :: List.replicate 43 0) (some d) none] } : State).requestCkpt)) ∧
      (∀ i ∈ [Instr.mergeBuild d, .mergeInstall d, .mergeAbort d, .hotRowRefresh d], carries i = some d →
        let ok := State.actArgsOk args = true ∧ fld args 0 1 ≠ 5
        (ok → exec i s = .next (e.actReceive (State.actOf args (some d) none))) ∧
        (¬ ok → exec i s = .next (e.complete d (Done.of .protocol 0))))) ∧
    (∀ shard a id, s.actOn? 2 (shard.setWidth 32) = some a → s.shards.get? shard.toNat = some id → s.installing.contains shard = true →
      let reads := s.installAcc (s.shard id) (s.shard (BitVec.ofNat 32 (a.arg 24 4))) (s.snapshots.getD a.shard 0)
      let waits := s.installWaits shard.toNat = true
      (waits → exec (.installProceed shard) s = .next s) ∧
      (¬ waits → s.poisonedAccess reads = none →
        exec (.installProceed shard) s = .next (if s.tailFits a (s.shard id) = true then s.installEff a id else s.installFails a .protocol)) ∧
      (∀ x, ¬ waits → s.poisonedAccess reads = some x → exec (.installProceed shard) s = .next (
        if s.stalls x.id = true then s.noteStall (.maint a.code a.target) x else s.installFails a .uncorrectable))) ∧
    (∀ target a,
      let u := s.laneNext
      (u.actOn? 1 target = some a → exec (.maintActivityComplete 1 target) s = .next (u.buildEnd a).laneNext) ∧
      (u.actOn? 2 target = some a → u.installing.any (fun n => n.toNat == a.shard) = false →
        exec (.maintActivityComplete 2 target) s = .next (u.actFinish a .ok 0).laneNext) ∧
      (u.actOn? 3 target = some a → exec (.maintActivityComplete 3 target) s = .next (u.actFinish a .ok 0).laneNext) ∧
      (u.actOn? 4 target = some a → exec (.maintActivityComplete 4 target) s = .next (u.refreshEnd a).laneNext))



/-! ### Sharing the engines -/

/-- One round of a channel arbiter (R338 to R340): urgent requests come first, then the highest effective priority, then the larger lost; the winner's lost
restarts at 0 and every other request's rises by one, unless the winner's request is withdrawn before its transfer, which moves no record; the waits of the sequencers' commands
that the requests serve are noted, the winner's counted, and else only the free choice moves.  One round of a Selyn egress grants one of the parcels that its requesters
have first in line with a credit, and sends it: it leaves the port's line and enters the replay buffer with the next sequence number; with none, nothing changes (R58, R338, R343, R344, R396, R397).
Rows: ARBITER_GRANT.
Choices of the model: log 15, log 24, log 152. -/
def Obligations.ArbiterGrantsHighest : Prop :=
  (∀ (s : State) (a : Nat) (reqs : List ArbReq), a < 96 → reqs ≠ [] → (reqs.map ArbReq.who).Nodup →
    let lost := fun (r : ArbReq) => (s.arb a r.who).lost
    let eff := fun (r : ArbReq) => min 15 ((if r.urgent then 0 else r.base.toNat) + lost r)
    ∃ t, ∃ w ∈ reqs, exec (.arbiterGrant a reqs) s = .next t ∧
      (∀ r ∈ reqs, r.urgent = true → w.urgent = true) ∧
      (∀ r ∈ reqs, r.urgent = w.urgent → eff r ≤ eff w ∧ (eff r = eff w → lost r ≤ lost w)) ∧
      (w.leaves = true → t.arbs = s.arbs) ∧
      (w.leaves = false → (t.arb a w.who).lost = 0 ∧ (t.arb a w.who).grants = (s.arb a w.who).grants + 1 ∧
        ∀ r ∈ reqs, r ≠ w → (t.arb a r.who).lost = lost r + 1) ∧
      t = { s with arbs := t.arbs, fresh := t.fresh, ctxs := (s.countRound a reqs (some w)).ctxs }) ∧
  (∀ (s : State) (n : SelynPort) (reqs : List ArbReq),
    ((s.link n).ready = [] → exec (.arbiterGrant (113 + n.val) reqs) s = .next s) ∧
    ((s.link n).ready ≠ [] → ∃ t, ∃ f ∈ (s.link n).ready, exec (.arbiterGrant (113 + n.val) reqs) s = .next t ∧
      ((∃ g ∈ (s.link n).ready, g.data = false) → f.data = false) ∧
      (t.link n).waitq = (s.link n).waitq.erase f ∧ (t.link n).replay = (s.link n).replay ++ [{ f with seq := (s.link n).nextSeq }] ∧
      (t.link n).nextSeq = (s.link n).nextSeq + 1 ∧ (t.link n).credit f.vc = (s.link n).credit f.vc - 1 ∧
      (∀ m, m ≠ n → t.link m = s.link m) ∧ egressOnly s t))

/-- The arbiter of an idle engine's queue starts one of its candidates, and the Steppe issue port starts one context's command in both of its queues; with no candidate
nothing starts; while the engine runs a command, or the Steppe saves a context, nothing starts and the candidates' requests wait on.  What the grant notes of the commands that absent
objects, a halted channel or 1,024 posted RECVs hold back is `noteHeld`, of Steppe copies without a partner `lonely`, and of candidates that wait `arbiterHolds`
(R58, R93, R311, R327, R336 to R338, R342, R344, R402).
Rows: ARBITER_GRANT.
Choices of the model: log 147. -/
def Obligations.GrantStartsCandidate : Prop :=
  ∀ (s : State) (a : Nat) (reqs : List ArbReq),
    (97 ≤ a → a ≤ 112 →
      let i := a - 95
      let u := s.noteHeld i
      (∀ r, (s.queue i).running = some r → exec (.arbiterGrant a reqs) s =
        .next ((u.holdAll a ((u.candidates i).map u.request)).arbiterHolds i (u.candidates i))) ∧
      ((s.queue i).running = none →
        (u.candidates i = [] → exec (.arbiterGrant a reqs) s = .next u) ∧
        (u.candidates i ≠ [] → ∃ t, ∃ e ∈ u.candidates i, exec (.arbiterGrant a reqs) s = .next t ∧
          (t.queue i).running = some { e with consumed := true } ∧ (∀ j, j ≠ i → t.queue j = s.queue j) ∧
          t = { s with queues := t.queues, arbs := t.arbs, fresh := t.fresh, ctxs := t.ctxs }))) ∧
    (a = 96 →
      let u := (((s.noteHeld 0).noteHeld 1).lonely 0 1).lonely 1 0
      let idle := (s.queue 0).running = none ∧ (s.queue 1).running = none ∧ s.saving = none
      (¬ idle → exec (.arbiterGrant a reqs) s = .next (((u.holdAll 96 (u.steppeCandidates.map (fun p => u.request p.1))).arbiterHolds 0
        (u.steppeCandidates.map (fun p => p.1))).arbiterHolds 1 (u.steppeCandidates.map (fun p => p.2)))) ∧
      (idle → u.steppeCandidates = [] → exec (.arbiterGrant a reqs) s = .next u) ∧
      (idle → u.steppeCandidates ≠ [] → ∃ t, ∃ p ∈ u.steppeCandidates, exec (.arbiterGrant a reqs) s = .next t ∧
        (t.queue 0).running = some { p.1 with consumed := true } ∧ (t.queue 1).running = some { p.2 with consumed := true } ∧
        (∀ j, 2 ≤ j → t.queue j = s.queue j) ∧ t = { s with queues := t.queues, arbs := t.arbs, fresh := t.fresh, ctxs := t.ctxs }))

/-- A command is pre-empted only for a candidate of higher base, at an engine with a pre-emption point, with a delay that is not disabled and, but for the Steppe, a save area that is
RESIDENT: it is set aside, the oldest of its stream; the Steppe sets both copies aside and saves its context first (R124, R332, R349, R350).
Rows: ENGINE_PREEMPTION.
Choices of the model: log 9, log 25. -/
def Obligations.PreemptionSetsAside : Prop :=
  ∀ (s : State) (i : Nat) (e : QEntry), (s.queue i).running = some e →
    let may := s.regs.preempt ≠ 0xFFFFFFFF ∧ preemptible (queueEngine i) = true ∧ (s.ctx e.ctx).base < s.rivalBase i ∧ (2 ≤ i → s.saveHere e.ctx = true)
    let aside := fun (q : Queue) => match q.running with | none => q | some r => ({ q with running := none, saved := r :: q.saved } : Queue)
    (¬ may → exec (.enginePreemption i) s = .next s) ∧
    (may → i < 2 → ∃ t, exec (.enginePreemption i) s = .next t ∧ t = { s with queues := t.queues, saving := some e.ctx } ∧
      t.queue 0 = aside (s.queue 0) ∧ t.queue 1 = aside (s.queue 1) ∧ ∀ j, 2 ≤ j → t.queue j = s.queue j) ∧
    (may → 2 ≤ i → ∃ t, exec (.enginePreemption i) s = .next t ∧ t = { s with queues := t.queues, objs := t.objs, fresh := s.fresh + 1 } ∧
      t.queue i = aside (s.queue i) ∧ (∀ j, j ≠ i → t.queue j = s.queue j) ∧
      ∀ id, t.obj? id = if id = (s.ctx e.ctx).save then (s.obj? id).map (fun o => { o with saved := some s.fresh }) else s.obj? id)

/-- STEPPE_SAVE_COMPLETE lets the next command start; a suspension that is saved makes its context SUSPENDED, a restore makes it READY again or faults it when its save
area is uncorrectable; an episode that is over sets its context aside again and ends the waiters of higher base on its lock; the host's request withdraws the context's requests and parcels
and begins a suspension, and its withdrawal begins the restore (R124, R325, R332, R343, R351 to R353, R355).
Rows: CONTEXT_SAVE_COMPLETE, CONTEXT_RESTORE_COMPLETE, INHERITANCE_BUDGET_EXPIRY, CTX_SUSPEND, SUSPEND_WITHDRAW.
Choices of the model: log 25, log 91, log 98. -/
def Obligations.SuspensionCommandsComplete : Prop :=
  ∀ (s : State) (p : HostPort) (c : CtxId),
    (s.saving = some c → s.saveHere c = true →
      exec .steppeSaveComplete s = .next ((({ (s.swapOutAll c) with saving := none } : State).noteSaved c).grantSteppe)) ∧
    ((s.ctx c).suspending = true → (s.ctx c).state = .ready → s.saveHere c = true → exec (.contextSaveComplete c) s = .next (s.suspended c).drainAll) ∧
    ((s.ctx c).resuming = true → (s.ctx c).state = .suspended → s.saveHere c = true →
      let bad := (s.poisonedAccess [⟨(s.ctx c).save, 0, State.saveUsed, false⟩]).isSome
      (bad = false → exec (.contextRestoreComplete c) s = .next (s.restored c)) ∧
      (bad = true → exec (.contextRestoreComplete c) s = .next (s.faultWith c .uncorrectable))) ∧
    (∀ ep, (s.ctx c).episode = some ep → exec (.inheritanceBudgetExpiry c) s = .next ((s.modCtx c (fun x =>
      { x with episode := none, suspending := decide (x.state = .ready), resuming := false })).endWaiters c (fun k => decide (k = ep.counter.toNat))
        (fun b => decide ((s.ctx c).prio.toNat < b)))) ∧
    (s.ctxMay p c = true → (s.ctx c).suspendReq = false → (s.ctx c).state = .ready → (s.ctx c).episode = none →
      let u := s.modCtx c (fun x => { x with suspendReq := true })
      exec (.ctxSuspend p c) s = .next (((u.withdrawReqs c).withdrawFrames c).modCtx c (fun x =>
        { x with suspending := true, resuming := false, episode := none })).inherit) ∧
    (s.ctxMay p c = true → (s.ctx c).state = .suspended → (s.ctx c).draining = false → (s.port (s.ctx c).port).lost = false →
      ∃ t, exec (.suspendWithdraw p c) s = .next t ∧ ctxOnly s t c ∧ t.ctx c = { s.ctx c with suspendReq := false, resuming := true })

/-! ### Integrity and the card -/

/-- REPLAY_OUTCOME, SCRUB_READ, CHECKPOINT_TIMER, CHECKPOINT_WRITTEN, CERTLOAD and CARD_WIPE complete in every state, with these next states.  A count at a location raises that location's
counter by one and no other (R430, R434).  REPLAY_OUTCOME counts a corrected read; an episode it counts once at its location, after REPLAYED where the replay passed or the response of R325 and
R428 where it failed, and at the second location too where the replay found an error there; a read of a parcel that is poisoned already goes straight to its response.  SCRUB_READ, unless its
tier's interval is 0, moves on one code word and counts what it corrected (R320 to R325, R428 to R431).  A retention checkpoint starts at its interval, one more waits while one runs, and its end
brings the card up to date; certificates are loaded and the card is wiped at the owner's word (R356, R468, R470, R471, R474, R475).
Choices of the model: log 14, log 49, log 93, log 111. -/
def Obligations.IntegrityAndCardCommandsComplete : Prop :=
  (∀ (s : State),
    (∀ correctable l, (s.counters correctable).any (fun k => k.loc == l) = true ∨ (s.counters correctable).length < Config.counterRoom →
      countAt (s.countLoc correctable l) correctable l = min 0xFFFFFFFF (countAt s correctable l + 1) ∧
      ∀ l', l' ≠ l → countAt (s.countLoc correctable l) correctable l' = countAt s correctable l') ∧
    (∀ ep, ep.what = .corrected → exec (.replayOutcome ep) s = .next (s.countLoc true ep.loc)) ∧
    (∀ ep, s.alreadyPoisoned ep = true → exec (.replayOutcome ep) s = .next (s.readFails ep).2) ∧
    (∀ ep, ep.what ≠ .corrected → s.alreadyPoisoned ep = false →
      (ep.passed = true → ep.loc2 = none → exec (.replayOutcome ep) s = .next ((s.replayPasses ep).countLoc false ep.loc)) ∧
      (let u := if ep.what = .uncorrectableRead then s.poison ep.isImage ep.object ep.offset.toNat ep.length.toNat else s
       let counted := (u.replayFails ep).countLoc false ep.loc
       (ep.passed = false → ep.loc2 = none → exec (.replayOutcome ep) s = .next (counted.episodeEvent ep (u.readFails ep).1)) ∧
       (∀ l, ep.loc2 = some l → exec (.replayOutcome ep) s = .next ((counted.countLoc false l).episodeEvent ep (u.readFails ep).1)))) ∧
    (∀ tier object isImage off found l,
      let runs := 3 ≤ s.boot.state.toNat ∧ s.power.duskState = 0 ∧ tier ≠ 3 ∧ s.scrubOff tier = false ∧ (isImage = false → ∀ id, object = some id → s.scrubSkips id = false)
      let u := s.scrubOn tier
      (¬ runs → exec (.scrubRead tier object isImage off found l) s = .next s) ∧
      (runs →
        exec (.scrubRead tier object isImage off .clean l) s = .next u ∧
        exec (.scrubRead tier object isImage off .corrected l) s = .next (u.countLoc true l) ∧
        exec (.scrubRead tier object isImage off .uncorrectable l) s = .next (u.scrubFinds tier object isImage off.toNat l) ∧
        (u.scrubPos.getD tier.toNat 0).toNat =
          ((s.scrubPos.getD tier.toNat 0).toNat + State.scrubWord tier) % State.tierBytes tier))) ∧
  (∀ (s : State) (p : HostPort),
    (3 ≤ s.boot.state.toNat → s.vesper.interval ≠ 0 →
      (s.vesper.running = none → exec .checkpointTimer s = .next s.startCkpt) ∧
      (s.vesper.running.isSome = true → exec .checkpointTimer s = .next { s with vesper := { s.vesper with next := true } })) ∧
    (s.boot.state.toNat < 3 ∨ s.vesper.interval = 0 → exec .checkpointTimer s = .next s) ∧
    (∀ ok bad, s.vesper.running = none → exec (.checkpointWritten ok bad) s = .next s) ∧
    (∀ k bad, s.vesper.running = some k →
      exec (.checkpointWritten true bad) s = .next ((s.retire bad k.seq.toNat).ckptWritten k bad) ∧
      exec (.checkpointWritten false bad) s = .next ((s.retire bad k.seq.toNat).ckptFailed k 6)) ∧
    (s.ownerMay p = false → exec (.certload p) s = .next s ∧ exec (.cardWipe p) s = .next s) ∧
    (s.ownerMay p = true →
      let b := s.hostRd p s.vesper.certAddr.toNat s.vesper.certLen.toNat
      (bundleOk s.boot.idKey b = false → exec (.certload p) s = .next { s with vesper := { s.vesper with cert := 2 } }) ∧
      (bundleOk s.boot.idKey b = true → exec (.certload p) s = .next
        ((({ s with vesper := { s.vesper with bundle := b, cert := 1 } } : State).measure 4 0 0 0 (shake256 b 64)).requestCkpt)) ∧
      (s.vesper.card = 0 ∨ s.vesper.card = 1 → exec (.cardWipe p) s = .next s) ∧
      (s.vesper.card ≠ 0 → s.vesper.card ≠ 1 →
        ∃ t, exec (.cardWipe p) s = .next t ∧ t.vesper.card = 2 ∧ t.vesper.seq = 0 ∧ t.vesper.socket.ckpts = [] ∧ t.boot = s.boot ∧ t.regs = s.regs)))



/-! ### Host ports and interrupts -/

/-- PCIE_DL_DOWN, PCIE_COMPLETION_TIMEOUT, FUNCTION_LEVEL_RESET, D3HOT_ENTRY and PERST complete in every state: the port is lost, its ownership with it, and the device's Dawn, its modes and
its fuses stay; PERST# and DL down also take the link, and a function-level reset and PERST# the port's MSI-X Enable; a port that is lost already stays so. With nothing under way on the device, a loss by DL down, a completion timeout, a function-level reset, D3hot or PERST# ends the
port's ownership, leaves every context and object as it was, and is reported on the other port; PERST# and DL down also take the link (R362, R367, R480). A port comes back
when its link trains, eight or four lanes wide at a rate of PCI Express, with no ownership (R361, R368).
Rows: PORT_LINK_TRAINED.
Choices of the model: log 15, log 20, log 95. -/
def Obligations.PortsLostAndReturned : Prop :=
  ∀ (s : State) (p : HostPort),
    (∀ i ∈ [Instr.pcieDlDown p, .pcieCompletionTimeout p, .functionLevelReset p, .d3hotEntry p, .perst p],
      ∃ t, exec i s = .next t ∧ (t.port p).lost = true ∧ ((s.port p).lost = false → t.owner? ≠ some p) ∧
        (t.port p).linkUp = (if i = .perst p then false else if i = .pcieDlDown p then decide ((s.port p).lost = true) && (s.port p).linkUp else (s.port p).linkUp) ∧
        (i = .functionLevelReset p ∨ i = .perst p → (t.port p).msixEnable = false ∧ ∀ v, ((t.port p).vec v).masked = true) ∧
        t.boot = s.boot ∧ t.power.level = s.power.level) ∧
    (∀ i ∈ [Instr.pcieDlDown p, .pcieCompletionTimeout p, .functionLevelReset p, .d3hotEntry p, .perst p],
      (s.port p).lost = false → (∀ e ∈ s.ctxs, e.2.state = .idle ∧ e.2.draining = false) → s.loads = [] → (s.port (1 - p)).report = none →
      ∃ t, exec i s = .next t ∧ (t.port p).lost = true ∧ (t.port p).idle = false ∧
        t.regs = { s.regs with owner := if s.owner? = some p then 3 else s.regs.owner } ∧
        (t.port p).linkUp = (if i = .pcieDlDown p ∨ i = .perst p then false else (s.port p).linkUp) ∧
        t.ctxs = s.ctxs ∧ t.objs = s.objs ∧ t.boot = s.boot ∧ t.power = s.power ∧ (t.port (1 - p)).attnSeq = (s.port (1 - p)).attnSeq + 1) ∧
    ((s.port p).lost = true → exec (.pcieDlDown p) s = .next s) ∧
    (s.power.pwrgd = true → s.power.resetN = true → ∃ t lanes rate, exec (.portLinkTrained p) s = .next t ∧
      (lanes = 8 ∨ lanes = 4) ∧ rate ∈ pcieRates ∧
      t.port p = { s.port p with perstN := true, linkUp := true, lost := false, idle := false, lanes := lanes, rate := rate } ∧
      t.port (1 - p) = s.port (1 - p) ∧ t = { s with ports := t.ports, fresh := s.fresh + 2 }) ∧
    (¬ (s.power.pwrgd = true ∧ s.power.resetN = true) → exec (.portLinkTrained p) s = .next s)

/-- A poll of a port reads its idle page, its heads and then its tails, and paces the next; a lost port, or one before firmware polls, is not polled; an idle port with nothing
under way slows down (R370).
Rows: PORT_POLL, PORT_IDLE. -/
def Obligations.PortsPolled : Prop :=
  ∀ (s : State) (p : HostPort),
    ((s.port p).lost = true ∨ s.boot.state.toNat < 3 → exec (.portPoll p) s = .next s) ∧
    ((s.port p).lost = false → 3 ≤ s.boot.state.toNat →
      let u := allVectors.foldl (fun t v => if ((t.port p).vec v).n = 0 then t else t.tryMsi p v) ((s.readIdle p).readHeads p)
      exec (.portPoll p) s = .next ((u.pollRings p).1.pace p (u.pollRings p).2)) ∧
    ((s.port p).lost = false → (s.port p).idle = false → s.portBusy p = false → ∃ t, exec (.portIdle p) s = .next t ∧
      t.port p = { s.port p with idle := true, interval := min (2 * (s.port p).pollActive.toNat) (1000 * (s.port p).pollMax.toNat) } ∧
      t = { s with ports := t.ports })

/-- A submission ring (R372): the pending count is the tail less the fetched count modulo 2^32, descriptor i lies at entry i mod size, and a poll fetches up to eight; a pending count above the
ring's size stops the ring and raises the ring event; a stopped ring is not fetched until a ring reset sets the fetched count to the tail last read; the other rings of the context go on.
Rows: RING_RESET. -/
def Obligations.RingsFetched : Prop :=
  ∀ (s : State) (p : HostPort) (c : CtxId) (r : BitVec 2),
    let x := s.ctx c
    let ring := x.sq.getD r.toNat RingReg.init
    let size := 2 ^ ring.log2size.toNat
    let tail := BitVec.ofNat 32 (leNat (s.hostRd x.port ((s.port x.port).dbpage.toNat + 4 * (4 * c.toNat + r.toNat)) 4))
    let f := x.fetchedN.getD r.toNat 0
    let t := (s.pollRing c r).1
    let y := t.ctx c
    let stopped := x.stopped.getLsbD r.toNat
    (ring.log2size ≠ 0 →
      y.tail.getD r.toNat 0 = tail ∧
      (stopped = true → t.mem = s.mem ∧ y.waits r = x.waits r ∧ y.fetchedN = x.fetchedN ∧ y.stopped = x.stopped) ∧
      (stopped = false → size < (tail - f).toNat →
        t = (s.modCtx c (fun x => { x with tail := x.tail.set r.toNat tail, stopped := x.stopped ||| (1#4 <<< r.toNat) })).ringEvent c r 1 tail f 0 ∧
        y.stopped.getLsbD r.toNat = true ∧ y.waits r = x.waits r ∧ y.fetchedN = x.fetchedN) ∧
      (stopped = false → (tail - f).toNat ≤ size →
        let n := min 8 (tail - f).toNat
        t.mem = s.mem ∧ ctxOnly s t c ∧ y.stopped = x.stopped ∧ y.fetchedN.getD r.toNat 0 = f + BitVec.ofNat 32 n ∧
        y.waits r = x.waits r ++ (List.range n).map (fun i =>
          let k := (f.toNat + i) % 2 ^ 32 % size
          (({ ctx := c, ring := r, index := BitVec.ofNat 16 k, bytes := s.hostRd x.port (ring.base.toNat + 64 * k) 64 } : Desc), false))) ∧
      (∀ k : BitVec 2, k ≠ r → y.waits k = x.waits k ∧ y.fetchedN.getD k.toNat 0 = x.fetchedN.getD k.toNat 0 ∧
        y.stopped.getLsbD k.toNat = x.stopped.getLsbD k.toNat)) ∧
    (s.ctxMay p c = true → stopped = true → ∃ u, exec (.ringReset p c r) s = .next u ∧ ctxOnly s u c ∧
      (u.ctx c).fetchedN.getD r.toNat 0 = x.tail.getD r.toNat 0 ∧ (u.ctx c).stopped.getLsbD r.toNat = false ∧
      (∀ k, k ≠ r.toNat → (u.ctx c).stopped.getLsbD k = x.stopped.getLsbD k ∧ (u.ctx c).fetchedN.getD k 0 = x.fetchedN.getD k 0))

/-- The moderation time, the resend time, an unmask and a write that sets MSI-X Enable, or clears Function Mask under it, send a vector's message when a source is asserted and nothing masks it; a masked vector sets its pending bit,
and an unmask with no source asserted clears it; a port that does not answer yet takes neither (R383, R459). Software bits are set and cleared bit by bit (R382), and a write of INTC.ATTN with a new base or size starts the
attention ring afresh (R493).
Rows: MSIX_MODERATION_TIME, MSIX_RESEND, MSIX_UNMASK, MSIX_ENABLE, SWSET, SWPEND_CLEAR, ATTN_RING_WRITE.
Choices of the model: log 20, log 88. -/
def Obligations.InterruptCommandsComplete : Prop :=
  ∀ (s : State) (p : HostPort) (v : BitVec 6),
    let e := (s.port p).vec v
    let pend := fun (t : State) => (t.port p).vec v
    (s.vecAsserted p v = true → (s.port p).msixEnable = true → (s.port p).lost = false →
      (e.time ≠ 0 → e.n ≠ 0 →
        (s.vecMasked p v = false → exec (.msixModerationTime p v) s = .next (s.sendMsi p v)) ∧
        (s.vecMasked p v = true → ∃ t, exec (.msixModerationTime p v) s = .next t ∧ pend t = { e with pending := true } ∧ t = { s with ports := t.ports })) ∧
      (e.sent.isSome = true → s.vecMasked p v = false → exec (.msixResend p v) s = .next (s.sendMsi p v)) ∧
      ((s.port p).funcMask = false → s.boot.bars = true → ∃ u : State, pend u = { e with masked := false } ∧ u = { s with ports := u.ports } ∧
        exec (.msixUnmask p v) s = .next (u.sendMsi p v))) ∧
    (s.vecAsserted p v = false → (s.port p).funcMask = false → s.boot.bars = true → ∃ t, exec (.msixUnmask p v) s = .next t ∧ pend t = { e with masked := false, pending := false } ∧ t = { s with ports := t.ports }) ∧
    (s.boot.bars = true → ∀ on mask, ∃ u : State, u.port p = { s.port p with msixEnable := on, funcMask := mask } ∧ u.port (1 - p) = s.port (1 - p) ∧
      u = { s with ports := u.ports } ∧ exec (.msixEnable { port := p, on := on, mask := mask }) s = .next (
        if on = true ∧ ((s.port p).msixEnable = false ∨ ((s.port p).funcMask = true ∧ mask = false)) then allVectors.foldl (fun t v => t.fireOrClear p v) u else u)) ∧
    (s.boot.bars = false → exec (.msixUnmask p v) s = .next s ∧ ∀ on mask, exec (.msixEnable { port := p, on := on, mask := mask }) s = .next s) ∧
    (s.boot.bars = true → ∀ bits : U64,
      (∃ t, exec (.swset p bits) s = .next t ∧ (t.port p).swpend = (s.port p).swpend ||| bits ∧ t.port (1 - p) = s.port (1 - p) ∧ t.ctxs = s.ctxs ∧
        t.regs = s.regs) ∧
      (∃ t, exec (.swpendClear p bits) s = .next t ∧ t.port p = { s.port p with swpend := (s.port p).swpend &&& ~~~bits } ∧ t = { s with ports := t.ports })) ∧
    (∀ value : U64, s.boot.bars = true → s.integ.attnSeen.getD p.toNat false = true →
      let n := value.toNat % 16
      let fresh := (s.port p).attnBase.toNat ≠ value.toNat / 4096 * 4096 ∨ (s.port p).attnLog.toNat ≠ n
      (n = 0 ∨ (4 ≤ n ∧ n ≤ 12)) → ∃ t, exec (.attnRingWrite p value) s = .next t ∧ t = { s with ports := t.ports } ∧ t.port (1 - p) = s.port (1 - p) ∧
        t.port p = { s.port p with attnLog := BitVec.ofNat 4 n, attnVector := BitVec.ofNat 6 (value.toNat / 16), attnBase := BitVec.ofNat 64 (value.toNat / 4096 * 4096),
                                   attnT := if fresh then 0 else (s.port p).attnT, attnHead := if fresh then 0 else (s.port p).attnHead })

/-! ### Registers -/

/-- HOST.OWNER (R365): none at reset; a claim takes when there is no owner or its port is lost, a release from the owner lets go, and device time then runs without a source's slew unless a formed tree gives one (R389), both at once do nothing; the register reads the
owner alone, and boot ROM takes its image and its start from the owner only.
Rows: OWNER_CLAIM, OWNER_RELEASE, BOOT_WINDOW_WRITE, BOOT_GO, REGISTER_WRITE. -/
def Obligations.OwnerRule : Prop :=
  State.reset.regs.owner = 3 ∧
  ∀ (s : State) (p : HostPort), s.boot.bars = true →
    let free := s.owner? = none ∨ ∃ o, s.owner? = some o ∧ (s.port o).lost = true
    let set := fun (o : BitVec 2) => ({ s with regs := { s.regs with owner := o } } : State)
    let gone : State := { s with regs := { s.regs with owner := 3 }, clock := { s.clock with
      slew := if s.regs.treeFormed = true ∧ s.uplink?.isSome = true then s.clock.slew else 0 } }
    (free → exec (.ownerClaim p) s = .next (set (p.setWidth 2)) ∧ (set (p.setWidth 2)).owner? = some p) ∧
    (¬ free → exec (.ownerClaim p) s = .next s) ∧
    (s.owner? = some p → exec (.ownerRelease p) s = .next gone ∧ gone.owner? = none) ∧
    (s.owner? ≠ some p → exec (.ownerRelease p) s = .next s) ∧
    (∀ v : U64, v.getLsbD 8 = true →
      exec (.registerWrite p 0x10000 8 v) s = (if v.getLsbD 9 = true then .next s else exec (.ownerClaim p) s)) ∧
    (∀ v : U64, v.getLsbD 8 = false → exec (.registerWrite p 0x10000 8 v) s = (if v.getLsbD 9 = true then exec (.ownerRelease p) s else .next s)) ∧
    (∀ q, s.regValue q 0x10000 = s.regs.owner.toNat) ∧
    (s.owner? ≠ some p → (∀ off data, exec (.bootWindowWrite p off data) s = .next s) ∧ exec (.bootGo p) s = .next s)

/-- A write that R366 and R484 do not permit is discarded: the owner's registers take nothing from another port or before W6, a context's record nothing from a port it does not
name, and the boot block nothing from another port than the owner's. -/
def Obligations.OnlyPermittedWrites : Prop :=
  ∀ (s : State) (p : HostPort),
    (s.ownerMay p = false →
      (∀ off size v, 0x50000 ≤ off.toNat → off.toNat < 0xF0000 → exec (.registerWrite p off size v) s = .next s) ∧
      (∀ (i : Instr), ((∃ l, i = .levelWrite p l) ∨ (∃ d v, i = .trimWrite p d v) ∨ i = .duskStart p ∨ (∃ b, i = .dmahaltRelease p b) ∨
        (∃ k v, i = .integThreshWrite p k v) ∨ (∃ v, i = .integClear p v) ∨ (∃ b n, i = .syncClear p b n) ∨ (∃ n v, i = .linkPortWrite p n v) ∨
        i = .certload p ∨ i = .cardWipe p) → exec i s = .next s)) ∧
    (∀ c, s.ctxMay p c = false →
      (∀ i ∈ [Instr.ctxSuspend p c, .suspendWithdraw p c, .ctxClear p c, .ctxDusk p c], exec i s = .next s) ∧ (∀ r, exec (.ringReset p c r) s = .next s) ∧
      (∀ v, exec (.cqWrite p c v) s = .next s) ∧
      (∀ off size v, (off.toNat - 0x20000) / 256 = c.toNat → 0x20000 ≤ off.toNat → off.toNat < 0x30000 → off.toNat % 256 / 8 ≠ 2 →
        exec (.registerWrite p off size v) s = .next s)) ∧
    (s.owner? ≠ some p → (∀ off size v, 0xF0000 ≤ off.toNat → exec (.registerWrite p off size v) s = .next s) ∧ exec (.bootLock p) s = .next s ∧
      exec (.bootGo p) s = .next s ∧ ∀ off data, exec (.bootWindowWrite p off data) s = .next s)

/-- After the lock a write to an RWL field, of MEM.STEPMEM, LINK.TREE or BOOT.IMAGE, changes nothing at all: no register, no completion, no message, no event; the field
reads back as it was (R15). -/
def Obligations.RwlWriteDiscarded : Prop :=
  ∀ (s : State) (p : HostPort) (off : BitVec 21) (size : Byte) (v : U64), s.boot.locked = true →
    off.toNat / 8 * 8 ∈ [0x60000, 0x80000, 0xF0008] → exec (.registerWrite p off size v) s = .next s

/-- CTX_CLEAR takes a FAULTED context to READY, CTX_DUSK begins the context's Dusk, GRACE_EXPIRY sets a step aside that has not
reached its boundary, and CQ_WRITE sets the completion ring of an IDLE context up, or makes a DRAINED one IDLE (R331, R371, R452, R491, R492).
Choices of the model: log 82, log 83, log 88. -/
def Obligations.ContextRegisterCommands : Prop :=
  ∀ (s : State) (p : HostPort) (c : CtxId),
    let x := s.ctx c
    (x.draining = true → x.state = .ready → x.suspending = false → ∀ r, x.run = some r →
      exec (.graceExpiry c) s = .next (if r.passed = true then s else s.beginSuspend c)) ∧
    (s.ctxMay p c = true →
      (x.state = .faulted → x.draining = false → ∃ t, exec (.ctxClear p c) s = .next t ∧ ctxOnly s t c ∧
        t.ctx c = { x with state := .ready, suspending := x.suspendReq }) ∧
      (x.state ≠ .faulted → exec (.ctxClear p c) s = .next s) ∧
      ((x.state = .ready ∨ x.state = .suspended ∨ x.state = .faulted) → x.draining = false → exec (.ctxDusk p c) s = .next ((s.modCtx c (fun x =>
        { x with draining := true, resuming := false, episode := if x.state = .ready then x.episode else none })).drainOn c)) ∧
      ((x.state = .idle ∨ x.state = .drained) → exec (.ctxDusk p c) s = .next s) ∧
      (∀ v : U64, State.ringOk v.toNat false = true →
        let y := { x with cq := State.ringOf v.toNat, fetchedN := [], tail := [], writtenT := 0, cqHead := 0, irqLast := none }
        (x.state = .idle → ∃ t, exec (.cqWrite p c v) s = .next t ∧ ctxOnly s t c ∧ t.ctx c = y) ∧
        (x.state = .drained → s.power.duskState ≠ 1 → ∃ t, exec (.cqWrite p c v) s = .next t ∧
          t.ctx c = { y with image := none, state := .idle, waiting := [], outstanding := [], reserved := 0, steps := [] }) ∧
        ((x.state = .ready ∨ x.state = .suspended ∨ x.state = .faulted) → exec (.cqWrite p c v) s = .next s)))

/-- The owner's register commands have their effect, on their registers alone: MEM.DMAHALT, INTEG.THRESH, INTEG.CLEAR, SYNC.CLEAR (R327, R434, R496).
Rows: DMAHALT_RELEASE, INTEG_THRESH_WRITE, INTEG_CLEAR, SYNC_CLEAR.
Choices of the model: log 84. -/
def Obligations.OwnerRegisterCommands : Prop :=
  ∀ (s : State) (p : HostPort), s.ownerMay p = true →
    (∀ bits, exec (.dmahaltRelease p bits) s = .next { s with regs := { s.regs with dmahalt := s.regs.dmahalt &&& ~~~bits } }) ∧
    (∀ (k : BitVec 4) (v : U32), k ≠ 0 → k ≠ 15 → ∃ t, exec (.integThreshWrite p k v) s = .next t ∧ t = { s with regs := t.regs, integ := t.integ } ∧
      t.regs = { s.regs with thresh := t.regs.thresh } ∧ t.regs.thresh.get? k.toNat = some { detected := v.setWidth 16, correctable := (v >>> 16).setWidth 16 } ∧
      (∀ j, j ≠ k.toNat → t.regs.thresh.get? j = s.regs.thresh.get? j) ∧ t.integ.detected.map Counter.count = s.integ.detected.map Counter.count ∧
      (∀ x ∈ t.integ.detected, x.loc.kind = k → v.setWidth 16 ≠ (s.regs.thresh.getD k.toNat Thresh.init).detected →
        if v.setWidth 16 = (0 : U16) then x.next = 0 else (x.count.toNat < x.next.toNat ∨ x.next = 0xFFFFFFFF))) ∧
    (∀ v : U32, ∃ t, exec (.integClear p v) s = .next t ∧ t = { s with integ := t.integ } ∧
      (v.getLsbD 4 = true → t.integ.detected = [] ∧ t.integ.correctable = []) ∧
      (v.getLsbD 4 = false → v.getLsbD 5 = false → t.integ.correctable = s.integ.correctable ∧
        t.integ.detected = s.integ.detected.filter (fun x => x.loc.kind.toNat != v.toNat % 16)) ∧
      (v.getLsbD 4 = false → v.getLsbD 5 = true → t.integ.detected = s.integ.detected ∧
        t.integ.correctable = s.integ.correctable.filter (fun x => x.loc.kind.toNat != v.toNat % 16))) ∧
    (∀ base count : U16, count ≠ 0 → base.toNat + count.toNat ≤ 64512 → ∃ t, exec (.syncClear p base count) s = .next t ∧
      t = { s with sync := t.sync, regs := t.regs } ∧ t.regs = { s.regs with syncDiscarded := s.windowMeets base.toNat count.toNat } ∧
      ∀ j, t.counter j = if s.windowMeets base.toNat count.toNat = false ∧ base.toNat ≤ j ∧ j < base.toNat + count.toNat then 0 else s.counter j)

/-- REGISTER_WRITE sets the register at its offset and it reads back, its reserved bits zero (R13, R481 to R497); a misaligned write, and one beyond 1 MiB, changes nothing (R482). -/
def Obligations.RegistersReadBack : Prop :=
  ∀ (s : State) (p : HostPort) (v : U64),
    let takes := fun (off : BitVec 21) (w : Nat) => ∃ t, exec (.registerWrite p off 8 v) s = .next t ∧ t.regValue p off.toNat = w
    (s.boot.bars = true →
      takes 0x10018 (v.toNat / 64 * 64) ∧
      ((s.ctxsOf p).all (fun e => e.2.state != .ready && e.2.state != .suspended) = true → takes 0x10008 (v.toNat / 4096 * 4096) ∧ takes 0x10010 (v.toNat / 4096 * 4096)) ∧
      (1 ≤ v.toNat % 1024 → v.toNat % 1024 ≤ 1000 → takes 0x10028 (v.toNat % 1024)) ∧
      ((v.toNat % 1024 = 0 ∨ 1000 < v.toNat % 1024) → exec (.registerWrite p 0x10028 8 v) s = .next s)) ∧
    (s.ownerMay p = true →
      takes 0x60008 (v.toNat % 2 ^ 32) ∧ takes 0xA0000 (v.toNat % 2 ^ 32) ∧ takes 0xE0030 v.toNat ∧ takes 0xE0038 (v.toNat % 2 ^ 17) ∧
      (1 ≤ v.toNat % 512 → v.toNat % 512 ≤ 500 → takes 0xA0010 (v.toNat % 512)) ∧
      (s.boot.locked = false → 1 ≤ v.toNat % 64 → v.toNat % 64 ≤ 32 → takes 0x60000 (v.toNat % 64))) ∧
    (∀ off size, (0x100000 ≤ off.toNat ∨ (size = 8 ∧ off.toNat % 8 ≠ 0) ∨ (size ≠ 8 ∧ size ≠ 4) ∨ (size = 4 ∧ off.toNat % 4 ≠ 0)) →
      exec (.registerWrite p off size v) s = .next s)


/-! ### Power, pins and Dawn -/

/-- The pins move as R505 to R507 say: PWRGD rises with the rails unless the trip is latched, a RESET# release with PWRGD high is W1 and one before PWRGD waits for the delay, and VIN that falls
while RESET# is asserted takes PWRGD alone.
Rows: VIN_RISE, RAILS_IN_REGULATION, RESET_RELEASE, RESET_ASSERT, VIN_LOW, VIN_RETURN, THERMAL_TRIP, PWRGD_RESET_DELAY.
Choices of the model: log 106. -/
def Obligations.PinsFollowSupply : Prop :=
  ∀ (s : State),
    let w := s.power
    let on := fun (f : Power) => ({ s with power := f } : State)
    (w.vin = false → exec .vinRise s = .next (on { w with vin := true }) ∧ exec .vinReturn s = .next (on { w with vin := true })) ∧
    (w.vin = true → exec .vinReturn s = .next s) ∧
    (w.vin = true → w.thermtrip = false → exec .railsInRegulation s = .next (on { w with rails := true, pwrgd := true })) ∧
    (w.thermtrip = true → exec .railsInRegulation s = .next s) ∧
    (w.resetN = false →
      exec .resetAssert s = .next s ∧
      exec .vinLow s = .next (on { w with vin := false, rails := false, pwrgd := false, awaitReset := false, early := false }) ∧
      (∀ failed, w.pwrgd = true → ∃ t, exec (.resetRelease failed) s = .next t ∧ t.boot.state = 0 ∧ t.boot.selftested = true ∧ t.boot.bars = false ∧
        t.power.resetN = true ∧ (failed.length + s.integ.detected.length ≤ 64 → t.mem = s.mem) ∧ (failed = [] → t.integ = s.integ)) ∧
      (∀ failed, w.pwrgd = false → exec (.resetRelease failed) s = .next (on { w with resetN := true, early := true, failed := failed }))) ∧
    (w.early = true → w.pwrgd = true → w.resetN = true → exec .pwrgdResetDelay s = .next (s.selfTest w.failed)) ∧
    (w.early = false → exec .pwrgdResetDelay s = .next s) ∧
    (w.rails = false → exec .thermalTrip s = .next s)

/-- RESET#, a VIN loss, the thermal trip and the power cycle that clears its latch lose the device's own state: everything is as at reset but the fuses, the card, the hosts' memories, PERST#, the
waiting commands and the pins (R479, R505 to R507); while the trip is latched PWRGD is low.
Rows: RESET_ASSERT, VIN_LOW, THERMAL_TRIP, THERMTRIP_LATCH_CLEAR.
Choices of the model: log 1, log 2. -/
def Obligations.ResetLosesState : Prop :=
  ∀ (s : State), s.power.resetN = true →
    ∀ i ∈ [Instr.resetAssert, .vinLow, .thermalTrip, .thermtripLatchClear], (i = .thermalTrip → s.power.rails = true) →
      ∃ t, exec i s = .next t ∧
        t = { State.reset with pending := s.pending, fresh := s.fresh, mem := t.mem, power := t.power, boot := { Boot.init with fuses := s.boot.fuses },
                               vesper := { Vesper.init with socket := s.vesper.socket }, ports := t.ports } ∧
        (∀ p : HostPort, t.port p = { Port.init with perstN := (s.port p).perstN }) ∧
        (∀ (p : HostPort) a, t.hostRd p a 1 = s.hostRd p a 1) ∧ (∀ a, t.get .boot a 1 = [Memory.unlisted]) ∧
        t.power.level = 2 ∧ t.power.offset = 0 ∧ t.power.cause = 0 ∧ t.power.resetN = decide (i ≠ .resetAssert) ∧
        t.power.pwrgd = (if i = .resetAssert then s.power.pwrgd else false) ∧
        t.power.thermtrip = (if i = .thermalTrip then true else if i = .thermtripLatchClear then false else s.power.thermtrip)

/-- Dawn goes its way (R459 to R464): W3 derives the identity and opens the BARs; the window takes the owner's bytes in state 1 alone; a go verifies; a refused image brings the first failing check's code,
one attempt more and state 1, an accepted one starts the firmware with its burns made; W6 brings state 3; the lock freezes the set-up, sizes step memory and brings state 4.
Rows: BOOT_WINDOW_WRITE, BOOT_GO, IMAGE_VERIFIED, BOOT_LOCK, DAWN_BRINGUP, RETAINED_STATE_RESTORE.
Choices of the model: log 103, log 104, log 105. -/
def Obligations.DawnSequence : Prop :=
  ∀ (s : State) (p : HostPort),
    let b := s.boot
    (∀ hbm, s.power.pwrgd = true → s.power.resetN = true → b.selftested = true → b.bars = false →
      exec (.dawnBringup hbm) s = .next { s with
        boot := { b with state := 1, bars := true, idKey := identityKey b.fuses.secret, devId := deviceId (identityKey b.fuses.secret) }
        regs := { s.regs with statusHbm := hbm } }) ∧
    (∀ off data, s.owner? = some p → b.state = 1 → off.toNat + data.length ≤ 67108864 → ∃ t, exec (.bootWindowWrite p off data) s = .next t ∧
      t.get .boot off.toNat data.length = data ∧ t = { s with mem := t.mem }) ∧
    (∀ off data, b.state ≠ 1 → exec (.bootWindowWrite p off data) s = .next s) ∧
    (s.owner? = some p → b.state = 1 → exec (.bootGo p) s = .next { s with boot := { b with state := 2, verifyAt := some s.clock.now } }) ∧
    (b.state ≠ 1 → exec (.bootGo p) s = .next s) ∧
    (b.state = 2 → b.firmware = false →
      (s.imageStatus ≠ 0 → exec .imageVerified s = .next { s with boot := { b with
        status := BitVec.ofNat 4 s.imageStatus, state := 1, verifyAt := none, attempts := BitVec.ofNat 16 (min 65535 (b.attempts.toNat + 1)) } }) ∧
      (s.imageStatus = 0 → ∃ t, exec .imageVerified s = .next t ∧ t.boot.firmware = true ∧ t.boot.status = 0 ∧ t.boot.state = 2 ∧ t.boot.attempts = b.attempts ∧
        t.boot.slot = BitVec.ofNat 1 (fld (s.get .boot 0 32) 9 1) ∧ t.boot.fwDigest = shake256 s.firmwareImage 64 ∧
        t.boot.fuses.revoked = (if bitAt (s.get .boot 0 32) 10 1 = true ∧ fld (s.get .boot 0 32) 9 1 = 1 then b.fuses.revoked ||| 1 else b.fuses.revoked) ∧
        t.mem = s.mem ∧ t.regs = s.regs)) ∧
    (∀ trained dimms socket, b.state = 2 → b.firmware = true → ∃ t, exec (.retainedStateRestore trained dimms socket) s = .next t ∧ t.boot.state = 3 ∧
      t.regs.statusDdr = trained &&& t.regs.ddrEnable ∧ t.regs.dimms = dimms ∧ t.power.current = t.power.level) ∧
    (s.owner? = some p → b.state = 3 → ∃ t, exec (.bootLock p) s = .next t ∧ t.boot = { b with locked := true, state := 4 } ∧ t.stepUnits = s.regs.stepmem.toNat ∧
      (∀ n, (s.link n).enable = true → (s.link n).state = .down → (t.link n).state = .training) ∧ (∀ n, (s.link n).enable = false → t.link n = s.link n) ∧
      t = { s with boot := t.boot, stepUnits := t.stepUnits, links := t.links }) ∧
    (¬ (s.owner? = some p ∧ b.state = 3) → exec (.bootLock p) s = .next s)

/-- A level is written by the owner and reached by a ramp from the voltage of the moment, a higher cap at once and a lower one at the ramp's end, which starts one checkpoint; the level in force starts
none, code 3 is discarded (R444, R445). A trim field above 8 keeps its value (R455), a new trim ramps from the voltage its domain has (R447), and AUTOTRIM gives one step more (R448).  Device Dusk begins at the
owner's word and once only, and ends with its checkpoint when every context is at rest and the lane is quiet (R453).
Rows: LEVEL_WRITE, RAMP_END, TRIM_WRITE, DUSK_START, DEVICE_DUSK_DONE.
Choices of the model: log 70, log 91. -/
def Obligations.ModeBlockCommandsComplete : Prop :=
  (∀ (s : State) (p : HostPort),
    let w := s.power
    (s.ownerMay p = true →
      exec (.levelWrite p 3) s = .next s ∧
      (∀ level, level ≠ 3 → w.ramp = false → level = w.current → exec (.levelWrite p level) s = .next { s with power := { w with level := level } }) ∧
      (∀ level, level ≠ 3 → (w.ramp = false → level ≠ w.current) → (w.ramp = true → level ≠ w.level) → ∃ t, exec (.levelWrite p level) s = .next t ∧ t = { s with power := t.power } ∧
        t.power = { w with level := level, ramp := true, rampFrom := s.coreMv, rampTo := nominalMv level.toNat, rampStart := s.clock.now,
                           cap := if s.coreMv ≤ nominalMv level.toNat then levelCap level.toNat else w.cap } ∧ t.coreMv = s.coreMv) ∧
      (∀ (d : Fin 7) (v : U32), ∃ t, exec (.trimWrite p d v) s = .next t ∧ t = { s with power := t.power } ∧
        (∀ e : Fin 7, e ≠ d → t.power.trims.getD e.val Trim.init = w.trims.getD e.val Trim.init) ∧
        (let old := w.trims.getD d.val Trim.init
         let new := t.power.trims.getD d.val Trim.init
         new.noon.toNat = (if v.toNat % 16 ≤ 8 then v.toNat % 16 else old.noon.toNat) ∧
         new.afternoon.toNat = (if v.toNat / 16 % 16 ≤ 8 then v.toNat / 16 % 16 else old.afternoon.toNat) ∧
         new.evening.toNat = (if v.toNat / 256 % 16 ≤ 8 then v.toNat / 256 % 16 else old.evening.toNat)) ∧
        ∀ e : Nat, t.domainMv e = s.domainMv e)) ∧
    (w.ramp = true →
      let done := ({ s with power := { w with current := w.level, ramp := false, cap := levelCap w.level.toNat } } : State)
      exec .rampEnd s = .next (if w.duskState = 1 then done else done.requestCkpt)) ∧
    (w.ramp = false → exec .rampEnd s = .next s) ∧
    (∀ d : Fin 7, w.autotrim = true → 3 ≤ s.boot.state.toNat → s.meanPower 1000 ≤ 950 * w.cap → w.offset = 0 → w.lastTrim = none →
      (w.trims.getD d.val Trim.init).at w.current.toNat < 8 → ∃ t, exec (.autotrim d) s = .next t ∧ t = { s with power := t.power } ∧
        t.power.lastTrim = some s.clock.now ∧ (t.power.trims.getD d.val Trim.init).at w.current.toNat = (w.trims.getD d.val Trim.init).at w.current.toNat + 1)) ∧
  (∀ (s : State) (p : HostPort),
    (s.ownerMay p = true →
      (s.power.duskState = 1 → exec (.duskStart p) s = .next s) ∧
      (s.power.duskState ≠ 1 → s.acts = [] → (∀ e ∈ s.ctxs, (e.2.state = .idle ∨ e.2.state = .drained) ∧ e.2.draining = false) →
        (∀ q : HostPort, (s.port q).report = none) → exec (.duskStart p) s =
          .next { s with power := { s.power with duskState := 1 }, vesper := { s.vesper with next := false } })) ∧
    (s.power.duskState = 1 → s.allAtRest = true → s.laneQuiet = true →
      exec .deviceDuskDone s = .next (({ s with vesper := { s.vesper with forDusk := true } } : State).requestCkpt)) ∧
    (s.power.duskState ≠ 1 ∨ s.allAtRest = false ∨ s.laneQuiet = false → exec .deviceDuskDone s = .next s))

/-- The power controller (R449 to R451, R512): a sample is kept while the rails are up; every 100 µs the offset moves by at most one step between 0 and 255, or jumps to the value for 0.55 V above 3,000 W and while a critical
junction has not cooled; the readings that a sample or a critical junction leaves make that jump
at once from 105 °C and trip the device from 115 °C; beyond the absolute ratings nothing is defined, and the machine stops.
Rows: POWER_SAMPLE, POWER_CONTROL_TICK, JUNCTION_CRITICAL.
Choices of the model: log 70, log 87, log 92, log 151. -/
def Obligations.PowerControllerActs : Prop :=
  ∀ (s : State),
    let w := s.power
    let full := max w.offset.toNat s.fullOffset
    let jumps := fun (u t : State) => t.power.offset = BitVec.ofNat 8 full ∧ t.power.critical = true ∧ t.power.cause.getLsbD 0 = true ∧
      t.power.cause.getLsbD 1 = w.cause.getLsbD 1 ∧ t.power.sensors = u.power.sensors ∧ t.power.samples = u.power.samples
    let tripped := fun (s t : State) => t.power.rails = false ∧ t.power.pwrgd = false ∧ t.power.thermtrip = true ∧ t.boot = { Boot.init with fuses := s.boot.fuses }
    (∀ mw vin sensors, State.beyondRatings vin sensors = true → exec (.powerSample mw vin sensors) s = .fault .outsideRatings) ∧
    (∀ mw vin sensors, State.beyondRatings vin sensors = false → w.rails = true → sensors.length = 40 →
      let u : State := { s with power := { w with samples := (mw :: w.samples).take 1000, vinMv := vin, sensors := sensors } }
      let hot := (sensors.map BitVec.toNat).foldl max 0
      ((hot < 420 ∨ w.resetN = false) → hot < 460 → exec (.powerSample mw vin sensors) s = .next u) ∧
      (420 ≤ hot → hot < 460 → w.resetN = true → ∃ t, exec (.powerSample mw vin sensors) s = .next t ∧ jumps u t) ∧
      (460 ≤ hot → ∃ t, exec (.powerSample mw vin sensors) s = .next t ∧ tripped s t)) ∧
    (w.rails = true → w.resetN = true → ∃ t, exec .powerControlTick s = .next t ∧
      (let hold := w.critical = true ∧ 4 * w.throttle.toNat ≤ s.hottest
       (hold → t.power.offset = BitVec.ofNat 8 full) ∧
       (¬ hold → 3000000 < s.meanPower 100 → t.power.offset = BitVec.ofNat 8 s.fullOffset) ∧
       (¬ (3000000 < s.meanPower 100 ∨ hold) → (t.power.offset.toNat : Int) = max 0 (min 255 ((w.offset.toNat : Int) + s.offsetStep))) ∧
       -1 ≤ s.offsetStep ∧ s.offsetStep ≤ 1 ∧ (w.cap * 1000 < s.meanPower 1000 → s.offsetStep = 1) ∧
       (4 * w.throttle.toNat < s.hottest → s.offsetStep = 1)) ∧
      lagsOnly s t ∧ t.boot = s.boot ∧ t.power.level = w.level ∧ t.power.current = w.current) ∧
    (∀ die (r : U16), 500 < r.toNat → exec (.junctionCritical die r) s = .fault .outsideRatings) ∧
    (∀ die (r : U16), 420 ≤ r.toNat → r.toNat ≤ 500 → w.rails = true → w.resetN = true → w.sensors.length = 40 →
      let u := s.readAt die r
      420 ≤ u.hottest ∧ (u.hottest < 460 → ∃ t, exec (.junctionCritical die r) s = .next t ∧ jumps u t) ∧
        (460 ≤ u.hottest → ∃ t, exec (.junctionCritical die r) s = .next t ∧ tripped s t)) ∧
    (∀ die (r : U16), r.toNat < 420 → exec (.junctionCritical die r) s = .next s)

/-- The management target answers while PWRGD is high: the index is set by a write, a read gives the bytes that R508 lists from it on and moves it past them. ALERT# is low while MODE.THERM.cause is not 0, from W5 on
(R509).
Rows: MGMT_INDEX_WRITE, MGMT_READ.
Choices of the model: log 81. -/
def Obligations.ManagementTarget : Prop :=
  ∀ (s : State),
    (s.power.pwrgd = false → s.power.thermtrip = false → (∀ x, exec (.mgmtIndexWrite x) s = .next s) ∧ ∀ n, exec (.mgmtRead n) s = .next s) ∧
    (s.power.pwrgd = true →
      (∀ x, exec (.mgmtIndexWrite x) s = .next { s with power := { s.power with mgmtIndex := x } }) ∧
      (∀ n : Byte, s.power.mgmtIndex.toNat + n.toNat ≤ 12 → ∃ t, exec (.mgmtRead n) s = .next t ∧
        t.power.mgmtOut = (([0x80, 0x09, 0xB1, s.boot.state.setWidth 8, s.power.current.setWidth 8, s.power.cause.setWidth 8] ++ toLE 2 s.hottest ++ toLE 2 s.avgWatts ++
          [s.vesper.card.setWidth 8, if s.power.thermtrip = true then 1 else 0]).drop s.power.mgmtIndex.toNat).take n.toNat ∧
        t.power.mgmtIndex = s.power.mgmtIndex + n ∧ t = { s with power := t.power, fresh := t.fresh })) ∧
    (s.alertLow = true ↔ s.power.cause ≠ 0 ∧ s.boot.firmware = true)


/-! ### Selyn -/

/-- A Selyn port trains (R391, R392): LANES_LOCKED takes x8 or an x4 group and sends this device's training record, the far end's TRAINING_RECORD brings the port up or is refused with the event; a lock loss retrains with the replay buffer kept, a
retrain that takes too long, or whose far end has lost its training, is a link loss, and the retry timer sends again, each frame eight times in a row at most (R397, R398, R405).  LINK_PORT_WRITE enables, disables and sets the width (R394).
Rows: LANE_LOCK_LOSS, RETRAIN_TIMEOUT, LINK_RETRY_TIMER.
Choices of the model: log 62, log 88. -/
def Obligations.LinkPortsTrain : Prop :=
  ∀ (s : State) (n : SelynPort),
    let l := s.link n
    let only := fun (t : State) => t = { s with links := t.links } ∧ ∀ m, m ≠ n → t.link m = s.link m
    let lanes := fun (good : Byte) => if l.x4 = false ∧ good = 0xFF then 8 else if good.toNat % 16 = 15 ∨ good.toNat / 16 = 15 then 4 else 0
    let comesUp := fun (u : State) => ((u.linkUp n).link n).state = (if (u.link n).lanes = 8 then .up8 else .up4) ∧ ((u.linkUp n).link n).retrain = none
    let trains := l.state = .training ∨ (l.state = .down ∧ l.enable = true ∧ s.boot.locked = true)
    (∀ good, trains → l.retrain = none →
      ∃ t, exec (.lanesLocked n good) s = .next t ∧ only t ∧ t.link n = { l with
        lanes := lanes good, state := if lanes good = 0 then .down else .training, record := if lanes good = 0 then l.record else some (s.trainRecord n) }) ∧
    (∀ good, l.state = .training → l.retrain.isSome = true →
      (lanes good = 0 ∨ l.everUp = false → ∃ t, exec (.lanesLocked n good) s = .next t ∧ only t ∧ t.link n = { l with
        lanes := lanes good, record := if lanes good = 0 then l.record else some (s.trainRecord n) }) ∧
      (lanes good ≠ 0 → l.everUp = true → ∃ u, only u ∧ u.link n = { l with lanes := lanes good } ∧ comesUp u ∧
        exec (.lanesLocked n good) s = .next (if s.childPorts.contains n = true then (u.linkUp n).tryRollcall else u.linkUp n))) ∧
    (∀ good, ¬ trains → exec (.lanesLocked n good) s = .next s) ∧
    (∀ tr, l.state = .training → l.lanes ≠ 0 → s.treePort n = true →
      let right := tr.member = 0x0980 ∧ tr.stepping = 0xB1
      let tree := tr.treeId = s.regs.treeId ∧ tr.size = s.regs.treeSize ∧
        ((s.uplink? = some n ∧ tr.children.getLsbD tr.port.toNat = true) ∨ (s.childPorts.contains n = true ∧ tr.uplink = tr.port))
      (right → tree → exec (.trainingRecord n tr) s = .next (s.linkUp n).tryRollcall ∧ comesUp s) ∧
      (¬ (right ∧ tree) → ∃ u, only u ∧ u.link n = { l with state := .down, lanes := 0 } ∧
        exec (.trainingRecord n tr) s = .next (u.linkEvent n.val (if right then 5 else 4) 0 0 0 0 []))) ∧
    (∀ tr, l.state = .training → l.lanes ≠ 0 → s.treePort n = false → ∃ t, exec (.trainingRecord n tr) s = .next t ∧ only t ∧
      t.link n = { l with state := .down, lanes := 0 }) ∧
    (∀ tr, l.state ≠ .training ∨ l.lanes = 0 → exec (.trainingRecord n tr) s = .next s) ∧
    (l.up = true →
      (∃ t, exec (.laneLockLoss n) s = .next t ∧ only t ∧
        t.link n = { l with state := .training, lanes := 0, retrain := some s.clock.now, stats := { l.stats with retrains := l.stats.retrains + 1 } }) ∧
      (l.replay ≠ [] → (∀ k ∈ l.tries, k < 8) → ∃ t, exec (.linkRetryTimer n) s = .next t ∧ only t ∧
        t.link n = { l with tries := l.tries.map (· + 1), sent := (t.link n).sent, stats := { l.stats with resent := l.stats.resent + l.replay.length } }) ∧
      (l.replay ≠ [] → (∃ k ∈ l.tries, 8 ≤ k) → exec (.linkRetryTimer n) s = exec (.laneLockLoss n) s) ∧
      (l.replay = [] → exec (.linkRetryTimer n) s = .next s)) ∧
    (l.up = false → exec (.laneLockLoss n) s = .next s ∧ exec (.linkRetryTimer n) s = .next s) ∧
    (∀ farLost, l.state = .training → l.retrain.isSome = true →
      exec (.retrainTimeout { port := n, farLost := farLost }) s = .next (s.linkDown n (if farLost = true then 2 else 1)) ∧
        (s.regs.treeFormed = false → ((s.linkDown n (if farLost = true then 2 else 1)).link n).up = false)) ∧
    (∀ farLost, ¬ (l.state = .training ∧ l.retrain.isSome = true) → exec (.retrainTimeout { port := n, farLost := farLost }) s = .next s) ∧
    (∀ (p : HostPort) (v : U32), s.ownerMay p = true →
      (v.getLsbD 0 = false → l.up = false → l.retrain = none → ∃ t, exec (.linkPortWrite p n v) s = .next t ∧ only t ∧
        t.link n = { l with enable := false, x4 := v.getLsbD 1, state := .down, lanes := 0 }) ∧
      (v.getLsbD 0 = true → l.state = .down → s.boot.locked = true → ∃ t, exec (.linkPortWrite p n v) s = .next t ∧ only t ∧
        t.link n = { l with enable := true, x4 := v.getLsbD 1, state := .training, lanes := 0, retrain := none }) ∧
      (v.getLsbD 0 = true → l.up = true → v.getLsbD 1 = l.x4 → ∃ t, exec (.linkPortWrite p n v) s = .next t ∧ only t ∧ t.link n = { l with enable := true }))

/-- A data or control frame is taken only in order on a port that is up: one out of sequence, like a FAILED_FRAME, brings nothing but a replay request with the last good sequence
and discarding until the expected one arrives.  A data frame is forwarded, delivered or discarded by
its index (R397, R401); replay requests and idle frames acknowledge and return credits.
Rows: DATA_FRAME, REPLAY_REQUEST, IDLE_FRAME.
Choices of the model: log 59. -/
def Obligations.FramesTakenInOrder : Prop :=
  ∀ (s : State) (n : SelynPort),
    let bad := fun (t : State) => t = { s with links := t.links } ∧ (∀ m, m ≠ n → t.link m = s.link m) ∧ (t.link n).discarding = true ∧
      ((s.link n).discarding = false → ∃ w, (t.link n).sent = some w ∧ w.kind = 3 ∧ w.frame = none ∧ w.ack = (s.link n).expected - 1) ∧
      (t.link n).expected = (s.link n).expected ∧ (t.link n).replay = (s.link n).replay ∧ (t.link n).credits = (s.link n).credits
    (∀ i h, frameOf i = some (n, h) → (s.link n).up = false → exec i s = .next s) ∧
    (∀ i h, frameOf i = some (n, h) → (s.link n).up = true → h.seq ≠ (s.link n).expected → ∃ t, exec i s = .next t ∧ bad t) ∧
    ((s.link n).up = true → ∃ t, exec (.failedFrame n) s = .next t ∧ bad t) ∧
    ((s.link n).up = false → exec (.failedFrame n) s = .next s) ∧
    ((s.link n).up = true → ∀ ack, exec (.replayRequest n ack) s = .next ((s.takeAck n ack 0 0).resend n) ∧
      ∀ cvc credits, exec (.idleFrame n ack cvc credits) s = .next (s.takeAck n ack cvc credits.toNat)) ∧
    (∀ h payload, accepts s n h = true →
      let u := accepted s n h
      let free := fun (t : State) => t.modLink n (fun l => l.freed h.vc)
      let bs := slice payload 0 256
      let passed : Frame := { seq := 0, vc := h.vc, data := true, last := h.last, dest := h.dest, ctx := h.ctx, stream := h.stream, payload := bs, src := some n, own := none }
      (h.dest.toNat = u.regs.treeIndex.toNat → exec (.dataFrame n h payload) s = .next (free (u.deliver n h (slice payload 0 256)))) ∧
      (h.dest.toNat ≠ u.regs.treeIndex.toNat → u.isTop = true → u.regs.treeSize.toNat ≤ h.dest.toNat →
        exec (.dataFrame n h payload) s = .next (u.modLink n (fun l => ({ l with stats := { l.stats with discarded := l.stats.discarded + 1 } } : Link).freed h.vc))) ∧
      (∀ m, h.dest.toNat ≠ u.regs.treeIndex.toNat → (u.isTop = true → h.dest.toNat < u.regs.treeSize.toNat) → u.route h.dest.toNat = some m →
        exec (.dataFrame n h payload) s = .next (u.giveFrame m passed)))

/-- An ARRIVE or RELEASE of another pass is discarded with the event of reason 10; an ARRIVE of the open Saddle is held and the Saddle tried, a RELEASE releases it; an ABANDON goes on and breaks the context; a Saddle that is late is
reported once and keeps waiting (R60, R408, R417).
Rows: RELEASE_PARCEL, SADDLE_TIMEOUT.
Choices of the model: log 60, log 88. -/
def Obligations.SaddleParcelsComplete : Prop :=
  ∀ (s : State) (n : SelynPort) (h : FrameHdr),
    (accepts s n h = true →
      let u := heard s n h
      (∀ a, a.pass ≠ u.passes.getD a.counter.toNat 0 → exec (.arrive n h a) s = .next (u.linkEvent n.val 10 (u.widthOf n) 0 0 a.pass.toNat (toLE 2 a.counter.toNat ++ [a.ctx]))) ∧
      (∀ a e, a.pass = u.passes.getD a.counter.toNat 0 →
        let v := u.saddles.getD a.counter.toNat (Saddle.open a.ctx (BitVec.ofNat 16 ((u.planIndex a.ctx a.counter.toNat).getD 0)))
        v.ctx = a.ctx → u.planEntry? a.ctx v.entry.toNat = some e →
        let v' := State.startTimer { v with arrives := v.arrives.set n.val a } e u.clock.now
        exec (.arrive n h a) s = .next (({ u with saddles := u.saddles.set a.counter.toNat v' } : State).trySaddle a.counter.toNat)) ∧
      (∀ pass (k : U16) c, pass ≠ u.passes.getD k.toNat 0 → exec (.releaseParcel n h pass k c) s = .next (u.linkEvent n.val 10 (u.widthOf n) 0 0 pass.toNat (toLE 2 k.toNat ++ [c]))) ∧
      (∀ pass (k : U16) c v e, pass = u.passes.getD k.toNat 0 → u.saddles.get? k.toNat = some v → u.planEntry? v.ctx v.entry.toNat = some e →
        exec (.releaseParcel n h pass k c) s = .next (u.releaseSaddle k.toNat v e)) ∧
      (∀ pass (k : U16) c, pass = u.passes.getD k.toNat 0 → u.saddles.get? k.toNat = none →
        exec (.releaseParcel n h pass k c) s = .next (({ u with passes := u.passes.set k.toNat (pass + 1) } : State).sendOn u.childPorts 0x02
          (toLE 4 pass.toNat ++ toLE 2 k.toNat ++ [c]))) ∧
      (∀ pass (k : U16) c (device : U16) why,
        let fields := toLE 4 pass.toNat ++ toLE 2 k.toNat ++ [c] ++ toLE 2 device.toNat ++ [why]
        let w := if u.uplink? = some n ∨ u.isTop = true then u.sendOnOf u.childPorts device.toNat 0x03 fields else u.sendUpOf device.toNat 0x03 fields
        exec (.abandon n h pass k c device why) s = .next (
          if (w.ctx c).broken = true ∨ w.inTree c = false then w
          else (w.loseCtx c).linkEvent n.val 9 (w.widthOf n) device.toNat 0 pass.toNat (toLE 2 k.toNat ++ [c])))) ∧
    (∀ (k : U16) v e, s.saddles.get? k.toNat = some v → s.planEntry? v.ctx v.entry.toNat = some e →
      (v.reported = true ∨ v.sent = true ∨ v.timer = none → exec (.saddleTimeout k) s = .next s) ∧
      (v.reported = false → v.sent = false → v.timer.isSome = true → ∃ detail : Bytes,
        exec (.saddleTimeout k) s = .next (({ s with saddles := s.saddles.set k.toNat { v with reported := true } } : State).devEvent 0x06 detail) ∧
        fld detail 0 4 = fld e 0 4 ∧ fld detail 4 2 = k.toNat ∧ fld detail 6 1 = v.ctx.toNat))

/-- Device time follows its source (R389, R410): a PTM exchange records the port's offset, and a TIME_RESP the uplink's, half of (t2 − t1) + (t3 − t4); the owner's port governs outside a tree and the uplink in a formed tree.  The first exchange,
and a source more than 1 ms ahead, set device time forward in one step; else it slews; it never steps back.  TIME_REQ is answered, and TIME_EXCHANGE asks the parent, which a device whose uplink is lost does not follow.
Rows: PTM_EXCHANGE.
Choices of the model: log 61, log 94. -/
def Obligations.DeviceTimeFollows : Prop :=
  ∀ (s : State),
    (∀ (p : HostPort) (master : U64) (trip : U32), (s.port p).lost = false →
      let offset : Int := (master.toNat : Int) - s.clock.now.toNat
      let follows := s.owner? = some p ∧ ¬ (s.regs.treeFormed = true ∧ s.uplink?.isSome = true)
      let jumps := steps offset (!s.clock.synced)
      ∃ t, exec (.ptmExchange p master trip) s = .next t ∧ t = { s with clock := t.clock } ∧
        t.clock.sources.get? p.toNat = some { exchanged := true, last := s.clock.now, offset := offset, roundTrip := trip } ∧
        t.clock.now = (if follows ∧ jumps = true then master else s.clock.now) ∧ s.clock.now.toNat ≤ t.clock.now.toNat ∧
        (follows → t.clock.synced = true ∧ t.clock.slew = (if jumps = true then 0 else offset)) ∧
        (¬ follows → t.clock.synced = s.clock.synced ∧ t.clock.slew = s.clock.slew)) ∧
    (∀ (n : SelynPort) (h : FrameHdr) (t1 t2 t3 : U64), accepts s n h = true →
      let u := heard s n h
      let offset : Int := (((t2.toNat : Int) - t1.toNat) + ((t3.toNat : Int) - u.clock.now.toNat)) / 2
      let jumps := steps offset (!u.clock.treeSet)
      exec (.timeReq n h t1) s = .next (u.sendControl n 0x05 (toLE 8 t1.toNat ++ toLE 8 u.clock.now.toNat ++ toLE 8 u.clock.now.toNat)) ∧
      (u.uplink? = some n → u.clock.sentT1 = some t1 → ∃ t, exec (.timeResp n h t1 t2 t3) s = .next t ∧ t = { u with clock := t.clock } ∧ t.clock.sentT1 = none ∧
        (∃ x, t.clock.sources.get? 2 = some x ∧ x.exchanged = true ∧ x.offset = offset) ∧
        (u.regs.treeFormed = true → u.uplinkLost = false → t.clock.treeSet = true ∧ t.clock.now = (if jumps = true then u.clock.now + BitVec.ofInt 64 offset else u.clock.now) ∧
          t.clock.slew = (if jumps = true then 0 else offset)) ∧
        (u.regs.treeFormed = false ∨ u.uplinkLost = true → t.clock.now = u.clock.now ∧ t.clock.slew = u.clock.slew)) ∧
      (u.uplink? ≠ some n ∨ u.clock.sentT1 ≠ some t1 → exec (.timeResp n h t1 t2 t3) s = .next u)) ∧
    (∀ n, s.uplink? = some n → s.regs.treeFormed = true → (s.link n).up = true → s.uplinkLost = false →
      exec .timeExchange s = .next (({ s with clock := { s.clock with sentT1 := some s.clock.now } } : State).sendControl n 0x04 (toLE 8 s.clock.now.toNat))) ∧
    (s.uplink? = none ∨ s.uplinkLost = true → exec .timeExchange s = .next s)

/-- The tree forms, loses and takes back (R400, R411 to R413, R419): a ROLLCALL gives a child's range, or takes back the range that was lost through the port and no other; FORMED forms the tree here and below; LOST and REJOIN go on through every
other port with their origin, REJOIN with every range that lies in its own back; RELAY goes up, and on the top is written to both hosts. -/
def Obligations.TreeParcelsComplete : Prop :=
  ∀ (s : State) (n : SelynPort) (h : FrameHdr), accepts s n h = true →
    let u := heard s n h
    let refused := u.linkEvent n.val 5 (u.widthOf n) 0 0 0 []
    let back := fun (low high : U16) (x : U16 × U16) => low.toNat ≤ x.1.toNat ∧ x.2.toNat ≤ high.toNat
    (∀ low high depth treeId size, u.childPorts.contains n = true →
      (treeId ≠ u.regs.treeId ∨ size ≠ u.regs.treeSize.setWidth 16 → exec (.rollcall n h low high depth treeId size) s = .next refused) ∧
      (treeId = u.regs.treeId → size = u.regs.treeSize.setWidth 16 →
        ((u.link n).lostRange = none → exec (.rollcall n h low high depth treeId size) s =
          .next (u.modLink n (fun l => { l with child := some (low, high, depth) })).tryRollcall) ∧
        (∀ r, (u.link n).lostRange = some r → r ≠ (low, high) → exec (.rollcall n h low high depth treeId size) s = .next refused) ∧
        ((u.link n).lostRange = some (low, high) → ∃ v : State, v = { u with links := v.links, lostSet := v.lostSet } ∧ (v.link n).child = some (low, high, depth) ∧
          (v.link n).lostRange = none ∧ (∀ x, x ∈ v.lostSet ↔ x ∈ u.lostSet ∧ ¬ back low high x) ∧
          let w := v.sendControl n 0x07 (toLE 2 u.regs.treeId.toNat ++ toLE 2 u.regs.treeSize.toNat)
          exec (.rollcall n h low high depth treeId size) s = .next (((w.spread (some n) w.regs.treeIndex.toNat 0x09
            (toLE 2 low.toNat ++ toLE 2 high.toNat)).linkEvent n.val 7 (w.widthOf n) low.toNat high.toNat 0 []).tryRollcall)))) ∧
    (∀ low high depth treeId size, u.childPorts.contains n = false → exec (.rollcall n h low high depth treeId size) s = .next u) ∧
    (∀ treeId size,
      (u.uplink? ≠ some n ∨ treeId ≠ u.regs.treeId ∨ size ≠ u.regs.treeSize.setWidth 16 → exec (.formed n h treeId size) s = .next u) ∧
      (u.uplink? = some n → treeId = u.regs.treeId → size = u.regs.treeSize.setWidth 16 → ∃ t, exec (.formed n h treeId size) s = .next t ∧ t.regs.treeFormed = true ∧
        egressOnly { u with regs := { u.regs with treeFormed := true }, clock := { u.clock with treeSet := false }, lostSet := t.lostSet } t ∧
        ∀ r, r ∈ t.lostSet ↔ r ∈ u.lostSet ∧ u.subtree.1 ≤ r.1.toNat ∧ r.2.toNat ≤ u.subtree.2)) ∧
    (∀ origin low high why, exec (.lost n h { origin := origin, low := low } high why) s =
      .next ((u.spread (some n) origin.toNat 0x08 (toLE 2 low.toNat ++ toLE 2 high.toNat ++ [why])).addLost n (low, high))) ∧
    (∀ origin low high, ∃ t, exec (.rejoin n h { origin := origin, low := low } high) s = .next t ∧
      t = (u.found (low, high)).spread (some n) origin.toNat 0x09 (toLE 2 low.toNat ++ toLE 2 high.toNat) ∧
      egressOnly { u with lostSet := t.lostSet } t ∧ ∀ x, x ∈ t.lostSet ↔ x ∈ u.lostSet ∧ ¬ back low high x) ∧
    (∀ origin code seq detail,
      (∀ m, u.uplink? = some m → exec (.relay n h origin code seq detail) s =
        .next (u.giveFrame m (controlFrame (controlPayload 0x0A origin.toNat ([code, 0, 0, 0] ++ toLE 4 seq.toNat ++ slice detail 0 44))))) ∧
      (u.uplink? = none → exec (.relay n h origin code seq detail) s = .next (u.linkEvent n.val 8 (u.widthOf n) origin.toNat code.toNat seq.toNat (slice detail 0 32))))

/-! ### Formats -/

/-- A JB8 code before its block's scale is (−1)^sign × (8 + M) × 2^(E − 10), +0 where E is 0, and NaN at 0x80 (R62); a JB4 code has one of eight magnitudes, and its sign but on zero (R64); element i of a JB2 block is the two bits at place
2(i mod 4) of byte 2 + ⌊i / 4⌋, 0, +1 or −1, times the block's binary16 scale (R66). -/
def Obligations.BlockFormatsDecode : Prop :=
  (∀ (sign : Bool) (e m : Nat), 1 ≤ e → e ≤ 15 → m ≤ 7 →
    jb8Val ((if sign then 128 else 0) + 8 * e + m) = .fin sign { m := if sign then -((8 + m : Nat) : Int) else ((8 + m : Nat) : Int), e := (e : Int) - 10 }) ∧
  (∀ m, m ≤ 7 → jb8Val m = .fin false Dy.zero ∧ (m ≠ 0 → jb8Val (128 + m) = .fin false Dy.zero)) ∧ jb8Val 128 = .nan ∧
  (∀ c, c ≤ 7 → jb4Val c = .fin false { m := ([0, 1, 2, 3, 4, 6, 8, 12].getD c 0 : Nat), e := -1 }) ∧
  (∀ c, 1 ≤ c → c ≤ 7 → jb4Val (8 + c) = .fin true { m := -([0, 1, 2, 3, 4, 6, 8, 12].getD c 0 : Nat), e := -1 }) ∧ jb4Val 8 = jb4Val 0 ∧
  (∀ (b : Bytes) (i : Nat), i < 64 → (decodeBlock 5 b)[i]? = some (Val.mul
    (match fld b (2 + i / 4) 1 / 2 ^ (2 * (i % 4)) % 4 with | 1 => .fin false (Dy.ofInt 1) | 3 => .fin true (Dy.ofInt (-1)) | _ => .fin false Dy.zero) (fmt16.decode (fld b 0 2))))
end

