-- ==== Sys2Proof/Laws/Memory.lean ====
section
/-! SUPPORT. The byte memory: every operation keeps the canonical form, a byte written reads back, and every other byte is as before. -/

namespace Sys2Proof.Machine

/-! ### Reading one byte -/

theorem Memory.get_absent {m : Memory} {x : Nat} (h : ∀ c ∈ m, c.1 ≠ x) : m.get x = Memory.unlisted := by
  induction m with
  | nil => rfl
  | cons c m ih =>
    have h1 := h c (by simp)
    simp only [Memory.get, h1, if_false]
    exact ih (fun d hd => h d (by simp [hd]))

theorem Memory.get_append_left {m n : Memory} {x : Nat} (h : ∀ c ∈ n, c.1 ≠ x) : (m ++ n).get x = m.get x := by
  induction m with
  | nil => exact Memory.get_absent h
  | cons c m ih => by_cases e : c.1 = x <;> simp [Memory.get, e, ih]

theorem Memory.get_append_right {m n : Memory} {x : Nat} (h : ∀ c ∈ m, c.1 ≠ x) : (m ++ n).get x = n.get x := by
  induction m with
  | nil => rfl
  | cons c m ih =>
    have h1 := h c (by simp)
    simp [Memory.get, h1, ih (fun d hd => h d (by simp [hd]))]

/-- A filter on keys that keeps a key keeps what it reads as. -/
theorem Memory.get_filter {m : Memory} {x : Nat} {p : Nat → Bool} (h : p x = true) : Memory.get (m.filter (fun c => p c.1)) x = m.get x := by
  induction m with
  | nil => rfl
  | cons c m ih =>
    by_cases e : c.1 = x
    · subst e; simp [h, Memory.get]
    · by_cases q : p c.1 = true
      · simp [q, Memory.get, e, ih]
      · simp [q, Memory.get, e, ih]

theorem Memory.get_splice {m mid : Memory} {a n x : Nat} (h : ∀ c ∈ mid, a ≤ c.1 ∧ c.1 < a + n) :
    (m.splice a n mid).get x = if a ≤ x ∧ x < a + n then mid.get x else m.get x := by
  unfold Memory.splice
  split
  · rename_i hx
    rw [Memory.get_append_left, Memory.get_append_right]
    · intro c hc; simp at hc; omega
    · intro c hc; simp at hc; omega
  · rename_i hx
    by_cases hl : x < a
    · rw [Memory.get_append_left, Memory.get_append_left]
      · exact Memory.get_filter (p := fun k => decide (k < a)) (by simpa using hl)
      · intro c hc; have := h c hc; omega
      · intro c hc; simp at hc; omega
    · rw [Memory.get_append_right]
      · exact Memory.get_filter (p := fun k => decide (a + n ≤ k)) (by simp; omega)
      · intro c hc
        simp only [List.mem_append, List.mem_filter, decide_eq_true_eq] at hc
        rcases hc with hc | hc
        · omega
        · have := h c hc; omega

theorem Memory.mem_cells {a : Nat} {bs : Bytes} {c : Host.Cell} (h : c ∈ Memory.cells a bs) :
    a ≤ c.1 ∧ c.1 < a + bs.length ∧ c.2 ≠ Memory.unlisted := by
  induction bs generalizing a with
  | nil => simp [Memory.cells] at h
  | cons b bs ih =>
    by_cases e : b = Memory.unlisted
    · simp only [Memory.cells, e, if_true] at h
      have := ih h
      simp only [List.length_cons]; exact ⟨by omega, by omega, this.2.2⟩
    · simp only [Memory.cells, e, if_false, List.mem_cons] at h
      rcases h with rfl | h
      · simp [e]
      · have := ih h
        simp only [List.length_cons]; exact ⟨by omega, by omega, this.2.2⟩

theorem Memory.get_cells (a : Nat) (bs : Bytes) (i : Nat) (h : i < bs.length) : (Memory.cells a bs).get (a + i) = bs[i] := by
  induction bs generalizing a i with
  | nil => simp at h
  | cons b bs ih =>
    cases i with
    | zero =>
      by_cases e : b = Memory.unlisted
      · simp only [Memory.cells, e, if_true]
        rw [Memory.get_absent]
        · rfl
        · intro c hc; have := (Memory.mem_cells hc).1; omega
      · simp [Memory.cells, e, Memory.get]
    | succ i =>
      have h' : i < bs.length := by simpa using h
      have := ih (a + 1) i h'
      rw [show a + (i + 1) = a + 1 + i by omega]
      by_cases e : b = Memory.unlisted
      · subst e
        simpa [Memory.cells] using this
      · have ne : ¬ (a = a + 1 + i) := by omega
        simp only [Memory.cells, e, if_false, Memory.get, ne]
        simpa using this

/-- A byte of a run just written reads as written. -/
theorem Memory.get_write (m : Memory) (a : Nat) (bs : Bytes) (i : Nat) (h : i < bs.length) : (m.write a bs).get (a + i) = bs[i] := by
  unfold Memory.write
  rw [Memory.get_splice (fun c hc => ⟨(Memory.mem_cells hc).1, (Memory.mem_cells hc).2.1⟩), if_pos (by omega)]
  exact Memory.get_cells a bs i h

/-- A byte outside the run written reads as before. -/
theorem Memory.get_write_of_not (m : Memory) (a x : Nat) (bs : Bytes) (h : x < a ∨ a + bs.length ≤ x) : (m.write a bs).get x = m.get x := by
  unfold Memory.write
  rw [Memory.get_splice (fun c hc => ⟨(Memory.mem_cells hc).1, (Memory.mem_cells hc).2.1⟩), if_neg (by omega)]

theorem Memory.get_clear (m : Memory) (a n x : Nat) : (m.clear a n).get x = if a ≤ x ∧ x < a + n then Memory.unlisted else m.get x := by
  unfold Memory.clear
  rw [Memory.get_splice (by simp)]
  rfl

@[simp] theorem Memory.length_read (m : Memory) (a n : Nat) : (m.read a n).length = n := by simp [Memory.read]

/-- A run just written reads back whole. -/
theorem Memory.read_write (m : Memory) (a : Nat) (bs : Bytes) : (m.write a bs).read a bs.length = bs := by
  apply List.ext_getElem
  · simp
  · intro i h1 h2
    simp only [Memory.read, List.getElem_map, List.getElem_range]
    exact Memory.get_write m a bs i h2

/-- A run that a write does not touch reads as before. -/
theorem Memory.read_write_of_not (m : Memory) (a : Nat) (bs : Bytes) (x n : Nat) (h : x + n ≤ a ∨ a + bs.length ≤ x) :
    (m.write a bs).read x n = m.read x n := by
  simp only [Memory.read]
  apply List.map_congr_left
  intro i hi
  rw [List.mem_range] at hi
  exact Memory.get_write_of_not m a (x + i) bs (by omega)

/-! ### The canonical form -/

theorem Memory.wf_nil : Memory.wf [] := by simp [Memory.wf]

theorem Memory.wf_filter {m : Memory} (h : m.wf) (p : Host.Cell → Bool) : Memory.wf (m.filter p) :=
  ⟨h.1.filter p, fun c hc => h.2 c (List.mem_filter.mp hc).1⟩

theorem Memory.wf_splice {m mid : Memory} {a n : Nat} (h : m.wf) (hm : mid.wf) (hr : ∀ c ∈ mid, a ≤ c.1 ∧ c.1 < a + n) :
    (m.splice a n mid).wf := by
  refine ⟨?_, ?_⟩
  · unfold Memory.splice
    rw [List.pairwise_append, List.pairwise_append]
    refine ⟨⟨(Memory.wf_filter h _).1, hm.1, ?_⟩, (Memory.wf_filter h _).1, ?_⟩
    · intro c hc d hd
      have := hr d hd
      simp only [List.mem_filter, decide_eq_true_eq] at hc
      omega
    · intro c hc d hd
      simp only [List.mem_append, List.mem_filter, decide_eq_true_eq] at hc hd
      rcases hc with hc | hc
      · omega
      · have := hr c hc; omega
  · intro c hc
    unfold Memory.splice at hc
    simp only [List.mem_append, List.mem_filter] at hc
    rcases hc with (hc | hc) | hc
    · exact h.2 c hc.1
    · exact hm.2 c hc
    · exact h.2 c hc.1

theorem Memory.wf_cells (a : Nat) (bs : Bytes) : (Memory.cells a bs).wf := by
  induction bs generalizing a with
  | nil => exact Memory.wf_nil
  | cons b bs ih =>
    by_cases e : b = Memory.unlisted
    · simpa only [Memory.cells, e, if_true] using ih (a + 1)
    · simp only [Memory.cells, e, if_false]
      refine ⟨List.pairwise_cons.mpr ⟨fun c hc => ?_, (ih (a + 1)).1⟩, ?_⟩
      · have := (Memory.mem_cells hc).1
        show a < c.1
        omega
      · intro c hc
        rcases List.mem_cons.mp hc with rfl | hc
        · exact e
        · exact (ih (a + 1)).2 c hc

theorem Memory.wf_write {m : Memory} (h : m.wf) (a : Nat) (bs : Bytes) : (m.write a bs).wf :=
  Memory.wf_splice h (Memory.wf_cells a bs) (fun _ hc => ⟨(Memory.mem_cells hc).1, (Memory.mem_cells hc).2.1⟩)

theorem Memory.wf_clear {m : Memory} (h : m.wf) (a n : Nat) : (m.clear a n).wf := Memory.wf_splice h Memory.wf_nil (by simp)

theorem Memory.wf_copy {m : Memory} (h : m.wf) (a b n : Nat) : (m.copy a b n).wf := by
  have hf := Memory.wf_filter h (fun c => decide (a ≤ c.1) && decide (c.1 < a + n))
  refine Memory.wf_splice h ⟨?_, ?_⟩ ?_
  · rw [List.pairwise_map]
    refine hf.1.imp_of_mem ?_
    intro c d hc hd hcd
    simp only [List.mem_filter, Bool.and_eq_true, decide_eq_true_eq] at hc hd
    show c.1 - a + b < d.1 - a + b
    omega
  · intro c hc
    simp only [List.mem_map, List.mem_filter] at hc
    obtain ⟨d, ⟨hd, -⟩, rfl⟩ := hc
    exact h.2 d hd
  · intro c hc
    simp only [List.mem_map, List.mem_filter, Bool.and_eq_true, decide_eq_true_eq] at hc
    obtain ⟨d, ⟨-, h1, h2⟩, rfl⟩ := hc
    constructor
    · show b ≤ d.1 - a + b
      omega
    · show d.1 - a + b < b + n
      omega

end Sys2Proof.Machine
end

