-- ==== Sys2Proof/Laws/Canon.lean ====
section
/-! SUPPORT. Every operation of the machine keeps the memory in its canonical form; generic over what the operation is applied to. -/

namespace Sys2Proof.Machine

/-- The memory of a state is in its canonical form. -/
def State.canon (s : State) : Prop := s.mem.wf
@[simp] theorem canon_eta (s : State) : Memory.wf s.mem ↔ s.canon := Iff.rfl
@[simp] theorem mk_canon (x0 : List Instr) (x1 : Nat) (x2 : Memory) (x3 : Power) (x4 : Boot) (x5 : Vesper) (x6 : Clock) (x7 : Regs) (x8 : Integ) (x9 : Tab Port) (x10 : Tab Ctx) (x11 : Tab U32) (x12 : Tab Obj) (x13 : Tab Image) (x14 : Nat) (x15 : Tab U32) (x16 : List ShardRecord) (x17 : Tab (List Nat)) (x18 : Tab SlotStat) (x19 : List LoadRun) (x20 : List Desc) (x21 : List Desc) (x22 : List Activity) (x23 : List (BitVec 6)) (x24 : List (Nat × Nat × QEntry)) (x25 : Tab Nat) (x26 : List HotRow) (x27 : Tab (List (U32 × U64))) (x28 : Tab Queue) (x29 : Tab ArbRec) (x30 : Tab CtxId) (x31 : Tab CtxId) (x32 : Option CtxId) (x33 : List (CtxId × Bool × Nat)) (x34 : Tab (Bytes × Nat)) (x35 : Tab U64) (x36 : Tab Link) (x37 : List Recv) (x38 : List SendRun) (x39 : Tab Saddle) (x40 : Tab U32) (x41 : List (U16 × U16)) (x42 : Tab (Tab Nat)) (x43 : List (Nat × Nat)) (x44 : List LaneRec) : (State.mk x0 x1 x2 x3 x4 x5 x6 x7 x8 x9 x10 x11 x12 x13 x14 x15 x16 x17 x18 x19 x20 x21 x22 x23 x24 x25 x26 x27 x28 x29 x30 x31 x32 x33 x34 x35 x36 x37 x38 x39 x40 x41 x42 x43 x44).canon ↔ Memory.wf x2 := Iff.rfl
@[simp] theorem foldl_canon {α : Type} (f : State → α → State) (h : ∀ s a, s.canon → (f s a).canon) (l : List α) (s : State) (hs : s.canon) :
    (l.foldl f s).canon := by
  induction l generalizing s with
  | nil => exact hs
  | cons a l ih => exact ih _ (h _ _ hs)
@[simp] theorem ite_canon (c : Prop) [Decidable c] (a b : State) (ha : a.canon) (hb : b.canon) : (if c then a else b).canon := by
  split <;> assumption
@[simp] theorem foldl_fst_canon {α β : Type} (f : State × β → α → State × β) (h : ∀ p a, p.1.canon → (f p a).1.canon) (l : List α)
    (p : State × β) (hp : p.1.canon) : (l.foldl f p).1.canon := by
  induction l generalizing p with
  | nil => exact hp
  | cons a l ih => exact ih _ (h _ _ hp)
@[simp] theorem foldl_snd_canon {α β : Type} (f : β × State → α → β × State) (h : ∀ p a, p.2.canon → (f p a).2.canon) (l : List α)
    (p : β × State) (hp : p.2.canon) : (l.foldl f p).2.canon := by
  induction l generalizing p with
  | nil => exact hp
  | cons a l ih => exact ih _ (h _ _ hp)
@[simp] theorem State.put_canon (s : State) (sp : Space) (off : Nat) (bs : Bytes) (hs : s.canon) : (s.put sp off bs).canon :=
  Memory.wf_write hs _ _
@[simp] theorem State.wipe_canon (s : State) (sp : Space) (off n : Nat) (hs : s.canon) : (s.wipe sp off n).canon :=
  Memory.wf_clear hs _ _
@[simp] theorem State.move_canon (s : State) (a : Space) (x : Nat) (b : Space) (y n : Nat) (hs : s.canon) : (s.move a x b y n).canon :=
  Memory.wf_copy hs _ _ _


@[simp] theorem State.setCtx_canon (s : State) (c : CtxId) (x : Ctx) (hs : s.canon) : (State.setCtx s c x).canon := by
  simp (maxDischargeDepth := 30) [State.setCtx, hs]

@[simp] theorem State.modCtx_canon (s : State) (c : CtxId) (f : Ctx → Ctx) (hs : s.canon) : (State.modCtx s c f).canon := by
  simp (maxDischargeDepth := 30) [State.modCtx, hs]

@[simp] theorem State.modPort_canon (s : State) (p : HostPort) (f : Port → Port) (hs : s.canon) : (State.modPort s p f).canon := by
  simp (maxDischargeDepth := 30) [State.modPort, hs]

@[simp] theorem State.modLink_canon (s : State) (n : SelynPort) (f : Link → Link) (hs : s.canon) : (State.modLink s n f).canon := by
  simp (maxDischargeDepth := 30) [State.modLink, hs]

@[simp] theorem State.modQueue_canon (s : State) (i : Nat) (f : Queue → Queue) (hs : s.canon) : (State.modQueue s i f).canon := by
  simp (maxDischargeDepth := 30) [State.modQueue, hs]

@[simp] theorem State.setObj_canon (s : State) (id : U32) (o : Obj) (hs : s.canon) : (State.setObj s id o).canon := by
  simp (maxDischargeDepth := 30) [State.setObj, hs]

@[simp] theorem State.modObj_canon (s : State) (id : U32) (f : Obj → Obj) (hs : s.canon) : (State.modObj s id f).canon := by
  unfold State.modObj
  (repeat' split) <;> simp (maxDischargeDepth := 30) [hs]

@[simp] theorem State.setCounter_canon (s : State) (k : Nat) (v : U32) (hs : s.canon) : (State.setCounter s k v).canon := by
  simp (maxDischargeDepth := 30) [State.setCounter, hs]

@[simp] theorem State.freeBytes_canon (s : State) (n : Nat) (hs : s.canon) : ((State.freeBytes s n).2).canon := by
  simp (maxDischargeDepth := 30) [State.freeBytes, hs]

@[simp] theorem State.putFree_canon (s : State) (sp : Space) (off n : Nat) (hs : s.canon) : (State.putFree s sp off n).canon := by
  simp (maxDischargeDepth := 30) [State.putFree, hs]

@[simp] theorem State.freeWord_canon (s : State) (hs : s.canon) : ((State.freeWord s).2).canon := by
  simp (maxDischargeDepth := 30) [State.freeWord, hs]

@[simp] theorem State.freePick_canon (s : State) (n : Nat) (hs : s.canon) : ((State.freePick s n).2).canon := by
  simp (maxDischargeDepth := 30) [State.freePick, hs]

@[simp] theorem State.tick_canon (s : State) (hs : s.canon) : (State.tick s).canon := by
  simp (maxDischargeDepth := 30) [State.tick, hs]

@[simp] theorem State.noteSaved_canon (s : State) (c : CtxId) (hs : s.canon) : (State.noteSaved s c).canon := by
  simp (maxDischargeDepth := 30) [State.noteSaved, hs]

@[simp] theorem State.wr_canon (s : State) (id : U32) (off : Nat) (bs : Bytes) (hs : s.canon) : (State.wr s id off bs).canon := by
  simp (maxDischargeDepth := 30) [State.wr, hs]

@[simp] theorem State.wrFree_canon (s : State) (id : U32) (off n : Nat) (hs : s.canon) : (State.wrFree s id off n).canon := by
  simp (maxDischargeDepth := 30) [State.wrFree, hs]

@[simp] theorem State.hostWr_canon (s : State) (p : HostPort) (a : Nat) (bs : Bytes) (hs : s.canon) : (State.hostWr s p a bs).canon := by
  simp (maxDischargeDepth := 30) [State.hostWr, hs]

@[simp] theorem State.hostArea_canon (s : State) (p : HostPort) (hcrc : Bool) (a : Nat) (bs : Bytes) (hs : s.canon) : (State.hostArea s p hcrc a bs).canon := by
  simp (maxDischargeDepth := 30) [State.hostArea, hs]

@[simp] theorem State.withdrawReqs_canon (s : State) (c : CtxId) (hs : s.canon) : (State.withdrawReqs s c).canon := by
  simp (maxDischargeDepth := 30) [State.withdrawReqs, hs]

@[simp] theorem State.holdAll_canon (s : State) (arbiter : Nat) (reqs : List ArbReq) (hs : s.canon) : (State.holdAll s arbiter reqs).canon := by
  simp (maxDischargeDepth := 30) [State.holdAll, hs]

@[simp] theorem State.arbitrate_canon (s : State) (arbiter : Nat) (reqs : List ArbReq) (hs : s.canon) : ((State.arbitrate s arbiter reqs).2).canon := by
  unfold State.arbitrate
  simp only []
  (repeat' split) <;> simp (maxDischargeDepth := 30) [hs]

@[simp] theorem State.sendsGone_canon (s : State) (n : SelynPort) (hs : s.canon) : (State.sendsGone s n).canon := by
  simp (maxDischargeDepth := 30) +contextual [State.sendsGone, hs]

@[simp] theorem State.egressRound_canon (s : State) (n : SelynPort) (hs : s.canon) : (State.egressRound s n).canon := by
  unfold State.egressRound
  split <;> rename_i h <;> have h' := congrArg (fun p => p.2.canon) h <;> simp (maxDischargeDepth := 30) [hs] at h' <;> (try split) <;>
    simp (maxDischargeDepth := 30) [h']

@[simp] theorem State.pumpLink_canon (s : State) (n : SelynPort) (hs : s.canon) : (State.pumpLink s n).canon := by
  unfold State.pumpLink
  (repeat' (first | (simp (maxDischargeDepth := 30) [hs]; done) | split | (refine foldl_canon _ (fun _ _ hs => ?_) _ _ ?_) | dsimp only))

@[simp] theorem State.giveFrame_canon (s : State) (n : SelynPort) (f : Frame) (hs : s.canon) : (State.giveFrame s n f).canon := by
  simp (maxDischargeDepth := 30) [State.giveFrame, hs]

@[simp] theorem State.withdrawFrames_canon (s : State) (c : CtxId) (hs : s.canon) : (State.withdrawFrames s c).canon := by
  unfold State.withdrawFrames
  (repeat' (first | (simp (maxDischargeDepth := 30) [hs]; done) | split | (refine foldl_canon _ (fun _ _ hs => ?_) _ _ ?_) | dsimp only))

@[simp] theorem State.returnFrames_canon (s : State) (c : CtxId) (hs : s.canon) : (State.returnFrames s c).canon := by
  unfold State.returnFrames
  (repeat' (first | (simp (maxDischargeDepth := 30) [hs]; done) | split | (refine foldl_canon _ (fun _ _ hs => ?_) _ _ ?_) | dsimp only))

@[simp] theorem State.sendControlOf_canon (s : State) (n : SelynPort) (origin : Nat) (ty : Byte) (fields : Bytes) (hs : s.canon) : (State.sendControlOf s n origin ty fields).canon := by
  simp (maxDischargeDepth := 30) [State.sendControlOf, hs]

@[simp] theorem State.sendControl_canon (s : State) (n : SelynPort) (ty : Byte) (fields : Bytes) (hs : s.canon) : (State.sendControl s n ty fields).canon := by
  simp (maxDischargeDepth := 30) [State.sendControl, hs]

@[simp] theorem State.sendOnOf_canon (s : State) (ns : List SelynPort) (origin : Nat) (ty : Byte) (fields : Bytes) (hs : s.canon) : (State.sendOnOf s ns origin ty fields).canon := by
  simp (maxDischargeDepth := 30) +contextual [State.sendOnOf, hs]

@[simp] theorem State.sendOn_canon (s : State) (ns : List SelynPort) (ty : Byte) (fields : Bytes) (hs : s.canon) : (State.sendOn s ns ty fields).canon := by
  unfold State.sendOn
  (repeat' (first | (simp (maxDischargeDepth := 30) [hs]; done) | split | (refine foldl_canon _ (fun _ _ hs => ?_) _ _ ?_) | dsimp only))

@[simp] theorem State.sendUpOf_canon (s : State) (origin : Nat) (ty : Byte) (fields : Bytes) (hs : s.canon) : (State.sendUpOf s origin ty fields).canon := by
  unfold State.sendUpOf
  split <;> simp (maxDischargeDepth := 30) [hs]

@[simp] theorem State.sendUp_canon (s : State) (ty : Byte) (fields : Bytes) (hs : s.canon) : (State.sendUp s ty fields).canon := by
  unfold State.sendUp
  (repeat' split) <;> simp (maxDischargeDepth := 30) [hs]

@[simp] theorem State.dropOwn_canon (s : State) (k : Nat) (hs : s.canon) : (State.dropOwn s k).canon := by
  simp (maxDischargeDepth := 30) [State.dropOwn, hs]

@[simp] theorem State.sendMsi_canon (s : State) (p : HostPort) (v : BitVec 6) (hs : s.canon) : (State.sendMsi s p v).canon := by
  simp (maxDischargeDepth := 30) [State.sendMsi, hs]

@[simp] theorem State.tryMsi_canon (s : State) (p : HostPort) (v : BitVec 6) (hs : s.canon) : (State.tryMsi s p v).canon := by
  simp (maxDischargeDepth := 30) [State.tryMsi, hs]

@[simp] theorem State.noteVec_canon (s : State) (p : HostPort) (v : BitVec 6) (k : Nat) (hs : s.canon) : (State.noteVec s p v k).canon := by
  simp (maxDischargeDepth := 30) [State.noteVec, hs]

@[simp] theorem State.attnOn_canon (s : State) (p : HostPort) (code : Byte) (detail : Bytes) (hs : s.canon) : (State.attnOn s p code detail).canon := by
  simp (maxDischargeDepth := 30) [State.attnOn, hs]

@[simp] theorem State.devEvent_canon (s : State) (code : Byte) (detail : Bytes) (hs : s.canon) : (State.devEvent s code detail).canon := by
  simp (maxDischargeDepth := 30) [State.devEvent, hs]

@[simp] theorem State.ctxEvent_canon (s : State) (c : CtxId) (code : Byte) (detail : Bytes) (hs : s.canon) : (State.ctxEvent s c code detail).canon := by
  simp (maxDischargeDepth := 30) [State.ctxEvent, hs]

@[simp] theorem State.ringEvent_canon (s : State) (c : CtxId) (r : BitVec 2) (reason : Byte) (tail f : U32) (k : U16) (hs : s.canon) : (State.ringEvent s c r reason tail f k).canon := by
  simp (maxDischargeDepth := 30) [State.ringEvent, hs]

@[simp] theorem State.linkEvent_canon (s : State) (port reason width : Nat) (lo hi : Nat) (word : Nat) (rest : Bytes) (hs : s.canon) : (State.linkEvent s port reason width lo hi word rest).canon := by
  simp (maxDischargeDepth := 30) [State.linkEvent, hs]

@[simp] theorem State.thresholdEvent_canon (s : State) (correctable : Bool) (k : Counter) (hs : s.canon) : (State.thresholdEvent s correctable k).canon := by
  simp (maxDischargeDepth := 30) [State.thresholdEvent, hs]

@[simp] theorem State.setCounters_canon (s : State) (correctable : Bool) (l : List Counter) (hs : s.canon) : (State.setCounters s correctable l).canon := by
  simp (maxDischargeDepth := 30) [State.setCounters, hs]

@[simp] theorem State.countLoc_canon (s : State) (correctable : Bool) (l : Location) (hs : s.canon) : (State.countLoc s correctable l).canon := by
  unfold State.countLoc
  simp only []
  (repeat' split) <;> simp (maxDischargeDepth := 30) [hs]

@[simp] theorem State.dropQueued_canon (s : State) (c : CtxId) (hs : s.canon) : (State.dropQueued s c).canon := by
  simp (maxDischargeDepth := 30) [State.dropQueued, hs]

@[simp] theorem State.retest_canon (s : State) (k : Nat) (hs : s.canon) : (State.retest s k).canon := by
  simp (maxDischargeDepth := 30) [State.retest, hs]

@[simp] theorem State.raisePass_canon (s : State) (hs : s.canon) : (State.raisePass s).canon := by
  simp (maxDischargeDepth := 30) [State.raisePass, hs]

@[simp] theorem State.inherit_canon (s : State) (hs : s.canon) : (State.inherit s).canon := by
  unfold State.inherit
  (repeat' (first | (simp (maxDischargeDepth := 30) [hs]; done) | split | (refine foldl_canon _ (fun _ _ hs => ?_) _ _ ?_) | dsimp only))

@[simp] theorem State.handOver_canon (s : State) (k : Nat) (hs : s.canon) : (State.handOver s k).canon := by
  unfold State.handOver
  dsimp only
  split <;> rename_i h <;> have h' := congrArg (fun p => p.2.canon) h <;> simp (maxDischargeDepth := 30) [hs] at h' <;> (try split) <;>
    simp (maxDischargeDepth := 30) [h']

@[simp] theorem State.store_canon (s : State) (k : Nat) (w : U32) (hs : s.canon) : (State.store s k w).canon := by
  simp (maxDischargeDepth := 30) [State.store, hs]

@[simp] theorem State.descSignal_canon (s : State) (d : Desc) (hs : s.canon) : (State.descSignal s d).canon := by
  simp (maxDischargeDepth := 30) [State.descSignal, hs]

@[simp] theorem State.writeEntry_canon (s : State) (d : Desc) (v : Done) (hs : s.canon) : (State.writeEntry s d v).canon := by
  simp (maxDischargeDepth := 30) [State.writeEntry, hs]

@[simp] theorem State.completeOne_canon (s : State) (d : Desc) (v : Done) (sig : Bool) (hs : s.canon) : (State.completeOne s d v sig).canon := by
  simp (maxDischargeDepth := 30) [State.completeOne, hs]

@[simp] theorem State.fenceDone_canon (s : State) (c : CtxId) (hs : s.canon) : (State.fenceDone s c).canon := by
  unfold State.fenceDone
  (repeat' split) <;> simp (maxDischargeDepth := 30) [hs]

@[simp] theorem State.complete_canon (s : State) (d : Desc) (v : Done) (hs : s.canon) : (State.complete s d v).canon := by
  simp (maxDischargeDepth := 30) [State.complete, hs]

@[simp] theorem State.completeUnsignalled_canon (s : State) (d : Desc) (v : Done) (hs : s.canon) : (State.completeUnsignalled s d v).canon := by
  simp (maxDischargeDepth := 30) [State.completeUnsignalled, hs]

@[simp] theorem State.noteCode_canon (s : State) (c : CtxId) (q : SeqId) (engine : Nat) (code : Code) (hs : s.canon) : (State.noteCode s c q engine code).canon := by
  simp (maxDischargeDepth := 30) [State.noteCode, hs]

@[simp] theorem State.settle_canon (s : State) (c : CtxId) (hs : s.canon) : (State.settle s c).canon := by
  unfold State.settle
  (repeat' (first | (simp (maxDischargeDepth := 30) [hs]; done) | split | (refine foldl_canon _ (fun _ _ hs => ?_) _ _ ?_) | dsimp only))

@[simp] theorem State.finishCommand_canon (s : State) (c : CtxId) (q : SeqId) (engine : Nat) (hs : s.canon) : (State.finishCommand s c q engine).canon := by
  simp (maxDischargeDepth := 30) [State.finishCommand, hs]

@[simp] theorem State.clearRunning_canon (s : State) (i : Nat) (c : CtxId) (hs : s.canon) : (State.clearRunning s i c).canon := by
  simp (maxDischargeDepth := 30) [State.clearRunning, hs]

@[simp] theorem State.lagSend_canon (s : State) (r : SendRun) (hs : s.canon) : (State.lagSend s r).canon := by
  unfold State.lagSend
  split <;> simp (maxDischargeDepth := 30) [hs]

@[simp] theorem State.lagRecv_canon (s : State) (r : Recv) (hs : s.canon) : (State.lagRecv s r).canon := by
  simp (maxDischargeDepth := 30) [State.lagRecv, hs]

@[simp] theorem State.lagSends_canon (s : State) (c : CtxId) (t : State) (hs : t.canon) : (State.lagSends s c t).canon := by
  simp (maxDischargeDepth := 30) +contextual [State.lagSends, hs]

@[simp] theorem State.endSteps_canon (s : State) (c : CtxId) (code : Code) (hs : s.canon) : (State.endSteps s c code).canon := by
  unfold State.endSteps
  (repeat' (first | (simp (maxDischargeDepth := 30) [hs]; done) | split | (refine foldl_canon _ (fun _ _ hs => ?_) _ _ ?_) | dsimp only))

@[simp] theorem State.stopStep_canon (s : State) (c : CtxId) (code : Code) (hs : s.canon) : (State.stopStep s c code).canon := by
  unfold State.stopStep
  (repeat' (first | (simp (maxDischargeDepth := 30) [hs]; done) | split | (refine foldl_canon _ (fun _ _ hs => ?_) _ _ ?_) | dsimp only))

@[simp] theorem State.endWaiters_canon (s : State) (h : CtxId) (locks which : Nat → Bool) (hs : s.canon) : (State.endWaiters s h locks which).canon := by
  unfold State.endWaiters
  (repeat' (first | (simp (maxDischargeDepth := 30) [hs]; done) | split | (refine foldl_canon _ (fun _ _ hs => ?_) _ _ ?_) | dsimp only))

@[simp] theorem State.abandonOpen_canon (s : State) (c : CtxId) (why : Byte) (hs : s.canon) : (State.abandonOpen s c why).canon := by
  unfold State.abandonOpen
  (repeat' (first | (simp (maxDischargeDepth := 30) [hs]; done) | split | (refine foldl_canon _ (fun _ _ hs => ?_) _ _ ?_) | dsimp only))

@[simp] theorem State.faultWith_canon (s : State) (c : CtxId) (code : Code) (hs : s.canon) : (State.faultWith s c code).canon := by
  simp (maxDischargeDepth := 30) [State.faultWith, hs]

@[simp] theorem State.faultCtx_canon (s : State) (c : CtxId) (hs : s.canon) : (State.faultCtx s c).canon := by
  simp (maxDischargeDepth := 30) [State.faultCtx, hs]

@[simp] theorem State.noteStall_canon (s : State) (r : Reader) (a : Access) (hs : s.canon) : (State.noteStall s r a).canon := by
  simp (maxDischargeDepth := 30) [State.noteStall, hs]

@[simp] theorem State.modIssuers_canon (s : State) (c : CtxId) (on : State.Copies) (f : Nat → Seq → Seq) (hs : s.canon) : (State.modIssuers s c on f).canon := by
  simp (maxDischargeDepth := 30) [State.modIssuers, hs]

@[simp] theorem State.noteWait_canon (s : State) (c : CtxId) (on : State.Copies) (cause buf : Nat) (hs : s.canon) : (State.noteWait s c on cause buf).canon := by
  simp (maxDischargeDepth := 30) [State.noteWait, hs]

@[simp] theorem State.endWait_canon (s : State) (c : CtxId) (on : State.Copies) (hs : s.canon) : (State.endWait s c on).canon := by
  simp (maxDischargeDepth := 30) [State.endWait, hs]

@[simp] theorem State.setAside_canon (s : State) (i : Nat) (hs : s.canon) : (State.setAside s i).canon := by
  simp (maxDischargeDepth := 30) [State.setAside, hs]

@[simp] theorem State.stall_canon (s : State) (c : CtxId) (on : State.Copies) (a : Access) (hs : s.canon) : (State.stall s c on a).canon := by
  unfold State.stall
  (repeat' (first | (simp (maxDischargeDepth := 30) [hs]; done) | split | (refine foldl_canon _ (fun _ _ hs => ?_) _ _ ?_) | dsimp only))

@[simp] theorem State.engineDone_canon (s : State) (c : CtxId) (q : SeqId) (engine : Nat) (hs : s.canon) : (State.engineDone s c q engine).canon := by
  simp (maxDischargeDepth := 30) [State.engineDone, hs]

@[simp] theorem State.recvTake_canon (s : State) (r : Recv) (last : Bool) (payload : Bytes) (hs : s.canon) : (State.recvTake s r last payload).canon := by
  simp (maxDischargeDepth := 30) [State.recvTake, hs]

@[simp] theorem State.deliverStored_canon (s : State) (c : CtxId) (hs : s.canon) : (State.deliverStored s c).canon := by
  unfold State.deliverStored
  (repeat' (first | (simp (maxDischargeDepth := 30) [hs]; done) | split | (refine foldl_canon _ (fun _ _ hs => ?_) _ _ ?_) | dsimp only))

@[simp] theorem State.storeParcel_canon (s : State) (c : CtxId) (p : Inbound) (hs : s.canon) : (State.storeParcel s c p).canon := by
  simp (maxDischargeDepth := 30) [State.storeParcel, hs]

@[simp] theorem State.storeInbound_canon (s : State) (c : CtxId) (p : Inbound) (hs : s.canon) : (State.storeInbound s c p).canon := by
  simp (maxDischargeDepth := 30) [State.storeInbound, hs]

@[simp] theorem State.clearSaved_canon (s : State) (i : Nat) (c : CtxId) (q : SeqId) (hs : s.canon) : (State.clearSaved s i c q).canon := by
  simp (maxDischargeDepth := 30) [State.clearSaved, hs]

@[simp] theorem State.writeLaneRec_canon (s : State) (r : LaneRec) (hs : s.canon) : (State.writeLaneRec s r).canon := by
  unfold State.writeLaneRec
  (repeat' split) <;> simp (maxDischargeDepth := 30) [hs]

@[simp] theorem State.woken_canon (s : State) (id : U32) (hs : s.canon) : (State.woken s id).canon := by
  unfold State.woken
  (repeat' (first | (simp (maxDischargeDepth := 30) [hs]; done) | split | (refine foldl_canon _ (fun _ _ hs => ?_) _ _ ?_) | dsimp only))

@[simp] theorem State.hostPart_canon (s : State) (p : HostPort) (hcrc : Bool) (base total off : Nat) (bs : Bytes) (hs : s.canon) : (State.hostPart s p hcrc base total off bs).canon := by
  unfold State.hostPart
  (repeat' (first | (simp (maxDischargeDepth := 30) [hs]; done) | split | (refine foldl_canon _ (fun _ _ hs => ?_) _ _ ?_) | dsimp only))

@[simp] theorem State.haltChannel_canon (s : State) (c : CtxId) (hs : s.canon) : (State.haltChannel s c).canon := by
  simp (maxDischargeDepth := 30) [State.haltChannel, hs]

@[simp] theorem State.uncorrectable_canon (s : State) (response : Byte) (reader : Option CtxId) (loc : Location) (object : U32) (off len page slot : Nat) (hs : s.canon) : (State.uncorrectable s response reader loc object off len page slot).canon := by
  simp (maxDischargeDepth := 30) [State.uncorrectable, hs]

@[simp] theorem State.hostCheckFailed_canon (s : State) (c : CtxId) (hs : s.canon) : (State.hostCheckFailed s c).canon := by
  simp (maxDischargeDepth := 30) [State.hostCheckFailed, hs]

@[simp] theorem State.modWork_canon (s : State) (c : CtxId) (q : SeqId) (engine i : Nat) (f : QueryWork → QueryWork) (hs : s.canon) : (State.modWork s c q engine i f).canon := by
  simp (maxDischargeDepth := 30) [State.modWork, hs]

@[simp] theorem State.noteTokens_canon (s : State) (c : CtxId) (q : SeqId) (tokens : List Nat) (invalid : Nat) (full : Bool) (hs : s.canon) : (State.noteTokens s c q tokens invalid full).canon := by
  unfold State.noteTokens
  (repeat' split) <;> simp (maxDischargeDepth := 30) [hs]

@[simp] theorem State.setSlot_canon (s : State) (slot lo n v : Nat) (hs : s.canon) : (State.setSlot s slot lo n v).canon := by
  simp (maxDischargeDepth := 30) [State.setSlot, hs]

@[simp] theorem State.setSlotFlag_canon (s : State) (slot i : Nat) (v : Bool) (hs : s.canon) : (State.setSlotFlag s slot i v).canon := by
  simp (maxDischargeDepth := 30) [State.setSlotFlag, hs]

@[simp] theorem State.setSlotState_canon (s : State) (slot : Nat) (x : SlotState) (hs : s.canon) : (State.setSlotState s slot x).canon := by
  simp (maxDischargeDepth := 30) [State.setSlotState, hs]

@[simp] theorem State.freeSlot_canon (s : State) (slot : Nat) (hs : s.canon) : (State.freeSlot s slot).canon := by
  simp (maxDischargeDepth := 30) [State.freeSlot, hs]

@[simp] theorem State.setPageEntry_canon (s : State) (slot i v : Nat) (hs : s.canon) : (State.setPageEntry s slot i v).canon := by
  simp (maxDischargeDepth := 30) [State.setPageEntry, hs]

@[simp] theorem State.allocPages_canon (s : State) (pool : U32) (ps : List Nat) (hs : s.canon) : (State.allocPages s pool ps).canon := by
  simp (maxDischargeDepth := 30) [State.allocPages, hs]

@[simp] theorem State.releasePages_canon (s : State) (pool : U32) (ps : List Nat) (hs : s.canon) : (State.releasePages s pool ps).canon := by
  simp (maxDischargeDepth := 30) [State.releasePages, hs]

@[simp] theorem State.setOwner_canon (s : State) (acc : Bool) (i : Nat) (c : CtxId) (hs : s.canon) : (State.setOwner s acc i c).canon := by
  simp (maxDischargeDepth := 30) [State.setOwner, hs]

@[simp] theorem State.clearOwner_canon (s : State) (acc : Bool) (i : Nat) (hs : s.canon) : (State.clearOwner s acc i).canon := by
  simp (maxDischargeDepth := 30) [State.clearOwner, hs]

@[simp] theorem State.swapOut_canon (s : State) (acc : Bool) (i : Nat) (o : CtxId) (hs : s.canon) : (State.swapOut s acc i o).canon := by
  simp (maxDischargeDepth := 30) +contextual [State.swapOut, hs]

@[simp] theorem State.swapIn_canon (s : State) (acc : Bool) (i : Nat) (c : CtxId) (hs : s.canon) : (State.swapIn s acc i c).canon := by
  simp (maxDischargeDepth := 30) +contextual [State.swapIn, hs]

@[simp] theorem State.claim1_canon (s : State) (c : CtxId) (acc : Bool) (i : Nat) (hs : s.canon) : (State.claim1 s c acc i).canon := by
  unfold State.claim1
  (repeat' split) <;> simp (maxDischargeDepth := 30) [hs]

@[simp] theorem State.visit1_canon (s : State) (c : CtxId) (i : Nat) (hs : s.canon) : (State.visit1 s c i).canon := by
  unfold State.visit1
  (repeat' split) <;> simp (maxDischargeDepth := 30) [hs]

@[simp] theorem State.visit_canon (s : State) (c : CtxId) (lo n : Nat) (hs : s.canon) : (State.visit s c lo n).canon := by
  unfold State.visit
  (repeat' (first | (simp (maxDischargeDepth := 30) [hs]; done) | split | (refine foldl_canon _ (fun _ _ hs => ?_) _ _ ?_) | dsimp only))

@[simp] theorem State.claim_canon (s : State) (c : CtxId) (acc : Bool) (lo n : Nat) (hs : s.canon) : (State.claim s c acc lo n).canon := by
  unfold State.claim
  (repeat' (first | (simp (maxDischargeDepth := 30) [hs]; done) | split | (refine foldl_canon _ (fun _ _ hs => ?_) _ _ ?_) | dsimp only))

@[simp] theorem State.releaseClaims_canon (s : State) (c : CtxId) (hs : s.canon) : (State.releaseClaims s c).canon := by
  simp (maxDischargeDepth := 30) [State.releaseClaims, hs]

@[simp] theorem State.swapOutAll_canon (s : State) (c : CtxId) (hs : s.canon) : (State.swapOutAll s c).canon := by
  unfold State.swapOutAll
  (repeat' (first | (simp (maxDischargeDepth := 30) [hs]; done) | split | (refine foldl_canon _ (fun _ _ hs => ?_) _ _ ?_) | dsimp only))

theorem State.runCommand_canon (s : State) (c : CtxId) (on : State.Copies) (allowed : Bool) (acc : List Access)
    (onPoison : Access → Option (State → State)) (eff finish : State → State) (blocked : Option (Nat × Nat)) (hs : s.canon)
    (hp : ∀ a f, onPoison a = some f → ∀ t, t.canon → (f t).canon) (he : ∀ t, t.canon → (eff t).canon)
    (hf : ∀ t, t.canon → (finish t).canon) : (s.runCommand c on allowed acc onPoison eff finish blocked).canon := by
  unfold State.runCommand
  split
  · exact hs
  · split
    · simp (maxDischargeDepth := 30) [hs]
    · split
      · simp (maxDischargeDepth := 30) [hs]
      · split
        · simp (maxDischargeDepth := 30) [hs]
        · split
          · split
            · simp (maxDischargeDepth := 30) [hs]
            · split
              · simp (maxDischargeDepth := 30) [hs]
              · rename_i h
                exact hf _ (hp _ _ h _ (by simp (maxDischargeDepth := 30) [hs]))
          · exact hf _ (he _ (by simp (maxDischargeDepth := 30) [hs]))

@[simp] theorem State.steppeDone_canon (s : State) (c : CtxId) (hs : s.canon) : (State.steppeDone s c).canon := by
  simp (maxDischargeDepth := 30) [State.steppeDone, hs]

@[simp] theorem State.storeSlot_canon (s : State) (fmt k slot col i : Nat) (row : Bytes) (hs : s.canon) : (State.storeSlot s fmt k slot col i row).canon := by
  simp (maxDischargeDepth := 30) [State.storeSlot, hs]

@[simp] theorem State.storeColumns_canon (s : State) (fmt k slot nslots l : Nat) (rows : List Bytes) (hs : s.canon) : (State.storeColumns s fmt k slot nslots l rows).canon := by
  unfold State.storeColumns
  (repeat' (first | (simp (maxDischargeDepth := 30) [hs]; done) | split | (refine foldl_canon _ (fun _ _ hs => ?_) _ _ ?_) | dsimp only))

@[simp] theorem State.loadrEff_canon (s : State) (c : CtxId) (x : Loadr) (hs : s.canon) : (State.loadrEff s c x).canon := by
  simp (maxDischargeDepth := 30) [State.loadrEff, hs]

@[simp] theorem State.kvPoison_canon (s : State) (c : CtxId) (slot : Nat) (hs : s.canon) : (State.kvPoison s c slot).canon := by
  simp (maxDischargeDepth := 30) [State.kvPoison, hs]

@[simp] theorem State.windowTake_canon (s : State) (id : U32) (n : Nat) (hs : s.canon) : (State.windowTake s id n).canon := by
  simp (maxDischargeDepth := 30) [State.windowTake, hs]

@[simp] theorem State.putResults_canon (s : State) (rs : List (Nat × Nat × Nat × Nat × F32)) (hs : s.canon) : (State.putResults s rs).canon := by
  unfold State.putResults
  (repeat' (first | (simp (maxDischargeDepth := 30) [hs]; done) | split | (refine foldl_canon _ (fun _ _ hs => ?_) _ _ ?_) | dsimp only))

@[simp] theorem State.runGroups_canon (s : State) (x : Matmul) (t0 t1 : Nat) (hs : s.canon) : ((State.runGroups s x t0 t1).1).canon := by
  unfold State.runGroups
  refine foldl_fst_canon _ (fun p a h => ?_) _ _ hs
  rcases p with ⟨t, out⟩
  dsimp only at h ⊢
  split <;> simp (maxDischargeDepth := 30) +contextual [h]

@[simp] theorem State.drainRows_canon (s : State) (c : CtxId) (x : Matmul) (out : List (Nat × Nat × F32)) (hs : s.canon) : (State.drainRows s c x out).canon := by
  unfold State.drainRows
  (repeat' (first | (simp (maxDischargeDepth := 30) [hs]; done) | split | (refine foldl_canon _ (fun _ _ hs => ?_) _ _ ?_) | dsimp only))

@[simp] theorem State.matmulEff_canon (s : State) (c : CtxId) (x : Matmul) (hs : s.canon) : (State.matmulEff s c x).canon := by
  simp (maxDischargeDepth := 30) [State.matmulEff, hs]

@[simp] theorem State.holdResults_canon (s : State) (c : CtxId) (out : List (Nat × Nat × F32)) (hs : s.canon) : (State.holdResults s c out).canon := by
  unfold State.holdResults
  (repeat' (first | (simp (maxDischargeDepth := 30) [hs]; done) | split | (refine foldl_canon _ (fun _ _ hs => ?_) _ _ ?_) | dsimp only))

@[simp] theorem State.matmulWindow_canon (s : State) (c : CtxId) (w : Bytes) (x : Matmul) (hs : s.canon) : (State.matmulWindow s c w x).canon := by
  simp (maxDischargeDepth := 30) [State.matmulWindow, hs]

@[simp] theorem State.placeRow_canon (s : State) (x : Grouped) (e : Nat) (r : RouteEntry) (y : List F32) (hs : s.canon) : (State.placeRow s x e r y).canon := by
  simp (maxDischargeDepth := 30) [State.placeRow, hs]

@[simp] theorem State.runTile_canon (s : State) (x : Grouped) (e : Nat) (tile : List RouteEntry) (hs : s.canon) : (State.runTile s x e tile).canon := by
  unfold State.runTile
  (repeat' (first | (simp (maxDischargeDepth := 30) [hs]; done) | split | (refine foldl_canon _ (fun _ _ hs => ?_) _ _ ?_) | dsimp only))

@[simp] theorem State.runExpert_canon (s : State) (x : Grouped) (e : Nat) (hs : s.canon) : (State.runExpert s x e).canon := by
  simp (maxDischargeDepth := 30) +contextual [State.runExpert, hs]

@[simp] theorem State.zeroRows_canon (s : State) (x : Grouped) (hs : s.canon) : (State.zeroRows s x).canon := by
  unfold State.zeroRows
  (repeat' (first | (simp (maxDischargeDepth := 30) [hs]; done) | split | (refine foldl_canon _ (fun _ _ hs => ?_) _ _ ?_) | dsimp only))

@[simp] theorem State.groupedRun_canon (s : State) (c : CtxId) (w : Bytes) (x : Grouped) (hs : s.canon) : (State.groupedRun s c w x).canon := by
  simp (maxDischargeDepth := 30) +contextual [State.groupedRun, hs]

@[simp] theorem State.drop1_canon (s : State) (c : CtxId) (acc : Bool) (i : Nat) (hs : s.canon) : (State.drop1 s c acc i).canon := by
  unfold State.drop1
  (repeat' (first | (simp (maxDischargeDepth := 30) [hs]; done) | split | (refine foldl_canon _ (fun _ _ hs => ?_) _ _ ?_) | dsimp only))

@[simp] theorem State.droprEff_canon (s : State) (c : CtxId) (x : Dropr) (hs : s.canon) : (State.droprEff s c x).canon := by
  unfold State.droprEff
  (repeat' (first | (simp (maxDischargeDepth := 30) [hs]; done) | split | (refine foldl_canon _ (fun _ _ hs => ?_) _ _ ?_) | dsimp only))

@[simp] theorem State.rimWrite_canon (s : State) (c : CtxId) (x : Rim) (u : RimUse) (rows : List (List F32)) (hs : s.canon) : (State.rimWrite s c x u rows).canon := by
  unfold State.rimWrite
  (repeat' (first | (simp (maxDischargeDepth := 30) [hs]; done) | split | (refine foldl_canon _ (fun _ _ hs => ?_) _ _ ?_) | dsimp only))

@[simp] theorem State.setResult_canon (s : State) (c : CtxId) (engine op : Nat) (f : Nat → Nat) (hs : s.canon) : (State.setResult s c engine op f).canon := by
  simp (maxDischargeDepth := 30) [State.setResult, hs]

@[simp] theorem State.tokenizeEff_canon (s : State) (c : CtxId) (q : SeqId) (x : TokCmd) (hs : s.canon) : (State.tokenizeEff s c q x).canon := by
  unfold State.tokenizeEff
  split
  · exact hs
  · dsimp only
    split <;> split <;> simp (maxDischargeDepth := 30) +contextual [hs]

@[simp] theorem State.detokEff_canon (s : State) (c : CtxId) (x : DetokCmd) (hs : s.canon) : (State.detokEff s c x).canon := by
  unfold State.detokEff
  split
  · exact hs
  · generalize detokenize _ _ _ _ _ = r
    dsimp only
    split <;> simp (maxDischargeDepth := 30) +contextual [hs]

@[simp] theorem State.setGState_canon (s : State) (c : CtxId) (x : GrammarCmd) (g : GState) (hs : s.canon) : (State.setGState s c x g).canon := by
  unfold State.setGState
  (repeat' split) <;> simp (maxDischargeDepth := 30) [hs]

@[simp] theorem State.releaseSlot_canon (s : State) (slot : Nat) (hs : s.canon) : (State.releaseSlot s slot).canon := by
  simp (maxDischargeDepth := 30) [State.releaseSlot, hs]

@[simp] theorem State.discardStream_canon (s : State) (slot : Nat) (hs : s.canon) : (State.discardStream s slot).canon := by
  simp (maxDischargeDepth := 30) [State.discardStream, hs]

@[simp] theorem State.modServing_canon (s : State) (c : CtxId) (f : Serving → Serving) (hs : s.canon) : (State.modServing s c f).canon := by
  simp (maxDischargeDepth := 30) [State.modServing, hs]

@[simp] theorem State.settleSlot_canon (s : State) (c : CtxId) (slot : Nat) (code : Code) (hs : s.canon) : (State.settleSlot s c slot code).canon := by
  unfold State.settleSlot
  (repeat' (first | (simp (maxDischargeDepth := 30) [hs]; done) | split | (refine foldl_canon _ (fun _ _ hs => ?_) _ _ ?_) | dsimp only))

@[simp] theorem State.endSlot_canon (s : State) (c : CtxId) (slot : Nat) (code : Code) (reason : Nat) (discard : Bool) (hs : s.canon) : (State.endSlot s c slot code reason discard).canon := by
  simp (maxDischargeDepth := 30) [State.endSlot, hs]

@[simp] theorem State.putRows_canon (s : State) (slot first : Nat) (m : Model) (lo hi : Nat) (row : Nat → Nat → Bytes) (hs : s.canon) : (State.putRows s slot first m lo hi row).canon := by
  simp (maxDischargeDepth := 30) +contextual [State.putRows, hs]

@[simp] theorem State.moveRows_canon (s : State) (c : CtxId) (slot : Nat) (model : U32) (first pages lo hi : Nat) (hs : s.canon) : (State.moveRows s c slot model first pages lo hi).canon := by
  unfold State.moveRows
  (repeat' (first | (simp (maxDischargeDepth := 30) [hs]; done) | split | (refine foldl_canon _ (fun _ _ hs => ?_) _ _ ?_) | dsimp only))

@[simp] theorem State.moveStaged_canon (s : State) (c : CtxId) (hs : s.canon) : (State.moveStaged s c).canon := by
  unfold State.moveStaged
  (repeat' (first | (simp (maxDischargeDepth := 30) [hs]; done) | split | (refine foldl_canon _ (fun _ _ hs => ?_) _ _ ?_) | dsimp only))

@[simp] theorem State.freeOne_canon (s : State) (c : CtxId) (slot : Nat) (hs : s.canon) : (State.freeOne s c slot).canon := by
  unfold State.freeOne
  simp only []
  (repeat' split) <;> simp (maxDischargeDepth := 30) [hs]

@[simp] theorem State.takePause_canon (s : State) (c : CtxId) (p : Pausing) (hs : s.canon) : (State.takePause s c p).canon := by
  unfold State.takePause
  simp only []
  (repeat' split) <;> simp (maxDischargeDepth := 30) [hs]

@[simp] theorem State.boundaryFrees_canon (s : State) (c : CtxId) (hs : s.canon) : (State.boundaryFrees s c).canon := by
  unfold State.boundaryFrees
  (repeat' (first | (simp (maxDischargeDepth := 30) [hs]; done) | split | (refine foldl_canon _ (fun _ _ hs => ?_) _ _ ?_) | dsimp only))

theorem State.claimPart_canon {s t : State} {slot : Nat} {k : Claim} (h : s.claimPart slot k = some t) (hs : s.canon) : t.canon := by
  unfold State.claimPart at h
  dsimp only at h
  split at h
  · cases h
  · rw [Option.some.injEq] at h
    subst h
    simp (maxDischargeDepth := 30) +contextual [hs]

theorem State.claimPages_canon {s t : State} {slot : Nat} {ks : List Claim} (h : s.claimPages slot ks = some t) (hs : s.canon) : t.canon := by
  have key : ∀ (l : List Claim) (o : Option State), l.foldl (fun o k => o.bind (fun t => t.claimPart slot k)) o = some t →
      ∃ u, o = some u ∧ (u.canon → t.canon) := by
    intro l
    induction l with
    | nil => intro o ho; exact ⟨t, ho, id⟩
    | cons k l ih =>
      intro o ho
      obtain ⟨u, hu, e⟩ := ih _ ho
      cases o with
      | none => cases hu
      | some v => exact ⟨v, rfl, fun hv => e (State.claimPart_canon hu hv)⟩
  obtain ⟨u, hu, e⟩ := key _ _ h
  cases hu
  exact e hs

theorem State.claimFor_canon {s t : State} {slot : Nat} {a b : U32} {n : Nat} (h : s.claimFor slot a b n = some t) (hs : s.canon) : t.canon := by
  unfold State.claimFor at h
  split at h
  · cases h
  · dsimp only at h
    split at h
    · exact State.claimPages_canon h hs
    · split at h
      · cases h
      · exact State.claimPages_canon h hs

@[simp] theorem State.growOne_canon (s : State) (c : CtxId) (slot : Nat) (hs : s.canon) : ((State.growOne s c slot).1).canon := by
  unfold State.growOne
  split
  · exact hs
  · split
    · simp (maxDischargeDepth := 30) [hs]
    · split <;> split <;> (try simp (maxDischargeDepth := 30) [hs]) <;> (rename_i h; simp (maxDischargeDepth := 30) [State.claimFor_canon h hs])

@[simp] theorem State.grantResume_canon (s : State) (c : CtxId) (r : Resuming) (hs : s.canon) : (State.grantResume s c r).canon := by
  unfold State.grantResume
  dsimp only
  split
  · exact hs
  · split
    · simp (maxDischargeDepth := 30) [hs]
    · split
      · simp (maxDischargeDepth := 30) [hs]
      · split
        · simp (maxDischargeDepth := 30) [hs]
        · rename_i h
          have h' := State.claimFor_canon h (by simp (maxDischargeDepth := 30) [hs])
          simp (maxDischargeDepth := 30) [h']

@[simp] theorem State.joinSlot_canon (s : State) (c : CtxId) (slot record : Nat) (hcrc : Bool) (hs : s.canon) : ((State.joinSlot s c slot record hcrc).1).canon := by
  unfold State.joinSlot
  dsimp only
  (repeat' split) <;> first | exact hs | (rename_i h; have h' := State.claimFor_canon h (by simp (maxDischargeDepth := 30) +contextual [hs]); simp (maxDischargeDepth := 30) +contextual [h']; done) | simp (maxDischargeDepth := 30) [hs]

@[simp] theorem State.settleHandoff_canon (s : State) (c : CtxId) (h : Handoff) (code : Option Code) (hs : s.canon) : (State.settleHandoff s c h code).canon := by
  simp (maxDischargeDepth := 30) [State.settleHandoff, hs]

@[simp] theorem State.joinAll_canon (s : State) (c : CtxId) (js : List Joining) (hs : s.canon) : ((State.joinAll s c js).1).canon := by
  unfold State.joinAll
  refine foldl_fst_canon _ (fun p a hs => ?_) _ _ hs
  dsimp only
  split <;> simp (maxDischargeDepth := 30) [hs]

@[simp] theorem State.boundary_canon (s : State) (c : CtxId) (steps : List Nat) (joins : List Joining) (hs : s.canon) : ((State.boundary s c steps joins).1).canon := by
  unfold State.boundary
  dsimp only
  refine State.joinAll_canon _ _ _ ?_
  refine foldl_canon _ (fun t r h => by simp (maxDischargeDepth := 30) +contextual [h]) _ _ ?_
  refine foldl_fst_canon _ (fun p a h => by simp (maxDischargeDepth := 30) +contextual [h]) _ _ ?_
  refine foldl_canon _ (fun t r h => by split <;> simp (maxDischargeDepth := 30) +contextual [h]) _ _ ?_
  simp (maxDischargeDepth := 30) +contextual [hs]

@[simp] theorem State.noteEnds_canon (t s : State) (c : CtxId) (ended : List (Nat × Code)) (named : List Nat) (hs : t.canon) : (State.noteEnds t s c ended named).canon := by
  simp (maxDischargeDepth := 30) +contextual [State.noteEnds, hs]

@[simp] theorem State.listEff_canon (s : State) (c : CtxId) (tobj : U32) (d : Desc) (hs : s.canon) : (State.listEff s c tobj d).canon := by
  simp (maxDischargeDepth := 30) [State.listEff, hs]

@[simp] theorem State.modEntry_canon (s : State) (c : CtxId) (f : SlotStep → SlotStep) (hs : s.canon) : (State.modEntry s c f).canon := by
  simp (maxDischargeDepth := 30) [State.modEntry, hs]

@[simp] theorem State.acceptEff_canon (s : State) (c : CtxId) (x : AcceptCmd) (e : SlotStep) (m : Model) (hs : s.canon) : (State.acceptEff s c x e m).canon := by
  simp (maxDischargeDepth := 30) [State.acceptEff, hs]

@[simp] theorem State.resultEntry_canon (s : State) (c : CtxId) (d : Desc) (e : SlotStep) (code : Code) (terminal : Bool) (tokens now : Nat) (hs : s.canon) : (State.resultEntry s c d e code terminal tokens now).canon := by
  simp (maxDischargeDepth := 30) [State.resultEntry, hs]

@[simp] theorem State.commitEnd_canon (s : State) (c : CtxId) (d : Desc) (e : SlotStep) (n now : Nat) (ending : Option Code) (hs : s.canon) : (State.commitEnd s c d e n now ending).canon := by
  unfold State.commitEnd
  (repeat' split) <;> simp (maxDischargeDepth := 30) [hs]

@[simp] theorem State.commitEff_canon (s : State) (c : CtxId) (d : Desc) (e : SlotStep) (count consumed emitted : Nat) (stopped : Bool) (hs : s.canon) : (State.commitEff s c d e count consumed emitted stopped).canon := by
  simp (maxDischargeDepth := 30) [State.commitEff, hs]

@[simp] theorem State.commitSkip_canon (s : State) (c : CtxId) (d : Desc) (e : SlotStep) (hs : s.canon) : (State.commitSkip s c d e).canon := by
  unfold State.commitSkip
  split <;> simp (maxDischargeDepth := 30) [hs]

@[simp] theorem State.loadModel_canon (s : State) (slot first rows off : Nat) (id : U32) (bytes : Bytes) (hs : s.canon) : ((State.loadModel s slot first rows off id bytes).1).canon := by
  unfold State.loadModel
  (repeat' (first | (simp (maxDischargeDepth := 30) [hs]; done) | split | (refine foldl_canon _ (fun _ _ hs => ?_) _ _ ?_) | dsimp only))

@[simp] theorem State.buildSummary_canon (s : State) (c : CtxId) (slot : Nat) (wobj : U32) (hs : s.canon) : (State.buildSummary s c slot wobj).canon := by
  unfold State.buildSummary
  (repeat' split) <;> simp (maxDischargeDepth := 30) [hs]

@[simp] theorem State.loadSummary_canon (s : State) (c : CtxId) (slot : Nat) (wobj : U32) (hs : s.canon) : (State.loadSummary s c slot wobj).canon := by
  unfold State.loadSummary
  (repeat' split) <;> simp (maxDischargeDepth := 30) [hs]

@[simp] theorem State.lagCount_canon (s : State) (device lag : Nat) (hs : s.canon) : (State.lagCount s device lag).canon := by
  simp (maxDischargeDepth := 30) [State.lagCount, hs]

@[simp] theorem State.passSaddle_canon (s : State) (c : CtxId) (entry : U16) (hs : s.canon) : (State.passSaddle s c entry).canon := by
  simp (maxDischargeDepth := 30) [State.passSaddle, hs]

@[simp] theorem State.noteReleased_canon (s : State) (c : CtxId) (hs : s.canon) : (State.noteReleased s c).canon := by
  simp (maxDischargeDepth := 30) [State.noteReleased, hs]

@[simp] theorem State.releaseSaddle_canon (s : State) (k : Nat) (v : Saddle) (e : Bytes) (hs : s.canon) : (State.releaseSaddle s k v e).canon := by
  simp (maxDischargeDepth := 30) [State.releaseSaddle, hs]

@[simp] theorem State.recordLags_canon (s : State) (v : Saddle) (first last : Nat × Nat) (top : Bool) (hs : s.canon) : (State.recordLags s v first last top).canon := by
  unfold State.recordLags
  (repeat' (first | (simp (maxDischargeDepth := 30) [hs]; done) | split | (refine foldl_canon _ (fun _ _ hs => ?_) _ _ ?_) | dsimp only))

@[simp] theorem State.trySaddle_canon (s : State) (k : Nat) (hs : s.canon) : (State.trySaddle s k).canon := by
  unfold State.trySaddle
  (repeat' split) <;> simp (maxDischargeDepth := 30) [hs]

@[simp] theorem State.trySaddles_canon (s : State) (hs : s.canon) : (State.trySaddles s).canon := by
  unfold State.trySaddles
  (repeat' (first | (simp (maxDischargeDepth := 30) [hs]; done) | split | (refine foldl_canon _ (fun _ _ hs => ?_) _ _ ?_) | dsimp only))

@[simp] theorem State.undefine_canon (s : State) (p : HostPort) (a : Nat × Nat) (hs : s.canon) : (State.undefine s p a).canon := by
  simp (maxDischargeDepth := 30) [State.undefine, hs]

@[simp] theorem State.loseCtx_canon (s : State) (c : CtxId) (hs : s.canon) : (State.loseCtx s c).canon := by
  simp (maxDischargeDepth := 30) +contextual [State.loseCtx, hs]

@[simp] theorem State.breakCtx_canon (s : State) (c : CtxId) (hs : s.canon) : (State.breakCtx s c).canon := by
  simp (maxDischargeDepth := 30) [State.breakCtx, hs]

@[simp] theorem State.affectCtx_canon (s : State) (c : CtxId) (hs : s.canon) : (State.affectCtx s c).canon := by
  simp (maxDischargeDepth := 30) [State.affectCtx, hs]

@[simp] theorem State.modSeq_canon (s : State) (c : CtxId) (q : SeqId) (f : Seq → Seq) (hs : s.canon) : (State.modSeq s c q f).canon := by
  simp (maxDischargeDepth := 30) [State.modSeq, hs]

@[simp] theorem State.nextSeq_canon (s : State) (c : CtxId) (q : SeqId) (hs : s.canon) : (State.nextSeq s c q).canon := by
  simp (maxDischargeDepth := 30) [State.nextSeq, hs]

@[simp] theorem State.waitSeq_canon (s : State) (c : CtxId) (q : SeqId) (st : SeqStatus) (hs : s.canon) : (State.waitSeq s c q st).canon := by
  simp (maxDischargeDepth := 30) [State.waitSeq, hs]

@[simp] theorem State.enqueue_canon (s : State) (c : CtxId) (q : SeqId) (engine : Nat) (b : Bytes) (hs : s.canon) : (State.enqueue s c q engine b).canon := by
  simp (maxDischargeDepth := 30) [State.enqueue, hs]

@[simp] theorem State.refreshMayBegin_canon (s : State) (c : CtxId) (hs : s.canon) : (State.refreshMayBegin s c).canon := by
  unfold State.refreshMayBegin
  (repeat' split) <;> simp (maxDischargeDepth := 30) [hs]

@[simp] theorem State.plainBoundary_canon (s : State) (c : CtxId) (hs : s.canon) : (State.plainBoundary s c).canon := by
  simp (maxDischargeDepth := 30) [State.plainBoundary, hs]

@[simp] theorem State.localBoundary_canon (s : State) (c : CtxId) (hs : s.canon) : (State.localBoundary s c).canon := by
  simp (maxDischargeDepth := 30) [State.localBoundary, hs]

@[simp] theorem State.setDirWord_canon (s : State) (t : Table) (row : Nat) (d : DirWord) (hs : s.canon) : (State.setDirWord s t row d).canon := by
  simp (maxDischargeDepth := 30) [State.setDirWord, hs]

@[simp] theorem State.countRow_canon (s : State) (r : U32 × Nat) (n : Nat) (hs : s.canon) : (State.countRow s r n).canon := by
  unfold State.countRow
  (repeat' split) <;> simp (maxDischargeDepth := 30) [hs]

@[simp] theorem State.lookupEff_canon (s : State) (c : CtxId) (q : SeqId) (x : Lookup) (hs : s.canon) : (State.lookupEff s c q x).canon := by
  simp (maxDischargeDepth := 30) +contextual [State.lookupEff, hs]

@[simp] theorem State.stepRow_canon (s : State) (c : CtxId) (q : SeqId) (x : Update) (r : U32 × Nat) (gs : List (List F32)) (hs : s.canon) : (State.stepRow s c q x r gs).canon := by
  unfold State.stepRow
  simp only []
  (repeat' split) <;> simp (maxDischargeDepth := 30) +contextual [hs]

@[simp] theorem State.sendContrib_canon (s : State) (c : CtxId) (dest : Nat) (last : Bool) (p : Bytes) (hs : s.canon) : (State.sendContrib s c dest last p).canon := by
  unfold State.sendContrib
  (repeat' split) <;> simp (maxDischargeDepth := 30) [hs]

@[simp] theorem State.sendContribs_canon (s : State) (c : CtxId) (t : Table) (x : Update) (merge : Bool) (occ : List ((U32 × Nat) × List F32)) (hs : s.canon) : (State.sendContribs s c t x merge occ).canon := by
  unfold State.sendContribs
  (repeat' (first | (simp (maxDischargeDepth := 30) [hs]; done) | split | (refine foldl_canon _ (fun _ _ hs => ?_) _ _ ?_) | dsimp only))

@[simp] theorem State.applyHomed_canon (s : State) (c : CtxId) (q : SeqId) (x : Update) (merge : Bool) (all : List Contribution) (hs : s.canon) : (State.applyHomed s c q x merge all).canon := by
  unfold State.applyHomed
  (repeat' (first | (simp (maxDischargeDepth := 30) [hs]; done) | split | (refine foldl_canon _ (fun _ _ hs => ?_) _ _ ?_) | dsimp only))

@[simp] theorem State.updateEff_canon (s : State) (c : CtxId) (q : SeqId) (b : Bytes) (x : Update) (hs : s.canon) : (State.updateEff s c q b x).canon := by
  simp (maxDischargeDepth := 30) [State.updateEff, hs]

@[simp] theorem State.runUpdate_canon (s : State) (c : CtxId) (q : SeqId) (b : Bytes) (hs : s.canon) : (State.runUpdate s c q b).canon := by
  exact State.runCommand_canon _ _ _ _ _ _ _ _ _ hs (fun a f h => by cases h) (fun t h => by simp (maxDischargeDepth := 30) [h]) (fun t h => h)

@[simp] theorem State.clearObj_canon (s : State) (id : U32) (off n : Nat) (hs : s.canon) : (State.clearObj s id off n).canon := by
  simp (maxDischargeDepth := 30) [State.clearObj, hs]

@[simp] theorem State.hashPut_canon (s : State) (obj : U32) (off bits id v : Nat) (hs : s.canon) : (State.hashPut s obj off bits id v).canon := by
  unfold State.hashPut
  (repeat' split) <;> simp (maxDischargeDepth := 30) [hs]

@[simp] theorem State.codeShard_canon (s : State) (h : Shard) (hs : s.canon) : (State.codeShard s h).canon := by
  unfold State.codeShard
  dsimp only
  apply State.wr_canon
  refine foldl_snd_canon _ (fun p a h => ?_) _ _ hs
  dsimp only
  split <;> simp (maxDischargeDepth := 30) +contextual [h]

@[simp] theorem State.normShard_canon (s : State) (h : Shard) (hs : s.canon) : (State.normShard s h).canon := by
  unfold State.normShard
  (repeat' (first | (simp (maxDischargeDepth := 30) [hs]; done) | split | (refine foldl_canon _ (fun _ _ hs => ?_) _ _ ?_) | dsimp only))

@[simp] theorem State.mapShard_canon (s : State) (h : Shard) (hs : s.canon) : (State.mapShard s h).canon := by
  unfold State.mapShard
  (repeat' (first | (simp (maxDischargeDepth := 30) [hs]; done) | split | (refine foldl_canon _ (fun _ _ hs => ?_) _ _ ?_) | dsimp only))

@[simp] theorem State.sketchShard_canon (s : State) (h : Shard) (hs : s.canon) : (State.sketchShard s h).canon := by
  unfold State.sketchShard
  (repeat' (first | (simp (maxDischargeDepth := 30) [hs]; done) | split | (refine foldl_canon _ (fun _ _ hs => ?_) _ _ ?_) | dsimp only))

@[simp] theorem State.buildShard_canon (s : State) (id : U32) (hs : s.canon) : (State.buildShard s id).canon := by
  simp (maxDischargeDepth := 30) [State.buildShard, hs]

@[simp] theorem State.noteLists_canon (s : State) (c : CtxId) (q : SeqId) (engine : Nat) (asks : Desc → Pipeline → Bool) (lists : List (List Ranked × Bytes × Bool)) (hs : s.canon) : (State.noteLists s c q engine asks lists).canon := by
  unfold State.noteLists
  (repeat' (first | (simp (maxDischargeDepth := 30) [hs]; done) | split | (refine foldl_canon _ (fun _ _ hs => ?_) _ _ ?_) | dsimp only))

@[simp] theorem State.noteReranked_canon (s : State) (c : CtxId) (q : SeqId) (byId : Bool) (k : Nat) (rows : List (List (Nat × F32))) (hs : s.canon) : (State.noteReranked s c q byId k rows).canon := by
  unfold State.noteReranked
  (repeat' (first | (simp (maxDischargeDepth := 30) [hs]; done) | split | (refine foldl_canon _ (fun _ _ hs => ?_) _ _ ?_) | dsimp only))

@[simp] theorem State.noteRanked_canon (s : State) (c : CtxId) (q : SeqId) (engine : Nat) (codes : List Code) (taken : RankOut → Bool) (outs : List RankOut) (hs : s.canon) : (State.noteRanked s c q engine codes taken outs).canon := by
  simp (maxDischargeDepth := 30) [State.noteRanked, hs]

@[simp] theorem State.countDevices_canon (s : State) (ds : List Nat) (hs : s.canon) : (State.countDevices s ds).canon := by
  unfold State.countDevices
  (repeat' (first | (simp (maxDischargeDepth := 30) [hs]; done) | split | (refine foldl_canon _ (fun _ _ hs => ?_) _ _ ?_) | dsimp only))

@[simp] theorem State.searchEff_canon (s : State) (c : CtxId) (x : Search) (hs : s.canon) : (State.searchEff s c x).canon := by
  unfold State.searchEff
  dsimp only
  apply State.modCtx_canon
  apply State.noteLists_canon
  apply State.noteRanked_canon
  apply State.freeWord_canon
  apply State.freeWord_canon
  apply State.countDevices_canon
  exact foldl_canon _ (fun t a ht => by simp (maxDischargeDepth := 30) [ht]) _ s hs

@[simp] theorem State.waitHeld_canon (s : State) (c : CtxId) (on : State.Copies) (ns : List Nat) (hs : s.canon) : (State.waitHeld s c on ns).canon := by
  simp (maxDischargeDepth := 30) [State.waitHeld, hs]

@[simp] theorem State.setHdr_canon (s : State) (id : U32) (lo n v : Nat) (hs : s.canon) : (State.setHdr s id lo n v).canon := by
  simp (maxDischargeDepth := 30) [State.setHdr, hs]

@[simp] theorem State.tombstone_canon (s : State) (id : U32) (i : Nat) (hs : s.canon) : (State.tombstone s id i).canon := by
  simp (maxDischargeDepth := 30) [State.tombstone, hs]

@[simp] theorem State.markDead_canon (s : State) (id : U32) (j : Nat) (hs : s.canon) : (State.markDead s id j).canon := by
  simp (maxDischargeDepth := 30) [State.markDead, hs]

@[simp] theorem State.logId_canon (s : State) (id : U32) (pid : Nat) (hs : s.canon) : (State.logId s id pid).canon := by
  simp (maxDischargeDepth := 30) [State.logId, hs]

@[simp] theorem State.writeDone_canon (s : State) (c : CtxId) (x : Write) (applied live missing status : Nat) (hs : s.canon) : (State.writeDone s c x applied live missing status).canon := by
  unfold State.writeDone
  dsimp only
  exact State.modCtx_canon _ _ _ (State.wr_canon _ _ _ _ hs)

@[simp] theorem State.insertOne_canon (a : Nat × State) (id : U32) (p : Passage) (hs : a.2.canon) : (State.insertOne a id p).2.canon := by
  unfold State.insertOne
  dsimp only
  (repeat' split) <;> simp (maxDischargeDepth := 30) +contextual [hs]

@[simp] theorem State.deleteOne_canon (a : Nat × State) (id : U32) (p : Nat) (hs : a.2.canon) : (State.deleteOne a id p).2.canon := by
  unfold State.deleteOne
  dsimp only
  (repeat' split) <;> simp (maxDischargeDepth := 30) +contextual [hs]

@[simp] theorem State.insertEff_canon (s : State) (c : CtxId) (x : Write) (id : U32) (hs : s.canon) : (State.insertEff s c x id).canon := by
  unfold State.insertEff
  dsimp only
  split
  · simp (maxDischargeDepth := 30) [hs]
  · apply State.writeDone_canon
    exact foldl_snd_canon _ (fun p a h => by simp (maxDischargeDepth := 30) [h]) _ _ hs

@[simp] theorem State.deleteEff_canon (s : State) (c : CtxId) (x : Write) (id : U32) (hs : s.canon) : (State.deleteEff s c x id).canon := by
  unfold State.deleteEff
  dsimp only
  split
  · simp (maxDischargeDepth := 30) +contextual [hs]
  · apply State.writeDone_canon
    exact foldl_snd_canon _ (fun p a h => by simp (maxDischargeDepth := 30) +contextual [h]) _ _ hs

@[simp] theorem State.topkEff_canon (s : State) (c : CtxId) (q : SeqId) (x : Topk) (hs : s.canon) : (State.topkEff s c q x).canon := by
  simp (maxDischargeDepth := 30) +contextual [State.topkEff, hs]

@[simp] theorem State.mergeEff_canon (s : State) (c : CtxId) (q : SeqId) (x : Merge) (hs : s.canon) : (State.mergeEff s c q x).canon := by
  unfold State.mergeEff
  dsimp only
  apply State.noteLists_canon
  apply State.noteRanked_canon
  apply State.countDevices_canon
  exact foldl_canon _ (fun t a ht => by simp (maxDischargeDepth := 30) [ht]) _ s hs

@[simp] theorem State.packResult_canon (s : State) (d : Desc) (x : Pipeline) (i : Nat) (w : QueryWork) (p : Prompt) (hs : s.canon) : (State.packResult s d x i w p).canon := by
  simp (maxDischargeDepth := 30) [State.packResult, hs]

@[simp] theorem State.packEff_canon (s : State) (c : CtxId) (x : Pack) (hs : s.canon) : (State.packEff s c x).canon := by
  unfold State.packEff
  (repeat' (first | (simp (maxDischargeDepth := 30) [hs]; done) | split | (refine foldl_canon _ (fun _ _ hs => ?_) _ _ ?_) | dsimp only))

@[simp] theorem State.dmaWr_canon (s : State) (id : U32) (off : Nat) (bs : Bytes) (hs : s.canon) : ((State.dmaWr s id off bs).2).canon := by
  unfold State.dmaWr
  split
  · exact hs
  · split
    · simp (maxDischargeDepth := 30) +contextual [hs]
    · refine foldl_snd_canon _ (fun p a h => ?_) _ _ hs
      dsimp only
      split <;> simp (maxDischargeDepth := 30) +contextual [h]

@[simp] theorem State.copyEff_canon (s : State) (c : CtxId) (x : Copy) (hs : s.canon) : ((State.copyEff s c x).2).canon := by
  unfold State.copyEff
  simp only []
  (repeat' split) <;> simp (maxDischargeDepth := 30) [hs]

@[simp] theorem State.windowPut_canon (s : State) (id : U32) (bs : Bytes) (hs : s.canon) : ((State.windowPut s id bs).2).canon := by
  unfold State.windowPut
  (repeat' split) <;> simp (maxDischargeDepth := 30) [hs]

@[simp] theorem State.wfillEff_canon (s : State) (c : CtxId) (q : SeqId) (b : Bytes) (x : Wfill) (hs : s.canon) : ((State.wfillEff s c q b x).2).canon := by
  unfold State.wfillEff
  dsimp only
  (repeat' split) <;> simp (maxDischargeDepth := 30) [hs]

@[simp] theorem State.loadStart_canon (s : State) (d : Desc) (x : LoadOps) (o : Obj) (base : U64) (mask : U32) (hs : s.canon) : (State.loadStart s d x o base mask).canon := by
  unfold State.loadStart
  dsimp only
  split <;> simp (maxDischargeDepth := 30) [hs]

@[simp] theorem State.loadBegin_canon (s : State) (d : Desc) (hs : s.canon) : (State.loadBegin s d).canon := by
  unfold State.loadBegin
  simp only []
  (repeat' split) <;> simp (maxDischargeDepth := 30) [hs]

@[simp] theorem State.loadImageBegin_canon (s : State) (d : Desc) (hs : s.canon) : (State.loadImageBegin s d).canon := by
  unfold State.loadImageBegin
  simp only []
  (repeat' split) <;> simp (maxDischargeDepth := 30) [hs]

@[simp] theorem State.evictBegin_canon (s : State) (d : Desc) (hs : s.canon) : (State.evictBegin s d).canon := by
  unfold State.evictBegin
  simp only []
  (repeat' split) <;> simp (maxDischargeDepth := 30) [hs]

@[simp] theorem State.evictImageBegin_canon (s : State) (d : Desc) (hs : s.canon) : (State.evictImageBegin s d).canon := by
  unfold State.evictImageBegin
  simp only []
  (repeat' split) <;> simp (maxDischargeDepth := 30) [hs]

@[simp] theorem State.lineBegin_canon (s : State) (d : Desc) (hs : s.canon) : (State.lineBegin s d).canon := by
  unfold State.lineBegin
  (repeat' split) <;> simp (maxDischargeDepth := 30) [hs]

@[simp] theorem State.lineEnter_canon (s : State) (d : Desc) (hs : s.canon) : (State.lineEnter s d).canon := by
  simp (maxDischargeDepth := 30) [State.lineEnter, hs]

@[simp] theorem State.forget_canon (s : State) (id : U32) (hs : s.canon) : (State.forget s id).canon := by
  simp (maxDischargeDepth := 30) [State.forget, hs]

@[simp] theorem State.makeAbsent_canon (s : State) (id : U32) (hs : s.canon) : (State.makeAbsent s id).canon := by
  unfold State.makeAbsent
  (repeat' split) <;> simp (maxDischargeDepth := 30) [hs]

@[simp] theorem State.lineNext_canon (b : Bool) (id : U32) (n : Nat) (s : State) (hs : s.canon) : (State.lineNext b id n s).canon := by
  induction n generalizing s with
  | zero => exact hs
  | succ n ih =>
    unfold State.lineNext
    split
    · exact hs
    · split
      · exact hs
      · apply ih; simp (maxDischargeDepth := 30) +contextual [hs]

@[simp] theorem State.loadEnd_canon (s : State) (r : LoadRun) (code : Code) (result : Nat) (hs : s.canon) : (State.loadEnd s r code result).canon := by
  simp (maxDischargeDepth := 30) [State.loadEnd, hs]

@[simp] theorem State.imageOver_canon (s : State) (id : U32) (parcels : Nat) (hs : s.canon) : (State.imageOver s id parcels).canon := by
  simp (maxDischargeDepth := 30) [State.imageOver, hs]

@[simp] theorem State.placedOver_canon (s : State) (o : Obj) (hs : s.canon) : (State.placedOver s o).canon := by
  simp (maxDischargeDepth := 30) [State.placedOver, hs]

@[simp] theorem State.shardArrived_canon (s : State) (r : LoadRun) (o : Obj) (n : Nat) (hs : s.canon) : (State.shardArrived s r o n).canon := by
  unfold State.shardArrived
  simp only []
  (repeat' split) <;> simp (maxDischargeDepth := 30) [hs]

@[simp] theorem State.loadArrived_canon (s : State) (r : LoadRun) (n : Nat) (hs : s.canon) : (State.loadArrived s r n).canon := by
  unfold State.loadArrived
  (repeat' split) <;> simp (maxDischargeDepth := 30) [hs]

@[simp] theorem State.loadOverEnd_canon (s : State) (r : LoadRun) (o : Obj) (hs : s.canon) : (State.loadOverEnd s r o).canon := by
  simp (maxDischargeDepth := 30) +contextual [State.loadOverEnd, hs]

@[simp] theorem State.loadHalted_canon (s : State) (r : LoadRun) (hs : s.canon) : (State.loadHalted s r).canon := by
  unfold State.loadHalted
  (repeat' split) <;> simp (maxDischargeDepth := 30) [hs]

@[simp] theorem State.loadObjDone_canon (s : State) (r : LoadRun) (hs : s.canon) : (State.loadObjDone s r).canon := by
  unfold State.loadObjDone
  (repeat' split) <;> simp (maxDischargeDepth := 30) [hs]

@[simp] theorem State.loadImageDone_canon (s : State) (r : LoadRun) (hs : s.canon) : (State.loadImageDone s r).canon := by
  unfold State.loadImageDone
  (repeat' split) <;> simp (maxDischargeDepth := 30) +contextual [hs]

@[simp] theorem State.setModeRt_canon (s : State) (off v : Nat) (hs : s.canon) : (State.setModeRt s off v).canon := by
  simp (maxDischargeDepth := 30) [State.setModeRt, hs]

@[simp] theorem State.setRegsRt_canon (s : State) (off v : Nat) (hs : s.canon) : (State.setRegsRt s off v).canon := by
  simp (maxDischargeDepth := 30) [State.setRegsRt, hs]

@[simp] theorem State.applyRt_canon (s : State) (x : RtRecord) (hs : s.canon) : (State.applyRt s x).canon := by
  simp (maxDischargeDepth := 30) [State.applyRt, hs]

@[simp] theorem State.maintDone_canon (s : State) (activity : Byte) (outcome : Nat) (c : Option CtxId) (discarded dropped : Bool) (target : U32) (tag result : Nat) (hs : s.canon) : (State.maintDone s activity outcome c discarded dropped target tag result).canon := by
  simp (maxDischargeDepth := 30) [State.maintDone, hs]

@[simp] theorem State.discardDesc_canon (s : State) (d : Desc) (hs : s.canon) : (State.discardDesc s d).canon := by
  simp (maxDischargeDepth := 30) [State.discardDesc, hs]

@[simp] theorem State.actDescEnd_canon (s : State) (a : Activity) (d : Desc) (code : Code) (result : Nat) (hs : s.canon) : (State.actDescEnd s a d code result).canon := by
  simp (maxDischargeDepth := 30) [State.actDescEnd, hs]

@[simp] theorem State.actStartEnd_canon (s : State) (a : Activity) (c : CtxId) (q : SeqId) (robj : U32) (wait : Bool) (code : Code) (result : Nat) (hs : s.canon) : (State.actStartEnd s a c q robj wait code result).canon := by
  simp (maxDischargeDepth := 30) [State.actStartEnd, hs]

@[simp] theorem State.actEnd_canon (s : State) (a : Activity) (code : Code) (result : Nat) (hs : s.canon) : (State.actEnd s a code result).canon := by
  unfold State.actEnd
  (repeat' split) <;> simp (maxDischargeDepth := 30) [hs]

@[simp] theorem State.actRefused_canon (s : State) (a : Activity) (code : Code) (hs : s.canon) : (State.actRefused s a code).canon := by
  unfold State.actRefused
  (repeat' split) <;> simp (maxDischargeDepth := 30) [hs]

@[simp] theorem State.unstall_canon (s : State) (r : Reader) (hs : s.canon) : (State.unstall s r).canon := by
  simp (maxDischargeDepth := 30) +contextual [State.unstall, hs]

@[simp] theorem State.actLeaves_canon (s : State) (a : Activity) (hs : s.canon) : (State.actLeaves s a).canon := by
  simp (maxDischargeDepth := 30) [State.actLeaves, hs]

@[simp] theorem State.dropActs_canon (s : State) (c : CtxId) (hs : s.canon) : (State.dropActs s c).canon := by
  unfold State.dropActs
  (repeat' (first | (simp (maxDischargeDepth := 30) [hs]; done) | split | (refine foldl_canon _ (fun _ _ hs => ?_) _ _ ?_) | dsimp only))

@[simp] theorem State.measure_canon (s : State) (kind ctx card : Byte) (id : Nat) (digest : Bytes) (hs : s.canon) : (State.measure s kind ctx card id digest).canon := by
  simp (maxDischargeDepth := 30) [State.measure, hs]

@[simp] theorem State.attest_canon (s : State) (d : Desc) (hs : s.canon) : (State.attest s d).canon := by
  simp (maxDischargeDepth := 30) [State.attest, hs]

@[simp] theorem State.lifeEvent_canon (s : State) (reason : Byte) (seq : Nat) (hs : s.canon) : (State.lifeEvent s reason seq).canon := by
  simp (maxDischargeDepth := 30) [State.lifeEvent, hs]

@[simp] theorem State.refreshLife_canon (s : State) (hs : s.canon) : (State.refreshLife s).canon := by
  simp (maxDischargeDepth := 30) [State.refreshLife, hs]

@[simp] theorem State.warnLife_canon (s : State) (hs : s.canon) : (State.warnLife s).canon := by
  simp (maxDischargeDepth := 30) [State.warnLife, hs]

@[simp] theorem State.eraseBlocks_canon (s : State) (ks : List Nat) (hs : s.canon) : (State.eraseBlocks s ks).canon := by
  simp (maxDischargeDepth := 30) [State.eraseBlocks, hs]

@[simp] theorem State.freeCode_canon (s : State) (hs : s.canon) : ((State.freeCode s).2).canon := by
  simp (maxDischargeDepth := 30) [State.freeCode, hs]

@[simp] theorem State.ckptMet_canon (s : State) (ok dusk : Bool) (hs : s.canon) : (State.ckptMet s ok dusk).canon := by
  simp (maxDischargeDepth := 30) +contextual [State.ckptMet, hs]

@[simp] theorem State.startCkpt_canon (s : State) (hs : s.canon) : (State.startCkpt s).canon := by
  simp (maxDischargeDepth := 30) [State.startCkpt, hs]

@[simp] theorem State.requestCkpt_canon (s : State) (hs : s.canon) : (State.requestCkpt s).canon := by
  unfold State.requestCkpt
  (repeat' split) <;> simp (maxDischargeDepth := 30) [hs]

@[simp] theorem State.nextCkpt_canon (s : State) (hs : s.canon) : (State.nextCkpt s).canon := by
  simp (maxDischargeDepth := 30) [State.nextCkpt, hs]

@[simp] theorem State.retire_canon (s : State) (bad : List Nat) (seq : Nat) (hs : s.canon) : (State.retire s bad seq).canon := by
  unfold State.retire
  (repeat' (first | (simp (maxDischargeDepth := 30) [hs]; done) | split | (refine foldl_canon _ (fun _ _ hs => ?_) _ _ ?_) | dsimp only))

@[simp] theorem State.ckptFailed_canon (s : State) (k : Ckpt) (reason : Byte) (hs : s.canon) : (State.ckptFailed s k reason).canon := by
  simp (maxDischargeDepth := 30) [State.ckptFailed, hs]

@[simp] theorem State.ckptWritten_canon (s : State) (k : Ckpt) (bad : List Nat) (hs : s.canon) : (State.ckptWritten s k bad).canon := by
  simp (maxDischargeDepth := 30) [State.ckptWritten, hs]

@[simp] theorem State.restoreClass_canon (s : State) (correctable : Bool) (ks : List Counter) (hs : s.canon) : (State.restoreClass s correctable ks).canon := by
  unfold State.restoreClass
  simp only []
  (repeat' split) <;> simp (maxDischargeDepth := 30) [hs]

@[simp] theorem State.restoreCkpt_canon (s : State) (k : Ckpt) (hs : s.canon) : (State.restoreCkpt s k).canon := by
  simp (maxDischargeDepth := 30) +contextual [State.restoreCkpt, hs]

@[simp] theorem State.dawnLife_canon (s : State) (reason : Byte) (hs : s.canon) : (State.dawnLife s reason).canon := by
  simp (maxDischargeDepth := 30) [State.dawnLife, hs]

@[simp] theorem State.readCard_canon (s : State) (t : Socket) (hs : s.canon) : (State.readCard s t).canon := by
  unfold State.readCard
  simp only []
  (repeat' split) <;> simp (maxDischargeDepth := 30) [hs]

@[simp] theorem State.loadBundle_canon (s : State) (p : HostPort) (hs : s.canon) : (State.loadBundle s p).canon := by
  simp (maxDischargeDepth := 30) [State.loadBundle, hs]

@[simp] theorem State.wipeCard_canon (s : State) (hs : s.canon) : (State.wipeCard s).canon := by
  simp (maxDischargeDepth := 30) [State.wipeCard, hs]

@[simp] theorem State.trimTo_canon (s : State) (d : Nat) (t : Trim) (hs : s.canon) : (State.trimTo s d t).canon := by
  simp (maxDischargeDepth := 30) [State.trimTo, hs]

@[simp] theorem State.thermalEvent_canon (s : State) (reason : Byte) (hs : s.canon) : (State.thermalEvent s reason).canon := by
  simp (maxDischargeDepth := 30) [State.thermalEvent, hs]

@[simp] theorem State.fillTarget_canon (s : State) (h t : Shard) (new : List NewSlot) (hs : s.canon) : (State.fillTarget s h t new).canon := by
  unfold State.fillTarget
  dsimp only
  apply State.wr_canon
  refine foldl_snd_canon _ (fun p a h => ?_) _ _ ?_
  · simp (maxDischargeDepth := 30) +contextual [h]
  · simp (maxDischargeDepth := 30) +contextual [hs]

@[simp] theorem State.actFinish_canon (s : State) (a : Activity) (code : Code) (result : Nat) (hs : s.canon) : (State.actFinish s a code result).canon := by
  simp (maxDischargeDepth := 30) [State.actFinish, hs]

@[simp] theorem State.actTurned_canon (s : State) (a : Activity) (code : Code) (hs : s.canon) : (State.actTurned s a code).canon := by
  simp (maxDischargeDepth := 30) [State.actTurned, hs]

@[simp] theorem State.actBegun_canon (s : State) (a : Activity) (hs : s.canon) : (State.actBegun s a).canon := by
  simp (maxDischargeDepth := 30) [State.actBegun, hs]

@[simp] theorem State.buildBegin_canon (s : State) (a : Activity) (hs : s.canon) : (State.buildBegin s a).canon := by
  unfold State.buildBegin
  (repeat' split) <;> simp (maxDischargeDepth := 30) [hs]

@[simp] theorem State.installBegin_canon (s : State) (a : Activity) (hs : s.canon) : (State.installBegin s a).canon := by
  unfold State.installBegin
  (repeat' split) <;> simp (maxDischargeDepth := 30) [hs]

@[simp] theorem State.cancelMerge_canon (s : State) (num : Nat) (id : U32) (hs : s.canon) : (State.cancelMerge s num id).canon := by
  simp (maxDischargeDepth := 30) [State.cancelMerge, hs]

@[simp] theorem State.abortBegin_canon (s : State) (a : Activity) (hs : s.canon) : (State.abortBegin s a).canon := by
  unfold State.abortBegin
  (repeat' split) <;> simp (maxDischargeDepth := 30) [hs]

@[simp] theorem State.actBegin_canon (s : State) (a : Activity) (hs : s.canon) : (State.actBegin s a).canon := by
  unfold State.actBegin
  (repeat' split) <;> simp (maxDischargeDepth := 30) [hs]

@[simp] theorem State.actNext_canon (n : Nat) (s : State) (hs : s.canon) : (State.actNext n s).canon := by
  induction n generalizing s with
  | zero => exact hs
  | succ n ih =>
    unfold State.actNext
    split
    · exact hs
    · apply ih; simp (maxDischargeDepth := 30) +contextual [hs]

@[simp] theorem State.laneNext_canon (s : State) (hs : s.canon) : (State.laneNext s).canon := by
  simp (maxDischargeDepth := 30) [State.laneNext, hs]

@[simp] theorem State.actReceive_canon (s : State) (a : Activity) (hs : s.canon) : (State.actReceive s a).canon := by
  unfold State.actReceive
  (repeat' split) <;> simp (maxDischargeDepth := 30) +contextual [hs]

@[simp] theorem State.buildOut_canon (s : State) (a : Activity) (id : U32) (h t : Shard) (hs : s.canon) : (State.buildOut s a id h t).canon := by
  simp (maxDischargeDepth := 30) [State.buildOut, hs]

@[simp] theorem State.buildEnd_canon (s : State) (a : Activity) (hs : s.canon) : (State.buildEnd s a).canon := by
  unfold State.buildEnd
  simp only []
  (repeat' split) <;> simp (maxDischargeDepth := 30) [hs]

@[simp] theorem State.replayLog_canon (s : State) (h : Shard) (target : U32) (hs : s.canon) : (State.replayLog s h target).canon := by
  unfold State.replayLog
  (repeat' (first | (simp (maxDischargeDepth := 30) [hs]; done) | split | (refine foldl_canon _ (fun _ _ hs => ?_) _ _ ?_) | dsimp only))

@[simp] theorem State.copyTail_canon (s : State) (h : Shard) (target : U32) (snap : Nat) (hs : s.canon) : (State.copyTail s h target snap).canon := by
  simp (maxDischargeDepth := 30) +contextual [State.copyTail, hs]

@[simp] theorem State.installOver_canon (s : State) (a : Activity) (hs : s.canon) : (State.installOver s a).canon := by
  simp (maxDischargeDepth := 30) [State.installOver, hs]

@[simp] theorem State.installDone_canon (s : State) (a : Activity) (target : U32) (hs : s.canon) : (State.installDone s a target).canon := by
  exact hs

@[simp] theorem State.installFails_canon (s : State) (a : Activity) (code : Code) (hs : s.canon) : (State.installFails s a code).canon := by
  simp (maxDischargeDepth := 30) [State.installFails, hs]

@[simp] theorem State.installEff_canon (s : State) (a : Activity) (id : U32) (hs : s.canon) : (State.installEff s a id).canon := by
  simp (maxDischargeDepth := 30) [State.installEff, hs]

@[simp] theorem State.writeRows_canon (s : State) (t : Table) (ps : List (RowPlan × Nat)) (hs : s.canon) : (State.writeRows s t ps).canon := by
  unfold State.writeRows
  (repeat' (first | (simp (maxDischargeDepth := 30) [hs]; done) | split | (refine foldl_canon _ (fun _ _ hs => ?_) _ _ ?_) | dsimp only))

@[simp] theorem State.refreshHot_canon (s : State) (t : U32) (entries : List (U32 × Nat)) (hs : s.canon) : ((State.refreshHot s t entries).2).canon := by
  unfold State.refreshHot
  dsimp only
  have h : ∀ (l : List (U32 × Nat)) (p : List HotRow × Nat × State), p.2.2.canon →
      (l.foldl (fun (a : List HotRow × Nat × State) e =>
    let u := s.table e.1
    let tier := (s.dirWord u e.2).tier
    let n := u.rowLen tier
    (a.1 ++ [{ table := e.1, row := e.2, offset := a.2.1, length := n }], a.2.1 + u.stride tier,
     (a.2.2.put .hot a.2.1 (s.rowRaw u e.2)).setDirWord u e.2 { a.2.2.dirWord u e.2 with hot := true })) p).2.2.canon := by
    intro l
    induction l with
    | nil => intro p hp; exact hp
    | cons a l ih => intro p hp; rw [List.foldl_cons]; apply ih; simp (maxDischargeDepth := 30) +contextual [hp]
  apply mk_canon _ _ _ _ _ _ _ _ _ _ _ _ _ _ _ _ _ _ _ _ _ _ _ _ _ _ _ _ _ _ _ _ _ _ _ _ _ _ _ _ _ _ _ _ _ |>.mpr
  apply h
  simp (maxDischargeDepth := 30) +contextual [hs]

@[simp] theorem State.refreshEnd_canon (s : State) (a : Activity) (hs : s.canon) : (State.refreshEnd s a).canon := by
  unfold State.refreshEnd
  simp only []
  (repeat' split) <;> simp (maxDischargeDepth := 30) [hs]

@[simp] theorem State.startReceive_canon (s : State) (args : Bytes) (a : Activity) (hs : s.canon) : (State.startReceive s args a).canon := by
  unfold State.startReceive
  split <;> simp (maxDischargeDepth := 30) [hs]

@[simp] theorem State.spread_canon (s : State) (but : Option SelynPort) (origin : Nat) (ty : Byte) (fields : Bytes) (hs : s.canon) : (State.spread s but origin ty fields).canon := by
  simp (maxDischargeDepth := 30) [State.spread, hs]

@[simp] theorem State.loseRange_canon (s : State) (r : U16 × U16) (hs : s.canon) : (State.loseRange s r).canon := by
  unfold State.loseRange
  (repeat' (first | (simp (maxDischargeDepth := 30) [hs]; done) | split | (refine foldl_canon _ (fun _ _ hs => ?_) _ _ ?_) | dsimp only))

@[simp] theorem State.addLost_canon (s : State) (n : SelynPort) (r : U16 × U16) (hs : s.canon) : (State.addLost s n r).canon := by
  simp (maxDischargeDepth := 30) [State.addLost, hs]

@[simp] theorem State.retrain_canon (s : State) (n : SelynPort) (hs : s.canon) : (State.retrain s n).canon := by
  simp (maxDischargeDepth := 30) [State.retrain, hs]

@[simp] theorem State.freeForwarded_canon (s : State) (fs : List Frame) (hs : s.canon) : (State.freeForwarded s fs).canon := by
  unfold State.freeForwarded
  (repeat' (first | (simp (maxDischargeDepth := 30) [hs]; done) | split | (refine foldl_canon _ (fun _ _ hs => ?_) _ _ ?_) | dsimp only))

@[simp] theorem State.runFree_canon (s : State) (hs : s.canon) : (State.runFree s).canon := by
  simp (maxDischargeDepth := 30) [State.runFree, hs]

@[simp] theorem State.unowned_canon (s : State) (hs : s.canon) : (State.unowned s).canon := by
  simp (maxDischargeDepth := 30) [State.unowned, hs]

@[simp] theorem State.linkDown_canon (s : State) (n : SelynPort) (why : Byte) (hs : s.canon) : (State.linkDown s n why).canon := by
  unfold State.linkDown
  (repeat' (first | (simp (maxDischargeDepth := 30) [hs]; done) | split | (refine foldl_canon _ (fun _ _ hs => ?_) _ _ ?_) | dsimp only))

@[simp] theorem State.linkUp_canon (s : State) (n : SelynPort) (hs : s.canon) : (State.linkUp s n).canon := by
  simp (maxDischargeDepth := 30) [State.linkUp, hs]

@[simp] theorem State.setFormed_canon (s : State) (hs : s.canon) : (State.setFormed s).canon := by
  simp (maxDischargeDepth := 30) [State.setFormed, hs]

@[simp] theorem State.sendRollcall_canon (s : State) (u : SelynPort) (hs : s.canon) : (State.sendRollcall s u).canon := by
  unfold State.sendRollcall
  dsimp only
  split <;> simp (maxDischargeDepth := 30) [hs]

@[simp] theorem State.tryRollcall_canon (s : State) (hs : s.canon) : (State.tryRollcall s).canon := by
  unfold State.tryRollcall
  dsimp only
  (repeat' split) <;> simp only [State.sendRollcall_canon, State.linkEvent_canon, State.setFormed_canon, hs]

@[simp] theorem State.acked_canon (s : State) (n : SelynPort) (f : Frame) (hs : s.canon) : (State.acked s n f).canon := by
  unfold State.acked
  simp only []
  (repeat' split) <;> simp (maxDischargeDepth := 30) [hs]

@[simp] theorem State.takeAck_canon (s : State) (n : SelynPort) (ack : BitVec 12) (cvc : BitVec 2) (credits : Nat) (hs : s.canon) : (State.takeAck s n ack cvc credits).canon := by
  unfold State.takeAck
  (repeat' (first | (simp (maxDischargeDepth := 30) [hs]; done) | split | (refine foldl_canon _ (fun _ _ hs => ?_) _ _ ?_) | dsimp only))

@[simp] theorem State.resend_canon (s : State) (n : SelynPort) (hs : s.canon) : (State.resend s n).canon := by
  simp (maxDischargeDepth := 30) [State.resend, hs]

@[simp] theorem State.badFrame_canon (s : State) (n : SelynPort) (hs : s.canon) : (State.badFrame s n).canon := by
  simp (maxDischargeDepth := 30) [State.badFrame, hs]

@[simp] theorem State.deliver_canon (s : State) (n : SelynPort) (h : FrameHdr) (payload : Bytes) (hs : s.canon) : (State.deliver s n h payload).canon := by
  unfold State.deliver
  simp only []
  (repeat' split) <;> simp (maxDischargeDepth := 30) [hs]

@[simp] theorem State.routeData_canon (s : State) (n : SelynPort) (h : FrameHdr) (payload : Bytes) (hs : s.canon) : (State.routeData s n h payload).canon := by
  unfold State.routeData
  (repeat' split) <;> simp (maxDischargeDepth := 30) [hs]

@[simp] theorem State.follow_canon (s : State) (offset : Int) (first : Bool) (hs : s.canon) : (State.follow s offset first).canon := by
  simp (maxDischargeDepth := 30) [State.follow, hs]

@[simp] theorem State.sourceExchange_canon (s : State) (i : Nat) (offset : Int) (roundTrip : U32) (hs : s.canon) : (State.sourceExchange s i offset roundTrip).canon := by
  simp (maxDischargeDepth := 30) [State.sourceExchange, hs]

@[simp] theorem State.passMismatch_canon (s : State) (n : SelynPort) (pass : U32) (k : U16) (c : CtxId) (hs : s.canon) : (State.passMismatch s n pass k c).canon := by
  simp (maxDischargeDepth := 30) [State.passMismatch, hs]

@[simp] theorem State.found_canon (s : State) (r : U16 × U16) (hs : s.canon) : (State.found s r).canon := by
  simp (maxDischargeDepth := 30) [State.found, hs]

@[simp] theorem State.rejoinChild_canon (s : State) (n : SelynPort) (r lost : U16 × U16) (depth : Byte) (hs : s.canon) : (State.rejoinChild s n r lost depth).canon := by
  simp (maxDischargeDepth := 30) [State.rejoinChild, hs]

@[simp] theorem State.stats_canon (s : State) (d : Desc) (hs : s.canon) : (State.stats s d).canon := by
  simp (maxDischargeDepth := 30) [State.stats, hs]

@[simp] theorem State.adopt_canon (s : State) (i : U32) (hs : s.canon) : (State.adopt s i).canon := by
  unfold State.adopt
  (repeat' (first | (simp (maxDischargeDepth := 30) [hs]; done) | split | (refine foldl_canon _ (fun _ _ hs => ?_) _ _ ?_) | dsimp only))

@[simp] theorem State.dropUnnamed_canon (s : State) (hs : s.canon) : (State.dropUnnamed s).canon := by
  unfold State.dropUnnamed
  (repeat' (first | (simp (maxDischargeDepth := 30) [hs]; done) | split | (refine foldl_canon _ (fun _ _ hs => ?_) _ _ ?_) | dsimp only))

@[simp] theorem State.emptyWindows_canon (s : State) (c : CtxId) (hs : s.canon) : (State.emptyWindows s c).canon := by
  unfold State.emptyWindows
  (repeat' (first | (simp (maxDischargeDepth := 30) [hs]; done) | split | (refine foldl_canon _ (fun _ _ hs => ?_) _ _ ?_) | dsimp only))

@[simp] theorem State.unbind_canon (s : State) (c : CtxId) (hs : s.canon) : (State.unbind s c).canon := by
  simp (maxDischargeDepth := 30) [State.unbind, hs]

@[simp] theorem State.bind_canon (s : State) (c : CtxId) (i : U32) (hs : s.canon) : (State.bind s c i).canon := by
  simp (maxDischargeDepth := 30) [State.bind, hs]

@[simp] theorem State.bindNow_canon (s : State) (d : Desc) (hs : s.canon) : (State.bindNow s d).canon := by
  unfold State.bindNow
  simp only []
  (repeat' split) <;> simp (maxDischargeDepth := 30) [hs]

@[simp] theorem State.unbindNow_canon (s : State) (d : Desc) (hs : s.canon) : (State.unbindNow s d).canon := by
  unfold State.unbindNow
  simp only []
  (repeat' split) <;> simp (maxDischargeDepth := 30) [hs]

@[simp] theorem State.stepEffect_canon (s : State) (d : Desc) (hs : s.canon) : (State.stepEffect s d).canon := by
  simp (maxDischargeDepth := 30) [State.stepEffect, hs]

@[simp] theorem State.stepDesc_canon (s : State) (d : Desc) (hs : s.canon) : (State.stepDesc s d).canon := by
  simp (maxDischargeDepth := 30) [State.stepDesc, hs]

@[simp] theorem State.stepEnter_canon (s : State) (d : Desc) (hs : s.canon) : (State.stepEnter s d).canon := by
  simp (maxDischargeDepth := 30) [State.stepEnter, hs]

@[simp] theorem State.stepDescriptor_canon (s : State) (d : Desc) (hs : s.canon) : (State.stepDescriptor s d).canon := by
  simp (maxDischargeDepth := 30) [State.stepDescriptor, hs]

@[simp] theorem State.pauseDesc_canon (s : State) (d : Desc) (hs : s.canon) : (State.pauseDesc s d).canon := by
  simp (maxDischargeDepth := 30) [State.pauseDesc, hs]

@[simp] theorem State.resumeDesc_canon (s : State) (d : Desc) (hs : s.canon) : (State.resumeDesc s d).canon := by
  simp (maxDischargeDepth := 30) [State.resumeDesc, hs]

@[simp] theorem State.cancelDesc_canon (s : State) (d : Desc) (hs : s.canon) : (State.cancelDesc s d).canon := by
  simp (maxDischargeDepth := 30) [State.cancelDesc, hs]

@[simp] theorem State.maintDesc_canon (s : State) (d : Desc) (hs : s.canon) : (State.maintDesc s d).canon := by
  simp (maxDischargeDepth := 30) [State.maintDesc, hs]

@[simp] theorem State.checkpointDesc_canon (s : State) (d : Desc) (hs : s.canon) : (State.checkpointDesc s d).canon := by
  simp (maxDischargeDepth := 30) [State.checkpointDesc, hs]

@[simp] theorem State.syncAddDesc_canon (s : State) (d : Desc) (hs : s.canon) : (State.syncAddDesc s d).canon := by
  simp (maxDischargeDepth := 30) [State.syncAddDesc, hs]

@[simp] theorem State.syncSetDesc_canon (s : State) (d : Desc) (hs : s.canon) : (State.syncSetDesc s d).canon := by
  simp (maxDischargeDepth := 30) [State.syncSetDesc, hs]

@[simp] theorem State.syncReadDesc_canon (s : State) (d : Desc) (hs : s.canon) : (State.syncReadDesc s d).canon := by
  simp (maxDischargeDepth := 30) [State.syncReadDesc, hs]

@[simp] theorem State.syncDesc_canon (s : State) (d : Desc) (hs : s.canon) : (State.syncDesc s d).canon := by
  unfold State.syncDesc
  (repeat' split) <;> simp (maxDischargeDepth := 30) [hs]

@[simp] theorem State.setSwpend_canon (s : State) (p : HostPort) (mask : U64) (hs : s.canon) : (State.setSwpend s p mask).canon := by
  unfold State.setSwpend
  (repeat' (first | (simp (maxDischargeDepth := 30) [hs]; done) | split | (refine foldl_canon _ (fun _ _ hs => ?_) _ _ ?_) | dsimp only))

@[simp] theorem State.testDesc_canon (s : State) (d : Desc) (hs : s.canon) : (State.testDesc s d).canon := by
  unfold State.testDesc
  (repeat' split) <;> simp (maxDischargeDepth := 30) [hs]

@[simp] theorem State.bindDesc_canon (s : State) (d : Desc) (hs : s.canon) : (State.bindDesc s d).canon := by
  simp (maxDischargeDepth := 30) [State.bindDesc, hs]

@[simp] theorem State.descEffect_canon (s : State) (d : Desc) (hs : s.canon) : (State.descEffect s d).canon := by
  unfold State.descEffect
  (repeat' split) <;> simp (maxDischargeDepth := 30) [hs]

@[simp] theorem State.take_canon (s : State) (d : Desc) (refetched : Bool) (hs : s.canon) : (State.take s d refetched).canon := by
  simp (maxDischargeDepth := 30) [State.take, hs]

@[simp] theorem State.crcCheck_canon (s : State) (d : Desc) (re : Bool) (hs : s.canon) : ((State.crcCheck s d re).1).canon := by
  unfold State.crcCheck
  simp only []
  (repeat' split) <;> simp (maxDischargeDepth := 30) [hs]

@[simp] theorem State.tryDesc_canon (s : State) (d : Desc) (re : Bool) (hs : s.canon) : ((State.tryDesc s d re).1).canon := by
  unfold State.tryDesc
  simp only []
  (repeat' split) <;> simp (maxDischargeDepth := 30) [hs]

@[simp] theorem State.countFetch_canon (s : State) (d : Desc) (hs : s.canon) : (State.countFetch s d).canon := by
  simp (maxDischargeDepth := 30) [State.countFetch, hs]

@[simp] theorem State.arrive_canon (s : State) (d : Desc) (hs : s.canon) : (State.arrive s d).canon := by
  unfold State.arrive
  split
  · exact hs
  · have h := State.tryDesc_canon (s.countFetch d) d false (by simp [hs])
    dsimp only
    split
    · simp (maxDischargeDepth := 30) [hs]
    · split <;> rename_i h' <;> rw [h'] at h <;> simp (maxDischargeDepth := 30) [h]

@[simp] theorem State.arriveIf_canon (s : State) (ok : Bool) (d : Desc) (hs : s.canon) : (State.arriveIf s ok d).canon := by
  simp (maxDischargeDepth := 30) [State.arriveIf, hs]

@[simp] theorem State.noteHeld_canon (s : State) (i : Nat) (hs : s.canon) : (State.noteHeld s i).canon := by
  unfold State.noteHeld
  (repeat' (first | (simp (maxDischargeDepth := 30) [hs]; done) | split | (refine foldl_canon _ (fun _ _ hs => ?_) _ _ ?_) | dsimp only))

@[simp] theorem State.arbiterHolds_canon (s : State) (i : Nat) (es : List QEntry) (hs : s.canon) : (State.arbiterHolds s i es).canon := by
  simp (maxDischargeDepth := 30) +contextual [State.arbiterHolds, hs]

@[simp] theorem State.arbiterWait_canon (s : State) (i : Nat) (e : QEntry) (hs : s.canon) : (State.arbiterWait s i e).canon := by
  simp (maxDischargeDepth := 30) [State.arbiterWait, hs]

@[simp] theorem State.partnerWait_canon (s : State) (i : Nat) (e : QEntry) (hs : s.canon) : (State.partnerWait s i e).canon := by
  simp (maxDischargeDepth := 30) [State.partnerWait, hs]

@[simp] theorem State.beginEntry_canon (s : State) (i : Nat) (e : QEntry) (hs : s.canon) : (State.beginEntry s i e).canon := by
  simp (maxDischargeDepth := 30) [State.beginEntry, hs]

@[simp] theorem State.lonely_canon (s : State) (i j : Nat) (hs : s.canon) : (State.lonely s i j).canon := by
  simp (maxDischargeDepth := 30) +contextual [State.lonely, hs]

@[simp] theorem State.grantSteppe_canon (s0 : State) (hs : s0.canon) : (State.grantSteppe s0).canon := by
  unfold State.grantSteppe
  dsimp only
  split
  · simp (maxDischargeDepth := 30) [hs]
  · split <;> rename_i h <;> have h' := congrArg (fun p => p.2.canon) h <;> simp (maxDischargeDepth := 30) [hs] at h' <;> (try split) <;>
      simp (maxDischargeDepth := 30) [h']

@[simp] theorem State.countRound_canon (s : State) (arbiter : Nat) (reqs : List ArbReq) (win : Option ArbReq) (hs : s.canon) : (State.countRound s arbiter reqs win).canon := by
  unfold State.countRound
  refine foldl_canon _ (fun t r ht => ?_) _ _ hs
  split <;> simp [ht]

@[simp] theorem State.searchWait_canon (s : State) (i : Nat) (e : QEntry) (hs : s.canon) : (State.searchWait s i e).canon := by
  simp (maxDischargeDepth := 30) [State.searchWait, hs]

@[simp] theorem State.grantQueue_canon (s0 : State) (arbiter i : Nat) (hs : s0.canon) : (State.grantQueue s0 arbiter i).canon := by
  unfold State.grantQueue
  dsimp only
  split
  · simp (maxDischargeDepth := 30) [hs]
  · split <;> rename_i h <;> have h' := congrArg (fun p => p.2.canon) h <;> simp (maxDischargeDepth := 30) [hs] at h' <;> (try split) <;>
      simp (maxDischargeDepth := 30) [h']

@[simp] theorem State.pullQueues_canon (s : State) (c : CtxId) (hs : s.canon) : (State.pullQueues s c).canon := by
  simp (maxDischargeDepth := 30) [State.pullQueues, hs]

@[simp] theorem State.beginSuspend_canon (s : State) (c : CtxId) (hs : s.canon) : (State.beginSuspend s c).canon := by
  simp (maxDischargeDepth := 30) [State.beginSuspend, hs]

@[simp] theorem State.beginResume_canon (s : State) (c : CtxId) (hs : s.canon) : (State.beginResume s c).canon := by
  simp (maxDischargeDepth := 30) [State.beginResume, hs]

@[simp] theorem State.suspended_canon (s : State) (c : CtxId) (hs : s.canon) : (State.suspended s c).canon := by
  simp (maxDischargeDepth := 30) [State.suspended, hs]

@[simp] theorem State.reacquire_canon (s : State) (c : CtxId) (q : SeqId) (hs : s.canon) : (State.reacquire s c q).canon := by
  unfold State.reacquire
  (repeat' split) <;> simp (maxDischargeDepth := 30) [hs]

@[simp] theorem State.restored_canon (s : State) (c : CtxId) (hs : s.canon) : (State.restored s c).canon := by
  unfold State.restored
  dsimp only
  have h : ∀ (l : List SeqId) (t : State), t.canon → ((l.foldl (fun t q => t.reacquire c q) t).trySaddles).inherit.canon := fun l t ht => by
    apply State.inherit_canon
    apply State.trySaddles_canon
    exact foldl_canon _ (fun t q h => State.reacquire_canon t c q h) _ _ ht
  split
  · apply State.beginSuspend_canon
    apply h
    simp (maxDischargeDepth := 30) [hs]
  · apply h
    simp (maxDischargeDepth := 30) [hs]

@[simp] theorem State.markReplayed_canon (s : State) (c : CtxId) (slot : Option Nat) (hs : s.canon) : (State.markReplayed s c slot).canon := by
  simp (maxDischargeDepth := 30) [State.markReplayed, hs]

@[simp] theorem State.endStep_canon (s : State) (c : CtxId) (code : Code) (hs : s.canon) : (State.endStep s c code).canon := by
  simp (maxDischargeDepth := 30) [State.endStep, hs]

@[simp] theorem State.poison_canon (s : State) (isImage : Bool) (id : U32) (off len : Nat) (hs : s.canon) : (State.poison s isImage id off len).canon := by
  unfold State.poison
  (repeat' split) <;> simp (maxDischargeDepth := 30) [hs]

@[simp] theorem State.readFails_canon (s : State) (ep : Episode) (hs : s.canon) : ((State.readFails s ep).2).canon := by
  unfold State.readFails
  (repeat' split) <;> simp (maxDischargeDepth := 30) [hs]

@[simp] theorem State.ringReadFails_canon (s : State) (c : CtxId) (r : BitVec 2) (hs : s.canon) : (State.ringReadFails s c r).canon := by
  simp (maxDischargeDepth := 30) [State.ringReadFails, hs]

@[simp] theorem State.replayFails_canon (s : State) (ep : Episode) (hs : s.canon) : (State.replayFails s ep).canon := by
  unfold State.replayFails
  simp only []
  (repeat' split) <;> simp (maxDischargeDepth := 30) [hs]

@[simp] theorem State.replayPasses_canon (s : State) (ep : Episode) (hs : s.canon) : (State.replayPasses s ep).canon := by
  unfold State.replayPasses
  (repeat' split) <;> simp (maxDischargeDepth := 30) [hs]

@[simp] theorem State.episodeEvent_canon (s : State) (ep : Episode) (response : Byte) (hs : s.canon) : (State.episodeEvent s ep response).canon := by
  unfold State.episodeEvent
  (repeat' split) <;> simp (maxDischargeDepth := 30) [hs]

@[simp] theorem State.scrubOn_canon (s : State) (tier : BitVec 2) (hs : s.canon) : (State.scrubOn s tier).canon := by
  simp (maxDischargeDepth := 30) [State.scrubOn, hs]

@[simp] theorem State.scrubFinds_canon (s : State) (tier : BitVec 2) (object : Option U32) (isImage : Bool) (off : Nat) (loc : Location) (hs : s.canon) : (State.scrubFinds s tier object isImage off loc).canon := by
  unfold State.scrubFinds
  (repeat' split) <;> simp (maxDischargeDepth := 30) [hs]

@[simp] theorem State.cancelOne_canon (s : State) (e : Desc × Bool) (hs : s.canon) : (State.cancelOne s e).canon := by
  simp (maxDischargeDepth := 30) [State.cancelOne, hs]

@[simp] theorem State.cancelWaiting_canon (s : State) (c : CtxId) (hs : s.canon) : (State.cancelWaiting s c).canon := by
  unfold State.cancelWaiting
  (repeat' (first | (simp (maxDischargeDepth := 30) [hs]; done) | split | (refine foldl_canon _ (fun _ _ hs => ?_) _ _ ?_) | dsimp only))

@[simp] theorem State.cancelSteps_canon (s : State) (c : CtxId) (hs : s.canon) : (State.cancelSteps s c).canon := by
  unfold State.cancelSteps
  (repeat' (first | (simp (maxDischargeDepth := 30) [hs]; done) | split | (refine foldl_canon _ (fun _ _ hs => ?_) _ _ ?_) | dsimp only))

@[simp] theorem State.flushSlots_canon (s : State) (c : CtxId) (hs : s.canon) : (State.flushSlots s c).canon := by
  unfold State.flushSlots
  (repeat' (first | (simp (maxDischargeDepth := 30) [hs]; done) | split | (refine foldl_canon _ (fun _ _ hs => ?_) _ _ ?_) | dsimp only))

@[simp] theorem State.drain_canon (s : State) (c : CtxId) (hs : s.canon) : (State.drain s c).canon := by
  simp (maxDischargeDepth := 30) [State.drain, hs]

@[simp] theorem State.drainOn_canon (s : State) (c : CtxId) (hs : s.canon) : (State.drainOn s c).canon := by
  simp (maxDischargeDepth := 30) [State.drainOn, hs]

@[simp] theorem State.beginDusk_canon (s : State) (c : CtxId) (hs : s.canon) : (State.beginDusk s c).canon := by
  simp (maxDischargeDepth := 30) [State.beginDusk, hs]

@[simp] theorem State.reportLoss_canon (s : State) (p : HostPort) (hs : s.canon) : (State.reportLoss s p).canon := by
  unfold State.reportLoss
  (repeat' split) <;> simp (maxDischargeDepth := 30) [hs]

@[simp] theorem State.drainAll_canon (s : State) (hs : s.canon) : (State.drainAll s).canon := by
  simp (maxDischargeDepth := 30) +contextual [State.drainAll, hs]

@[simp] theorem State.endLoads_canon (s : State) (p : HostPort) (hs : s.canon) : (State.endLoads s p).canon := by
  unfold State.endLoads
  (repeat' (first | (simp (maxDischargeDepth := 30) [hs]; done) | split | (refine foldl_canon _ (fun _ _ hs => ?_) _ _ ?_) | dsimp only))

@[simp] theorem State.losePort_canon (s : State) (p : HostPort) (hs : s.canon) : (State.losePort s p).canon := by
  simp (maxDischargeDepth := 30) +contextual [State.losePort, hs]

@[simp] theorem State.dropAllActs_canon (s : State) (hs : s.canon) : (State.dropAllActs s).canon := by
  unfold State.dropAllActs
  (repeat' (first | (simp (maxDischargeDepth := 30) [hs]; done) | split | (refine foldl_canon _ (fun _ _ hs => ?_) _ _ ?_) | dsimp only))

@[simp] theorem State.stopBuilds_canon (s : State) (hs : s.canon) : (State.stopBuilds s).canon := by
  unfold State.stopBuilds
  (repeat' (first | (simp (maxDischargeDepth := 30) [hs]; done) | split | (refine foldl_canon _ (fun _ _ hs => ?_) _ _ ?_) | dsimp only))

@[simp] theorem State.idle_canon (s : State) (hs : s.canon) : (State.idle s).canon := by
  simp (maxDischargeDepth := 30) [State.idle, hs]

@[simp] theorem State.readIdle_canon (s : State) (p : HostPort) (hs : s.canon) : (State.readIdle s p).canon := by
  simp (maxDischargeDepth := 30) [State.readIdle, hs]

@[simp] theorem State.readHeads_canon (s : State) (p : HostPort) (hs : s.canon) : (State.readHeads s p).canon := by
  unfold State.readHeads
  (repeat' (first | (simp (maxDischargeDepth := 30) [hs]; done) | split | (refine foldl_canon _ (fun _ _ hs => ?_) _ _ ?_) | dsimp only))

@[simp] theorem State.fetchSome_canon (s : State) (c : CtxId) (r : BitVec 2) (n : Nat) (hs : s.canon) : (State.fetchSome s c r n).canon := by
  unfold State.fetchSome
  (repeat' (first | (simp (maxDischargeDepth := 30) [hs]; done) | split | (refine foldl_canon _ (fun _ _ hs => ?_) _ _ ?_) | dsimp only))

@[simp] theorem State.pollRing_canon (s : State) (c : CtxId) (r : BitVec 2) (hs : s.canon) : ((State.pollRing s c r).1).canon := by
  unfold State.pollRing
  simp only []
  (repeat' split) <;> simp (maxDischargeDepth := 30) [hs]

@[simp] theorem State.pollRings_canon (s : State) (p : HostPort) (hs : s.canon) : ((State.pollRings s p).1).canon := by
  unfold State.pollRings
  split
  · exact hs
  · refine foldl_fst_canon _ (fun p a h => ?_) _ _ hs
    refine foldl_fst_canon _ (fun p a h => ?_) _ _ h
    simp (maxDischargeDepth := 30) +contextual [h]

@[simp] theorem State.pace_canon (s : State) (p : HostPort) (moved : Bool) (hs : s.canon) : (State.pace s p moved).canon := by
  simp (maxDischargeDepth := 30) [State.pace, hs]

@[simp] theorem State.fire_canon (s : State) (p : HostPort) (v : BitVec 6) (hs : s.canon) : (State.fire s p v).canon := by
  simp (maxDischargeDepth := 30) [State.fire, hs]

@[simp] theorem State.fireOrClear_canon (s : State) (p : HostPort) (v : BitVec 6) (hs : s.canon) : (State.fireOrClear s p v).canon := by
  simp (maxDischargeDepth := 30) [State.fireOrClear, hs]

@[simp] theorem State.resetFunction_canon (s : State) (p : HostPort) (hs : s.canon) : (State.resetFunction s p).canon := by
  simp (maxDischargeDepth := 30) [State.resetFunction, hs]

@[simp] theorem State.trainPort_canon (s : State) (p : HostPort) (hs : s.canon) : (State.trainPort s p).canon := by
  simp (maxDischargeDepth := 30) [State.trainPort, hs]

@[simp] theorem State.requestLevel_canon (s : State) (level : BitVec 2) (hs : s.canon) : (State.requestLevel s level).canon := by
  simp (maxDischargeDepth := 30) [State.requestLevel, hs]

@[simp] theorem State.setTrims_canon (s : State) (dom : Nat) (value : U32) (hs : s.canon) : (State.setTrims s dom value).canon := by
  simp (maxDischargeDepth := 30) [State.setTrims, hs]

@[simp] theorem State.regulateEvents_canon (s : State) (w : Power) (excess thermal power : Bool) (hs : s.canon) : (State.regulateEvents s w excess thermal power).canon := by
  unfold State.regulateEvents
  dsimp only
  (repeat' split) <;> simp (maxDischargeDepth := 30) [hs]

@[simp] theorem State.regulate_canon (s : State) (hs : s.canon) : (State.regulate s).canon := by
  unfold State.regulate
  exact State.regulateEvents_canon _ _ _ _ _ (by simpa using hs)

@[simp] theorem State.lose_canon (s : State) (hs : s.canon) : (State.lose s).canon := by
  exact Memory.wf_filter hs _

@[simp] theorem State.trip_canon (s : State) (hs : s.canon) : s.trip.canon := by
  unfold State.trip
  exact State.lose_canon _ hs

@[simp] theorem State.critical_canon (s : State) (hs : s.canon) : (State.critical s).canon := by
  simp (maxDischargeDepth := 30) [State.critical, hs]

@[simp] theorem State.junctions_canon (s : State) (hs : s.canon) : s.junctions.canon := by
  unfold State.junctions
  (repeat' split) <;> simp [hs]

@[simp] theorem State.startDusk_canon (s : State) (hs : s.canon) : (State.startDusk s).canon := by
  simp (maxDischargeDepth := 30) +contextual [State.startDusk, hs]

@[simp] theorem State.selftestFail_canon (s : State) (l : Location) (hs : s.canon) : (State.selftestFail s l).canon := by
  simp (maxDischargeDepth := 30) [State.selftestFail, hs]

@[simp] theorem State.selfTest_canon (s : State) (failed : List Location) (hs : s.canon) : (State.selfTest s failed).canon := by
  unfold State.selfTest
  (repeat' (first | (simp (maxDischargeDepth := 30) [hs]; done) | split | (refine foldl_canon _ (fun _ _ hs => ?_) _ _ ?_) | dsimp only))

@[simp] theorem State.go_canon (s : State) (p : HostPort) (hs : s.canon) : (State.go s p).canon := by
  simp (maxDischargeDepth := 30) [State.go, hs]

@[simp] theorem State.burn_canon (s : State) (f : Fuses) (hs : s.canon) : (State.burn s f).canon := by
  simp (maxDischargeDepth := 30) [State.burn, hs]

@[simp] theorem State.burnFuses_canon (s : State) (hs : s.canon) : (State.burnFuses s).canon := by
  simp (maxDischargeDepth := 30) [State.burnFuses, hs]

@[simp] theorem State.refuseImage_canon (s : State) (status : Nat) (hs : s.canon) : (State.refuseImage s status).canon := by
  simp (maxDischargeDepth := 30) [State.refuseImage, hs]

@[simp] theorem State.acceptImage_canon (s : State) (hs : s.canon) : (State.acceptImage s).canon := by
  simp (maxDischargeDepth := 30) [State.acceptImage, hs]

@[simp] theorem State.startTraining_canon (s : State) (n : SelynPort) (hs : s.canon) : (State.startTraining s n).canon := by
  simp (maxDischargeDepth := 30) [State.startTraining, hs]

@[simp] theorem State.lock_canon (s : State) (p : HostPort) (hs : s.canon) : (State.lock s p).canon := by
  unfold State.lock
  (repeat' (first | (simp (maxDischargeDepth := 30) [hs]; done) | split | (refine foldl_canon _ (fun _ _ hs => ?_) _ _ ?_) | dsimp only))

@[simp] theorem State.takeOwner_canon (s : State) (p : HostPort) (hs : s.canon) : (State.takeOwner s p).canon := by
  simp (maxDischargeDepth := 30) [State.takeOwner, hs]

@[simp] theorem State.dropOwner_canon (s : State) (p : HostPort) (hs : s.canon) : (State.dropOwner s p).canon := by
  simp (maxDischargeDepth := 30) [State.dropOwner, hs]

@[simp] theorem State.askSuspend_canon (s : State) (c : CtxId) (hs : s.canon) : (State.askSuspend s c).canon := by
  simp (maxDischargeDepth := 30) [State.askSuspend, hs]

@[simp] theorem State.withdraw_canon (s : State) (c : CtxId) (hs : s.canon) : (State.withdraw s c).canon := by
  simp (maxDischargeDepth := 30) [State.withdraw, hs]

@[simp] theorem State.clearFault_canon (s : State) (c : CtxId) (hs : s.canon) : (State.clearFault s c).canon := by
  simp (maxDischargeDepth := 30) [State.clearFault, hs]

@[simp] theorem State.resetRing_canon (s : State) (c : CtxId) (r : BitVec 2) (hs : s.canon) : (State.resetRing s c r).canon := by
  simp (maxDischargeDepth := 30) [State.resetRing, hs]

@[simp] theorem State.writeControl_canon (s : State) (c : CtxId) (v : Nat) (hs : s.canon) : (State.writeControl s c v).canon := by
  simp (maxDischargeDepth := 30) [State.writeControl, hs]

@[simp] theorem State.writeCq_canon (s : State) (c : CtxId) (v : Nat) (hs : s.canon) : (State.writeCq s c v).canon := by
  simp (maxDischargeDepth := 30) [State.writeCq, hs]

@[simp] theorem State.writeSq_canon (s : State) (c : CtxId) (r v : Nat) (hs : s.canon) : (State.writeSq s c r v).canon := by
  simp (maxDischargeDepth := 30) [State.writeSq, hs]

@[simp] theorem State.writeAttn_canon (s : State) (p : HostPort) (v : Nat) (hs : s.canon) : (State.writeAttn s p v).canon := by
  unfold State.writeAttn
  (repeat' (first | (simp (maxDischargeDepth := 30) [hs]; done) | split | (refine foldl_canon _ (fun _ _ hs => ?_) _ _ ?_) | dsimp only))

@[simp] theorem State.clearSwpend_canon (s : State) (p : HostPort) (mask : U64) (hs : s.canon) : (State.clearSwpend s p mask).canon := by
  simp (maxDischargeDepth := 30) [State.clearSwpend, hs]

@[simp] theorem State.releaseDma_canon (s : State) (mask : U32) (hs : s.canon) : (State.releaseDma s mask).canon := by
  simp (maxDischargeDepth := 30) [State.releaseDma, hs]

@[simp] theorem State.writeThresh_canon (s : State) (k : Nat) (v : Nat) (hs : s.canon) : (State.writeThresh s k v).canon := by
  simp (maxDischargeDepth := 30) [State.writeThresh, hs]

@[simp] theorem State.clearInteg_canon (s : State) (v : Nat) (hs : s.canon) : (State.clearInteg s v).canon := by
  simp (maxDischargeDepth := 30) [State.clearInteg, hs]

@[simp] theorem State.clearSync_canon (s : State) (base count : Nat) (hs : s.canon) : (State.clearSync s base count).canon := by
  simp (maxDischargeDepth := 30) [State.clearSync, hs]

@[simp] theorem State.writeLinkPort_canon (s : State) (n : SelynPort) (v : Nat) (hs : s.canon) : (State.writeLinkPort s n v).canon := by
  simp (maxDischargeDepth := 30) [State.writeLinkPort, hs]

@[simp] theorem State.writeMsix_canon (s : State) (p : HostPort) (k v : Nat) (hs : s.canon) : (State.writeMsix s p k v).canon := by
  simp (maxDischargeDepth := 30) [State.writeMsix, hs]

@[simp] theorem State.writeHost_canon (s : State) (p : HostPort) (off v : Nat) (hs : s.canon) : (State.writeHost s p off v).canon := by
  simp (maxDischargeDepth := 30) [State.writeHost, hs]

@[simp] theorem State.writeIntc_canon (s : State) (p : HostPort) (off v : Nat) (hs : s.canon) : (State.writeIntc s p off v).canon := by
  simp (maxDischargeDepth := 30) [State.writeIntc, hs]

@[simp] theorem State.writeCtxReg_canon (s : State) (c : CtxId) (r v : Nat) (hs : s.canon) : (State.writeCtxReg s c r v).canon := by
  simp (maxDischargeDepth := 30) [State.writeCtxReg, hs]

@[simp] theorem State.writeCtx_canon (s : State) (p : HostPort) (off v : Nat) (hs : s.canon) : (State.writeCtx s p off v).canon := by
  simp (maxDischargeDepth := 30) [State.writeCtx, hs]

@[simp] theorem State.writeMode_canon (s : State) (off v : Nat) (hs : s.canon) : (State.writeMode s off v).canon := by
  simp (maxDischargeDepth := 30) [State.writeMode, hs]

@[simp] theorem State.writeMem_canon (s : State) (off v : Nat) (hs : s.canon) : (State.writeMem s off v).canon := by
  simp (maxDischargeDepth := 30) [State.writeMem, hs]

@[simp] theorem State.writeTree_canon (s : State) (v : Nat) (hs : s.canon) : (State.writeTree s v).canon := by
  simp (maxDischargeDepth := 30) [State.writeTree, hs]

@[simp] theorem State.writeLinkEngine_canon (s : State) (off v : Nat) (hs : s.canon) : (State.writeLinkEngine s off v).canon := by
  simp (maxDischargeDepth := 30) [State.writeLinkEngine, hs]

@[simp] theorem State.writeVesper_canon (s : State) (p : HostPort) (off v : Nat) (hs : s.canon) : (State.writeVesper s p off v).canon := by
  simp (maxDischargeDepth := 30) [State.writeVesper, hs]

@[simp] theorem State.writeBoot_canon (s : State) (p : HostPort) (off v : Nat) (hs : s.canon) : (State.writeBoot s p off v).canon := by
  simp (maxDischargeDepth := 30) [State.writeBoot, hs]

@[simp] theorem State.writeReg_canon (s : State) (p : HostPort) (off v : Nat) (hs : s.canon) : (State.writeReg s p off v).canon := by
  simp (maxDischargeDepth := 30) [State.writeReg, hs]

end Sys2Proof.Machine
end

