-- ==== Sys2Proof/Laws/CanonExec.lean ====
section
/-! SUPPORT. Every command keeps the memory in its canonical form. -/

namespace Sys2Proof.Machine

theorem State.claimPoison_canon (s : State) (c : CtxId) (rest : Access → Option (State → State))
    (h : ∀ a f, rest a = some f → ∀ t, t.canon → (f t).canon) : ∀ a f, s.claimPoison c rest a = some f → ∀ t, t.canon → (f t).canon := by
  intro a f hf t ht
  unfold State.claimPoison at hf
  split at hf
  · cases hf; simp [ht]
  · exact h a f hf t ht

theorem State.noPoison_canon : ∀ a f, State.noPoisonRule a = some f → ∀ t, t.canon → (f t).canon := by
  intro a f hf; cases hf

theorem State.loadrPoison_canon (c : CtxId) (x : Loadr) : ∀ a f, State.loadrPoison c x a = some f → ∀ t, t.canon → (f t).canon := by
  intro a f hf t ht
  unfold State.loadrPoison at hf
  split at hf
  · split at hf
    · cases hf
    · cases hf
      refine foldl_canon _ (fun u _ h => ?_) _ _ ?_
      · simp (maxDischargeDepth := 30) [h]
      · simp (maxDischargeDepth := 30) [ht]
  · cases hf

theorem State.runSteppe_canon (s : State) (c : CtxId) (w e : Bytes) (cmd : Nat) (allowed : Bool) (acc : List Access)
    (onPoison : Access → Option (State → State)) (eff : State → State) (hs : s.canon)
    (hp : ∀ a f, onPoison a = some f → ∀ t, t.canon → (f t).canon) (he : ∀ t, t.canon → (eff t).canon) :
    (s.runSteppe c w e cmd allowed acc onPoison eff).canon :=
  State.runCommand_canon _ _ _ _ _ _ _ _ _ hs hp he (fun t h => by simp [h])

@[simp] theorem State.rimRows_canon (s : State) (c : CtxId) (w e : Bytes) (op : Nat) (extra : Bool) (u : RimUse)
    (row : State → Nat → List F32 → List F32) (hs : s.canon) : (s.rimRows c w e op extra u row).canon :=
  State.runSteppe_canon _ _ _ _ _ _ _ _ _ hs State.noPoison_canon (fun t h => by simp [h])

theorem State.runSeq_canon (s : State) (c : CtxId) (q : SeqId) (here : Bool) (f : State → State) (hs : s.canon) (h : (f s).canon) :
    (s.runSeq c q here f).canon := by
  unfold State.runSeq
  dsimp only
  split
  · exact hs
  · split
    · exact hs
    · split
      · simp [hs]
      · split
        · exact h
        · exact hs

theorem State.runGlen_canon (s : State) (c : CtxId) (on : State.Copies) (allowed : Bool) (acc : List Access) (eff finish : State → State) (hs : s.canon)
    (he : ∀ t, t.canon → (eff t).canon) (hf : ∀ t, t.canon → (finish t).canon) : (s.runGlen c on allowed acc eff finish).canon := by
  have h := State.runCommand_canon s c on allowed acc State.noPoisonRule eff finish none hs State.noPoison_canon he hf
  unfold State.runGlen
  (repeat' split) <;> first | exact h | simp [hs]

theorem State.runWrite_canon (s : State) (c : CtxId) (q : SeqId) (b : Bytes) (op : Nat) (eff : State → Write → U32 → State) (hs : s.canon)
    (he : ∀ t x i, t.canon → (eff t x i).canon) : (s.runWrite c q b op eff).canon := by
  unfold State.runWrite
  dsimp only
  split
  · simp [hs]
  · refine State.runGlen_canon _ _ _ _ _ _ _ hs (fun t h => ?_) (fun t h => by simp [h])
    split
    · exact h
    · exact he _ _ _ h

theorem State.runDma_canon (s : State) (c : CtxId) (q : SeqId) (b : Bytes) (allowed : Bool) (acc src : List Access)
    (eff : State → DmaEnd × State) (full : Option U32) (hs : s.canon) (he : ∀ t, t.canon → (eff t).2.canon) :
    (s.runDma c q b allowed acc src eff full).canon := by
  have h := he (s.endWait c (State.copyOf 0x0C q b)) (State.endWait_canon s c _ hs)
  unfold State.runDma
  dsimp only
  split
  · exact hs
  · split
    · simp [hs]
    · split
      · simp [hs]
      · split
        · simp [hs]
        · split
          · split <;> simp (maxDischargeDepth := 30) [hs]
          · split
            · simp [hs]
            · split <;> rename_i h' <;> rw [h'] at h <;> simp (maxDischargeDepth := 30) [h]

theorem State.receive_canon (s : State) (n : SelynPort) (h : FrameHdr) (f : State → State) (hs : s.canon) (hf : ∀ t, t.canon → (f t).canon) :
    (s.receive n h f).canon := by
  unfold State.receive
  split
  · exact hs
  · split
    · simp [hs]
    · dsimp only
      apply hf
      simp (maxDischargeDepth := 30) [hs]

theorem State.control_canon (s : State) (n : SelynPort) (h : FrameHdr) (f : State → State) (hs : s.canon) (hf : ∀ t, t.canon → (f t).canon) :
    (s.control n h f).canon :=
  State.receive_canon _ _ _ _ hs (fun t ht => hf _ (by simp [ht]))

theorem execLoadr_canon (c : CtxId) (w e : Bytes) (s : State) (hs : s.canon) : ∃ t, execLoadr c w e s = .next t ∧ t.canon := by
  unfold execLoadr
  refine ⟨_, rfl, ?_⟩
  exact State.runSteppe_canon _ _ _ _ _ _ _ _ _ hs (State.claimPoison_canon _ _ _ (State.loadrPoison_canon _ _)) (fun t ht => by simp [ht])

theorem execMatmul_canon (c : CtxId) (w e : Bytes) (s : State) (hs : s.canon) : ∃ t, execMatmul c w e s = .next t ∧ t.canon := by
  unfold execMatmul
  refine ⟨_, rfl, ?_⟩
  (repeat' (first | (simp (maxDischargeDepth := 30) +contextual [*]; done) | (refine State.runCommand_canon _ _ _ _ _ _ _ _ _ hs (State.claimPoison_canon _ _ _ State.noPoison_canon) (fun t ht => ?_) (fun t ht => ?_)) | split | dsimp only))

theorem execGrouped_canon (c : CtxId) (w e : Bytes) (s : State) (hs : s.canon) : ∃ t, execGrouped c w e s = .next t ∧ t.canon := by
  unfold execGrouped
  refine ⟨_, rfl, ?_⟩
  (repeat' (first | (simp (maxDischargeDepth := 30) +contextual [*]; done) | (refine State.runCommand_canon _ _ _ _ _ _ _ _ _ hs (State.claimPoison_canon _ _ _ State.noPoison_canon) (fun t ht => ?_) (fun t ht => ?_)) | split | dsimp only))

theorem execDropr_canon (c : CtxId) (w e : Bytes) (s : State) (hs : s.canon) : ∃ t, execDropr c w e s = .next t ∧ t.canon := by
  unfold execDropr
  refine ⟨_, rfl, ?_⟩
  refine State.runSteppe_canon _ _ _ _ _ _ _ _ _ hs State.noPoison_canon (fun t ht => ?_); simp (maxDischargeDepth := 30) +contextual [*]

theorem execRimAdd_canon (c : CtxId) (w e : Bytes) (s : State) (hs : s.canon) : ∃ t, execRimAdd c w e s = .next t ∧ t.canon := by
  unfold execRimAdd
  refine ⟨_, rfl, ?_⟩
  simp (maxDischargeDepth := 30) +contextual [*]

theorem execRimMul_canon (c : CtxId) (w e : Bytes) (s : State) (hs : s.canon) : ∃ t, execRimMul c w e s = .next t ∧ t.canon := by
  unfold execRimMul
  refine ⟨_, rfl, ?_⟩
  simp (maxDischargeDepth := 30) +contextual [*]

theorem execScaleBias_canon (c : CtxId) (w e : Bytes) (s : State) (hs : s.canon) : ∃ t, execScaleBias c w e s = .next t ∧ t.canon := by
  unfold execScaleBias
  refine ⟨_, rfl, ?_⟩
  simp (maxDischargeDepth := 30) +contextual [*]

theorem execConvert_canon (c : CtxId) (w e : Bytes) (s : State) (hs : s.canon) : ∃ t, execConvert c w e s = .next t ∧ t.canon := by
  unfold execConvert
  refine ⟨_, rfl, ?_⟩
  simp (maxDischargeDepth := 30) +contextual [*]

theorem execGelu_canon (c : CtxId) (w e : Bytes) (s : State) (hs : s.canon) : ∃ t, execGelu c w e s = .next t ∧ t.canon := by
  unfold execGelu
  refine ⟨_, rfl, ?_⟩
  simp (maxDischargeDepth := 30) +contextual [*]

theorem execGeluTanh_canon (c : CtxId) (w e : Bytes) (s : State) (hs : s.canon) : ∃ t, execGeluTanh c w e s = .next t ∧ t.canon := by
  unfold execGeluTanh
  refine ⟨_, rfl, ?_⟩
  simp (maxDischargeDepth := 30) +contextual [*]

theorem execSilu_canon (c : CtxId) (w e : Bytes) (s : State) (hs : s.canon) : ∃ t, execSilu c w e s = .next t ∧ t.canon := by
  unfold execSilu
  refine ⟨_, rfl, ?_⟩
  simp (maxDischargeDepth := 30) +contextual [*]

theorem execSoftmax_canon (c : CtxId) (w e : Bytes) (s : State) (hs : s.canon) : ∃ t, execSoftmax c w e s = .next t ∧ t.canon := by
  unfold execSoftmax
  refine ⟨_, rfl, ?_⟩
  simp (maxDischargeDepth := 30) +contextual [*]

theorem execLayernorm_canon (c : CtxId) (w e : Bytes) (s : State) (hs : s.canon) : ∃ t, execLayernorm c w e s = .next t ∧ t.canon := by
  unfold execLayernorm
  refine ⟨_, rfl, ?_⟩
  simp (maxDischargeDepth := 30) +contextual [*]

theorem execRmsnorm_canon (c : CtxId) (w e : Bytes) (s : State) (hs : s.canon) : ∃ t, execRmsnorm c w e s = .next t ∧ t.canon := by
  unfold execRmsnorm
  refine ⟨_, rfl, ?_⟩
  simp (maxDischargeDepth := 30) +contextual [*]

theorem execL2norm_canon (c : CtxId) (w e : Bytes) (s : State) (hs : s.canon) : ∃ t, execL2norm c w e s = .next t ∧ t.canon := by
  unfold execL2norm
  refine ⟨_, rfl, ?_⟩
  simp (maxDischargeDepth := 30) +contextual [*]

theorem execMeanpool_canon (c : CtxId) (w e : Bytes) (s : State) (hs : s.canon) : ∃ t, execMeanpool c w e s = .next t ∧ t.canon := by
  unfold execMeanpool
  refine ⟨_, rfl, ?_⟩
  refine State.runSteppe_canon _ _ _ _ _ _ _ _ _ hs State.noPoison_canon (fun t ht => ?_); simp (maxDischargeDepth := 30) +contextual [*]

theorem execRope_canon (c : CtxId) (w e : Bytes) (s : State) (hs : s.canon) : ∃ t, execRope c w e s = .next t ∧ t.canon := by
  unfold execRope
  refine ⟨_, rfl, ?_⟩
  simp (maxDischargeDepth := 30) +contextual [*]

theorem execSiluMul_canon (c : CtxId) (w e : Bytes) (s : State) (hs : s.canon) : ∃ t, execSiluMul c w e s = .next t ∧ t.canon := by
  unfold execSiluMul
  refine ⟨_, rfl, ?_⟩
  simp (maxDischargeDepth := 30) +contextual [*]

theorem execRoute_canon (c : CtxId) (w e : Bytes) (s : State) (hs : s.canon) : ∃ t, execRoute c w e s = .next t ∧ t.canon := by
  unfold execRoute
  refine ⟨_, rfl, ?_⟩
  refine State.runSteppe_canon _ _ _ _ _ _ _ _ _ hs State.noPoison_canon (fun t ht => ?_); simp (maxDischargeDepth := 30) +contextual [*]

theorem execSample_canon (c : CtxId) (w e : Bytes) (s : State) (hs : s.canon) : ∃ t, execSample c w e s = .next t ∧ t.canon := by
  unfold execSample
  refine ⟨_, rfl, ?_⟩
  refine State.runSteppe_canon _ _ _ _ _ _ _ _ _ hs State.noPoison_canon (fun t ht => ?_); simp (maxDischargeDepth := 30) +contextual [*]

theorem execTokenizeCommand_canon (c : CtxId) (q : SeqId) (b : Bytes) (s : State) (hs : s.canon) : ∃ t, execTokenizeCommand c q b s = .next t ∧ t.canon := by
  unfold execTokenizeCommand
  refine ⟨_, rfl, ?_⟩
  refine State.runCommand_canon _ _ _ _ _ _ _ _ _ hs State.noPoison_canon (fun t ht => ?_) (fun t ht => ?_) <;> simp (maxDischargeDepth := 30) +contextual [*]

theorem execDetokenizeCommand_canon (c : CtxId) (q : SeqId) (b : Bytes) (s : State) (hs : s.canon) : ∃ t, execDetokenizeCommand c q b s = .next t ∧ t.canon := by
  unfold execDetokenizeCommand
  refine ⟨_, rfl, ?_⟩
  refine State.runCommand_canon _ _ _ _ _ _ _ _ _ hs State.noPoison_canon (fun t ht => ?_) (fun t ht => ?_) <;> simp (maxDischargeDepth := 30) +contextual [*]

theorem execGrammarReset_canon (c : CtxId) (q : SeqId) (b : Bytes) (s : State) (hs : s.canon) : ∃ t, execGrammarReset c q b s = .next t ∧ t.canon := by
  unfold execGrammarReset
  refine ⟨_, rfl, ?_⟩
  (repeat' (first | (simp (maxDischargeDepth := 30) +contextual [*]; done) | (refine State.runCommand_canon _ _ _ _ _ _ _ _ _ hs State.noPoison_canon (fun t ht => ?_) (fun t ht => ?_)) | (refine State.runSeq_canon _ _ _ _ _ hs ?_) | split | dsimp only))

theorem execGrammarMask_canon (c : CtxId) (q : SeqId) (b : Bytes) (s : State) (hs : s.canon) : ∃ t, execGrammarMask c q b s = .next t ∧ t.canon := by
  unfold execGrammarMask
  refine ⟨_, rfl, ?_⟩
  (repeat' (first | (simp (maxDischargeDepth := 30) +contextual [*]; done) | (refine State.runCommand_canon _ _ _ _ _ _ _ _ _ hs State.noPoison_canon (fun t ht => ?_) (fun t ht => ?_)) | (refine State.runSeq_canon _ _ _ _ _ hs ?_) | split | dsimp only))

theorem execGrammarAdvance_canon (c : CtxId) (q : SeqId) (b : Bytes) (s : State) (hs : s.canon) : ∃ t, execGrammarAdvance c q b s = .next t ∧ t.canon := by
  unfold execGrammarAdvance
  refine ⟨_, rfl, ?_⟩
  (repeat' (first | (simp (maxDischargeDepth := 30) +contextual [*]; done) | (refine State.runCommand_canon _ _ _ _ _ _ _ _ _ hs State.noPoison_canon (fun t ht => ?_) (fun t ht => ?_)) | (refine State.runSeq_canon _ _ _ _ _ hs ?_) | split | dsimp only))

theorem execList_canon (c : CtxId) (q : SeqId) (b : Bytes) (s : State) (hs : s.canon) : ∃ t, execList c q b s = .next t ∧ t.canon := by
  unfold execList
  refine ⟨_, rfl, ?_⟩
  (repeat' (first | (simp (maxDischargeDepth := 30) +contextual [*]; done) | (refine State.runCommand_canon _ _ _ _ _ _ _ _ _ hs State.noPoison_canon (fun t ht => ?_) (fun t ht => ?_)) | (refine State.runSeq_canon _ _ _ _ _ hs ?_) | split | dsimp only))

theorem execAccept_canon (c : CtxId) (q : SeqId) (b : Bytes) (s : State) (hs : s.canon) : ∃ t, execAccept c q b s = .next t ∧ t.canon := by
  unfold execAccept
  refine ⟨_, rfl, ?_⟩
  (repeat' (first | (simp (maxDischargeDepth := 30) +contextual [*]; done) | (refine State.runCommand_canon _ _ _ _ _ _ _ _ _ hs State.noPoison_canon (fun t ht => ?_) (fun t ht => ?_)) | (refine State.runSeq_canon _ _ _ _ _ hs ?_) | split | dsimp only))

theorem execCommit_canon (c : CtxId) (q : SeqId) (b : Bytes) (s : State) (hs : s.canon) : ∃ t, execCommit c q b s = .next t ∧ t.canon := by
  unfold execCommit
  refine ⟨_, rfl, ?_⟩
  (repeat' (first | (simp (maxDischargeDepth := 30) +contextual [*]; done) | (refine State.runCommand_canon _ _ _ _ _ _ _ _ _ hs State.noPoison_canon (fun t ht => ?_) (fun t ht => ?_)) | (refine State.runSeq_canon _ _ _ _ _ hs ?_) | split | dsimp only))

theorem execSummary_canon (c : CtxId) (q : SeqId) (b : Bytes) (s : State) (hs : s.canon) : ∃ t, execSummary c q b s = .next t ∧ t.canon := by
  unfold execSummary
  refine ⟨_, rfl, ?_⟩
  dsimp only
  split
  · exact State.runCommand_canon _ _ _ _ _ _ _ _ _ hs State.noPoison_canon (fun t ht => ht) (fun t ht => ht)
  · split
    · refine State.runCommand_canon _ _ _ _ _ _ _ _ _ hs (fun a f h t ht => ?_) (fun t ht => by simp (maxDischargeDepth := 30) +contextual [ht]) (fun t ht => by simp (maxDischargeDepth := 30) +contextual [ht])
      split at h
      · cases h
      · cases h; simp (maxDischargeDepth := 30) [ht]
    · refine State.runCommand_canon _ _ _ _ _ _ _ _ _ hs (fun a f h t ht => ?_) (fun t ht => by simp (maxDischargeDepth := 30) +contextual [ht]) (fun t ht => by simp (maxDischargeDepth := 30) +contextual [ht])
      split at h
      · cases h
      · cases h; simp (maxDischargeDepth := 30) [ht]
    · exact State.runCommand_canon _ _ _ _ _ _ _ _ _ hs State.noPoison_canon (fun t ht => ht) (fun t ht => by simp (maxDischargeDepth := 30) +contextual [ht])

theorem execNop_canon (c : CtxId) (q : SeqId) (s : State) (hs : s.canon) : ∃ t, execNop c q s = .next t ∧ t.canon := by
  unfold execNop
  refine ⟨_, rfl, ?_⟩
  refine State.runSeq_canon _ _ _ _ _ hs ?_; simp (maxDischargeDepth := 30) +contextual [*]

theorem execIssue_canon (c : CtxId) (q : SeqId) (engine : Byte) (len : Byte) (b : Bytes) (s : State) (hs : s.canon) : ∃ t, execIssue c q engine len b s = .next t ∧ t.canon := by
  unfold execIssue
  refine ⟨_, rfl, ?_⟩
  refine State.runSeq_canon _ _ _ _ _ hs ?_; simp (maxDischargeDepth := 30) +contextual [*]

theorem execQueueClaim_canon (c : CtxId) (q : SeqId) (s : State) (hs : s.canon) : ∃ t, execQueueClaim c q s = .next t ∧ t.canon := by
  unfold execQueueClaim
  refine ⟨_, rfl, ?_⟩
  (repeat' (first | (simp (maxDischargeDepth := 30) +contextual [*]; done) | (refine State.runCommand_canon _ _ _ _ _ _ _ _ _ hs State.noPoison_canon (fun t ht => ?_) (fun t ht => ?_)) | (refine State.runSeq_canon _ _ _ _ _ hs ?_) | split | dsimp only))

theorem execWaitdone_canon (c : CtxId) (q : SeqId) (engine : Byte) (most : U32) (s : State) (hs : s.canon) : ∃ t, execWaitdone c q engine most s = .next t ∧ t.canon := by
  unfold execWaitdone
  refine ⟨_, rfl, ?_⟩
  refine State.runSeq_canon _ _ _ _ _ hs ?_; simp (maxDischargeDepth := 30) +contextual [*]

theorem execSignal_canon (c : CtxId) (q : SeqId) (counter : U16) (inc : U32) (s : State) (hs : s.canon) : ∃ t, execSignal c q counter inc s = .next t ∧ t.canon := by
  unfold execSignal
  refine ⟨_, rfl, ?_⟩
  refine State.runSeq_canon _ _ _ _ _ hs ?_; simp (maxDischargeDepth := 30) +contextual [*]

theorem execWait_canon (c : CtxId) (q : SeqId) (counter : U16) (threshold : U32) (s : State) (hs : s.canon) : ∃ t, execWait c q counter threshold s = .next t ∧ t.canon := by
  unfold execWait
  refine ⟨_, rfl, ?_⟩
  refine State.runSeq_canon _ _ _ _ _ hs ?_; simp (maxDischargeDepth := 30) +contextual [*]

theorem execAcquire_canon (c : CtxId) (q : SeqId) (counter : U16) (s : State) (hs : s.canon) : ∃ t, execAcquire c q counter s = .next t ∧ t.canon := by
  unfold execAcquire
  refine ⟨_, rfl, ?_⟩
  refine State.runSeq_canon _ _ _ _ _ hs ?_; simp (maxDischargeDepth := 30) +contextual [*]

theorem execRelease_canon (c : CtxId) (q : SeqId) (counter : U16) (s : State) (hs : s.canon) : ∃ t, execRelease c q counter s = .next t ∧ t.canon := by
  unfold execRelease
  refine ⟨_, rfl, ?_⟩
  refine State.runSeq_canon _ _ _ _ _ hs ?_; simp (maxDischargeDepth := 30) +contextual [*]

theorem execSetp_canon (c : CtxId) (q : SeqId) (r : BitVec 4) (imm : U32) (s : State) (hs : s.canon) : ∃ t, execSetp c q r imm s = .next t ∧ t.canon := by
  unfold execSetp
  refine ⟨_, rfl, ?_⟩
  refine State.runSeq_canon _ _ _ _ _ hs ?_; simp (maxDischargeDepth := 30) +contextual [*]

theorem execLdp_canon (c : CtxId) (q : SeqId) (r : BitVec 4) (word : BitVec 3) (s : State) (hs : s.canon) : ∃ t, execLdp c q r word s = .next t ∧ t.canon := by
  unfold execLdp
  refine ⟨_, rfl, ?_⟩
  (repeat' (first | (simp (maxDischargeDepth := 30) +contextual [*]; done) | (refine State.runCommand_canon _ _ _ _ _ _ _ _ _ hs State.noPoison_canon (fun t ht => ?_) (fun t ht => ?_)) | (refine State.runSeq_canon _ _ _ _ _ hs ?_) | split | dsimp only))

theorem execAddi_canon (c : CtxId) (q : SeqId) (r : BitVec 4) (imm : U32) (s : State) (hs : s.canon) : ∃ t, execAddi c q r imm s = .next t ∧ t.canon := by
  unfold execAddi
  refine ⟨_, rfl, ?_⟩
  refine State.runSeq_canon _ _ _ _ _ hs ?_; simp (maxDischargeDepth := 30) +contextual [*]

theorem execBrz_canon (c : CtxId) (q : SeqId) (r : BitVec 4) (target : U32) (s : State) (hs : s.canon) : ∃ t, execBrz c q r target s = .next t ∧ t.canon := by
  unfold execBrz
  refine ⟨_, rfl, ?_⟩
  refine State.runSeq_canon _ _ _ _ _ hs ?_; simp (maxDischargeDepth := 30) +contextual [*]

theorem execBrnz_canon (c : CtxId) (q : SeqId) (r : BitVec 4) (target : U32) (s : State) (hs : s.canon) : ∃ t, execBrnz c q r target s = .next t ∧ t.canon := by
  unfold execBrnz
  refine ⟨_, rfl, ?_⟩
  refine State.runSeq_canon _ _ _ _ _ hs ?_; simp (maxDischargeDepth := 30) +contextual [*]

theorem execJmp_canon (c : CtxId) (q : SeqId) (target : U32) (s : State) (hs : s.canon) : ∃ t, execJmp c q target s = .next t ∧ t.canon := by
  unfold execJmp
  refine ⟨_, rfl, ?_⟩
  refine State.runSeq_canon _ _ _ _ _ hs ?_; simp (maxDischargeDepth := 30) +contextual [*]

theorem execStepend_canon (c : CtxId) (q : SeqId) (s : State) (hs : s.canon) : ∃ t, execStepend c q s = .next t ∧ t.canon := by
  unfold execStepend
  refine ⟨_, rfl, ?_⟩
  refine State.runSeq_canon _ _ _ _ _ hs ?_; simp (maxDischargeDepth := 30) +contextual [*]

theorem execSaddle_canon (c : CtxId) (q : SeqId) (entry : U16) (s : State) (hs : s.canon) : ∃ t, execSaddle c q entry s = .next t ∧ t.canon := by
  unfold execSaddle
  refine ⟨_, rfl, ?_⟩
  refine State.runSeq_canon _ _ _ _ _ hs ?_; (dsimp only; (repeat' split) <;> simp (maxDischargeDepth := 30) +contextual [*])

theorem execHalt_canon (c : CtxId) (q : SeqId) (s : State) (hs : s.canon) : ∃ t, execHalt c q s = .next t ∧ t.canon := by
  unfold execHalt
  refine ⟨_, rfl, ?_⟩
  refine State.runSeq_canon _ _ _ _ _ hs ?_; (dsimp only; (repeat' split) <;> simp (maxDischargeDepth := 30) +contextual [*])

theorem execTrap_canon (c : CtxId) (q : SeqId) (code : U32) (s : State) (hs : s.canon) : ∃ t, execTrap c q code s = .next t ∧ t.canon := by
  unfold execTrap
  refine ⟨_, rfl, ?_⟩
  refine State.runSeq_canon _ _ _ _ _ hs ?_; simp (maxDischargeDepth := 30) +contextual [*]

theorem execLookup_canon (c : CtxId) (q : SeqId) (b : Bytes) (s : State) (hs : s.canon) : ∃ t, execLookup c q b s = .next t ∧ t.canon := by
  unfold execLookup
  refine ⟨_, rfl, ?_⟩
  refine State.runCommand_canon _ _ _ _ _ _ _ _ _ hs State.noPoison_canon (fun t ht => ?_) (fun t ht => ?_) <;> simp (maxDischargeDepth := 30) +contextual [*]

theorem execUpdate_canon (c : CtxId) (q : SeqId) (b : Bytes) (s : State) (hs : s.canon) : ∃ t, execUpdate c q b s = .next t ∧ t.canon := by
  unfold execUpdate
  refine ⟨_, rfl, ?_⟩
  simp (maxDischargeDepth := 30) +contextual [*]

theorem execSearchCommand_canon (c : CtxId) (copies : List Bytes) (s : State) (hs : s.canon) : ∃ t, execSearchCommand c copies s = .next t ∧ t.canon := by
  unfold execSearchCommand
  refine ⟨_, rfl, ?_⟩
  split
  · exact hs
  · split
    · simp [hs]
    · refine State.runGlen_canon _ _ _ _ _ _ _ hs (fun t ht => by simp [ht]) (fun t ht => ?_)
      exact foldl_canon _ (fun u p h => by simp [h]) _ _ ht

theorem execWriteInsert_canon (c : CtxId) (q : SeqId) (b : Bytes) (s : State) (hs : s.canon) : ∃ t, execWriteInsert c q b s = .next t ∧ t.canon := by
  unfold execWriteInsert
  refine ⟨_, rfl, ?_⟩
  refine State.runWrite_canon _ _ _ _ _ _ hs (fun t x i ht => ?_); simp (maxDischargeDepth := 30) +contextual [*]

theorem execWriteDelete_canon (c : CtxId) (q : SeqId) (b : Bytes) (s : State) (hs : s.canon) : ∃ t, execWriteDelete c q b s = .next t ∧ t.canon := by
  unfold execWriteDelete
  refine ⟨_, rfl, ?_⟩
  refine State.runWrite_canon _ _ _ _ _ _ hs (fun t x i ht => ?_); simp (maxDischargeDepth := 30) +contextual [*]

theorem execTopk_canon (c : CtxId) (q : SeqId) (b : Bytes) (s : State) (hs : s.canon) : ∃ t, execTopk c q b s = .next t ∧ t.canon := by
  unfold execTopk
  refine ⟨_, rfl, ?_⟩
  refine State.runCommand_canon _ _ _ _ _ _ _ _ _ hs State.noPoison_canon (fun t ht => ?_) (fun t ht => ?_) <;> simp (maxDischargeDepth := 30) +contextual [*]

theorem execMerge_canon (c : CtxId) (q : SeqId) (b : Bytes) (s : State) (hs : s.canon) : ∃ t, execMerge c q b s = .next t ∧ t.canon := by
  unfold execMerge
  refine ⟨_, rfl, ?_⟩
  refine State.runCommand_canon _ _ _ _ _ _ _ _ _ hs State.noPoison_canon (fun t ht => ?_) (fun t ht => ?_) <;> simp (maxDischargeDepth := 30) +contextual [*]

theorem execPack_canon (c : CtxId) (q : SeqId) (b : Bytes) (s : State) (hs : s.canon) : ∃ t, execPack c q b s = .next t ∧ t.canon := by
  unfold execPack
  refine ⟨_, rfl, ?_⟩
  refine State.runCommand_canon _ _ _ _ _ _ _ _ _ hs State.noPoison_canon (fun t ht => ?_) (fun t ht => ?_) <;> simp (maxDischargeDepth := 30) +contextual [*]

theorem execCopy_canon (c : CtxId) (q : SeqId) (b : Bytes) (s : State) (hs : s.canon) : ∃ t, execCopy c q b s = .next t ∧ t.canon := by
  unfold execCopy
  refine ⟨_, rfl, ?_⟩
  refine State.runDma_canon _ _ _ _ _ _ _ _ _ hs (fun t ht => ?_); simp (maxDischargeDepth := 30) +contextual [*]

theorem execWfill_canon (c : CtxId) (q : SeqId) (b : Bytes) (s : State) (hs : s.canon) : ∃ t, execWfill c q b s = .next t ∧ t.canon := by
  unfold execWfill
  refine ⟨_, rfl, ?_⟩
  refine State.runDma_canon _ _ _ _ _ _ _ _ _ hs (fun t ht => ?_); simp (maxDischargeDepth := 30) +contextual [*]

theorem execLoadComplete_canon (isImage : Bool) (object : U32) (s : State) (hs : s.canon) : ∃ t, execLoadComplete isImage object s = .next t ∧ t.canon := by
  unfold execLoadComplete
  refine ⟨_, rfl, ?_⟩
  (repeat' (first | (simp (maxDischargeDepth := 30) +contextual [*]; done) | (refine State.runCommand_canon _ _ _ _ _ _ _ _ _ hs State.noPoison_canon (fun t ht => ?_) (fun t ht => ?_)) | (refine State.runSeq_canon _ _ _ _ _ hs ?_) | split | dsimp only))

theorem execRelocationProceed_canon (object : U32) (s : State) (hs : s.canon) : ∃ t, execRelocationProceed object s = .next t ∧ t.canon := by
  unfold execRelocationProceed
  refine ⟨_, rfl, ?_⟩
  (dsimp only; (repeat' split) <;> simp (maxDischargeDepth := 30) +contextual [*])

theorem execEvictFree_canon (object : U32) (s : State) (hs : s.canon) : ∃ t, execEvictFree object s = .next t ∧ t.canon := by
  unfold execEvictFree
  refine ⟨_, rfl, ?_⟩
  (dsimp only; (repeat' split) <;> simp (maxDischargeDepth := 30) +contextual [*])

theorem execCertload_canon (p : HostPort) (s : State) (hs : s.canon) : ∃ t, execCertload p s = .next t ∧ t.canon := by
  unfold execCertload
  refine ⟨_, rfl, ?_⟩
  simp (maxDischargeDepth := 30) +contextual [*]

theorem execCardWipe_canon (p : HostPort) (s : State) (hs : s.canon) : ∃ t, execCardWipe p s = .next t ∧ t.canon := by
  unfold execCardWipe
  refine ⟨_, rfl, ?_⟩
  simp (maxDischargeDepth := 30) +contextual [*]

theorem execCheckpointTimer_canon (s : State) (hs : s.canon) : ∃ t, execCheckpointTimer s = .next t ∧ t.canon := by
  unfold execCheckpointTimer
  refine ⟨_, rfl, ?_⟩
  simp (maxDischargeDepth := 30) +contextual [*]

theorem execCheckpointWritten_canon (ok : Bool) (bad : List Nat) (s : State) (hs : s.canon) : ∃ t, execCheckpointWritten ok bad s = .next t ∧ t.canon := by
  unfold execCheckpointWritten
  refine ⟨_, rfl, ?_⟩
  (dsimp only; (repeat' split) <;> simp (maxDischargeDepth := 30) +contextual [*])

theorem execStart_canon (c : CtxId) (q : SeqId) (b : Bytes) (s : State) (hs : s.canon) : ∃ t, execStart c q b s = .next t ∧ t.canon := by
  unfold execStart
  refine ⟨_, rfl, ?_⟩
  (repeat' (first | (simp (maxDischargeDepth := 30) +contextual [*]; done) | (refine State.runCommand_canon _ _ _ _ _ _ _ _ _ hs State.noPoison_canon (fun t ht => ?_) (fun t ht => ?_)) | (refine State.runSeq_canon _ _ _ _ _ hs ?_) | split | dsimp only))

theorem execInstallProceed_canon (shard : BitVec 6) (s : State) (hs : s.canon) : ∃ t, execInstallProceed shard s = .next t ∧ t.canon := by
  unfold execInstallProceed
  refine ⟨_, rfl, ?_⟩
  (repeat' (first | (simp (maxDischargeDepth := 30) +contextual [*]; done) | (refine State.runCommand_canon _ _ _ _ _ _ _ _ _ hs State.noPoison_canon (fun t ht => ?_) (fun t ht => ?_)) | (refine State.runSeq_canon _ _ _ _ _ hs ?_) | split | dsimp only))

theorem execMaintActivityComplete_canon (activity : Byte) (target : U32) (s : State) (hs : s.canon) : ∃ t, execMaintActivityComplete activity target s = .next t ∧ t.canon := by
  unfold execMaintActivityComplete
  refine ⟨_, rfl, ?_⟩
  (dsimp only; (repeat' split) <;> simp (maxDischargeDepth := 30) +contextual [*])

theorem execSend_canon (c : CtxId) (q : SeqId) (b : Bytes) (s : State) (hs : s.canon) : ∃ t, execSend c q b s = .next t ∧ t.canon := by
  unfold execSend
  refine ⟨_, rfl, ?_⟩
  (repeat' (first | (simp (maxDischargeDepth := 30) +contextual [*]; done) | (refine State.runCommand_canon _ _ _ _ _ _ _ _ _ hs State.noPoison_canon (fun t ht => ?_) (fun t ht => ?_)) | (refine State.runSeq_canon _ _ _ _ _ hs ?_) | split | dsimp only))

theorem execRecv_canon (c : CtxId) (q : SeqId) (b : Bytes) (s : State) (hs : s.canon) : ∃ t, execRecv c q b s = .next t ∧ t.canon := by
  unfold execRecv
  refine ⟨_, rfl, ?_⟩
  refine State.runCommand_canon _ _ _ _ _ _ _ _ _ hs State.noPoison_canon (fun t ht => ?_) (fun t ht => ?_) <;> simp (maxDischargeDepth := 30) +contextual [*]

theorem execLanesLocked_canon (n : SelynPort) (good : Byte) (s : State) (hs : s.canon) : ∃ t, execLanesLocked n good s = .next t ∧ t.canon := by
  unfold execLanesLocked
  refine ⟨_, rfl, ?_⟩
  simp (maxDischargeDepth := 30) +contextual [*]

theorem execTrainingRecord_canon (n : SelynPort) (tr : TrainRec) (s : State) (hs : s.canon) : ∃ t, execTrainingRecord n tr s = .next t ∧ t.canon := by
  unfold execTrainingRecord
  refine ⟨_, rfl, ?_⟩
  simp (maxDischargeDepth := 30) +contextual [*]

theorem execLaneLockLoss_canon (n : SelynPort) (s : State) (hs : s.canon) : ∃ t, execLaneLockLoss n s = .next t ∧ t.canon := by
  unfold execLaneLockLoss
  refine ⟨_, rfl, ?_⟩
  simp (maxDischargeDepth := 30) +contextual [*]

theorem execRetrainTimeout_canon (n : RetrainEnd) (s : State) (hs : s.canon) : ∃ t, execRetrainTimeout n s = .next t ∧ t.canon := by
  unfold execRetrainTimeout
  refine ⟨_, rfl, ?_⟩
  simp (maxDischargeDepth := 30) +contextual [*]

theorem execLinkRetryTimer_canon (n : SelynPort) (s : State) (hs : s.canon) : ∃ t, execLinkRetryTimer n s = .next t ∧ t.canon := by
  unfold execLinkRetryTimer
  refine ⟨_, rfl, ?_⟩
  simp (maxDischargeDepth := 30) +contextual [*]

theorem execReplayRequest_canon (n : SelynPort) (ack : BitVec 12) (s : State) (hs : s.canon) : ∃ t, execReplayRequest n ack s = .next t ∧ t.canon := by
  unfold execReplayRequest
  refine ⟨_, rfl, ?_⟩
  simp (maxDischargeDepth := 30) +contextual [*]

theorem execIdleFrame_canon (n : SelynPort) (ack : BitVec 12) (cvc : BitVec 2) (credits : BitVec 6) (s : State) (hs : s.canon) : ∃ t, execIdleFrame n ack cvc credits s = .next t ∧ t.canon := by
  unfold execIdleFrame
  refine ⟨_, rfl, ?_⟩
  simp (maxDischargeDepth := 30) +contextual [*]

theorem execFailedFrame_canon (n : SelynPort) (s : State) (hs : s.canon) : ∃ t, execFailedFrame n s = .next t ∧ t.canon := by
  unfold execFailedFrame
  refine ⟨_, rfl, ?_⟩
  simp (maxDischargeDepth := 30) +contextual [*]

theorem execDataFrame_canon (n : SelynPort) (h : FrameHdr) (payload : Bytes) (s : State) (hs : s.canon) : ∃ t, execDataFrame n h payload s = .next t ∧ t.canon := by
  unfold execDataFrame
  refine ⟨_, rfl, ?_⟩
  refine State.receive_canon _ _ _ _ hs (fun t ht => ?_); simp (maxDischargeDepth := 30) +contextual [*]

theorem execArrive_canon (n : SelynPort) (h : FrameHdr) (a : ArriveRec) (s : State) (hs : s.canon) : ∃ t, execArrive n h a s = .next t ∧ t.canon := by
  unfold execArrive
  refine ⟨_, rfl, ?_⟩
  refine State.receive_canon _ _ _ _ hs (fun t ht => ?_); simp (maxDischargeDepth := 30) +contextual [*]

theorem execReleaseParcel_canon (n : SelynPort) (h : FrameHdr) (pass : U32) (counter : U16) (c : CtxId) (s : State) (hs : s.canon) : ∃ t, execReleaseParcel n h pass counter c s = .next t ∧ t.canon := by
  unfold execReleaseParcel
  refine ⟨_, rfl, ?_⟩
  refine State.receive_canon _ _ _ _ hs (fun t ht => ?_); (dsimp only; (repeat' split) <;> simp (maxDischargeDepth := 30) +contextual [*])

theorem execAbandon_canon (n : SelynPort) (h : FrameHdr) (pass : U32) (counter : U16) (c : CtxId) (device : U16) (why : Byte) (s : State) (hs : s.canon) : ∃ t, execAbandon n h pass counter c device why s = .next t ∧ t.canon := by
  unfold execAbandon
  refine ⟨_, rfl, ?_⟩
  refine State.receive_canon _ _ _ _ hs (fun t ht => ?_); simp (maxDischargeDepth := 30) +contextual [*]

theorem execSaddleTimeout_canon (counter : U16) (s : State) (hs : s.canon) : ∃ t, execSaddleTimeout counter s = .next t ∧ t.canon := by
  unfold execSaddleTimeout
  refine ⟨_, rfl, ?_⟩
  (dsimp only; (repeat' split) <;> simp (maxDischargeDepth := 30) +contextual [*])

theorem execTimeReq_canon (n : SelynPort) (h : FrameHdr) (t1 : U64) (s : State) (hs : s.canon) : ∃ t, execTimeReq n h t1 s = .next t ∧ t.canon := by
  unfold execTimeReq
  refine ⟨_, rfl, ?_⟩
  refine State.receive_canon _ _ _ _ hs (fun t ht => ?_); simp (maxDischargeDepth := 30) +contextual [*]

theorem execTimeResp_canon (n : SelynPort) (h : FrameHdr) (t1 t2 t3 : U64) (s : State) (hs : s.canon) : ∃ t, execTimeResp n h t1 t2 t3 s = .next t ∧ t.canon := by
  unfold execTimeResp
  refine ⟨_, rfl, ?_⟩
  refine State.receive_canon _ _ _ _ hs (fun t ht => ?_); simp (maxDischargeDepth := 30) +contextual [*]

theorem execTimeExchange_canon (s : State) (hs : s.canon) : ∃ t, execTimeExchange s = .next t ∧ t.canon := by
  unfold execTimeExchange
  refine ⟨_, rfl, ?_⟩
  (dsimp only; (repeat' split) <;> simp (maxDischargeDepth := 30) +contextual [*])

theorem execRollcall_canon (n : SelynPort) (h : FrameHdr) (low high : U16) (depth : Byte) (treeId size : U16) (s : State) (hs : s.canon) : ∃ t, execRollcall n h low high depth treeId size s = .next t ∧ t.canon := by
  unfold execRollcall
  refine ⟨_, rfl, ?_⟩
  refine State.receive_canon _ _ _ _ hs (fun t ht => ?_); (dsimp only; (repeat' split) <;> simp (maxDischargeDepth := 30) +contextual [*])

theorem execFormed_canon (n : SelynPort) (h : FrameHdr) (treeId size : U16) (s : State) (hs : s.canon) : ∃ t, execFormed n h treeId size s = .next t ∧ t.canon := by
  unfold execFormed
  refine ⟨_, rfl, ?_⟩
  refine State.receive_canon _ _ _ _ hs (fun t ht => ?_); simp (maxDischargeDepth := 30) +contextual [*]

theorem execLost_canon (n : SelynPort) (h : FrameHdr) (low : RangeFrom) (high : U16) (why : Byte) (s : State) (hs : s.canon) : ∃ t, execLost n h low high why s = .next t ∧ t.canon := by
  unfold execLost
  refine ⟨_, rfl, ?_⟩
  refine State.receive_canon _ _ _ _ hs (fun t ht => ?_); simp (maxDischargeDepth := 30) +contextual [*]

theorem execRejoin_canon (n : SelynPort) (h : FrameHdr) (low : RangeFrom) (high : U16) (s : State) (hs : s.canon) : ∃ t, execRejoin n h low high s = .next t ∧ t.canon := by
  unfold execRejoin
  refine ⟨_, rfl, ?_⟩
  refine State.receive_canon _ _ _ _ hs (fun t ht => ?_); simp (maxDischargeDepth := 30) +contextual [*]

theorem execRelay_canon (n : SelynPort) (h : FrameHdr) (origin : U16) (code : Byte) (seq : U32) (detail : Bytes) (s : State) (hs : s.canon) : ∃ t, execRelay n h origin code seq detail s = .next t ∧ t.canon := by
  unfold execRelay
  refine ⟨_, rfl, ?_⟩
  refine State.receive_canon _ _ _ _ hs (fun t ht => ?_); (dsimp only; (repeat' split) <;> simp (maxDischargeDepth := 30) +contextual [*])

theorem execBindEffect_canon (c : CtxId) (s : State) (hs : s.canon) : ∃ t, execBindEffect c s = .next t ∧ t.canon := by
  unfold execBindEffect
  refine ⟨_, rfl, ?_⟩
  (repeat' (first | (simp (maxDischargeDepth := 30) +contextual [*]; done) | (refine State.runCommand_canon _ _ _ _ _ _ _ _ _ hs State.noPoison_canon (fun t ht => ?_) (fun t ht => ?_)) | (refine State.runSeq_canon _ _ _ _ _ hs ?_) | split | dsimp only))

theorem execStepStart_canon (c : CtxId) (s : State) (hs : s.canon) : ∃ t, execStepStart c s = .next t ∧ t.canon := by
  unfold execStepStart
  refine ⟨_, rfl, ?_⟩
  (dsimp only; (repeat' split) <;> simp (maxDischargeDepth := 30) +contextual [*])

theorem execQuery_canon (d : Desc) (s : State) (hs : s.canon) : ∃ t, execQuery d s = .next t ∧ t.canon := by
  unfold execQuery
  refine ⟨_, rfl, ?_⟩
  simp (maxDischargeDepth := 30) +contextual [*]

theorem execEmbed_canon (d : Desc) (s : State) (hs : s.canon) : ∃ t, execEmbed d s = .next t ∧ t.canon := by
  unfold execEmbed
  refine ⟨_, rfl, ?_⟩
  simp (maxDischargeDepth := 30) +contextual [*]

theorem execSearch_canon (d : Desc) (s : State) (hs : s.canon) : ∃ t, execSearch d s = .next t ∧ t.canon := by
  unfold execSearch
  refine ⟨_, rfl, ?_⟩
  simp (maxDischargeDepth := 30) +contextual [*]

theorem execRerank_canon (d : Desc) (s : State) (hs : s.canon) : ∃ t, execRerank d s = .next t ∧ t.canon := by
  unfold execRerank
  refine ⟨_, rfl, ?_⟩
  simp (maxDischargeDepth := 30) +contextual [*]

theorem execGenerate_canon (d : Desc) (s : State) (hs : s.canon) : ∃ t, execGenerate d s = .next t ∧ t.canon := by
  unfold execGenerate
  refine ⟨_, rfl, ?_⟩
  simp (maxDischargeDepth := 30) +contextual [*]

theorem execPause_canon (d : Desc) (s : State) (hs : s.canon) : ∃ t, execPause d s = .next t ∧ t.canon := by
  unfold execPause
  refine ⟨_, rfl, ?_⟩
  simp (maxDischargeDepth := 30) +contextual [*]

theorem execResume_canon (d : Desc) (s : State) (hs : s.canon) : ∃ t, execResume d s = .next t ∧ t.canon := by
  unfold execResume
  refine ⟨_, rfl, ?_⟩
  simp (maxDischargeDepth := 30) +contextual [*]

theorem execCancel_canon (d : Desc) (s : State) (hs : s.canon) : ∃ t, execCancel d s = .next t ∧ t.canon := by
  unfold execCancel
  refine ⟨_, rfl, ?_⟩
  simp (maxDischargeDepth := 30) +contextual [*]

theorem execInsert_canon (d : Desc) (s : State) (hs : s.canon) : ∃ t, execInsert d s = .next t ∧ t.canon := by
  unfold execInsert
  refine ⟨_, rfl, ?_⟩
  simp (maxDischargeDepth := 30) +contextual [*]

theorem execDelete_canon (d : Desc) (s : State) (hs : s.canon) : ∃ t, execDelete d s = .next t ∧ t.canon := by
  unfold execDelete
  refine ⟨_, rfl, ?_⟩
  simp (maxDischargeDepth := 30) +contextual [*]

theorem execTrainStep_canon (d : Desc) (s : State) (hs : s.canon) : ∃ t, execTrainStep d s = .next t ∧ t.canon := by
  unfold execTrainStep
  refine ⟨_, rfl, ?_⟩
  simp (maxDischargeDepth := 30) +contextual [*]

theorem execLoad_canon (d : Desc) (s : State) (hs : s.canon) : ∃ t, execLoad d s = .next t ∧ t.canon := by
  unfold execLoad
  refine ⟨_, rfl, ?_⟩
  simp (maxDischargeDepth := 30) +contextual [*]

theorem execLoadImage_canon (d : Desc) (s : State) (hs : s.canon) : ∃ t, execLoadImage d s = .next t ∧ t.canon := by
  unfold execLoadImage
  refine ⟨_, rfl, ?_⟩
  simp (maxDischargeDepth := 30) +contextual [*]

theorem execEvict_canon (d : Desc) (s : State) (hs : s.canon) : ∃ t, execEvict d s = .next t ∧ t.canon := by
  unfold execEvict
  refine ⟨_, rfl, ?_⟩
  simp (maxDischargeDepth := 30) +contextual [*]

theorem execEvictImage_canon (d : Desc) (s : State) (hs : s.canon) : ∃ t, execEvictImage d s = .next t ∧ t.canon := by
  unfold execEvictImage
  refine ⟨_, rfl, ?_⟩
  simp (maxDischargeDepth := 30) +contextual [*]

theorem execMergeBuild_canon (d : Desc) (s : State) (hs : s.canon) : ∃ t, execMergeBuild d s = .next t ∧ t.canon := by
  unfold execMergeBuild
  refine ⟨_, rfl, ?_⟩
  simp (maxDischargeDepth := 30) +contextual [*]

theorem execMergeInstall_canon (d : Desc) (s : State) (hs : s.canon) : ∃ t, execMergeInstall d s = .next t ∧ t.canon := by
  unfold execMergeInstall
  refine ⟨_, rfl, ?_⟩
  simp (maxDischargeDepth := 30) +contextual [*]

theorem execMergeAbort_canon (d : Desc) (s : State) (hs : s.canon) : ∃ t, execMergeAbort d s = .next t ∧ t.canon := by
  unfold execMergeAbort
  refine ⟨_, rfl, ?_⟩
  simp (maxDischargeDepth := 30) +contextual [*]

theorem execHotRowRefresh_canon (d : Desc) (s : State) (hs : s.canon) : ∃ t, execHotRowRefresh d s = .next t ∧ t.canon := by
  unfold execHotRowRefresh
  refine ⟨_, rfl, ?_⟩
  simp (maxDischargeDepth := 30) +contextual [*]

theorem execSyncAdd_canon (d : Desc) (s : State) (hs : s.canon) : ∃ t, execSyncAdd d s = .next t ∧ t.canon := by
  unfold execSyncAdd
  refine ⟨_, rfl, ?_⟩
  simp (maxDischargeDepth := 30) +contextual [*]

theorem execSyncSet_canon (d : Desc) (s : State) (hs : s.canon) : ∃ t, execSyncSet d s = .next t ∧ t.canon := by
  unfold execSyncSet
  refine ⟨_, rfl, ?_⟩
  simp (maxDischargeDepth := 30) +contextual [*]

theorem execSyncRead_canon (d : Desc) (s : State) (hs : s.canon) : ∃ t, execSyncRead d s = .next t ∧ t.canon := by
  unfold execSyncRead
  refine ⟨_, rfl, ?_⟩
  simp (maxDischargeDepth := 30) +contextual [*]

theorem execStats_canon (d : Desc) (s : State) (hs : s.canon) : ∃ t, execStats d s = .next t ∧ t.canon := by
  unfold execStats
  refine ⟨_, rfl, ?_⟩
  simp (maxDischargeDepth := 30) +contextual [*]

theorem execStep_canon (d : Desc) (s : State) (hs : s.canon) : ∃ t, execStep d s = .next t ∧ t.canon := by
  unfold execStep
  refine ⟨_, rfl, ?_⟩
  simp (maxDischargeDepth := 30) +contextual [*]

theorem execStepUnbind_canon (d : Desc) (s : State) (hs : s.canon) : ∃ t, execStepUnbind d s = .next t ∧ t.canon := by
  unfold execStepUnbind
  refine ⟨_, rfl, ?_⟩
  simp (maxDischargeDepth := 30) +contextual [*]

theorem execTokenize_canon (d : Desc) (s : State) (hs : s.canon) : ∃ t, execTokenize d s = .next t ∧ t.canon := by
  unfold execTokenize
  refine ⟨_, rfl, ?_⟩
  simp (maxDischargeDepth := 30) +contextual [*]

theorem execDetokenize_canon (d : Desc) (s : State) (hs : s.canon) : ∃ t, execDetokenize d s = .next t ∧ t.canon := by
  unfold execDetokenize
  refine ⟨_, rfl, ?_⟩
  simp (maxDischargeDepth := 30) +contextual [*]

theorem execFence_canon (d : Desc) (s : State) (hs : s.canon) : ∃ t, execFence d s = .next t ∧ t.canon := by
  unfold execFence
  refine ⟨_, rfl, ?_⟩
  simp (maxDischargeDepth := 30) +contextual [*]

theorem execAttest_canon (d : Desc) (s : State) (hs : s.canon) : ∃ t, execAttest d s = .next t ∧ t.canon := by
  unfold execAttest
  refine ⟨_, rfl, ?_⟩
  simp (maxDischargeDepth := 30) +contextual [*]

theorem execCheckpoint_canon (d : Desc) (s : State) (hs : s.canon) : ∃ t, execCheckpoint d s = .next t ∧ t.canon := by
  unfold execCheckpoint
  refine ⟨_, rfl, ?_⟩
  simp (maxDischargeDepth := 30) +contextual [*]

theorem execTestSetpend_canon (d : Desc) (s : State) (hs : s.canon) : ∃ t, execTestSetpend d s = .next t ∧ t.canon := by
  unfold execTestSetpend
  refine ⟨_, rfl, ?_⟩
  simp (maxDischargeDepth := 30) +contextual [*]

theorem execTestEcho_canon (d : Desc) (s : State) (hs : s.canon) : ∃ t, execTestEcho d s = .next t ∧ t.canon := by
  unfold execTestEcho
  refine ⟨_, rfl, ?_⟩
  simp (maxDischargeDepth := 30) +contextual [*]

theorem execUnknownOpcode_canon (d : Desc) (s : State) (hs : s.canon) : ∃ t, execUnknownOpcode d s = .next t ∧ t.canon := by
  unfold execUnknownOpcode
  refine ⟨_, rfl, ?_⟩
  simp (maxDischargeDepth := 30) +contextual [*]

theorem execDescriptorPlaced_canon (c : CtxId) (r : BitVec 2) (s : State) (hs : s.canon) : ∃ t, execDescriptorPlaced c r s = .next t ∧ t.canon := by
  unfold execDescriptorPlaced
  refine ⟨_, rfl, ?_⟩
  split
  · exact hs
  · rename_i d re rest hw
    have h := State.tryDesc_canon (s.modCtx c (fun x => x.setWaits r rest)) d re (by simp [hs])
    split <;> rename_i h' <;> rw [h'] at h <;> simp [h]

theorem execArbiterGrant_canon (arbiter : Nat) (reqs : List ArbReq) (s : State) (hs : s.canon) : ∃ t, execArbiterGrant arbiter reqs s = .next t ∧ t.canon := by
  unfold execArbiterGrant
  refine ⟨_, rfl, ?_⟩
  (repeat' split) <;> simp (maxDischargeDepth := 30) [hs]

theorem execEnginePreemption_canon (queue : Nat) (s : State) (hs : s.canon) : ∃ t, execEnginePreemption queue s = .next t ∧ t.canon := by
  unfold execEnginePreemption
  refine ⟨_, rfl, ?_⟩
  (dsimp only; (repeat' split) <;> simp (maxDischargeDepth := 30) +contextual [*])

theorem execSteppeSaveComplete_canon (s : State) (hs : s.canon) : ∃ t, execSteppeSaveComplete s = .next t ∧ t.canon := by
  unfold execSteppeSaveComplete
  refine ⟨_, rfl, ?_⟩
  (dsimp only; (repeat' split) <;> simp (maxDischargeDepth := 30) +contextual [*])

theorem execContextRestoreComplete_canon (c : CtxId) (s : State) (hs : s.canon) : ∃ t, execContextRestoreComplete c s = .next t ∧ t.canon := by
  unfold execContextRestoreComplete
  refine ⟨_, rfl, ?_⟩
  simp (maxDischargeDepth := 30) +contextual [*]

theorem execInheritanceBudgetExpiry_canon (c : CtxId) (s : State) (hs : s.canon) : ∃ t, execInheritanceBudgetExpiry c s = .next t ∧ t.canon := by
  unfold execInheritanceBudgetExpiry
  refine ⟨_, rfl, ?_⟩
  dsimp only
  (repeat' split) <;> simp (maxDischargeDepth := 30) [hs]

theorem execReplayOutcome_canon (ep : Episode) (s : State) (hs : s.canon) : ∃ t, execReplayOutcome ep s = .next t ∧ t.canon := by
  unfold execReplayOutcome
  refine ⟨_, rfl, ?_⟩
  (dsimp only; (repeat' split) <;> simp (maxDischargeDepth := 30) +contextual [*])

theorem execScrubRead_canon (tier : BitVec 2) (object : Option U32) (isImage : Bool) (offset : U64) (found : ScrubFind) (loc : Location) (s : State) (hs : s.canon) : ∃ t, execScrubRead tier object isImage offset found loc s = .next t ∧ t.canon := by
  unfold execScrubRead
  refine ⟨_, rfl, ?_⟩
  (dsimp only; (repeat' split) <;> simp (maxDischargeDepth := 30) +contextual [*])

theorem execContextSaveComplete_canon (c : CtxId) (s : State) (hs : s.canon) : ∃ t, execContextSaveComplete c s = .next t ∧ t.canon := by
  unfold execContextSaveComplete
  refine ⟨_, rfl, ?_⟩
  simp (maxDischargeDepth := 30) +contextual [*]

theorem execGraceExpiry_canon (c : CtxId) (s : State) (hs : s.canon) : ∃ t, execGraceExpiry c s = .next t ∧ t.canon := by
  unfold execGraceExpiry
  refine ⟨_, rfl, ?_⟩
  (dsimp only; (repeat' split) <;> simp (maxDischargeDepth := 30) +contextual [*])

theorem execPortPoll_canon (p : HostPort) (s : State) (hs : s.canon) : ∃ t, execPortPoll p s = .next t ∧ t.canon := by
  unfold execPortPoll
  refine ⟨_, rfl, ?_⟩
  simp (maxDischargeDepth := 30) +contextual [*]

theorem execPortIdle_canon (p : HostPort) (s : State) (hs : s.canon) : ∃ t, execPortIdle p s = .next t ∧ t.canon := by
  unfold execPortIdle
  refine ⟨_, rfl, ?_⟩
  simp (maxDischargeDepth := 30) +contextual [*]

theorem execPtmExchange_canon (p : HostPort) (master : U64) (roundTrip : U32) (s : State) (hs : s.canon) : ∃ t, execPtmExchange p master roundTrip s = .next t ∧ t.canon := by
  unfold execPtmExchange
  refine ⟨_, rfl, ?_⟩
  simp (maxDischargeDepth := 30) +contextual [*]

theorem execMsixModerationTime_canon (p : HostPort) (v : BitVec 6) (s : State) (hs : s.canon) : ∃ t, execMsixModerationTime p v s = .next t ∧ t.canon := by
  unfold execMsixModerationTime
  refine ⟨_, rfl, ?_⟩
  simp (maxDischargeDepth := 30) +contextual [*]

theorem execMsixResend_canon (p : HostPort) (v : BitVec 6) (s : State) (hs : s.canon) : ∃ t, execMsixResend p v s = .next t ∧ t.canon := by
  unfold execMsixResend
  refine ⟨_, rfl, ?_⟩
  simp (maxDischargeDepth := 30) +contextual [*]

theorem execMsixUnmask_canon (p : HostPort) (v : BitVec 6) (s : State) (hs : s.canon) : ∃ t, execMsixUnmask p v s = .next t ∧ t.canon := by
  unfold execMsixUnmask
  refine ⟨_, rfl, ?_⟩
  simp (maxDischargeDepth := 30) +contextual [*]

theorem execMsixEnable_canon (p : MsixControl) (s : State) (hs : s.canon) : ∃ t, execMsixEnable p s = .next t ∧ t.canon := by
  unfold execMsixEnable
  refine ⟨_, rfl, ?_⟩
  simp (maxDischargeDepth := 30) +contextual [*]

theorem execPcieDlDown_canon (p : HostPort) (s : State) (hs : s.canon) : ∃ t, execPcieDlDown p s = .next t ∧ t.canon := by
  unfold execPcieDlDown
  refine ⟨_, rfl, ?_⟩
  simp (maxDischargeDepth := 30) +contextual [*]

theorem execPcieCompletionTimeout_canon (p : HostPort) (s : State) (hs : s.canon) : ∃ t, execPcieCompletionTimeout p s = .next t ∧ t.canon := by
  unfold execPcieCompletionTimeout
  refine ⟨_, rfl, ?_⟩
  simp (maxDischargeDepth := 30) +contextual [*]

theorem execFunctionLevelReset_canon (p : HostPort) (s : State) (hs : s.canon) : ∃ t, execFunctionLevelReset p s = .next t ∧ t.canon := by
  unfold execFunctionLevelReset
  refine ⟨_, rfl, ?_⟩
  simp (maxDischargeDepth := 30) +contextual [*]

theorem execD3hotEntry_canon (p : HostPort) (s : State) (hs : s.canon) : ∃ t, execD3hotEntry p s = .next t ∧ t.canon := by
  unfold execD3hotEntry
  refine ⟨_, rfl, ?_⟩
  simp (maxDischargeDepth := 30) +contextual [*]

theorem execPerst_canon (p : HostPort) (s : State) (hs : s.canon) : ∃ t, execPerst p s = .next t ∧ t.canon := by
  unfold execPerst
  refine ⟨_, rfl, ?_⟩
  simp (maxDischargeDepth := 30) +contextual [*]

theorem execPortLinkTrained_canon (p : HostPort) (s : State) (hs : s.canon) : ∃ t, execPortLinkTrained p s = .next t ∧ t.canon := by
  unfold execPortLinkTrained
  refine ⟨_, rfl, ?_⟩
  simp (maxDischargeDepth := 30) +contextual [*]

theorem execLevelWrite_canon (p : HostPort) (level : BitVec 2) (s : State) (hs : s.canon) : ∃ t, execLevelWrite p level s = .next t ∧ t.canon := by
  unfold execLevelWrite
  refine ⟨_, rfl, ?_⟩
  simp (maxDischargeDepth := 30) +contextual [*]

theorem execRampEnd_canon (s : State) (hs : s.canon) : ∃ t, execRampEnd s = .next t ∧ t.canon := by
  unfold execRampEnd
  refine ⟨_, rfl, ?_⟩
  simp (maxDischargeDepth := 30) +contextual [*]

theorem execTrimWrite_canon (p : HostPort) (dom : Fin 7) (value : U32) (s : State) (hs : s.canon) : ∃ t, execTrimWrite p dom value s = .next t ∧ t.canon := by
  unfold execTrimWrite
  refine ⟨_, rfl, ?_⟩
  simp (maxDischargeDepth := 30) +contextual [*]

theorem execAutotrim_canon (dom : Fin 7) (s : State) (hs : s.canon) : ∃ t, execAutotrim dom s = .next t ∧ t.canon := by
  unfold execAutotrim
  refine ⟨_, rfl, ?_⟩
  simp (maxDischargeDepth := 30) +contextual [*]

theorem execPowerControlTick_canon (s : State) (hs : s.canon) : ∃ t, execPowerControlTick s = .next t ∧ t.canon := by
  unfold execPowerControlTick
  refine ⟨_, rfl, ?_⟩
  simp (maxDischargeDepth := 30) +contextual [*]

theorem execDuskStart_canon (p : HostPort) (s : State) (hs : s.canon) : ∃ t, execDuskStart p s = .next t ∧ t.canon := by
  unfold execDuskStart
  refine ⟨_, rfl, ?_⟩
  simp (maxDischargeDepth := 30) +contextual [*]

theorem execDeviceDuskDone_canon (s : State) (hs : s.canon) : ∃ t, execDeviceDuskDone s = .next t ∧ t.canon := by
  unfold execDeviceDuskDone
  refine ⟨_, rfl, ?_⟩
  simp (maxDischargeDepth := 30) +contextual [*]

theorem execResetAssert_canon (s : State) (hs : s.canon) : ∃ t, execResetAssert s = .next t ∧ t.canon := by
  unfold execResetAssert
  refine ⟨_, rfl, ?_⟩
  simp (maxDischargeDepth := 30) +contextual [*]

theorem execVinRise_canon (s : State) (hs : s.canon) : ∃ t, execVinRise s = .next t ∧ t.canon := by
  unfold execVinRise
  refine ⟨_, rfl, ?_⟩
  simp (maxDischargeDepth := 30) +contextual [*]

theorem execRailsInRegulation_canon (s : State) (hs : s.canon) : ∃ t, execRailsInRegulation s = .next t ∧ t.canon := by
  unfold execRailsInRegulation
  refine ⟨_, rfl, ?_⟩
  simp (maxDischargeDepth := 30) +contextual [*]

theorem execVinLow_canon (s : State) (hs : s.canon) : ∃ t, execVinLow s = .next t ∧ t.canon := by
  unfold execVinLow
  refine ⟨_, rfl, ?_⟩
  simp (maxDischargeDepth := 30) +contextual [*]

theorem execVinReturn_canon (s : State) (hs : s.canon) : ∃ t, execVinReturn s = .next t ∧ t.canon := by
  unfold execVinReturn
  refine ⟨_, rfl, ?_⟩
  simp (maxDischargeDepth := 30) +contextual [*]

theorem execThermalTrip_canon (s : State) (hs : s.canon) : ∃ t, execThermalTrip s = .next t ∧ t.canon := by
  unfold execThermalTrip
  refine ⟨_, rfl, ?_⟩
  simp (maxDischargeDepth := 30) +contextual [*]

theorem execThermtripLatchClear_canon (s : State) (hs : s.canon) : ∃ t, execThermtripLatchClear s = .next t ∧ t.canon := by
  unfold execThermtripLatchClear
  refine ⟨_, rfl, ?_⟩
  simp (maxDischargeDepth := 30) +contextual [*]

theorem execResetRelease_canon (failed : List Location) (s : State) (hs : s.canon) : ∃ t, execResetRelease failed s = .next t ∧ t.canon := by
  unfold execResetRelease
  refine ⟨_, rfl, ?_⟩
  simp (maxDischargeDepth := 30) +contextual [*]

theorem execPwrgdResetDelay_canon (s : State) (hs : s.canon) : ∃ t, execPwrgdResetDelay s = .next t ∧ t.canon := by
  unfold execPwrgdResetDelay
  refine ⟨_, rfl, ?_⟩
  simp (maxDischargeDepth := 30) +contextual [*]

theorem execDawnBringup_canon (hbm : BitVec 20) (s : State) (hs : s.canon) : ∃ t, execDawnBringup hbm s = .next t ∧ t.canon := by
  unfold execDawnBringup
  refine ⟨_, rfl, ?_⟩
  simp (maxDischargeDepth := 30) +contextual [*]

theorem execBootWindowWrite_canon (p : HostPort) (offset : BitVec 26) (data : Bytes) (s : State) (hs : s.canon) : ∃ t, execBootWindowWrite p offset data s = .next t ∧ t.canon := by
  unfold execBootWindowWrite
  refine ⟨_, rfl, ?_⟩
  simp (maxDischargeDepth := 30) +contextual [*]

theorem execBootGo_canon (p : HostPort) (s : State) (hs : s.canon) : ∃ t, execBootGo p s = .next t ∧ t.canon := by
  unfold execBootGo
  refine ⟨_, rfl, ?_⟩
  simp (maxDischargeDepth := 30) +contextual [*]

theorem execImageVerified_canon (s : State) (hs : s.canon) : ∃ t, execImageVerified s = .next t ∧ t.canon := by
  unfold execImageVerified
  refine ⟨_, rfl, ?_⟩
  simp (maxDischargeDepth := 30) +contextual [*]

theorem execRetainedStateRestore_canon (trained : U16) (dimms : U32) (socket : Socket) (s : State) (hs : s.canon) : ∃ t, execRetainedStateRestore trained dimms socket s = .next t ∧ t.canon := by
  unfold execRetainedStateRestore
  refine ⟨_, rfl, ?_⟩
  simp (maxDischargeDepth := 30) +contextual [*]

theorem execBootLock_canon (p : HostPort) (s : State) (hs : s.canon) : ∃ t, execBootLock p s = .next t ∧ t.canon := by
  unfold execBootLock
  refine ⟨_, rfl, ?_⟩
  simp (maxDischargeDepth := 30) +contextual [*]

theorem execMgmtIndexWrite_canon (index : Byte) (s : State) (hs : s.canon) : ∃ t, execMgmtIndexWrite index s = .next t ∧ t.canon := by
  unfold execMgmtIndexWrite
  refine ⟨_, rfl, ?_⟩
  simp (maxDischargeDepth := 30) +contextual [*]

theorem execMgmtRead_canon (count : Byte) (s : State) (hs : s.canon) : ∃ t, execMgmtRead count s = .next t ∧ t.canon := by
  unfold execMgmtRead
  refine ⟨_, rfl, ?_⟩
  simp (maxDischargeDepth := 30) +contextual [*]

theorem execOwnerClaim_canon (p : HostPort) (s : State) (hs : s.canon) : ∃ t, execOwnerClaim p s = .next t ∧ t.canon := by
  unfold execOwnerClaim
  refine ⟨_, rfl, ?_⟩
  simp (maxDischargeDepth := 30) +contextual [*]

theorem execOwnerRelease_canon (p : HostPort) (s : State) (hs : s.canon) : ∃ t, execOwnerRelease p s = .next t ∧ t.canon := by
  unfold execOwnerRelease
  refine ⟨_, rfl, ?_⟩
  simp (maxDischargeDepth := 30) +contextual [*]

theorem execCtxSuspend_canon (p : HostPort) (c : CtxId) (s : State) (hs : s.canon) : ∃ t, execCtxSuspend p c s = .next t ∧ t.canon := by
  unfold execCtxSuspend
  refine ⟨_, rfl, ?_⟩
  simp (maxDischargeDepth := 30) +contextual [*]

theorem execSuspendWithdraw_canon (p : HostPort) (c : CtxId) (s : State) (hs : s.canon) : ∃ t, execSuspendWithdraw p c s = .next t ∧ t.canon := by
  unfold execSuspendWithdraw
  refine ⟨_, rfl, ?_⟩
  simp (maxDischargeDepth := 30) +contextual [*]

theorem execCtxClear_canon (p : HostPort) (c : CtxId) (s : State) (hs : s.canon) : ∃ t, execCtxClear p c s = .next t ∧ t.canon := by
  unfold execCtxClear
  refine ⟨_, rfl, ?_⟩
  simp (maxDischargeDepth := 30) +contextual [*]

theorem execRingReset_canon (p : HostPort) (c : CtxId) (r : BitVec 2) (s : State) (hs : s.canon) : ∃ t, execRingReset p c r s = .next t ∧ t.canon := by
  unfold execRingReset
  refine ⟨_, rfl, ?_⟩
  simp (maxDischargeDepth := 30) +contextual [*]

theorem execCtxDusk_canon (p : HostPort) (c : CtxId) (s : State) (hs : s.canon) : ∃ t, execCtxDusk p c s = .next t ∧ t.canon := by
  unfold execCtxDusk
  refine ⟨_, rfl, ?_⟩
  simp (maxDischargeDepth := 30) +contextual [*]

theorem execCqWrite_canon (p : HostPort) (c : CtxId) (value : U64) (s : State) (hs : s.canon) : ∃ t, execCqWrite p c value s = .next t ∧ t.canon := by
  unfold execCqWrite
  refine ⟨_, rfl, ?_⟩
  simp (maxDischargeDepth := 30) +contextual [*]

theorem execSwset_canon (p : HostPort) (bits : U64) (s : State) (hs : s.canon) : ∃ t, execSwset p bits s = .next t ∧ t.canon := by
  unfold execSwset
  refine ⟨_, rfl, ?_⟩
  simp (maxDischargeDepth := 30) +contextual [*]

theorem execSwpendClear_canon (p : HostPort) (bits : U64) (s : State) (hs : s.canon) : ∃ t, execSwpendClear p bits s = .next t ∧ t.canon := by
  unfold execSwpendClear
  refine ⟨_, rfl, ?_⟩
  simp (maxDischargeDepth := 30) +contextual [*]

theorem execDmahaltRelease_canon (p : HostPort) (bits : U32) (s : State) (hs : s.canon) : ∃ t, execDmahaltRelease p bits s = .next t ∧ t.canon := by
  unfold execDmahaltRelease
  refine ⟨_, rfl, ?_⟩
  simp (maxDischargeDepth := 30) +contextual [*]

theorem execAttnRingWrite_canon (p : HostPort) (value : U64) (s : State) (hs : s.canon) : ∃ t, execAttnRingWrite p value s = .next t ∧ t.canon := by
  unfold execAttnRingWrite
  refine ⟨_, rfl, ?_⟩
  simp (maxDischargeDepth := 30) +contextual [*]

theorem execIntegThreshWrite_canon (p : HostPort) (kind : BitVec 4) (value : U32) (s : State) (hs : s.canon) : ∃ t, execIntegThreshWrite p kind value s = .next t ∧ t.canon := by
  unfold execIntegThreshWrite
  refine ⟨_, rfl, ?_⟩
  simp (maxDischargeDepth := 30) +contextual [*]

theorem execIntegClear_canon (p : HostPort) (value : U32) (s : State) (hs : s.canon) : ∃ t, execIntegClear p value s = .next t ∧ t.canon := by
  unfold execIntegClear
  refine ⟨_, rfl, ?_⟩
  simp (maxDischargeDepth := 30) +contextual [*]

theorem execSyncClear_canon (p : HostPort) (base count : U16) (s : State) (hs : s.canon) : ∃ t, execSyncClear p base count s = .next t ∧ t.canon := by
  unfold execSyncClear
  refine ⟨_, rfl, ?_⟩
  simp (maxDischargeDepth := 30) +contextual [*]

theorem execLinkPortWrite_canon (p : HostPort) (n : SelynPort) (value : U32) (s : State) (hs : s.canon) : ∃ t, execLinkPortWrite p n value s = .next t ∧ t.canon := by
  unfold execLinkPortWrite
  refine ⟨_, rfl, ?_⟩
  simp (maxDischargeDepth := 30) +contextual [*]

theorem execRegisterWrite_canon (p : HostPort) (offset : BitVec 21) (size : Byte) (value : U64) (s : State) (hs : s.canon) : ∃ t, execRegisterWrite p offset size value s = .next t ∧ t.canon := by
  unfold execRegisterWrite
  refine ⟨_, rfl, ?_⟩
  simp (maxDischargeDepth := 30) +contextual [*]

theorem execPowerSample_canon (milliwatts : Nat) (vinMv : U32) (sensors : List U16) (s : State) (hs : s.canon) :
    execPowerSample milliwatts vinMv sensors s = .fault .outsideRatings ∨ ∃ t, execPowerSample milliwatts vinMv sensors s = .next t ∧ t.canon := by
  unfold execPowerSample
  split
  · exact .inl rfl
  · refine .inr ⟨_, rfl, ?_⟩
    split
    · exact hs
    · exact State.junctions_canon _ hs

theorem execJunctionCritical_canon (die : BitVec 2) (reading : U16) (s : State) (hs : s.canon) :
    execJunctionCritical die reading s = .fault .outsideRatings ∨ ∃ t, execJunctionCritical die reading s = .next t ∧ t.canon := by
  unfold execJunctionCritical
  split
  · exact .inl rfl
  · refine .inr ⟨_, rfl, ?_⟩
    split
    · exact hs
    · exact State.junctions_canon _ hs

end Sys2Proof.Machine
end

