-- ==== Sys2Proof/Laws/State.lean ====
section
/-! SUPPORT. The frames of the state's updates, so that no later proof unfolds one, and what a lookup answers after an update. -/

namespace Sys2Proof

/-! ### Sparse tables -/

theorem Tab.get?_set {α : Type} (t : Tab α) (k : Nat) (v : α) (j : Nat) : (t.set k v).get? j = if j = k then some v else t.get? j := by
  induction t with
  | nil => by_cases h : k = j <;> simp [Tab.set, Tab.get?, h, eq_comm]
  | cons e t ih =>
    obtain ⟨k', v'⟩ := e
    by_cases h1 : k < k'
    · rw [Tab.set, if_pos h1]
      by_cases h : k = j
      · simp [Tab.get?, h]
      · have h' : ¬ j = k := fun e => h e.symm
        simp [Tab.get?, h, h']
    · by_cases h2 : k = k'
      · subst h2
        by_cases h : k = j
        · simp [Tab.set, Tab.get?, h]
        · have h' : ¬ j = k := fun e => h e.symm
          simp [Tab.set, Tab.get?, h, h']
      · by_cases h : k' = j
        · subst h
          have h' : ¬ k' = k := fun e => h2 e.symm
          simp [Tab.set, Tab.get?, h1, h2, h']
        · simp [Tab.set, Tab.get?, h1, h2, h, ih]

@[simp] theorem Tab.getD_set_same {α : Type} (t : Tab α) (k : Nat) (v d : α) : (t.set k v).getD k d = v := by
  simp [Tab.getD, Tab.get?_set]

theorem Tab.getD_set_of_ne {α : Type} (t : Tab α) {k j : Nat} (v d : α) (h : j ≠ k) : (t.set k v).getD j d = t.getD j d := by
  simp [Tab.getD, Tab.get?_set, h]

theorem Tab.get?_erase {α : Type} (t : Tab α) (k j : Nat) : (t.erase k).get? j = if j = k then none else t.get? j := by
  induction t with
  | nil => simp [Tab.erase, Tab.get?]
  | cons e t ih =>
    obtain ⟨k', v'⟩ := e
    have e : Tab.erase ((k', v') :: t) k = if k' = k then Tab.erase t k else (k', v') :: Tab.erase t k := by
      by_cases h1 : k' = k <;> simp [Tab.erase, h1]
    rw [e]
    by_cases h1 : k' = k
    · subst h1
      by_cases h : k' = j
      · subst h; simpa using ih
      · have h' : ¬ j = k' := fun e => h e.symm
        simpa [Tab.get?, h, h'] using ih
    · by_cases h : k' = j
      · subst h; simp [Tab.get?, h1]
      · simp [Tab.get?, h1, h, ih]

theorem Tab.getD_erase {α : Type} (t : Tab α) (k j : Nat) (d : α) : (t.erase k).getD j d = if j = k then d else t.getD j d := by
  by_cases h : j = k <;> simp [Tab.getD, Tab.get?_erase, h]

/-- A lookup in a table whose values a function has changed, key by key. -/
theorem Tab.get?_map {α β : Type} (t : Tab α) (f : Nat × α → Nat × β) (hf : ∀ e, (f e).1 = e.1) (k : Nat) :
    Tab.get? (t.map f) k = (t.get? k).map (fun v => (f (k, v)).2) := by
  induction t with
  | nil => rfl
  | cons e t ih =>
    obtain ⟨k', v⟩ := e
    by_cases h : k' = k
    · subst h
      have e1 : (f (k', v)).1 = k' := hf (k', v)
      simp [Tab.get?, e1]
    · have e1 : ¬ (f (k', v)).1 = k := by rw [hf (k', v)]; exact h
      simp [Tab.get?, e1, h, ih]

/-- The same when the function acts on the values. -/
theorem Tab.get?_mapVal {α β : Type} (t : Tab α) (g : Nat → α → β) (k : Nat) :
    Tab.get? (t.map (fun e => (e.1, g e.1 e.2))) k = (t.get? k).map (g k) :=
  Tab.get?_map t (fun e => (e.1, g e.1 e.2)) (fun _ => rfl) k

namespace Machine

/-! ### What an update leaves -/

@[simp] theorem State.setCtx_frame (s : State) (c : CtxId) (x : Ctx) :
    (s.setCtx c x).pending = s.pending ∧ (s.setCtx c x).fresh = s.fresh ∧ (s.setCtx c x).mem = s.mem ∧ (s.setCtx c x).power = s.power ∧
    (s.setCtx c x).boot = s.boot ∧ (s.setCtx c x).vesper = s.vesper ∧ (s.setCtx c x).clock = s.clock ∧ (s.setCtx c x).regs = s.regs ∧
    (s.setCtx c x).integ = s.integ ∧ (s.setCtx c x).ports = s.ports ∧ (s.setCtx c x).sync = s.sync ∧ (s.setCtx c x).objs = s.objs ∧
    (s.setCtx c x).images = s.images ∧ (s.setCtx c x).stepUnits = s.stepUnits ∧ (s.setCtx c x).shards = s.shards ∧
    (s.setCtx c x).retained = s.retained ∧ (s.setCtx c x).pools = s.pools ∧ (s.setCtx c x).slotStats = s.slotStats ∧ (s.setCtx c x).loads = s.loads ∧
    (s.setCtx c x).evicts = s.evicts ∧ (s.setCtx c x).objLine = s.objLine ∧ (s.setCtx c x).acts = s.acts ∧ (s.setCtx c x).installing = s.installing ∧
    (s.setCtx c x).installOpen = s.installOpen ∧
    (s.setCtx c x).snapshots = s.snapshots ∧ (s.setCtx c x).hot = s.hot ∧ (s.setCtx c x).manifests = s.manifests ∧ (s.setCtx c x).queues = s.queues ∧
    (s.setCtx c x).arbs = s.arbs ∧ (s.setCtx c x).slotOwner = s.slotOwner ∧ (s.setCtx c x).accOwner = s.accOwner ∧ (s.setCtx c x).saving = s.saving ∧
    (s.setCtx c x).swapped = s.swapped ∧ (s.setCtx c x).progress = s.progress ∧ (s.setCtx c x).scrubPos = s.scrubPos ∧
    (s.setCtx c x).links = s.links ∧ (s.setCtx c x).recvs = s.recvs ∧ (s.setCtx c x).sends = s.sends ∧ (s.setCtx c x).saddles = s.saddles ∧
    (s.setCtx c x).passes = s.passes ∧ (s.setCtx c x).lostSet = s.lostSet ∧ (s.setCtx c x).saddleLag = s.saddleLag ∧
    (s.setCtx c x).freePoison = s.freePoison ∧ (s.setCtx c x).laneRecs = s.laneRecs := by
  refine ⟨?_, ?_, ?_, ?_, ?_, ?_, ?_, ?_, ?_, ?_, ?_, ?_, ?_, ?_, ?_, ?_, ?_, ?_, ?_, ?_, ?_, ?_, ?_, ?_, ?_, ?_, ?_, ?_, ?_, ?_, ?_, ?_, ?_, ?_, ?_, ?_, ?_, ?_, ?_, ?_, ?_, ?_, ?_, ?_⟩ <;> rfl

@[simp] theorem State.modCtx_frame (s : State) (c : CtxId) (f : Ctx → Ctx) :
    (s.modCtx c f).pending = s.pending ∧ (s.modCtx c f).fresh = s.fresh ∧ (s.modCtx c f).mem = s.mem ∧ (s.modCtx c f).power = s.power ∧
    (s.modCtx c f).boot = s.boot ∧ (s.modCtx c f).vesper = s.vesper ∧ (s.modCtx c f).clock = s.clock ∧ (s.modCtx c f).regs = s.regs ∧
    (s.modCtx c f).integ = s.integ ∧ (s.modCtx c f).ports = s.ports ∧ (s.modCtx c f).sync = s.sync ∧ (s.modCtx c f).objs = s.objs ∧
    (s.modCtx c f).images = s.images ∧ (s.modCtx c f).stepUnits = s.stepUnits ∧ (s.modCtx c f).shards = s.shards ∧
    (s.modCtx c f).retained = s.retained ∧ (s.modCtx c f).pools = s.pools ∧ (s.modCtx c f).slotStats = s.slotStats ∧ (s.modCtx c f).loads = s.loads ∧
    (s.modCtx c f).evicts = s.evicts ∧ (s.modCtx c f).objLine = s.objLine ∧ (s.modCtx c f).acts = s.acts ∧ (s.modCtx c f).installing = s.installing ∧
    (s.modCtx c f).installOpen = s.installOpen ∧
    (s.modCtx c f).snapshots = s.snapshots ∧ (s.modCtx c f).hot = s.hot ∧ (s.modCtx c f).manifests = s.manifests ∧ (s.modCtx c f).queues = s.queues ∧
    (s.modCtx c f).arbs = s.arbs ∧ (s.modCtx c f).slotOwner = s.slotOwner ∧ (s.modCtx c f).accOwner = s.accOwner ∧ (s.modCtx c f).saving = s.saving ∧
    (s.modCtx c f).swapped = s.swapped ∧ (s.modCtx c f).progress = s.progress ∧ (s.modCtx c f).scrubPos = s.scrubPos ∧
    (s.modCtx c f).links = s.links ∧ (s.modCtx c f).recvs = s.recvs ∧ (s.modCtx c f).sends = s.sends ∧ (s.modCtx c f).saddles = s.saddles ∧
    (s.modCtx c f).passes = s.passes ∧ (s.modCtx c f).lostSet = s.lostSet ∧ (s.modCtx c f).saddleLag = s.saddleLag ∧
    (s.modCtx c f).freePoison = s.freePoison ∧ (s.modCtx c f).laneRecs = s.laneRecs := by
  refine ⟨?_, ?_, ?_, ?_, ?_, ?_, ?_, ?_, ?_, ?_, ?_, ?_, ?_, ?_, ?_, ?_, ?_, ?_, ?_, ?_, ?_, ?_, ?_, ?_, ?_, ?_, ?_, ?_, ?_, ?_, ?_, ?_, ?_, ?_, ?_, ?_, ?_, ?_, ?_, ?_, ?_, ?_, ?_, ?_⟩ <;> rfl

@[simp] theorem State.modSeq_frame (s : State) (c : CtxId) (q : SeqId) (f : Seq → Seq) :
    (s.modSeq c q f).pending = s.pending ∧ (s.modSeq c q f).fresh = s.fresh ∧ (s.modSeq c q f).mem = s.mem ∧ (s.modSeq c q f).power = s.power ∧
    (s.modSeq c q f).boot = s.boot ∧ (s.modSeq c q f).vesper = s.vesper ∧ (s.modSeq c q f).clock = s.clock ∧ (s.modSeq c q f).regs = s.regs ∧
    (s.modSeq c q f).integ = s.integ ∧ (s.modSeq c q f).ports = s.ports ∧ (s.modSeq c q f).sync = s.sync ∧ (s.modSeq c q f).objs = s.objs ∧
    (s.modSeq c q f).images = s.images ∧ (s.modSeq c q f).stepUnits = s.stepUnits ∧ (s.modSeq c q f).shards = s.shards ∧
    (s.modSeq c q f).retained = s.retained ∧ (s.modSeq c q f).pools = s.pools ∧ (s.modSeq c q f).slotStats = s.slotStats ∧
    (s.modSeq c q f).loads = s.loads ∧ (s.modSeq c q f).evicts = s.evicts ∧ (s.modSeq c q f).objLine = s.objLine ∧ (s.modSeq c q f).acts = s.acts ∧
    (s.modSeq c q f).installing = s.installing ∧ (s.modSeq c q f).installOpen = s.installOpen ∧
    (s.modSeq c q f).snapshots = s.snapshots ∧ (s.modSeq c q f).hot = s.hot ∧
    (s.modSeq c q f).manifests = s.manifests ∧ (s.modSeq c q f).queues = s.queues ∧ (s.modSeq c q f).arbs = s.arbs ∧
    (s.modSeq c q f).slotOwner = s.slotOwner ∧ (s.modSeq c q f).accOwner = s.accOwner ∧ (s.modSeq c q f).saving = s.saving ∧
    (s.modSeq c q f).swapped = s.swapped ∧ (s.modSeq c q f).progress = s.progress ∧ (s.modSeq c q f).scrubPos = s.scrubPos ∧
    (s.modSeq c q f).links = s.links ∧ (s.modSeq c q f).recvs = s.recvs ∧ (s.modSeq c q f).sends = s.sends ∧ (s.modSeq c q f).saddles = s.saddles ∧
    (s.modSeq c q f).passes = s.passes ∧ (s.modSeq c q f).lostSet = s.lostSet ∧ (s.modSeq c q f).saddleLag = s.saddleLag ∧
    (s.modSeq c q f).freePoison = s.freePoison ∧ (s.modSeq c q f).laneRecs = s.laneRecs := by
  refine ⟨?_, ?_, ?_, ?_, ?_, ?_, ?_, ?_, ?_, ?_, ?_, ?_, ?_, ?_, ?_, ?_, ?_, ?_, ?_, ?_, ?_, ?_, ?_, ?_, ?_, ?_, ?_, ?_, ?_, ?_, ?_, ?_, ?_, ?_, ?_, ?_, ?_, ?_, ?_, ?_, ?_, ?_, ?_, ?_⟩ <;> rfl

@[simp] theorem State.modPort_frame (s : State) (p : HostPort) (f : Port → Port) :
    (s.modPort p f).pending = s.pending ∧ (s.modPort p f).fresh = s.fresh ∧ (s.modPort p f).mem = s.mem ∧ (s.modPort p f).power = s.power ∧
    (s.modPort p f).boot = s.boot ∧ (s.modPort p f).vesper = s.vesper ∧ (s.modPort p f).clock = s.clock ∧ (s.modPort p f).regs = s.regs ∧
    (s.modPort p f).integ = s.integ ∧ (s.modPort p f).ctxs = s.ctxs ∧ (s.modPort p f).sync = s.sync ∧ (s.modPort p f).objs = s.objs ∧
    (s.modPort p f).images = s.images ∧ (s.modPort p f).stepUnits = s.stepUnits ∧ (s.modPort p f).shards = s.shards ∧
    (s.modPort p f).retained = s.retained ∧ (s.modPort p f).pools = s.pools ∧ (s.modPort p f).slotStats = s.slotStats ∧
    (s.modPort p f).loads = s.loads ∧ (s.modPort p f).evicts = s.evicts ∧ (s.modPort p f).objLine = s.objLine ∧ (s.modPort p f).acts = s.acts ∧
    (s.modPort p f).installing = s.installing ∧ (s.modPort p f).installOpen = s.installOpen ∧
    (s.modPort p f).snapshots = s.snapshots ∧ (s.modPort p f).hot = s.hot ∧
    (s.modPort p f).manifests = s.manifests ∧ (s.modPort p f).queues = s.queues ∧ (s.modPort p f).arbs = s.arbs ∧
    (s.modPort p f).slotOwner = s.slotOwner ∧ (s.modPort p f).accOwner = s.accOwner ∧ (s.modPort p f).saving = s.saving ∧
    (s.modPort p f).swapped = s.swapped ∧ (s.modPort p f).progress = s.progress ∧ (s.modPort p f).scrubPos = s.scrubPos ∧
    (s.modPort p f).links = s.links ∧ (s.modPort p f).recvs = s.recvs ∧ (s.modPort p f).sends = s.sends ∧ (s.modPort p f).saddles = s.saddles ∧
    (s.modPort p f).passes = s.passes ∧ (s.modPort p f).lostSet = s.lostSet ∧ (s.modPort p f).saddleLag = s.saddleLag ∧
    (s.modPort p f).freePoison = s.freePoison ∧ (s.modPort p f).laneRecs = s.laneRecs := by
  refine ⟨?_, ?_, ?_, ?_, ?_, ?_, ?_, ?_, ?_, ?_, ?_, ?_, ?_, ?_, ?_, ?_, ?_, ?_, ?_, ?_, ?_, ?_, ?_, ?_, ?_, ?_, ?_, ?_, ?_, ?_, ?_, ?_, ?_, ?_, ?_, ?_, ?_, ?_, ?_, ?_, ?_, ?_, ?_, ?_⟩ <;> rfl

@[simp] theorem State.modLink_frame (s : State) (n : SelynPort) (f : Link → Link) :
    (s.modLink n f).pending = s.pending ∧ (s.modLink n f).fresh = s.fresh ∧ (s.modLink n f).mem = s.mem ∧ (s.modLink n f).power = s.power ∧
    (s.modLink n f).boot = s.boot ∧ (s.modLink n f).vesper = s.vesper ∧ (s.modLink n f).clock = s.clock ∧ (s.modLink n f).regs = s.regs ∧
    (s.modLink n f).integ = s.integ ∧ (s.modLink n f).ports = s.ports ∧ (s.modLink n f).ctxs = s.ctxs ∧ (s.modLink n f).sync = s.sync ∧
    (s.modLink n f).objs = s.objs ∧ (s.modLink n f).images = s.images ∧ (s.modLink n f).stepUnits = s.stepUnits ∧ (s.modLink n f).shards = s.shards ∧
    (s.modLink n f).retained = s.retained ∧ (s.modLink n f).pools = s.pools ∧ (s.modLink n f).slotStats = s.slotStats ∧
    (s.modLink n f).loads = s.loads ∧ (s.modLink n f).evicts = s.evicts ∧ (s.modLink n f).objLine = s.objLine ∧ (s.modLink n f).acts = s.acts ∧
    (s.modLink n f).installing = s.installing ∧ (s.modLink n f).installOpen = s.installOpen ∧
    (s.modLink n f).snapshots = s.snapshots ∧ (s.modLink n f).hot = s.hot ∧
    (s.modLink n f).manifests = s.manifests ∧ (s.modLink n f).queues = s.queues ∧ (s.modLink n f).arbs = s.arbs ∧
    (s.modLink n f).slotOwner = s.slotOwner ∧ (s.modLink n f).accOwner = s.accOwner ∧ (s.modLink n f).saving = s.saving ∧
    (s.modLink n f).swapped = s.swapped ∧ (s.modLink n f).progress = s.progress ∧ (s.modLink n f).scrubPos = s.scrubPos ∧
    (s.modLink n f).recvs = s.recvs ∧ (s.modLink n f).sends = s.sends ∧ (s.modLink n f).saddles = s.saddles ∧ (s.modLink n f).passes = s.passes ∧
    (s.modLink n f).lostSet = s.lostSet ∧ (s.modLink n f).saddleLag = s.saddleLag ∧
    (s.modLink n f).freePoison = s.freePoison ∧ (s.modLink n f).laneRecs = s.laneRecs := by
  refine ⟨?_, ?_, ?_, ?_, ?_, ?_, ?_, ?_, ?_, ?_, ?_, ?_, ?_, ?_, ?_, ?_, ?_, ?_, ?_, ?_, ?_, ?_, ?_, ?_, ?_, ?_, ?_, ?_, ?_, ?_, ?_, ?_, ?_, ?_, ?_, ?_, ?_, ?_, ?_, ?_, ?_, ?_, ?_, ?_⟩ <;> rfl

@[simp] theorem State.modQueue_frame (s : State) (i : Nat) (f : Queue → Queue) :
    (s.modQueue i f).pending = s.pending ∧ (s.modQueue i f).fresh = s.fresh ∧ (s.modQueue i f).mem = s.mem ∧ (s.modQueue i f).power = s.power ∧
    (s.modQueue i f).boot = s.boot ∧ (s.modQueue i f).vesper = s.vesper ∧ (s.modQueue i f).clock = s.clock ∧ (s.modQueue i f).regs = s.regs ∧
    (s.modQueue i f).integ = s.integ ∧ (s.modQueue i f).ports = s.ports ∧ (s.modQueue i f).ctxs = s.ctxs ∧ (s.modQueue i f).sync = s.sync ∧
    (s.modQueue i f).objs = s.objs ∧ (s.modQueue i f).images = s.images ∧ (s.modQueue i f).stepUnits = s.stepUnits ∧
    (s.modQueue i f).shards = s.shards ∧ (s.modQueue i f).retained = s.retained ∧ (s.modQueue i f).pools = s.pools ∧
    (s.modQueue i f).slotStats = s.slotStats ∧ (s.modQueue i f).loads = s.loads ∧ (s.modQueue i f).evicts = s.evicts ∧
    (s.modQueue i f).objLine = s.objLine ∧ (s.modQueue i f).acts = s.acts ∧ (s.modQueue i f).installing = s.installing ∧
    (s.modQueue i f).installOpen = s.installOpen ∧
    (s.modQueue i f).snapshots = s.snapshots ∧ (s.modQueue i f).hot = s.hot ∧ (s.modQueue i f).manifests = s.manifests ∧
    (s.modQueue i f).arbs = s.arbs ∧ (s.modQueue i f).slotOwner = s.slotOwner ∧ (s.modQueue i f).accOwner = s.accOwner ∧
    (s.modQueue i f).saving = s.saving ∧ (s.modQueue i f).swapped = s.swapped ∧ (s.modQueue i f).progress = s.progress ∧
    (s.modQueue i f).scrubPos = s.scrubPos ∧ (s.modQueue i f).links = s.links ∧ (s.modQueue i f).recvs = s.recvs ∧ (s.modQueue i f).sends = s.sends ∧
    (s.modQueue i f).saddles = s.saddles ∧ (s.modQueue i f).passes = s.passes ∧ (s.modQueue i f).lostSet = s.lostSet ∧
    (s.modQueue i f).saddleLag = s.saddleLag ∧
    (s.modQueue i f).freePoison = s.freePoison ∧ (s.modQueue i f).laneRecs = s.laneRecs := by
  refine ⟨?_, ?_, ?_, ?_, ?_, ?_, ?_, ?_, ?_, ?_, ?_, ?_, ?_, ?_, ?_, ?_, ?_, ?_, ?_, ?_, ?_, ?_, ?_, ?_, ?_, ?_, ?_, ?_, ?_, ?_, ?_, ?_, ?_, ?_, ?_, ?_, ?_, ?_, ?_, ?_, ?_, ?_, ?_, ?_⟩ <;> rfl

@[simp] theorem State.setObj_frame (s : State) (id : U32) (o : Obj) :
    (s.setObj id o).pending = s.pending ∧ (s.setObj id o).fresh = s.fresh ∧ (s.setObj id o).mem = s.mem ∧ (s.setObj id o).power = s.power ∧
    (s.setObj id o).boot = s.boot ∧ (s.setObj id o).vesper = s.vesper ∧ (s.setObj id o).clock = s.clock ∧ (s.setObj id o).regs = s.regs ∧
    (s.setObj id o).integ = s.integ ∧ (s.setObj id o).ports = s.ports ∧ (s.setObj id o).ctxs = s.ctxs ∧ (s.setObj id o).sync = s.sync ∧
    (s.setObj id o).images = s.images ∧ (s.setObj id o).stepUnits = s.stepUnits ∧ (s.setObj id o).shards = s.shards ∧
    (s.setObj id o).retained = s.retained ∧ (s.setObj id o).pools = s.pools ∧ (s.setObj id o).slotStats = s.slotStats ∧
    (s.setObj id o).loads = s.loads ∧ (s.setObj id o).evicts = s.evicts ∧ (s.setObj id o).objLine = s.objLine ∧ (s.setObj id o).acts = s.acts ∧
    (s.setObj id o).installing = s.installing ∧ (s.setObj id o).installOpen = s.installOpen ∧
    (s.setObj id o).snapshots = s.snapshots ∧ (s.setObj id o).hot = s.hot ∧
    (s.setObj id o).manifests = s.manifests ∧ (s.setObj id o).queues = s.queues ∧ (s.setObj id o).arbs = s.arbs ∧
    (s.setObj id o).slotOwner = s.slotOwner ∧ (s.setObj id o).accOwner = s.accOwner ∧ (s.setObj id o).saving = s.saving ∧
    (s.setObj id o).swapped = s.swapped ∧ (s.setObj id o).progress = s.progress ∧ (s.setObj id o).scrubPos = s.scrubPos ∧
    (s.setObj id o).links = s.links ∧ (s.setObj id o).recvs = s.recvs ∧ (s.setObj id o).sends = s.sends ∧ (s.setObj id o).saddles = s.saddles ∧
    (s.setObj id o).passes = s.passes ∧ (s.setObj id o).lostSet = s.lostSet ∧ (s.setObj id o).saddleLag = s.saddleLag ∧
    (s.setObj id o).freePoison = s.freePoison ∧ (s.setObj id o).laneRecs = s.laneRecs := by
  refine ⟨?_, ?_, ?_, ?_, ?_, ?_, ?_, ?_, ?_, ?_, ?_, ?_, ?_, ?_, ?_, ?_, ?_, ?_, ?_, ?_, ?_, ?_, ?_, ?_, ?_, ?_, ?_, ?_, ?_, ?_, ?_, ?_, ?_, ?_, ?_, ?_, ?_, ?_, ?_, ?_, ?_, ?_, ?_, ?_⟩ <;> rfl

@[simp] theorem State.setCounter_frame (s : State) (k : Nat) (v : U32) :
    (s.setCounter k v).pending = s.pending ∧ (s.setCounter k v).fresh = s.fresh ∧ (s.setCounter k v).mem = s.mem ∧
    (s.setCounter k v).power = s.power ∧ (s.setCounter k v).boot = s.boot ∧ (s.setCounter k v).vesper = s.vesper ∧
    (s.setCounter k v).clock = s.clock ∧ (s.setCounter k v).regs = s.regs ∧ (s.setCounter k v).integ = s.integ ∧ (s.setCounter k v).ports = s.ports ∧
    (s.setCounter k v).ctxs = s.ctxs ∧ (s.setCounter k v).objs = s.objs ∧ (s.setCounter k v).images = s.images ∧
    (s.setCounter k v).stepUnits = s.stepUnits ∧ (s.setCounter k v).shards = s.shards ∧ (s.setCounter k v).retained = s.retained ∧
    (s.setCounter k v).pools = s.pools ∧ (s.setCounter k v).slotStats = s.slotStats ∧ (s.setCounter k v).loads = s.loads ∧
    (s.setCounter k v).evicts = s.evicts ∧ (s.setCounter k v).objLine = s.objLine ∧ (s.setCounter k v).acts = s.acts ∧
    (s.setCounter k v).installing = s.installing ∧ (s.setCounter k v).installOpen = s.installOpen ∧
    (s.setCounter k v).snapshots = s.snapshots ∧ (s.setCounter k v).hot = s.hot ∧
    (s.setCounter k v).manifests = s.manifests ∧ (s.setCounter k v).queues = s.queues ∧ (s.setCounter k v).arbs = s.arbs ∧
    (s.setCounter k v).slotOwner = s.slotOwner ∧ (s.setCounter k v).accOwner = s.accOwner ∧ (s.setCounter k v).saving = s.saving ∧
    (s.setCounter k v).swapped = s.swapped ∧ (s.setCounter k v).progress = s.progress ∧ (s.setCounter k v).scrubPos = s.scrubPos ∧
    (s.setCounter k v).links = s.links ∧ (s.setCounter k v).recvs = s.recvs ∧ (s.setCounter k v).sends = s.sends ∧
    (s.setCounter k v).saddles = s.saddles ∧ (s.setCounter k v).passes = s.passes ∧ (s.setCounter k v).lostSet = s.lostSet ∧
    (s.setCounter k v).saddleLag = s.saddleLag ∧
    (s.setCounter k v).freePoison = s.freePoison ∧ (s.setCounter k v).laneRecs = s.laneRecs := by
  refine ⟨?_, ?_, ?_, ?_, ?_, ?_, ?_, ?_, ?_, ?_, ?_, ?_, ?_, ?_, ?_, ?_, ?_, ?_, ?_, ?_, ?_, ?_, ?_, ?_, ?_, ?_, ?_, ?_, ?_, ?_, ?_, ?_, ?_, ?_, ?_, ?_, ?_, ?_, ?_, ?_, ?_, ?_, ?_, ?_⟩ <;> rfl

@[simp] theorem State.put_frame (s : State) (sp : Space) (off : Nat) (bs : Bytes) :
    (s.put sp off bs).pending = s.pending ∧ (s.put sp off bs).fresh = s.fresh ∧ (s.put sp off bs).power = s.power ∧ (s.put sp off bs).boot = s.boot ∧
    (s.put sp off bs).vesper = s.vesper ∧ (s.put sp off bs).clock = s.clock ∧ (s.put sp off bs).regs = s.regs ∧ (s.put sp off bs).integ = s.integ ∧
    (s.put sp off bs).ports = s.ports ∧ (s.put sp off bs).ctxs = s.ctxs ∧ (s.put sp off bs).sync = s.sync ∧ (s.put sp off bs).objs = s.objs ∧
    (s.put sp off bs).images = s.images ∧ (s.put sp off bs).stepUnits = s.stepUnits ∧ (s.put sp off bs).shards = s.shards ∧
    (s.put sp off bs).retained = s.retained ∧ (s.put sp off bs).pools = s.pools ∧ (s.put sp off bs).slotStats = s.slotStats ∧
    (s.put sp off bs).loads = s.loads ∧ (s.put sp off bs).evicts = s.evicts ∧ (s.put sp off bs).objLine = s.objLine ∧
    (s.put sp off bs).acts = s.acts ∧ (s.put sp off bs).installing = s.installing ∧ (s.put sp off bs).installOpen = s.installOpen ∧
    (s.put sp off bs).snapshots = s.snapshots ∧
    (s.put sp off bs).hot = s.hot ∧ (s.put sp off bs).manifests = s.manifests ∧ (s.put sp off bs).queues = s.queues ∧
    (s.put sp off bs).arbs = s.arbs ∧ (s.put sp off bs).slotOwner = s.slotOwner ∧ (s.put sp off bs).accOwner = s.accOwner ∧
    (s.put sp off bs).saving = s.saving ∧ (s.put sp off bs).swapped = s.swapped ∧ (s.put sp off bs).progress = s.progress ∧
    (s.put sp off bs).scrubPos = s.scrubPos ∧ (s.put sp off bs).links = s.links ∧ (s.put sp off bs).recvs = s.recvs ∧
    (s.put sp off bs).sends = s.sends ∧ (s.put sp off bs).saddles = s.saddles ∧ (s.put sp off bs).passes = s.passes ∧
    (s.put sp off bs).lostSet = s.lostSet ∧ (s.put sp off bs).saddleLag = s.saddleLag ∧
    (s.put sp off bs).freePoison = s.freePoison ∧ (s.put sp off bs).laneRecs = s.laneRecs := by
  refine ⟨?_, ?_, ?_, ?_, ?_, ?_, ?_, ?_, ?_, ?_, ?_, ?_, ?_, ?_, ?_, ?_, ?_, ?_, ?_, ?_, ?_, ?_, ?_, ?_, ?_, ?_, ?_, ?_, ?_, ?_, ?_, ?_, ?_, ?_, ?_, ?_, ?_, ?_, ?_, ?_, ?_, ?_, ?_, ?_⟩ <;> rfl

@[simp] theorem State.wipe_frame (s : State) (sp : Space) (off n : Nat) :
    (s.wipe sp off n).pending = s.pending ∧ (s.wipe sp off n).fresh = s.fresh ∧ (s.wipe sp off n).power = s.power ∧ (s.wipe sp off n).boot = s.boot ∧
    (s.wipe sp off n).vesper = s.vesper ∧ (s.wipe sp off n).clock = s.clock ∧ (s.wipe sp off n).regs = s.regs ∧ (s.wipe sp off n).integ = s.integ ∧
    (s.wipe sp off n).ports = s.ports ∧ (s.wipe sp off n).ctxs = s.ctxs ∧ (s.wipe sp off n).sync = s.sync ∧ (s.wipe sp off n).objs = s.objs ∧
    (s.wipe sp off n).images = s.images ∧ (s.wipe sp off n).stepUnits = s.stepUnits ∧ (s.wipe sp off n).shards = s.shards ∧
    (s.wipe sp off n).retained = s.retained ∧ (s.wipe sp off n).pools = s.pools ∧ (s.wipe sp off n).slotStats = s.slotStats ∧
    (s.wipe sp off n).loads = s.loads ∧ (s.wipe sp off n).evicts = s.evicts ∧ (s.wipe sp off n).objLine = s.objLine ∧
    (s.wipe sp off n).acts = s.acts ∧ (s.wipe sp off n).installing = s.installing ∧ (s.wipe sp off n).installOpen = s.installOpen ∧
    (s.wipe sp off n).snapshots = s.snapshots ∧
    (s.wipe sp off n).hot = s.hot ∧ (s.wipe sp off n).manifests = s.manifests ∧ (s.wipe sp off n).queues = s.queues ∧
    (s.wipe sp off n).arbs = s.arbs ∧ (s.wipe sp off n).slotOwner = s.slotOwner ∧ (s.wipe sp off n).accOwner = s.accOwner ∧
    (s.wipe sp off n).saving = s.saving ∧ (s.wipe sp off n).swapped = s.swapped ∧ (s.wipe sp off n).progress = s.progress ∧
    (s.wipe sp off n).scrubPos = s.scrubPos ∧ (s.wipe sp off n).links = s.links ∧ (s.wipe sp off n).recvs = s.recvs ∧
    (s.wipe sp off n).sends = s.sends ∧ (s.wipe sp off n).saddles = s.saddles ∧ (s.wipe sp off n).passes = s.passes ∧
    (s.wipe sp off n).lostSet = s.lostSet ∧ (s.wipe sp off n).saddleLag = s.saddleLag ∧
    (s.wipe sp off n).freePoison = s.freePoison ∧ (s.wipe sp off n).laneRecs = s.laneRecs := by
  refine ⟨?_, ?_, ?_, ?_, ?_, ?_, ?_, ?_, ?_, ?_, ?_, ?_, ?_, ?_, ?_, ?_, ?_, ?_, ?_, ?_, ?_, ?_, ?_, ?_, ?_, ?_, ?_, ?_, ?_, ?_, ?_, ?_, ?_, ?_, ?_, ?_, ?_, ?_, ?_, ?_, ?_, ?_, ?_, ?_⟩ <;> rfl

@[simp] theorem State.move_frame (s : State) (a : Space) (x : Nat) (b : Space) (y n : Nat) :
    (s.move a x b y n).pending = s.pending ∧ (s.move a x b y n).fresh = s.fresh ∧ (s.move a x b y n).power = s.power ∧
    (s.move a x b y n).boot = s.boot ∧ (s.move a x b y n).vesper = s.vesper ∧ (s.move a x b y n).clock = s.clock ∧ (s.move a x b y n).regs = s.regs ∧
    (s.move a x b y n).integ = s.integ ∧ (s.move a x b y n).ports = s.ports ∧ (s.move a x b y n).ctxs = s.ctxs ∧ (s.move a x b y n).sync = s.sync ∧
    (s.move a x b y n).objs = s.objs ∧ (s.move a x b y n).images = s.images ∧ (s.move a x b y n).stepUnits = s.stepUnits ∧
    (s.move a x b y n).shards = s.shards ∧ (s.move a x b y n).retained = s.retained ∧ (s.move a x b y n).pools = s.pools ∧
    (s.move a x b y n).slotStats = s.slotStats ∧ (s.move a x b y n).loads = s.loads ∧ (s.move a x b y n).evicts = s.evicts ∧
    (s.move a x b y n).objLine = s.objLine ∧ (s.move a x b y n).acts = s.acts ∧ (s.move a x b y n).installing = s.installing ∧
    (s.move a x b y n).installOpen = s.installOpen ∧
    (s.move a x b y n).snapshots = s.snapshots ∧ (s.move a x b y n).hot = s.hot ∧ (s.move a x b y n).manifests = s.manifests ∧
    (s.move a x b y n).queues = s.queues ∧ (s.move a x b y n).arbs = s.arbs ∧ (s.move a x b y n).slotOwner = s.slotOwner ∧
    (s.move a x b y n).accOwner = s.accOwner ∧ (s.move a x b y n).saving = s.saving ∧ (s.move a x b y n).swapped = s.swapped ∧
    (s.move a x b y n).progress = s.progress ∧ (s.move a x b y n).scrubPos = s.scrubPos ∧ (s.move a x b y n).links = s.links ∧
    (s.move a x b y n).recvs = s.recvs ∧ (s.move a x b y n).sends = s.sends ∧ (s.move a x b y n).saddles = s.saddles ∧
    (s.move a x b y n).passes = s.passes ∧ (s.move a x b y n).lostSet = s.lostSet ∧ (s.move a x b y n).saddleLag = s.saddleLag ∧
    (s.move a x b y n).freePoison = s.freePoison ∧ (s.move a x b y n).laneRecs = s.laneRecs := by
  refine ⟨?_, ?_, ?_, ?_, ?_, ?_, ?_, ?_, ?_, ?_, ?_, ?_, ?_, ?_, ?_, ?_, ?_, ?_, ?_, ?_, ?_, ?_, ?_, ?_, ?_, ?_, ?_, ?_, ?_, ?_, ?_, ?_, ?_, ?_, ?_, ?_, ?_, ?_, ?_, ?_, ?_, ?_, ?_, ?_⟩ <;> rfl

/-! ### What a lookup answers after an update -/

@[simp] theorem State.ctx_setCtx_same (s : State) (c : CtxId) (x : Ctx) : (s.setCtx c x).ctx c = x := by simp [State.ctx, State.setCtx]

theorem State.ctx_setCtx_of_ne (s : State) {c d : CtxId} (x : Ctx) (h : d ≠ c) : (s.setCtx c x).ctx d = s.ctx d := by
  have h' : d.toNat ≠ c.toNat := fun e => h (BitVec.eq_of_toNat_eq e)
  simp [State.ctx, State.setCtx, Tab.getD_set_of_ne _ _ _ h']

@[simp] theorem State.ctx_modCtx_same (s : State) (c : CtxId) (f : Ctx → Ctx) : (s.modCtx c f).ctx c = f (s.ctx c) := by simp [State.modCtx]

theorem State.ctx_modCtx_of_ne (s : State) {c d : CtxId} (f : Ctx → Ctx) (h : d ≠ c) : (s.modCtx c f).ctx d = s.ctx d := by
  simp [State.modCtx, State.ctx_setCtx_of_ne s _ h]

@[simp] theorem State.port_modPort_same (s : State) (p : HostPort) (f : Port → Port) : (s.modPort p f).port p = f (s.port p) := by
  simp [State.port, State.modPort]

theorem State.port_modPort_of_ne (s : State) {p q : HostPort} (f : Port → Port) (h : q ≠ p) : (s.modPort p f).port q = s.port q := by
  have h' : q.toNat ≠ p.toNat := fun e => h (BitVec.eq_of_toNat_eq e)
  simp [State.port, State.modPort, Tab.getD_set_of_ne _ _ _ h']

@[simp] theorem State.link_modLink_same (s : State) (n : SelynPort) (f : Link → Link) : (s.modLink n f).link n = f (s.link n) := by
  simp [State.link, State.modLink]

theorem State.link_modLink_of_ne (s : State) {n m : SelynPort} (f : Link → Link) (h : m ≠ n) : (s.modLink n f).link m = s.link m := by
  have h' : m.val ≠ n.val := fun e => h (Fin.ext e)
  simp [State.link, State.modLink, Tab.getD_set_of_ne _ _ _ h']

@[simp] theorem State.queue_modQueue_same (s : State) (i : Nat) (f : Queue → Queue) : (s.modQueue i f).queue i = f (s.queue i) := by
  simp [State.queue, State.modQueue]

theorem State.queue_modQueue_of_ne (s : State) {i j : Nat} (f : Queue → Queue) (h : j ≠ i) : (s.modQueue i f).queue j = s.queue j := by
  simp [State.queue, State.modQueue, Tab.getD_set_of_ne _ _ _ h]

@[simp] theorem State.obj?_setObj_same (s : State) (id : U32) (o : Obj) : (s.setObj id o).obj? id = some o := by
  simp [State.obj?, State.setObj, Tab.get?_set]

theorem State.obj?_setObj_of_ne (s : State) {id j : U32} (o : Obj) (h : j ≠ id) : (s.setObj id o).obj? j = s.obj? j := by
  have h' : j.toNat ≠ id.toNat := fun e => h (BitVec.eq_of_toNat_eq e)
  simp [State.obj?, State.setObj, Tab.get?_set, h']

@[simp] theorem State.counter_setCounter_same (s : State) (k : Nat) (v : U32) : (s.setCounter k v).counter k = v := by
  unfold State.counter State.setCounter
  by_cases h : v = 0
  · dsimp only
    rw [if_pos h, Tab.getD_erase, if_pos rfl, h]
  · rw [if_neg h, Tab.getD_set_same]

theorem State.counter_setCounter_of_ne (s : State) {k j : Nat} (v : U32) (h : j ≠ k) : (s.setCounter k v).counter j = s.counter j := by
  unfold State.counter State.setCounter
  dsimp only
  by_cases hv : v = 0
  · rw [if_pos hv, Tab.getD_erase, if_neg h]
  · rw [if_neg hv, Tab.getD_set_of_ne _ _ _ h]

@[simp] theorem Ctx.seq_setSeq_same (x : Ctx) (q : SeqId) (v : Seq) : (x.setSeq q v).seq q = v := by simp [Ctx.seq, Ctx.setSeq]

theorem SeqId.num_injective {p q : SeqId} (h : p.num = q.num) : p = q := by
  cases p <;> cases q <;> first | rfl | (simp [SeqId.num] at h)

theorem Ctx.seq_setSeq_of_ne (x : Ctx) {q p : SeqId} (v : Seq) (h : p ≠ q) : (x.setSeq q v).seq p = x.seq p := by
  have h' : p.num ≠ q.num := fun e => h (SeqId.num_injective e)
  simp [Ctx.seq, Ctx.setSeq, Tab.getD_set_of_ne _ _ _ h']

@[simp] theorem Ctx.seq_modSeq_same (x : Ctx) (q : SeqId) (f : Seq → Seq) : (x.modSeq q f).seq q = f (x.seq q) := by simp [Ctx.modSeq]

theorem Ctx.seq_modSeq_of_ne (x : Ctx) {q p : SeqId} (f : Seq → Seq) (h : p ≠ q) : (x.modSeq q f).seq p = x.seq p := by
  simp [Ctx.modSeq, Ctx.seq_setSeq_of_ne x _ h]

/-- A context's other fields do not move with a sequencer. -/
theorem Ctx.modSeq_eq (x : Ctx) (q : SeqId) (f : Seq → Seq) : x.modSeq q f = { x with seqs := x.seqs.set q.num (f (x.seq q)) } := rfl

theorem Seq.reg_setReg_same (v : Seq) (r : BitVec 4) (w : U64) : (v.setReg r w).reg r = w := by
  unfold Seq.reg Seq.setReg
  by_cases h : w = 0
  · dsimp only
    rw [if_pos h, Tab.getD_erase, if_pos rfl, h]
  · dsimp only
    rw [if_neg h, Tab.getD_set_same]

theorem Seq.reg_setReg_of_ne (v : Seq) {r j : BitVec 4} (w : U64) (h : j ≠ r) : (v.setReg r w).reg j = v.reg j := by
  have h' : j.toNat ≠ r.toNat := fun e => h (BitVec.eq_of_toNat_eq e)
  unfold Seq.reg Seq.setReg
  by_cases hw : w = 0
  · show Tab.getD (if w = 0 then _ else _) _ _ = _
    rw [if_pos hw, Tab.getD_erase, if_neg h']
  · show Tab.getD (if w = 0 then _ else _) _ _ = _
    rw [if_neg hw, Tab.getD_set_of_ne _ _ _ h']

/-! ### Bytes of a space -/

@[simp] theorem State.length_get (s : State) (sp : Space) (off n : Nat) : (s.get sp off n).length = n := Memory.length_read _ _ _

/-- Bytes just written read back. -/
theorem State.get_put_same (s : State) (sp : Space) (off : Nat) (bs : Bytes) : (s.put sp off bs).get sp off bs.length = bs :=
  Memory.read_write _ _ _

/-- Bytes that a write does not touch read as before. -/
theorem State.get_put_of_not (s : State) (sp sp' : Space) (off off' n : Nat) (bs : Bytes)
    (h : sp'.key off' + n ≤ sp.key off ∨ sp.key off + bs.length ≤ sp'.key off') : (s.put sp off bs).get sp' off' n = s.get sp' off' n :=
  Memory.read_write_of_not _ _ _ _ _ h

end Machine
end Sys2Proof
end

