-- ==== Sys2Proof/Laws/Ops.lean ====
section
/-! SUPPORT. Once for each shared operation, what it can do: the sequencer attempt, the engine command, and the ends of both. -/

namespace Sys2Proof.Machine

/-! ### A sequencer's attempt -/

theorem seqReady_active {s : State} {c : CtxId} {q : SeqId} {here : Bool} (h : seqReady s c q here = true) :
    (s.ctx c).active = true ∧ ((s.ctx c).seq q).status = .running ∧ (s.ctx c).run.isSome = true := by
  unfold seqReady at h
  simp only [Bool.and_eq_true, decide_eq_true_eq] at h
  exact ⟨h.1.1.1.1, h.1.1.1.2, h.1.1.2⟩

/-- A ready sequencer's instruction has its effect. -/
theorem State.runSeq_of_ready {s : State} {c : CtxId} {q : SeqId} {here : Bool} (h : seqReady s c q here = true) (f : State → State) :
    s.runSeq c q here f = f s := by
  obtain ⟨ha, hr, hx⟩ := seqReady_active h
  unfold seqReady at h
  unfold State.runSeq
  dsimp only at h ⊢
  rw [if_neg (by
    cases hu : (s.ctx c).run
    · simp [hu] at hx
    · simp [ha, hr])]
  cases hi : (s.ctx c).image with
  | none => simp [hi] at h
  | some i =>
    simp only [hi, Bool.and_eq_true, decide_eq_true_eq] at h
    dsimp only
    have h1 := h.1.2.1
    have h2 := h.1.2.2
    rw [if_neg, if_pos h.2]
    simp only [Bool.or_eq_true, decide_eq_true_eq, not_or]
    exact ⟨Nat.not_le.mpr h1, by simpa using h2⟩

/-- An instruction at a sequencer does nothing, faults the context, or has its effect. -/
theorem State.runSeq_cases (s : State) (c : CtxId) (q : SeqId) (here : Bool) (f : State → State) :
    s.runSeq c q here f = s ∨ s.runSeq c q here f = s.faultCtx c ∨ s.runSeq c q here f = f s := by
  unfold State.runSeq
  dsimp only
  split
  · exact .inl rfl
  · split
    · exact .inl rfl
    · split
      · exact .inr (.inl rfl)
      · split
        · exact .inr (.inr rfl)
        · exact .inl rfl

@[simp] theorem State.seq_modSeq_same (s : State) (c : CtxId) (q : SeqId) (f : Seq → Seq) :
    ((s.modSeq c q f).ctx c).seq q = f ((s.ctx c).seq q) := by simp [State.modSeq]

theorem State.seqOnly_modSeq (s : State) (c : CtxId) (q : SeqId) (f : Seq → Seq) : seqOnly s (s.modSeq c q f) c q := by
  refine ⟨⟨rfl, fun d hd => State.ctx_modCtx_of_ne s _ hd⟩, ?_, fun p hp => ?_⟩
  · simp [State.modSeq, Ctx.modSeq_eq]
  · simp [State.modSeq, Ctx.seq_modSeq_of_ne _ _ hp]

/-! ### Sync counters, locks and inheritance -/

/-- Inheritance moves contexts alone (R355). -/
theorem State.raisePass_eq (s : State) : s.raisePass = { s with ctxs := s.raisePass.ctxs } := rfl

theorem State.inherit_eq (s : State) : s.inherit = { s with ctxs := s.inherit.ctxs } := by
  have h1 : ∀ (l : List Nat) (u : State), l.foldl (fun s _ => s.raisePass) u = { u with ctxs := (l.foldl (fun s _ => s.raisePass) u).ctxs } := by
    intro l
    induction l with
    | nil => intro u; rfl
    | cons a l ih => intro u; rw [List.foldl_cons, ih, State.raisePass_eq]
  have h2 : ∀ (f : State → Nat × Ctx → State) (_ : ∀ u e, f u e = { u with ctxs := (f u e).ctxs }) (l : List (Nat × Ctx)) (u : State),
      l.foldl f u = { u with ctxs := (l.foldl f u).ctxs } := by
    intro f hf l
    induction l with
    | nil => intro u; rfl
    | cons a l ih => intro u; rw [List.foldl_cons, ih, hf u a]
  unfold State.inherit
  dsimp only
  rw [h2]
  · rw [h1]
  · intro u e
    (repeat' split) <;> rfl

@[simp] theorem State.sync_inherit (s : State) : s.inherit.sync = s.sync := by rw [State.inherit_eq]
@[simp] theorem State.mem_inherit (s : State) : s.inherit.mem = s.mem := by rw [State.inherit_eq]

/-- A count stored moves counters and contexts alone, as long as it is not 0 (R346, R347). -/
theorem State.store_eq {s : State} {k : Nat} {w : U32} (h : w ≠ 0) : s.store k w = (s.setCounter k w).retest k := by
  unfold State.store
  rw [if_neg (fun e => h e.1)]

/-- Inheritance leaves every sequencer's status and position, and every field that names a state of its own. -/
theorem State.ctx_raisePass (s : State) (c : CtxId) : ∃ r, s.raisePass.ctx c = { s.ctx c with raise := r } := by
  unfold State.raisePass State.ctx Tab.getD
  dsimp only
  rw [Tab.get?_mapVal s.ctxs (fun (k : Nat) (x : Ctx) => ({ x with raise := (if x.prio.toNat < s.waitingBase (BitVec.ofNat 8 k) then
    some (BitVec.ofNat 3 (s.waitingBase (BitVec.ofNat 8 k))) else none) } : Ctx))]
  cases s.ctxs.get? c.toNat with
  | none => exact ⟨none, rfl⟩
  | some x => exact ⟨_, rfl⟩

/-- Inheritance changes of a context only what it inherits, and whether it resumes in an episode (R355). -/
theorem State.ctx_inherit (s : State) (c : CtxId) :
    ∃ r b e, s.inherit.ctx c = { s.ctx c with raise := r, resuming := b, episode := e } := by
  have h0 : ∃ r, ({ s with ctxs := s.ctxs.map (fun e => (e.1, { e.2 with raise := none })) } : State).ctx c = { s.ctx c with raise := r } := by
    unfold State.ctx Tab.getD
    dsimp only
    rw [Tab.get?_mapVal s.ctxs (fun (_ : Nat) (x : Ctx) => ({ x with raise := none } : Ctx))]
    cases s.ctxs.get? c.toNat with
    | none => exact ⟨none, rfl⟩
    | some x => exact ⟨_, rfl⟩
  have h1 : ∀ (l : List Nat) (u : State), (∃ r, u.ctx c = { s.ctx c with raise := r }) →
      ∃ r, (l.foldl (fun s _ => s.raisePass) u).ctx c = { s.ctx c with raise := r } := by
    intro l
    induction l with
    | nil => intro u hu; exact hu
    | cons a l ih =>
      intro u hu
      obtain ⟨r, hr⟩ := hu
      obtain ⟨r', hr'⟩ := u.ctx_raisePass c
      exact ih _ ⟨r', by rw [hr', hr]⟩
  have h2 : ∀ (f : State → Nat × Ctx → State)
      (_ : ∀ u e, (∃ r b e, u.ctx c = { s.ctx c with raise := r, resuming := b, episode := e }) →
        ∃ r b e', (f u e).ctx c = { s.ctx c with raise := r, resuming := b, episode := e' })
      (l : List (Nat × Ctx)) (u : State), (∃ r b e, u.ctx c = { s.ctx c with raise := r, resuming := b, episode := e }) →
      ∃ r b e, (l.foldl f u).ctx c = { s.ctx c with raise := r, resuming := b, episode := e } := by
    intro f hf l
    induction l with
    | nil => intro u hu; exact hu
    | cons a l ih => intro u hu; exact ih _ (hf u a hu)
  unfold State.inherit
  refine h2 _ ?_ _ _ ?_
  · intro u e hu
    dsimp only
    split
    · split
      · exact hu
      · rename_i k hk
        obtain ⟨r, b, ep, hu⟩ := hu
        by_cases hc : c = BitVec.ofNat 8 e.1
        · rw [← hc, State.ctx_modCtx_same, hu]; exact ⟨_, _, _, rfl⟩
        · rw [State.ctx_modCtx_of_ne _ _ hc]; exact ⟨r, b, ep, hu⟩
    · exact hu
  · obtain ⟨r, hr⟩ := h1 _ _ h0
    exact ⟨r, (s.ctx c).resuming, (s.ctx c).episode, hr⟩

/-! ### An engine command -/

theorem engineReady_iff {s : State} {c : CtxId} {on : State.Copies} {acc : List Access} :
    engineReady s c on acc = true ↔
      (s.ctx c).active = true ∧ s.started c on = true ∧ s.resident acc = true ∧ s.poisonedAccess acc = none := by
  simp [engineReady, and_assoc]

/-- What can come of an engine command: nothing, a fault, a wait, a stop, or its effect or that of its unit at a poisoned parcel, and its end. -/
theorem State.runCommand_cases (s : State) (c : CtxId) (on : State.Copies) (allowed : Bool) (acc : List Access)
    (p : Access → Option (State → State)) (eff finish : State → State) (blocked : Option (Nat × Nat)) :
    s.runCommand c on allowed acc p eff finish blocked = s ∨ s.runCommand c on allowed acc p eff finish blocked = s.faultCtx c ∨
      (∃ k b, s.runCommand c on allowed acc p eff finish blocked = s.noteWait c on k b) ∨
      (∃ a, s.runCommand c on allowed acc p eff finish blocked = s.stall c on a) ∨
      s.runCommand c on allowed acc p eff finish blocked = s.stopStep c .uncorrectable ∨
      (∃ a f, p a = some f ∧ s.runCommand c on allowed acc p eff finish blocked = finish (f (s.endWait c on))) ∨
      s.runCommand c on allowed acc p eff finish blocked = finish (eff (s.endWait c on)) := by
  unfold State.runCommand
  split
  · exact .inl rfl
  · split
    · exact .inr (.inl rfl)
    · split
      · exact .inr (.inr (.inl ⟨_, _, rfl⟩))
      · split
        · exact .inr (.inr (.inl ⟨_, _, rfl⟩))
        · split
          · split
            · exact .inr (.inr (.inr (.inl ⟨_, rfl⟩)))
            · split
              · exact .inr (.inr (.inr (.inr (.inl rfl))))
              · exact .inr (.inr (.inr (.inr (.inr (.inl ⟨_, _, ‹_›, rfl⟩)))))
          · exact .inr (.inr (.inr (.inr (.inr (.inr rfl)))))

/-- An allowed command of a ready engine that nothing else holds up has its effect and ends; its wait, if it was in one, is counted. -/
theorem State.runCommand_of_ready {s : State} {c : CtxId} {on : State.Copies} {acc : List Access} (h : engineReady s c on acc = true)
    (p : Access → Option (State → State)) (eff finish : State → State) :
    s.runCommand c on true acc p eff finish = finish (eff (s.endWait c on)) := by
  obtain ⟨ha, hs, hr, hp⟩ := engineReady_iff.mp h
  simp [State.runCommand, ha, hs, hr, hp]

/-- A command refused under R96 faults its context. -/
theorem State.runCommand_refused {s : State} {c : CtxId} {on : State.Copies} (h : (s.ctx c).active = true) (hs : s.started c on = true)
    (acc : List Access) (p : Access → Option (State → State)) (eff finish : State → State) (blocked : Option (Nat × Nat)) :
    s.runCommand c on false acc p eff finish blocked = s.faultCtx c := by
  simp [State.runCommand, h, hs]

/-- An allowed command waits for an object that is not RESIDENT, and the wait is noted as one for its token (R58, R311). -/
theorem State.runCommand_waits {s : State} {c : CtxId} {on : State.Copies} {acc : List Access} (ha : (s.ctx c).active = true)
    (hs : s.started c on = true) (h : s.resident acc = false) (p : Access → Option (State → State)) (eff finish : State → State)
    (blocked : Option (Nat × Nat)) : s.runCommand c on true acc p eff finish blocked = s.noteWait c on 0 (s.firstAbsent acc) := by
  simp [State.runCommand, ha, hs, h]

/-- An allowed command that meets a poisoned parcel stalls for re-provisioning, has its unit's own effect, or stops its step UNCORRECTABLE (R325, R326). -/
theorem State.runCommand_poison {s : State} {c : CtxId} {on : State.Copies} {acc : List Access} {a : Access} (ha : (s.ctx c).active = true)
    (hs : s.started c on = true) (hr : s.resident acc = true) (hp : s.poisonedAccess acc = some a) (p : Access → Option (State → State))
    (eff finish : State → State) :
    s.runCommand c on true acc p eff finish =
      if s.stalls a.id = true then s.stall c on a
      else match p a with | none => s.stopStep c .uncorrectable | some f => finish (f (s.endWait c on)) := by
  simp only [State.runCommand, ha, hs, hr, hp, Bool.not_true, Bool.or_self, Bool.false_eq_true, if_false, Option.isSome_none] <;> rfl

/-- A command of a context that is not active, or that its engine has not started, does nothing (logs 6 and 90). -/
theorem State.runCommand_inactive {s : State} {c : CtxId} {on : State.Copies} (h : ((s.ctx c).active && s.started c on) = false) (allowed : Bool)
    (acc : List Access) (p : Access → Option (State → State)) (eff finish : State → State) (blocked : Option (Nat × Nat)) :
    s.runCommand c on allowed acc p eff finish blocked = s := by
  unfold State.runCommand
  rw [if_pos]
  cases h1 : (s.ctx c).active <;> simp_all

/-- The end of a command's wait counts in the sequencers that issued it, and moves nothing else (R58). -/
theorem State.endWait_eq (s : State) (c : CtxId) (on : State.Copies) : s.endWait c on = { s with ctxs := (s.endWait c on).ctxs } := by
  rfl
theorem State.ctx_endWait (s : State) (c d : CtxId) (on : State.Copies) :
    (s.endWait c on).ctx d = { s.ctx d with seqs := ((s.endWait c on).ctx d).seqs } := by
  have key : ∀ (l : State.Copies) (f : Nat → Seq → Seq) (x : Ctx),
      l.foldl (fun y p => y.modSeq p.2.1 (f (queueEngine p.1))) x = { x with seqs := (l.foldl (fun y p => y.modSeq p.2.1 (f (queueEngine p.1))) x).seqs } := by
    intro l f
    induction l with
    | nil => intro x; rfl
    | cons p l ih => intro x; rw [List.foldl_cons, ih, Ctx.modSeq_eq]
  unfold State.endWait State.modIssuers
  by_cases h : d = c
  · subst h; rw [State.ctx_modCtx_same]; exact key on (fun e v => v.cmdGo e s.now) (s.ctx d)
  · rw [State.ctx_modCtx_of_ne _ _ h]

/-- With no step waiting for its writes, nothing settles (R376). -/
theorem State.settle_of_none {s : State} {c : CtxId} (h : (s.ctx c).finishing = []) : s.settle c = s := by
  simp [State.settle, h]

/-- A command that ends in a context with no step waiting for its writes touches that context and its queue alone. -/
theorem State.engineDone_eq {s : State} {c : CtxId} (h : (s.ctx c).finishing = []) (q : SeqId) (engine : Nat) :
    s.engineDone c q engine = (s.clearRunning (queueIx engine q) c).modCtx c (fun x =>
      { x.modSeq q (fun v => State.doneRetest { v with unfinished := tabDec v.unfinished engine } engine) with finishing := [] }) := by
  have e : (s.clearRunning (queueIx engine q) c).ctx c = s.ctx c := rfl
  unfold State.engineDone State.finishCommand
  rw [State.settle_of_none]
  · apply congrArg (fun f => State.setCtx _ c f)
    simp [e, Ctx.modSeq_eq, h]
  · simp [e, Ctx.modSeq_eq, h]

/-! ### Blocks -/

@[simp] theorem length_toLE (n v : Nat) : (toLE n v).length = n := by
  induction n generalizing v with
  | zero => rfl
  | succ n ih => simp [toLE, ih]

theorem length_setFld {b : Bytes} {lo n : Nat} (h : lo + n ≤ b.length) (v : Nat) : (setFld b lo n v).length = b.length := by
  simp [setFld]; omega

theorem length_substs (v : Seq) (b : Bytes) (ts : List Subst) (n : Nat) (h : ∀ t ∈ ts, t.off + t.len ≤ n) (b' : Bytes) (hb : b'.length = n) :
    (ts.foldl (fun b' t => if bitAt b t.flagByte t.flagBit then
      setFld b' t.off t.len (v.reg (BitVec.ofNat 4 (fld b t.regByte 1 / 2 ^ t.regShift))).toNat else b') b').length = n := by
  induction ts generalizing b' with
  | nil => exact hb
  | cons t ts ih =>
    refine ih (fun u hu => h u (List.mem_cons_of_mem _ hu)) _ ?_
    dsimp only
    split
    · rw [length_setFld (by rw [hb]; exact h t List.mem_cons_self), hb]
    · exact hb

/-- A substituted block is as long as the block (R518). -/
theorem length_substitute {engine n : Nat} {b : Bytes} (hw : cmdWords engine (fld b 0 1) = some n) (hb : b.length = 32 * n) (v : Seq) :
    (substitute engine b v).length = 32 * n := by
  refine length_substs v b _ _ ?_ b hb
  unfold substs cmdWords at *
  split at hw <;> first | (cases hw; done) | (cases hw; simp_all <;> (try split) <;> simp)

/-! ### Arbiters and sending -/

/-- A fold over states moves only what each of its steps moves. -/
theorem foldl_frame {α : Type} (P : State → State → Prop) (hr : ∀ s, P s s) (ht : ∀ s t u, P s t → P t u → P s u) (g : State → α → State)
    (h : ∀ s a, P s (g s a)) (l : List α) (s : State) : P s (l.foldl g s) := by
  induction l generalizing s with
  | nil => exact hr s
  | cons a l ih => exact ht _ _ _ (h s a) (ih _)

/-- An arbiter's round moves the arbiters' records and the free choice alone. -/
theorem State.arbitrate_frame (s : State) (a : Nat) (reqs : List ArbReq) :
    (s.arbitrate a reqs).2 = { s with arbs := (s.arbitrate a reqs).2.arbs, fresh := (s.arbitrate a reqs).2.fresh } := by
  have key : ∀ (l : List ArbReq) (win : ArbReq) (u : State), u = { s with arbs := u.arbs, fresh := u.fresh } →
      (l.foldl (fun s r =>
        let a0 := s.arb a r.who
        let a' := if r.who = win.who then a0.wins s.now else a0.loses s.now
        { s with arbs := s.arbs.set (arbKey a r.who) a' }) u) =
      { s with arbs := (l.foldl (fun s r =>
        let a0 := s.arb a r.who
        let a' := if r.who = win.who then a0.wins s.now else a0.loses s.now
        { s with arbs := s.arbs.set (arbKey a r.who) a' }) u).arbs, fresh := (l.foldl (fun s r =>
        let a0 := s.arb a r.who
        let a' := if r.who = win.who then a0.wins s.now else a0.loses s.now
        { s with arbs := s.arbs.set (arbKey a r.who) a' }) u).fresh } := by
    intro l win
    induction l with
    | nil => intro u hu; exact hu
    | cons r l ih => intro u hu; exact ih _ (by rw [hu])
  unfold State.arbitrate
  dsimp only
  split
  · rfl
  · split <;> split <;> first | rfl | exact key _ _ _ rfl

/-! ### Sending on a port (R396, R397) -/

theorem lagsOnly_refl (s : State) : lagsOnly s s := fun _ => ⟨rfl, fun _ => rfl⟩
theorem lagsOnly_trans (s t u : State) (h : lagsOnly s t) (h' : lagsOnly t u) : lagsOnly s u := fun c =>
  ⟨by rw [(h' c).1, (h c).1], fun q => by rw [(h' c).2 q, (h c).2 q]⟩
/-- A credit wait counted for one sequencer moves its lag record alone. -/
theorem State.countCredit_lagsOnly (s : State) (c : CtxId) (q : SeqId) (buf : Nat) (since now : U64) :
    lagsOnly s (s.modCtx c (fun x => x.modSeq q (fun v => v.count 1 buf since now))) := by
  intro d
  by_cases hd : d = c
  · subst hd
    refine ⟨by simp [Ctx.modSeq_eq], fun p => ?_⟩
    by_cases hp : p = q
    · subst hp; simp [Seq.count]
    · simp [Ctx.seq_modSeq_of_ne _ _ hp]
  · rw [State.ctx_modCtx_of_ne s _ hd]; exact ⟨rfl, fun _ => rfl⟩

theorem egressOnly_refl (s : State) : egressOnly s s := ⟨rfl, lagsOnly_refl s, rfl⟩
theorem egressOnly_trans (s t u : State) (h : egressOnly s t) (h' : egressOnly t u) : egressOnly s u :=
  ⟨by rw [h'.1, h.1], lagsOnly_trans _ _ _ h.2.1 h'.2.1, h'.2.2.trans h.2.2⟩
/-- What moves ports, arbiters and the free choice alone is an egress's own work. -/
theorem egressOnly_of_links {s t : State} (h : t = { s with links := t.links, arbs := t.arbs, fresh := t.fresh }) : egressOnly s t := by
  refine ⟨by rw [h], ?_, by rw [h]⟩
  rw [h]; exact lagsOnly_refl s
theorem State.sendsGone_egressOnly (s : State) (n : SelynPort) : egressOnly s (s.sendsGone n) := by
  have hg : ∀ (g : SendRun → Bool) (l : List SendRun), (l.map (fun r => if g r then { r with wait := none } else r)).map bareSend = l.map bareSend := by
    intro g l
    rw [List.map_map]
    refine List.map_congr_left fun r _ => ?_
    by_cases h : g r = true <;> simp [Function.comp, bareSend, h]
  unfold State.sendsGone
  dsimp only
  have h1 : ∀ g : SendRun → Bool, egressOnly s { s with sends := s.sends.map (fun r => if g r then { r with wait := none } else r) } :=
    fun g => ⟨rfl, fun _ => ⟨rfl, fun _ => rfl⟩, hg g s.sends⟩
  exact egressOnly_trans _ _ _ (h1 _)
    (foldl_frame egressOnly egressOnly_refl egressOnly_trans _ (fun s (r : SendRun) => ⟨rfl, s.countCredit_lagsOnly r.ctx r.src _ _ _, rfl⟩) _ _)
theorem State.egressRound_egressOnly (s : State) (n : SelynPort) : egressOnly s (s.egressRound n) := by
  have h := s.arbitrate_frame (113 + n.val) ((s.link n).ready.map s.frameRequest)
  unfold State.egressRound
  cases hx : s.arbitrate (113 + n.val) ((s.link n).ready.map s.frameRequest) with
  | mk o s1 =>
    rw [hx] at h
    cases o with
    | none => dsimp only at h ⊢; exact egressOnly_of_links (by rw [h])
    | some r =>
      dsimp only at h ⊢
      split
      · exact egressOnly_of_links (by rw [h])
      · exact egressOnly_trans _ _ _ (egressOnly_of_links (by rw [h]; rfl)) (State.sendsGone_egressOnly _ n)
theorem State.pumpLink_egressOnly (s : State) (n : SelynPort) : egressOnly s (s.pumpLink n) :=
  foldl_frame egressOnly egressOnly_refl egressOnly_trans _ (fun s _ => s.egressRound_egressOnly n) _ s
/-- A frame given to a port moves the ports, their arbiters' records, the free choice, and what is noted of SENDs that wait alone. -/
theorem State.giveFrame_egressOnly (s : State) (n : SelynPort) (f : Frame) : egressOnly s (s.giveFrame n f) :=
  egressOnly_trans _ (s.modLink n (fun l => l.keep f)) _ (egressOnly_of_links rfl) (State.pumpLink_egressOnly _ n)
theorem State.sendControlOf_egressOnly (s : State) (n : SelynPort) (i : Nat) (ty : Byte) (b : Bytes) : egressOnly s (s.sendControlOf n i ty b) :=
  State.giveFrame_egressOnly _ _ _
theorem State.sendControl_egressOnly (s : State) (n : SelynPort) (ty : Byte) (b : Bytes) : egressOnly s (s.sendControl n ty b) := State.giveFrame_egressOnly _ _ _
theorem State.sendOnOf_egressOnly (s : State) (ns : List SelynPort) (i : Nat) (ty : Byte) (b : Bytes) : egressOnly s (s.sendOnOf ns i ty b) :=
  foldl_frame egressOnly egressOnly_refl egressOnly_trans _ (fun _ _ => State.giveFrame_egressOnly _ _ _) _ s
theorem State.sendOn_egressOnly (s : State) (ns : List SelynPort) (ty : Byte) (b : Bytes) : egressOnly s (s.sendOn ns ty b) := State.sendOnOf_egressOnly _ _ _ _ _
theorem State.sendUpOf_egressOnly (s : State) (i : Nat) (ty : Byte) (b : Bytes) : egressOnly s (s.sendUpOf i ty b) := by
  unfold State.sendUpOf
  split
  · exact egressOnly_refl s
  · exact State.sendControlOf_egressOnly _ _ _ _ _

/-! ### The residue check (R85) -/

theorem shiftWeight_eq (k : Nat) : (shiftWeight k : Int) % 7 = 2 ^ k % 7 := by
  induction k using Nat.strongRecOn with
  | ind k ih =>
    match k with
    | 0 => rfl
    | 1 => rfl
    | 2 => rfl
    | n + 3 =>
      have h := ih n (by omega)
      have w : shiftWeight (n + 3) = shiftWeight n := by unfold shiftWeight; rw [Nat.add_mod_right]
      rw [w, h, pow_add]; omega
theorem residue7_eq (n : Int) : (residue7 n : Int) = n % 7 := Int.toNat_of_nonneg (by omega)
theorem cellResidue_eq (p : Product) : (cellResidue p : Int) = p.1 * p.2.1 % 7 := by
  simp [cellResidue, residue7_eq, Int.mul_emod]
/-- A run's check passes exactly for the sums that differ from the exact one by a multiple of 7 (R85). -/
theorem runChecks_iff (run : List Product) (sum : Int) : runChecks run sum = true ↔ sum % 7 = productSum run % 7 := by
  have h : ((run.map (fun p => cellResidue p * shiftWeight p.2.2)).sum : Int) % 7 = productSum run % 7 := by
    induction run with
    | nil => rfl
    | cons p run ih =>
      simp only [List.map_cons, List.sum_cons, productSum, Nat.cast_add, Nat.cast_mul] at ih ⊢
      rw [Int.add_emod, ih, ← Int.add_emod, Int.add_emod, Int.mul_emod, cellResidue_eq, shiftWeight_eq, Int.emod_emod_of_dvd _ (dvd_refl 7), ← Int.mul_emod, ← Int.add_emod]
  rw [runChecks, beq_iff_eq, ← Int.natCast_inj, residue7_eq, checkLane]
  push_cast
  rw [← h]; push_cast
  exact eq_comm

end Sys2Proof.Machine
end

