-- ==== Sys2Proof/Laws/Spine.lean ====
section
/-! SUPPORT. What the operations of the machine leave alone: the spine of a state is the part that only a reset, Dawn and a register write change. -/

namespace Sys2Proof.Machine

/-- What only a reset, Dawn and a register write change: the queue, the step memory in force, the phases of Dawn, the fuses, the image length and the fields
that the boot lock freezes. -/
def State.spine (s : State) :=
  (s.pending, s.stepUnits, s.boot.state, s.boot.locked, s.boot.bars, s.boot.firmware, s.boot.selftested, s.boot.fuses, s.boot.imageLength,
    (s.regs.stepmem, s.regs.treeIndex, s.regs.treeRole, s.regs.treeUplink, s.regs.treeChildren, s.regs.treeSize, s.regs.treeId))

@[simp] theorem spine_eta (s : State) :
  (s.pending, s.stepUnits, s.boot.state, s.boot.locked, s.boot.bars, s.boot.firmware, s.boot.selftested, s.boot.fuses, s.boot.imageLength,
    (s.regs.stepmem, s.regs.treeIndex, s.regs.treeRole, s.regs.treeUplink, s.regs.treeChildren, s.regs.treeSize, s.regs.treeId)) = s.spine := rfl

@[simp] theorem foldl_spine {α : Type} (f : State → α → State) (h : ∀ s a, (f s a).spine = s.spine) (l : List α) (s : State) :
    (l.foldl f s).spine = s.spine := by
  induction l generalizing s with
  | nil => rfl
  | cons a l ih => rw [List.foldl_cons, ih, h]

@[simp] theorem ite_spine (c : Prop) [Decidable c] (a b : State) : (if c then a else b).spine = if c then a.spine else b.spine := by
  split <;> rfl

@[simp] theorem mk_spine (x0 : List Instr) (x1 : Nat) (x2 : Memory) (x3 : Power) (x4 : Boot) (x5 : Vesper) (x6 : Clock) (x7 : Regs) (x8 : Integ) (x9 : Tab Port) (x10 : Tab Ctx) (x11 : Tab U32) (x12 : Tab Obj) (x13 : Tab Image) (x14 : Nat) (x15 : Tab U32) (x16 : List ShardRecord) (x17 : Tab (List Nat)) (x18 : Tab SlotStat) (x19 : List LoadRun) (x20 : List Desc) (x21 : List Desc) (x22 : List Activity) (x23 : List (BitVec 6)) (x24 : List (Nat × Nat × QEntry)) (x25 : Tab Nat) (x26 : List HotRow) (x27 : Tab (List (U32 × U64))) (x28 : Tab Queue) (x29 : Tab ArbRec) (x30 : Tab CtxId) (x31 : Tab CtxId) (x32 : Option CtxId) (x33 : List (CtxId × Bool × Nat)) (x34 : Tab (Bytes × Nat)) (x35 : Tab U64) (x36 : Tab Link) (x37 : List Recv) (x38 : List SendRun) (x39 : Tab Saddle) (x40 : Tab U32) (x41 : List (U16 × U16)) (x42 : Tab (Tab Nat)) (x43 : List (Nat × Nat)) (x44 : List LaneRec) :
    (State.mk x0 x1 x2 x3 x4 x5 x6 x7 x8 x9 x10 x11 x12 x13 x14 x15 x16 x17 x18 x19 x20 x21 x22 x23 x24 x25 x26 x27 x28 x29 x30 x31 x32 x33 x34 x35 x36 x37 x38 x39 x40 x41 x42 x43 x44).spine = (x0, x14, x4.state, x4.locked, x4.bars, x4.firmware, x4.selftested, x4.fuses, x4.imageLength, (x7.stepmem, x7.treeIndex, x7.treeRole, x7.treeUplink, x7.treeChildren, x7.treeSize, x7.treeId)) := rfl

@[simp] theorem foldl_fst_spine {α β : Type} (f : State × β → α → State × β) (h : ∀ p a, (f p a).1.spine = p.1.spine) (l : List α)
    (p : State × β) : (l.foldl f p).1.spine = p.1.spine := by
  induction l generalizing p with
  | nil => rfl
  | cons a l ih => rw [List.foldl_cons, ih, h]

@[simp] theorem foldl_snd_spine {α β : Type} (f : β × State → α → β × State) (h : ∀ p a, (f p a).2.spine = p.2.spine) (l : List α)
    (p : β × State) : (l.foldl f p).2.spine = p.2.spine := by
  induction l generalizing p with
  | nil => rfl
  | cons a l ih => rw [List.foldl_cons, ih, h]

@[simp] theorem State.setCtx_spine (s : State) (c : CtxId) (x : Ctx) : (State.setCtx s c x).spine = s.spine := by
  simp [State.setCtx]

@[simp] theorem State.modCtx_spine (s : State) (c : CtxId) (f : Ctx → Ctx) : (State.modCtx s c f).spine = s.spine := by
  simp [State.modCtx]

@[simp] theorem State.modPort_spine (s : State) (p : HostPort) (f : Port → Port) : (State.modPort s p f).spine = s.spine := by
  simp [State.modPort]

@[simp] theorem State.modLink_spine (s : State) (n : SelynPort) (f : Link → Link) : (State.modLink s n f).spine = s.spine := by
  simp [State.modLink]

@[simp] theorem State.modQueue_spine (s : State) (i : Nat) (f : Queue → Queue) : (State.modQueue s i f).spine = s.spine := by
  simp [State.modQueue]

@[simp] theorem State.setObj_spine (s : State) (id : U32) (o : Obj) : (State.setObj s id o).spine = s.spine := by
  simp [State.setObj]

@[simp] theorem State.modObj_spine (s : State) (id : U32) (f : Obj → Obj) : (State.modObj s id f).spine = s.spine := by
  unfold State.modObj
  (repeat' split) <;> simp

@[simp] theorem State.setCounter_spine (s : State) (k : Nat) (v : U32) : (State.setCounter s k v).spine = s.spine := by
  simp [State.setCounter]

@[simp] theorem State.put_spine (s : State) (sp : Space) (off : Nat) (bs : Bytes) : (State.put s sp off bs).spine = s.spine := by
  simp [State.put]

@[simp] theorem State.wipe_spine (s : State) (sp : Space) (off n : Nat) : (State.wipe s sp off n).spine = s.spine := by
  simp [State.wipe]

@[simp] theorem State.move_spine (s : State) (src : Space) (soff : Nat) (dst : Space) (doff n : Nat) : (State.move s src soff dst doff n).spine = s.spine := by
  simp [State.move]

@[simp] theorem State.freeBytes_spine (s : State) (n : Nat) : ((State.freeBytes s n).2).spine = s.spine := by
  simp [State.freeBytes]

@[simp] theorem State.putFree_spine (s : State) (sp : Space) (off n : Nat) : (State.putFree s sp off n).spine = s.spine := by
  simp [State.putFree]

@[simp] theorem State.freeWord_spine (s : State) : ((State.freeWord s).2).spine = s.spine := by
  simp [State.freeWord]

@[simp] theorem State.freePick_spine (s : State) (n : Nat) : ((State.freePick s n).2).spine = s.spine := by
  simp [State.freePick]

@[simp] theorem State.tick_spine (s : State) : (State.tick s).spine = s.spine := by
  simp [State.tick]

@[simp] theorem State.noteSaved_spine (s : State) (c : CtxId) : (State.noteSaved s c).spine = s.spine := by
  simp [State.noteSaved]

@[simp] theorem State.wr_spine (s : State) (id : U32) (off : Nat) (bs : Bytes) : (State.wr s id off bs).spine = s.spine := by
  simp [State.wr]

@[simp] theorem State.wrFree_spine (s : State) (id : U32) (off n : Nat) : (State.wrFree s id off n).spine = s.spine := by
  simp [State.wrFree]

@[simp] theorem State.hostWr_spine (s : State) (p : HostPort) (a : Nat) (bs : Bytes) : (State.hostWr s p a bs).spine = s.spine := by
  simp [State.hostWr]

@[simp] theorem State.hostArea_spine (s : State) (p : HostPort) (hcrc : Bool) (a : Nat) (bs : Bytes) : (State.hostArea s p hcrc a bs).spine = s.spine := by
  simp [State.hostArea]

@[simp] theorem State.withdrawReqs_spine (s : State) (c : CtxId) : (State.withdrawReqs s c).spine = s.spine := by
  simp [State.withdrawReqs]

@[simp] theorem State.holdAll_spine (s : State) (arbiter : Nat) (reqs : List ArbReq) : (State.holdAll s arbiter reqs).spine = s.spine := by
  unfold State.holdAll
  (repeat' (first | (simp; done) | split | (refine (foldl_spine _ (fun _ _ => ?_) _ _).trans ?_) | dsimp only))

@[simp] theorem State.arbitrate_spine (s : State) (arbiter : Nat) (reqs : List ArbReq) : ((State.arbitrate s arbiter reqs).2).spine = s.spine := by
  unfold State.arbitrate
  (repeat' (first | (simp; done) | split | (refine (foldl_spine _ (fun _ _ => ?_) _ _).trans ?_) | dsimp only))

@[simp] theorem State.sendsGone_spine (s : State) (n : SelynPort) : (State.sendsGone s n).spine = s.spine := by
  simp [State.sendsGone]

@[simp] theorem State.egressRound_spine (s : State) (n : SelynPort) : (State.egressRound s n).spine = s.spine := by
  unfold State.egressRound
  split
  · rename_i h
    have h' := congrArg (fun p => (Prod.snd p).spine) h
    simp at h'
    simp [← h']
  · rename_i h
    have h' := congrArg (fun p => (Prod.snd p).spine) h
    simp at h'
    split <;> simp [← h']

@[simp] theorem State.pumpLink_spine (s : State) (n : SelynPort) : (State.pumpLink s n).spine = s.spine := by
  simp [State.pumpLink]

@[simp] theorem State.giveFrame_spine (s : State) (n : SelynPort) (f : Frame) : (State.giveFrame s n f).spine = s.spine := by
  simp [State.giveFrame]

@[simp] theorem State.withdrawFrames_spine (s : State) (c : CtxId) : (State.withdrawFrames s c).spine = s.spine := by
  simp [State.withdrawFrames]

@[simp] theorem State.returnFrames_spine (s : State) (c : CtxId) : (State.returnFrames s c).spine = s.spine := by
  simp [State.returnFrames]

@[simp] theorem State.sendControlOf_spine (s : State) (n : SelynPort) (origin : Nat) (ty : Byte) (fields : Bytes) : (State.sendControlOf s n origin ty fields).spine = s.spine := by
  simp [State.sendControlOf]

@[simp] theorem State.sendControl_spine (s : State) (n : SelynPort) (ty : Byte) (fields : Bytes) : (State.sendControl s n ty fields).spine = s.spine := by
  simp [State.sendControl]

@[simp] theorem State.sendOnOf_spine (s : State) (ns : List SelynPort) (origin : Nat) (ty : Byte) (fields : Bytes) : (State.sendOnOf s ns origin ty fields).spine = s.spine := by
  simp [State.sendOnOf]

@[simp] theorem State.sendOn_spine (s : State) (ns : List SelynPort) (ty : Byte) (fields : Bytes) : (State.sendOn s ns ty fields).spine = s.spine := by
  simp [State.sendOn]

@[simp] theorem State.sendUpOf_spine (s : State) (origin : Nat) (ty : Byte) (fields : Bytes) : (State.sendUpOf s origin ty fields).spine = s.spine := by
  unfold State.sendUpOf
  split <;> simp

@[simp] theorem State.sendUp_spine (s : State) (ty : Byte) (fields : Bytes) : (State.sendUp s ty fields).spine = s.spine := by
  unfold State.sendUp
  (repeat' split) <;> simp

@[simp] theorem State.dropOwn_spine (s : State) (k : Nat) : (State.dropOwn s k).spine = s.spine := by
  simp [State.dropOwn]

@[simp] theorem State.sendMsi_spine (s : State) (p : HostPort) (v : BitVec 6) : (State.sendMsi s p v).spine = s.spine := by
  simp [State.sendMsi]

@[simp] theorem State.tryMsi_spine (s : State) (p : HostPort) (v : BitVec 6) : (State.tryMsi s p v).spine = s.spine := by
  simp [State.tryMsi]

@[simp] theorem State.noteVec_spine (s : State) (p : HostPort) (v : BitVec 6) (k : Nat) : (State.noteVec s p v k).spine = s.spine := by
  simp [State.noteVec]

@[simp] theorem State.attnOn_spine (s : State) (p : HostPort) (code : Byte) (detail : Bytes) : (State.attnOn s p code detail).spine = s.spine := by
  simp [State.attnOn]

@[simp] theorem State.devEvent_spine (s : State) (code : Byte) (detail : Bytes) : (State.devEvent s code detail).spine = s.spine := by
  simp [State.devEvent]

@[simp] theorem State.ctxEvent_spine (s : State) (c : CtxId) (code : Byte) (detail : Bytes) : (State.ctxEvent s c code detail).spine = s.spine := by
  simp [State.ctxEvent]

@[simp] theorem State.ringEvent_spine (s : State) (c : CtxId) (r : BitVec 2) (reason : Byte) (tail f : U32) (k : U16) : (State.ringEvent s c r reason tail f k).spine = s.spine := by
  simp [State.ringEvent]

@[simp] theorem State.linkEvent_spine (s : State) (port reason width : Nat) (lo hi : Nat) (word : Nat) (rest : Bytes) : (State.linkEvent s port reason width lo hi word rest).spine = s.spine := by
  simp [State.linkEvent]

@[simp] theorem State.thresholdEvent_spine (s : State) (correctable : Bool) (k : Counter) : (State.thresholdEvent s correctable k).spine = s.spine := by
  simp [State.thresholdEvent]

@[simp] theorem State.setCounters_spine (s : State) (correctable : Bool) (l : List Counter) : (State.setCounters s correctable l).spine = s.spine := by
  simp [State.setCounters]

@[simp] theorem State.countLoc_spine (s : State) (correctable : Bool) (l : Location) : (State.countLoc s correctable l).spine = s.spine := by
  unfold State.countLoc
  simp only []
  (repeat' split) <;> simp

@[simp] theorem State.dropQueued_spine (s : State) (c : CtxId) : (State.dropQueued s c).spine = s.spine := by
  simp [State.dropQueued]

@[simp] theorem State.retest_spine (s : State) (k : Nat) : (State.retest s k).spine = s.spine := by
  simp [State.retest]

@[simp] theorem State.raisePass_spine (s : State) : (State.raisePass s).spine = s.spine := by
  simp [State.raisePass]

@[simp] theorem State.inherit_spine (s : State) : (State.inherit s).spine = s.spine := by
  unfold State.inherit
  (repeat' (first | (simp; done) | split | (refine (foldl_spine _ (fun _ _ => ?_) _ _).trans ?_) | dsimp only))

@[simp] theorem State.handOver_spine (s : State) (k : Nat) : (State.handOver s k).spine = s.spine := by
  unfold State.handOver
  (repeat' (first | (simp; done) | split | (refine (foldl_spine _ (fun _ _ => ?_) _ _).trans ?_) | dsimp only | simp)) <;> (rename_i h; have h' := congrArg (fun p => (Prod.snd p).spine) h; simp at h'; simp [← h'])

@[simp] theorem State.store_spine (s : State) (k : Nat) (w : U32) : (State.store s k w).spine = s.spine := by
  simp [State.store]

@[simp] theorem State.descSignal_spine (s : State) (d : Desc) : (State.descSignal s d).spine = s.spine := by
  simp [State.descSignal]

@[simp] theorem State.writeEntry_spine (s : State) (d : Desc) (v : Done) : (State.writeEntry s d v).spine = s.spine := by
  simp [State.writeEntry]

@[simp] theorem State.completeOne_spine (s : State) (d : Desc) (v : Done) (sig : Bool) : (State.completeOne s d v sig).spine = s.spine := by
  simp [State.completeOne]

@[simp] theorem State.fenceDone_spine (s : State) (c : CtxId) : (State.fenceDone s c).spine = s.spine := by
  unfold State.fenceDone
  (repeat' split) <;> simp

@[simp] theorem State.complete_spine (s : State) (d : Desc) (v : Done) : (State.complete s d v).spine = s.spine := by
  simp [State.complete]

@[simp] theorem State.completeUnsignalled_spine (s : State) (d : Desc) (v : Done) : (State.completeUnsignalled s d v).spine = s.spine := by
  simp [State.completeUnsignalled]

@[simp] theorem State.noteCode_spine (s : State) (c : CtxId) (q : SeqId) (engine : Nat) (code : Code) : (State.noteCode s c q engine code).spine = s.spine := by
  simp [State.noteCode]

@[simp] theorem State.settle_spine (s : State) (c : CtxId) : (State.settle s c).spine = s.spine := by
  simp [State.settle]

@[simp] theorem State.finishCommand_spine (s : State) (c : CtxId) (q : SeqId) (engine : Nat) : (State.finishCommand s c q engine).spine = s.spine := by
  simp [State.finishCommand]

@[simp] theorem State.clearRunning_spine (s : State) (i : Nat) (c : CtxId) : (State.clearRunning s i c).spine = s.spine := by
  simp [State.clearRunning]

@[simp] theorem State.lagSend_spine (s : State) (r : SendRun) : (State.lagSend s r).spine = s.spine := by
  unfold State.lagSend
  split <;> simp

@[simp] theorem State.lagRecv_spine (s : State) (r : Recv) : (State.lagRecv s r).spine = s.spine := by
  simp [State.lagRecv]

@[simp] theorem State.lagSends_spine (s : State) (c : CtxId) (t : State) : (State.lagSends s c t).spine = t.spine := by
  simp [State.lagSends]

@[simp] theorem State.endSteps_spine (s : State) (c : CtxId) (code : Code) : (State.endSteps s c code).spine = s.spine := by
  unfold State.endSteps
  (repeat' (first | (simp; done) | split | (refine (foldl_spine _ (fun _ _ => ?_) _ _).trans ?_) | dsimp only))

@[simp] theorem State.stopStep_spine (s : State) (c : CtxId) (code : Code) : (State.stopStep s c code).spine = s.spine := by
  unfold State.stopStep
  (repeat' (first | (simp; done) | split | (refine (foldl_spine _ (fun _ _ => ?_) _ _).trans ?_) | dsimp only))

@[simp] theorem State.endWaiters_spine (s : State) (h : CtxId) (locks which : Nat → Bool) : (State.endWaiters s h locks which).spine = s.spine := by
  simp [State.endWaiters]

@[simp] theorem State.abandonOpen_spine (s : State) (c : CtxId) (why : Byte) : (State.abandonOpen s c why).spine = s.spine := by
  simp [State.abandonOpen]

@[simp] theorem State.faultWith_spine (s : State) (c : CtxId) (code : Code) : (State.faultWith s c code).spine = s.spine := by
  simp [State.faultWith]

@[simp] theorem State.faultCtx_spine (s : State) (c : CtxId) : (State.faultCtx s c).spine = s.spine := by
  simp [State.faultCtx]

@[simp] theorem State.noteStall_spine (s : State) (r : Reader) (a : Access) : (State.noteStall s r a).spine = s.spine := by
  simp [State.noteStall]

@[simp] theorem State.modIssuers_spine (s : State) (c : CtxId) (on : State.Copies) (f : Nat → Seq → Seq) : (State.modIssuers s c on f).spine = s.spine := by
  simp [State.modIssuers]

@[simp] theorem State.noteWait_spine (s : State) (c : CtxId) (on : State.Copies) (cause buf : Nat) : (State.noteWait s c on cause buf).spine = s.spine := by
  simp [State.noteWait]

@[simp] theorem State.endWait_spine (s : State) (c : CtxId) (on : State.Copies) : (State.endWait s c on).spine = s.spine := by
  simp [State.endWait]

@[simp] theorem State.setAside_spine (s : State) (i : Nat) : (State.setAside s i).spine = s.spine := by
  simp [State.setAside]

@[simp] theorem State.stall_spine (s : State) (c : CtxId) (on : State.Copies) (a : Access) : (State.stall s c on a).spine = s.spine := by
  simp [State.stall]

@[simp] theorem State.engineDone_spine (s : State) (c : CtxId) (q : SeqId) (engine : Nat) : (State.engineDone s c q engine).spine = s.spine := by
  simp [State.engineDone]

@[simp] theorem State.recvTake_spine (s : State) (r : Recv) (last : Bool) (payload : Bytes) : (State.recvTake s r last payload).spine = s.spine := by
  simp [State.recvTake]

@[simp] theorem State.deliverStored_spine (s : State) (c : CtxId) : (State.deliverStored s c).spine = s.spine := by
  unfold State.deliverStored
  (repeat' (first | (simp; done) | split | (refine (foldl_spine _ (fun _ _ => ?_) _ _).trans ?_) | dsimp only))

@[simp] theorem State.storeParcel_spine (s : State) (c : CtxId) (p : Inbound) : (State.storeParcel s c p).spine = s.spine := by
  simp [State.storeParcel]

@[simp] theorem State.storeInbound_spine (s : State) (c : CtxId) (p : Inbound) : (State.storeInbound s c p).spine = s.spine := by
  simp [State.storeInbound]

@[simp] theorem State.clearSaved_spine (s : State) (i : Nat) (c : CtxId) (q : SeqId) : (State.clearSaved s i c q).spine = s.spine := by
  simp [State.clearSaved]

@[simp] theorem State.writeLaneRec_spine (s : State) (r : LaneRec) : (State.writeLaneRec s r).spine = s.spine := by
  unfold State.writeLaneRec
  (repeat' split) <;> simp

@[simp] theorem State.woken_spine (s : State) (id : U32) : (State.woken s id).spine = s.spine := by
  simp [State.woken]

@[simp] theorem State.hostPart_spine (s : State) (p : HostPort) (hcrc : Bool) (base total off : Nat) (bs : Bytes) : (State.hostPart s p hcrc base total off bs).spine = s.spine := by
  simp [State.hostPart]

@[simp] theorem State.haltChannel_spine (s : State) (c : CtxId) : (State.haltChannel s c).spine = s.spine := by
  simp [State.haltChannel]

@[simp] theorem State.uncorrectable_spine (s : State) (response : Byte) (reader : Option CtxId) (loc : Location) (object : U32) (off len page slot : Nat) : (State.uncorrectable s response reader loc object off len page slot).spine = s.spine := by
  simp [State.uncorrectable]

@[simp] theorem State.hostCheckFailed_spine (s : State) (c : CtxId) : (State.hostCheckFailed s c).spine = s.spine := by
  simp [State.hostCheckFailed]

@[simp] theorem State.modWork_spine (s : State) (c : CtxId) (q : SeqId) (engine i : Nat) (f : QueryWork → QueryWork) : (State.modWork s c q engine i f).spine = s.spine := by
  simp [State.modWork]

@[simp] theorem State.noteTokens_spine (s : State) (c : CtxId) (q : SeqId) (tokens : List Nat) (invalid : Nat) (full : Bool) : (State.noteTokens s c q tokens invalid full).spine = s.spine := by
  unfold State.noteTokens
  (repeat' split) <;> simp

@[simp] theorem State.setSlot_spine (s : State) (slot lo n v : Nat) : (State.setSlot s slot lo n v).spine = s.spine := by
  simp [State.setSlot]

@[simp] theorem State.setSlotFlag_spine (s : State) (slot i : Nat) (v : Bool) : (State.setSlotFlag s slot i v).spine = s.spine := by
  simp [State.setSlotFlag]

@[simp] theorem State.setSlotState_spine (s : State) (slot : Nat) (x : SlotState) : (State.setSlotState s slot x).spine = s.spine := by
  simp [State.setSlotState]

@[simp] theorem State.freeSlot_spine (s : State) (slot : Nat) : (State.freeSlot s slot).spine = s.spine := by
  simp [State.freeSlot]

@[simp] theorem State.setPageEntry_spine (s : State) (slot i v : Nat) : (State.setPageEntry s slot i v).spine = s.spine := by
  simp [State.setPageEntry]

@[simp] theorem State.allocPages_spine (s : State) (pool : U32) (ps : List Nat) : (State.allocPages s pool ps).spine = s.spine := by
  simp [State.allocPages]

@[simp] theorem State.releasePages_spine (s : State) (pool : U32) (ps : List Nat) : (State.releasePages s pool ps).spine = s.spine := by
  simp [State.releasePages]

@[simp] theorem State.setOwner_spine (s : State) (acc : Bool) (i : Nat) (c : CtxId) : (State.setOwner s acc i c).spine = s.spine := by
  simp [State.setOwner]

@[simp] theorem State.clearOwner_spine (s : State) (acc : Bool) (i : Nat) : (State.clearOwner s acc i).spine = s.spine := by
  simp [State.clearOwner]

@[simp] theorem State.swapOut_spine (s : State) (acc : Bool) (i : Nat) (o : CtxId) : (State.swapOut s acc i o).spine = s.spine := by
  simp [State.swapOut]

@[simp] theorem State.swapIn_spine (s : State) (acc : Bool) (i : Nat) (c : CtxId) : (State.swapIn s acc i c).spine = s.spine := by
  simp [State.swapIn]

@[simp] theorem State.claim1_spine (s : State) (c : CtxId) (acc : Bool) (i : Nat) : (State.claim1 s c acc i).spine = s.spine := by
  unfold State.claim1
  (repeat' split) <;> simp

@[simp] theorem State.visit1_spine (s : State) (c : CtxId) (i : Nat) : (State.visit1 s c i).spine = s.spine := by
  unfold State.visit1
  (repeat' split) <;> simp

@[simp] theorem State.visit_spine (s : State) (c : CtxId) (lo n : Nat) : (State.visit s c lo n).spine = s.spine := by
  simp [State.visit]

@[simp] theorem State.claim_spine (s : State) (c : CtxId) (acc : Bool) (lo n : Nat) : (State.claim s c acc lo n).spine = s.spine := by
  simp [State.claim]

@[simp] theorem State.releaseClaims_spine (s : State) (c : CtxId) : (State.releaseClaims s c).spine = s.spine := by
  simp [State.releaseClaims]

@[simp] theorem State.swapOutAll_spine (s : State) (c : CtxId) : (State.swapOutAll s c).spine = s.spine := by
  exact (foldl_spine _ (fun _ _ => by simp) _ _).trans (foldl_spine _ (fun _ _ => by simp) _ _)

theorem State.runCommand_spine (s : State) (c : CtxId) (on : State.Copies) (allowed : Bool) (acc : List Access)
    (onPoison : Access → Option (State → State)) (eff finish : State → State) (blocked : Option (Nat × Nat))
    (hp : ∀ a f, onPoison a = some f → ∀ t, (f t).spine = t.spine) (he : ∀ t, (eff t).spine = t.spine)
    (hf : ∀ t, (finish t).spine = t.spine) : (s.runCommand c on allowed acc onPoison eff finish blocked).spine = s.spine := by
  unfold State.runCommand
  split
  · rfl
  · split
    · simp
    · split
      · simp
      · split
        · simp
        · split
          · split
            · simp
            · split
              · simp
              · rename_i h
                rw [hf, hp _ _ h, State.endWait_spine]
          · rw [hf, he, State.endWait_spine]

@[simp] theorem State.steppeDone_spine (s : State) (c : CtxId) : (State.steppeDone s c).spine = s.spine := by
  simp [State.steppeDone]

@[simp] theorem State.storeSlot_spine (s : State) (fmt k slot col i : Nat) (row : Bytes) : (State.storeSlot s fmt k slot col i row).spine = s.spine := by
  simp [State.storeSlot]

@[simp] theorem State.storeColumns_spine (s : State) (fmt k slot nslots l : Nat) (rows : List Bytes) : (State.storeColumns s fmt k slot nslots l rows).spine = s.spine := by
  unfold State.storeColumns
  (repeat' (first | (simp; done) | split | (refine (foldl_spine _ (fun _ _ => ?_) _ _).trans ?_) | dsimp only))

@[simp] theorem State.loadrEff_spine (s : State) (c : CtxId) (x : Loadr) : (State.loadrEff s c x).spine = s.spine := by
  simp [State.loadrEff]

@[simp] theorem State.kvPoison_spine (s : State) (c : CtxId) (slot : Nat) : (State.kvPoison s c slot).spine = s.spine := by
  simp [State.kvPoison]

@[simp] theorem State.windowTake_spine (s : State) (id : U32) (n : Nat) : (State.windowTake s id n).spine = s.spine := by
  simp [State.windowTake]

@[simp] theorem State.putResults_spine (s : State) (rs : List (Nat × Nat × Nat × Nat × F32)) : (State.putResults s rs).spine = s.spine := by
  simp [State.putResults]

@[simp] theorem State.runGroups_spine (s : State) (x : Matmul) (t0 t1 : Nat) : ((State.runGroups s x t0 t1).1).spine = s.spine := by
  unfold State.runGroups
  refine (foldl_fst_spine _ (fun p a => ?_) _ _)
  rcases p with ⟨t, out⟩
  dsimp only
  split <;> simp

@[simp] theorem State.drainRows_spine (s : State) (c : CtxId) (x : Matmul) (out : List (Nat × Nat × F32)) : (State.drainRows s c x out).spine = s.spine := by
  simp [State.drainRows]

@[simp] theorem State.matmulEff_spine (s : State) (c : CtxId) (x : Matmul) : (State.matmulEff s c x).spine = s.spine := by
  simp [State.matmulEff]

@[simp] theorem State.holdResults_spine (s : State) (c : CtxId) (out : List (Nat × Nat × F32)) : (State.holdResults s c out).spine = s.spine := by
  simp [State.holdResults]

@[simp] theorem State.matmulWindow_spine (s : State) (c : CtxId) (w : Bytes) (x : Matmul) : (State.matmulWindow s c w x).spine = s.spine := by
  simp [State.matmulWindow]

@[simp] theorem State.placeRow_spine (s : State) (x : Grouped) (e : Nat) (r : RouteEntry) (y : List F32) : (State.placeRow s x e r y).spine = s.spine := by
  simp [State.placeRow]

@[simp] theorem State.runTile_spine (s : State) (x : Grouped) (e : Nat) (tile : List RouteEntry) : (State.runTile s x e tile).spine = s.spine := by
  simp [State.runTile]

@[simp] theorem State.runExpert_spine (s : State) (x : Grouped) (e : Nat) : (State.runExpert s x e).spine = s.spine := by
  simp [State.runExpert]

@[simp] theorem State.zeroRows_spine (s : State) (x : Grouped) : (State.zeroRows s x).spine = s.spine := by
  simp [State.zeroRows]

@[simp] theorem State.groupedRun_spine (s : State) (c : CtxId) (w : Bytes) (x : Grouped) : (State.groupedRun s c w x).spine = s.spine := by
  simp [State.groupedRun]

@[simp] theorem State.drop1_spine (s : State) (c : CtxId) (acc : Bool) (i : Nat) : (State.drop1 s c acc i).spine = s.spine := by
  unfold State.drop1
  (repeat' split) <;> simp

@[simp] theorem State.droprEff_spine (s : State) (c : CtxId) (x : Dropr) : (State.droprEff s c x).spine = s.spine := by
  simp [State.droprEff]

@[simp] theorem State.rimWrite_spine (s : State) (c : CtxId) (x : Rim) (u : RimUse) (rows : List (List F32)) : (State.rimWrite s c x u rows).spine = s.spine := by
  simp [State.rimWrite]

@[simp] theorem State.setResult_spine (s : State) (c : CtxId) (engine op : Nat) (f : Nat → Nat) : (State.setResult s c engine op f).spine = s.spine := by
  simp [State.setResult]

@[simp] theorem State.tokenizeEff_spine (s : State) (c : CtxId) (q : SeqId) (x : TokCmd) : (State.tokenizeEff s c q x).spine = s.spine := by
  unfold State.tokenizeEff
  split
  · rfl
  · dsimp only
    split <;> split <;> simp

@[simp] theorem State.detokEff_spine (s : State) (c : CtxId) (x : DetokCmd) : (State.detokEff s c x).spine = s.spine := by
  unfold State.detokEff
  split
  · rfl
  · generalize detokenize _ _ _ _ _ = r
    dsimp only
    split <;> simp

@[simp] theorem State.setGState_spine (s : State) (c : CtxId) (x : GrammarCmd) (g : GState) : (State.setGState s c x g).spine = s.spine := by
  unfold State.setGState
  (repeat' split) <;> simp

@[simp] theorem State.releaseSlot_spine (s : State) (slot : Nat) : (State.releaseSlot s slot).spine = s.spine := by
  simp [State.releaseSlot]

@[simp] theorem State.discardStream_spine (s : State) (slot : Nat) : (State.discardStream s slot).spine = s.spine := by
  simp [State.discardStream]

@[simp] theorem State.modServing_spine (s : State) (c : CtxId) (f : Serving → Serving) : (State.modServing s c f).spine = s.spine := by
  simp [State.modServing]

@[simp] theorem State.settleSlot_spine (s : State) (c : CtxId) (slot : Nat) (code : Code) : (State.settleSlot s c slot code).spine = s.spine := by
  simp [State.settleSlot]

@[simp] theorem State.endSlot_spine (s : State) (c : CtxId) (slot : Nat) (code : Code) (reason : Nat) (discard : Bool) : (State.endSlot s c slot code reason discard).spine = s.spine := by
  simp [State.endSlot]

@[simp] theorem State.putRows_spine (s : State) (slot first : Nat) (m : Model) (lo hi : Nat) (row : Nat → Nat → Bytes) : (State.putRows s slot first m lo hi row).spine = s.spine := by
  simp [State.putRows]

@[simp] theorem State.moveRows_spine (s : State) (c : CtxId) (slot : Nat) (model : U32) (first pages lo hi : Nat) : (State.moveRows s c slot model first pages lo hi).spine = s.spine := by
  unfold State.moveRows
  (repeat' split) <;> simp

@[simp] theorem State.moveStaged_spine (s : State) (c : CtxId) : (State.moveStaged s c).spine = s.spine := by
  simp [State.moveStaged]

@[simp] theorem State.freeOne_spine (s : State) (c : CtxId) (slot : Nat) : (State.freeOne s c slot).spine = s.spine := by
  unfold State.freeOne
  simp only []
  (repeat' split) <;> simp

@[simp] theorem State.takePause_spine (s : State) (c : CtxId) (p : Pausing) : (State.takePause s c p).spine = s.spine := by
  unfold State.takePause
  simp only []
  (repeat' split) <;> simp

@[simp] theorem State.boundaryFrees_spine (s : State) (c : CtxId) : (State.boundaryFrees s c).spine = s.spine := by
  simp [State.boundaryFrees]

theorem State.claimPart_spine {s t : State} {slot : Nat} {k : Claim} (h : s.claimPart slot k = some t) : t.spine = s.spine := by
  unfold State.claimPart at h
  dsimp only at h
  split at h
  · cases h
  · rw [Option.some.injEq] at h
    subst h
    simp

theorem State.claimPages_spine {s t : State} {slot : Nat} {ks : List Claim} (h : s.claimPages slot ks = some t) : t.spine = s.spine := by
  have key : ∀ (l : List Claim) (o : Option State), l.foldl (fun o k => o.bind (fun t => t.claimPart slot k)) o = some t →
      ∃ u, o = some u ∧ t.spine = u.spine := by
    intro l
    induction l with
    | nil => intro o ho; exact ⟨t, ho, rfl⟩
    | cons k l ih =>
      intro o ho
      obtain ⟨u, hu, e⟩ := ih _ ho
      cases o with
      | none => cases hu
      | some v => exact ⟨v, rfl, e.trans (State.claimPart_spine hu)⟩
  obtain ⟨u, hu, e⟩ := key _ _ h
  cases hu
  exact e

theorem State.claimFor_spine {s t : State} {slot : Nat} {a b : U32} {n : Nat} (h : s.claimFor slot a b n = some t) : t.spine = s.spine := by
  unfold State.claimFor at h
  split at h
  · cases h
  · dsimp only at h
    split at h
    · exact State.claimPages_spine h
    · split at h
      · cases h
      · exact State.claimPages_spine h

@[simp] theorem State.growOne_spine (s : State) (c : CtxId) (slot : Nat) : ((State.growOne s c slot).1).spine = s.spine := by
  unfold State.growOne
  split
  · rfl
  · split
    · simp
    · split <;> split <;> (try simp) <;> (rename_i h; simp [State.claimFor_spine h])

@[simp] theorem State.grantResume_spine (s : State) (c : CtxId) (r : Resuming) : (State.grantResume s c r).spine = s.spine := by
  unfold State.grantResume
  dsimp only
  split
  · rfl
  · split
    · simp
    · split
      · simp
      · split
        · simp
        · rename_i h
          simp [State.claimFor_spine h]

@[simp] theorem State.joinSlot_spine (s : State) (c : CtxId) (slot record : Nat) (hcrc : Bool) : ((State.joinSlot s c slot record hcrc).1).spine = s.spine := by
  unfold State.joinSlot
  dsimp only
  (repeat' split) <;> first | rfl | (rename_i h; simp [State.claimFor_spine h]; done) | simp

@[simp] theorem State.settleHandoff_spine (s : State) (c : CtxId) (h : Handoff) (code : Option Code) : (State.settleHandoff s c h code).spine = s.spine := by
  simp [State.settleHandoff]

@[simp] theorem State.joinAll_spine (s : State) (c : CtxId) (js : List Joining) : ((State.joinAll s c js).1).spine = s.spine := by
  unfold State.joinAll
  refine foldl_fst_spine _ (fun p a => ?_) _ _
  dsimp only
  split <;> simp

@[simp] theorem State.boundary_spine (s : State) (c : CtxId) (steps : List Nat) (joins : List Joining) : ((State.boundary s c steps joins).1).spine = s.spine := by
  unfold State.boundary
  dsimp only
  simp only [State.joinAll_spine]
  rw [foldl_spine _ (fun t r => by simp)]
  rw [foldl_fst_spine _ (fun p a => by simp)]
  rw [foldl_spine _ (fun t r => by split <;> simp)]
  simp

@[simp] theorem State.noteEnds_spine (t s : State) (c : CtxId) (ended : List (Nat × Code)) (named : List Nat) : (State.noteEnds t s c ended named).spine = t.spine := by
  simp [State.noteEnds]

@[simp] theorem State.listEff_spine (s : State) (c : CtxId) (tobj : U32) (d : Desc) : (State.listEff s c tobj d).spine = s.spine := by
  simp [State.listEff]

@[simp] theorem State.modEntry_spine (s : State) (c : CtxId) (f : SlotStep → SlotStep) : (State.modEntry s c f).spine = s.spine := by
  simp [State.modEntry]

@[simp] theorem State.acceptEff_spine (s : State) (c : CtxId) (x : AcceptCmd) (e : SlotStep) (m : Model) : (State.acceptEff s c x e m).spine = s.spine := by
  simp [State.acceptEff]

@[simp] theorem State.resultEntry_spine (s : State) (c : CtxId) (d : Desc) (e : SlotStep) (code : Code) (terminal : Bool) (tokens now : Nat) : (State.resultEntry s c d e code terminal tokens now).spine = s.spine := by
  simp [State.resultEntry]

@[simp] theorem State.commitEnd_spine (s : State) (c : CtxId) (d : Desc) (e : SlotStep) (n now : Nat) (ending : Option Code) : (State.commitEnd s c d e n now ending).spine = s.spine := by
  unfold State.commitEnd
  (repeat' split) <;> simp

@[simp] theorem State.commitEff_spine (s : State) (c : CtxId) (d : Desc) (e : SlotStep) (count consumed emitted : Nat) (stopped : Bool) : (State.commitEff s c d e count consumed emitted stopped).spine = s.spine := by
  simp [State.commitEff]

@[simp] theorem State.commitSkip_spine (s : State) (c : CtxId) (d : Desc) (e : SlotStep) : (State.commitSkip s c d e).spine = s.spine := by
  unfold State.commitSkip
  split <;> simp

@[simp] theorem State.loadModel_spine (s : State) (slot first rows off : Nat) (id : U32) (bytes : Bytes) : ((State.loadModel s slot first rows off id bytes).1).spine = s.spine := by
  unfold State.loadModel
  (repeat' split) <;> simp

@[simp] theorem State.buildSummary_spine (s : State) (c : CtxId) (slot : Nat) (wobj : U32) : (State.buildSummary s c slot wobj).spine = s.spine := by
  unfold State.buildSummary
  (repeat' split) <;> simp

@[simp] theorem State.loadSummary_spine (s : State) (c : CtxId) (slot : Nat) (wobj : U32) : (State.loadSummary s c slot wobj).spine = s.spine := by
  unfold State.loadSummary
  (repeat' split) <;> simp

@[simp] theorem State.lagCount_spine (s : State) (device lag : Nat) : (State.lagCount s device lag).spine = s.spine := by
  simp [State.lagCount]

@[simp] theorem State.passSaddle_spine (s : State) (c : CtxId) (entry : U16) : (State.passSaddle s c entry).spine = s.spine := by
  simp [State.passSaddle]

@[simp] theorem State.noteReleased_spine (s : State) (c : CtxId) : (State.noteReleased s c).spine = s.spine := by
  simp [State.noteReleased]

@[simp] theorem State.releaseSaddle_spine (s : State) (k : Nat) (v : Saddle) (e : Bytes) : (State.releaseSaddle s k v e).spine = s.spine := by
  simp [State.releaseSaddle]

@[simp] theorem State.recordLags_spine (s : State) (v : Saddle) (first last : Nat × Nat) (top : Bool) : (State.recordLags s v first last top).spine = s.spine := by
  simp [State.recordLags]

@[simp] theorem State.trySaddle_spine (s : State) (k : Nat) : (State.trySaddle s k).spine = s.spine := by
  unfold State.trySaddle
  (repeat' split) <;> simp

@[simp] theorem State.trySaddles_spine (s : State) : (State.trySaddles s).spine = s.spine := by
  simp [State.trySaddles]

@[simp] theorem State.undefine_spine (s : State) (p : HostPort) (a : Nat × Nat) : (State.undefine s p a).spine = s.spine := by
  simp [State.undefine]

@[simp] theorem State.loseCtx_spine (s : State) (c : CtxId) : (State.loseCtx s c).spine = s.spine := by
  simp [State.loseCtx]

@[simp] theorem State.breakCtx_spine (s : State) (c : CtxId) : (State.breakCtx s c).spine = s.spine := by
  simp [State.breakCtx]

@[simp] theorem State.affectCtx_spine (s : State) (c : CtxId) : (State.affectCtx s c).spine = s.spine := by
  simp [State.affectCtx]

@[simp] theorem State.modSeq_spine (s : State) (c : CtxId) (q : SeqId) (f : Seq → Seq) : (State.modSeq s c q f).spine = s.spine := by
  simp [State.modSeq]

@[simp] theorem State.nextSeq_spine (s : State) (c : CtxId) (q : SeqId) : (State.nextSeq s c q).spine = s.spine := by
  simp [State.nextSeq]

@[simp] theorem State.waitSeq_spine (s : State) (c : CtxId) (q : SeqId) (st : SeqStatus) : (State.waitSeq s c q st).spine = s.spine := by
  simp [State.waitSeq]

@[simp] theorem State.enqueue_spine (s : State) (c : CtxId) (q : SeqId) (engine : Nat) (b : Bytes) : (State.enqueue s c q engine b).spine = s.spine := by
  simp [State.enqueue]

@[simp] theorem State.refreshMayBegin_spine (s : State) (c : CtxId) : (State.refreshMayBegin s c).spine = s.spine := by
  unfold State.refreshMayBegin
  (repeat' split) <;> simp

@[simp] theorem State.plainBoundary_spine (s : State) (c : CtxId) : (State.plainBoundary s c).spine = s.spine := by
  simp [State.plainBoundary]

@[simp] theorem State.localBoundary_spine (s : State) (c : CtxId) : (State.localBoundary s c).spine = s.spine := by
  simp [State.localBoundary]

@[simp] theorem State.setDirWord_spine (s : State) (t : Table) (row : Nat) (d : DirWord) : (State.setDirWord s t row d).spine = s.spine := by
  simp [State.setDirWord]

@[simp] theorem State.countRow_spine (s : State) (r : U32 × Nat) (n : Nat) : (State.countRow s r n).spine = s.spine := by
  unfold State.countRow
  (repeat' split) <;> simp

@[simp] theorem State.lookupEff_spine (s : State) (c : CtxId) (q : SeqId) (x : Lookup) : (State.lookupEff s c q x).spine = s.spine := by
  simp [State.lookupEff]

@[simp] theorem State.stepRow_spine (s : State) (c : CtxId) (q : SeqId) (x : Update) (r : U32 × Nat) (gs : List (List F32)) : (State.stepRow s c q x r gs).spine = s.spine := by
  unfold State.stepRow
  simp only []
  (repeat' split) <;> simp

@[simp] theorem State.sendContrib_spine (s : State) (c : CtxId) (dest : Nat) (last : Bool) (p : Bytes) : (State.sendContrib s c dest last p).spine = s.spine := by
  unfold State.sendContrib
  (repeat' split) <;> simp

@[simp] theorem State.sendContribs_spine (s : State) (c : CtxId) (t : Table) (x : Update) (merge : Bool) (occ : List ((U32 × Nat) × List F32)) : (State.sendContribs s c t x merge occ).spine = s.spine := by
  simp [State.sendContribs]

@[simp] theorem State.applyHomed_spine (s : State) (c : CtxId) (q : SeqId) (x : Update) (merge : Bool) (all : List Contribution) : (State.applyHomed s c q x merge all).spine = s.spine := by
  simp [State.applyHomed]

@[simp] theorem State.updateEff_spine (s : State) (c : CtxId) (q : SeqId) (b : Bytes) (x : Update) : (State.updateEff s c q b x).spine = s.spine := by
  simp [State.updateEff]

@[simp] theorem State.runUpdate_spine (s : State) (c : CtxId) (q : SeqId) (b : Bytes) : (State.runUpdate s c q b).spine = s.spine := by
  exact State.runCommand_spine _ _ _ _ _ _ _ _ _ (fun a f h => by cases h) (fun t => by simp) (fun t => rfl)

@[simp] theorem State.clearObj_spine (s : State) (id : U32) (off n : Nat) : (State.clearObj s id off n).spine = s.spine := by
  simp [State.clearObj]

@[simp] theorem State.hashPut_spine (s : State) (obj : U32) (off bits id v : Nat) : (State.hashPut s obj off bits id v).spine = s.spine := by
  unfold State.hashPut
  (repeat' split) <;> simp

@[simp] theorem State.codeShard_spine (s : State) (h : Shard) : (State.codeShard s h).spine = s.spine := by
  unfold State.codeShard
  dsimp only
  rw [State.wr_spine]
  refine foldl_snd_spine _ (fun p a => ?_) _ _
  dsimp only
  split <;> simp

@[simp] theorem State.normShard_spine (s : State) (h : Shard) : (State.normShard s h).spine = s.spine := by
  simp [State.normShard]

@[simp] theorem State.mapShard_spine (s : State) (h : Shard) : (State.mapShard s h).spine = s.spine := by
  simp [State.mapShard]

@[simp] theorem State.sketchShard_spine (s : State) (h : Shard) : (State.sketchShard s h).spine = s.spine := by
  simp [State.sketchShard]

@[simp] theorem State.buildShard_spine (s : State) (id : U32) : (State.buildShard s id).spine = s.spine := by
  simp [State.buildShard]

@[simp] theorem State.noteLists_spine (s : State) (c : CtxId) (q : SeqId) (engine : Nat) (asks : Desc → Pipeline → Bool) (lists : List (List Ranked × Bytes × Bool)) : (State.noteLists s c q engine asks lists).spine = s.spine := by
  unfold State.noteLists
  (repeat' split) <;> simp

@[simp] theorem State.noteReranked_spine (s : State) (c : CtxId) (q : SeqId) (byId : Bool) (k : Nat) (rows : List (List (Nat × F32))) : (State.noteReranked s c q byId k rows).spine = s.spine := by
  unfold State.noteReranked
  (repeat' split) <;> simp

@[simp] theorem State.noteRanked_spine (s : State) (c : CtxId) (q : SeqId) (engine : Nat) (codes : List Code) (taken : RankOut → Bool) (outs : List RankOut) : (State.noteRanked s c q engine codes taken outs).spine = s.spine := by
  simp [State.noteRanked]

@[simp] theorem State.countDevices_spine (s : State) (ds : List Nat) : (State.countDevices s ds).spine = s.spine := by
  simp [State.countDevices]

@[simp] theorem State.searchEff_spine (s : State) (c : CtxId) (x : Search) : (State.searchEff s c x).spine = s.spine := by
  simp [State.searchEff]

@[simp] theorem State.waitHeld_spine (s : State) (c : CtxId) (on : State.Copies) (ns : List Nat) : (State.waitHeld s c on ns).spine = s.spine := by
  simp [State.waitHeld]

@[simp] theorem State.setHdr_spine (s : State) (id : U32) (lo n v : Nat) : (State.setHdr s id lo n v).spine = s.spine := by
  simp [State.setHdr]

@[simp] theorem State.tombstone_spine (s : State) (id : U32) (i : Nat) : (State.tombstone s id i).spine = s.spine := by
  simp [State.tombstone]

@[simp] theorem State.markDead_spine (s : State) (id : U32) (j : Nat) : (State.markDead s id j).spine = s.spine := by
  simp [State.markDead]

@[simp] theorem State.logId_spine (s : State) (id : U32) (pid : Nat) : (State.logId s id pid).spine = s.spine := by
  simp [State.logId]

@[simp] theorem State.writeDone_spine (s : State) (c : CtxId) (x : Write) (applied live missing status : Nat) : (State.writeDone s c x applied live missing status).spine = s.spine := by
  unfold State.writeDone
  dsimp only
  rw [State.modCtx_spine, State.wr_spine]

@[simp] theorem State.insertOne_spine (a : Nat × State) (id : U32) (p : Passage) : (State.insertOne a id p).2.spine = a.2.spine := by
  unfold State.insertOne
  dsimp only
  (repeat' split) <;> simp

@[simp] theorem State.deleteOne_spine (a : Nat × State) (id : U32) (p : Nat) : (State.deleteOne a id p).2.spine = a.2.spine := by
  unfold State.deleteOne
  dsimp only
  (repeat' split) <;> simp

@[simp] theorem State.insertEff_spine (s : State) (c : CtxId) (x : Write) (id : U32) : (State.insertEff s c x id).spine = s.spine := by
  unfold State.insertEff
  dsimp only
  split
  · simp
  · rw [State.writeDone_spine]
    exact foldl_snd_spine _ (fun p a => by simp) _ _

@[simp] theorem State.deleteEff_spine (s : State) (c : CtxId) (x : Write) (id : U32) : (State.deleteEff s c x id).spine = s.spine := by
  unfold State.deleteEff
  dsimp only
  split
  · simp
  · rw [State.writeDone_spine]
    exact foldl_snd_spine _ (fun p a => by simp) _ _

@[simp] theorem State.topkEff_spine (s : State) (c : CtxId) (q : SeqId) (x : Topk) : (State.topkEff s c q x).spine = s.spine := by
  simp [State.topkEff]

@[simp] theorem State.mergeEff_spine (s : State) (c : CtxId) (q : SeqId) (x : Merge) : (State.mergeEff s c q x).spine = s.spine := by
  simp [State.mergeEff]

@[simp] theorem State.packResult_spine (s : State) (d : Desc) (x : Pipeline) (i : Nat) (w : QueryWork) (p : Prompt) : (State.packResult s d x i w p).spine = s.spine := by
  simp [State.packResult]

@[simp] theorem State.packEff_spine (s : State) (c : CtxId) (x : Pack) : (State.packEff s c x).spine = s.spine := by
  unfold State.packEff
  (repeat' (first | (simp; done) | split | (refine (foldl_spine _ (fun _ _ => ?_) _ _).trans ?_) | dsimp only))

@[simp] theorem State.dmaWr_spine (s : State) (id : U32) (off : Nat) (bs : Bytes) : ((State.dmaWr s id off bs).2).spine = s.spine := by
  unfold State.dmaWr
  split
  · rfl
  · split
    · simp
    · refine foldl_snd_spine _ (fun p a => ?_) _ _
      dsimp only
      split <;> simp

@[simp] theorem State.copyEff_spine (s : State) (c : CtxId) (x : Copy) : ((State.copyEff s c x).2).spine = s.spine := by
  unfold State.copyEff
  simp only []
  (repeat' split) <;> simp

@[simp] theorem State.windowPut_spine (s : State) (id : U32) (bs : Bytes) : ((State.windowPut s id bs).2).spine = s.spine := by
  unfold State.windowPut
  (repeat' split) <;> simp

@[simp] theorem State.wfillEff_spine (s : State) (c : CtxId) (q : SeqId) (b : Bytes) (x : Wfill) : ((State.wfillEff s c q b x).2).spine = s.spine := by
  unfold State.wfillEff
  dsimp only
  (repeat' split) <;> simp

@[simp] theorem State.loadStart_spine (s : State) (d : Desc) (x : LoadOps) (o : Obj) (base : U64) (mask : U32) : (State.loadStart s d x o base mask).spine = s.spine := by
  unfold State.loadStart
  dsimp only
  split <;> simp

@[simp] theorem State.loadBegin_spine (s : State) (d : Desc) : (State.loadBegin s d).spine = s.spine := by
  unfold State.loadBegin
  simp only []
  (repeat' split) <;> simp

@[simp] theorem State.loadImageBegin_spine (s : State) (d : Desc) : (State.loadImageBegin s d).spine = s.spine := by
  unfold State.loadImageBegin
  simp only []
  (repeat' split) <;> simp

@[simp] theorem State.evictBegin_spine (s : State) (d : Desc) : (State.evictBegin s d).spine = s.spine := by
  unfold State.evictBegin
  simp only []
  (repeat' split) <;> simp

@[simp] theorem State.evictImageBegin_spine (s : State) (d : Desc) : (State.evictImageBegin s d).spine = s.spine := by
  unfold State.evictImageBegin
  simp only []
  (repeat' split) <;> simp

@[simp] theorem State.lineBegin_spine (s : State) (d : Desc) : (State.lineBegin s d).spine = s.spine := by
  unfold State.lineBegin
  (repeat' split) <;> simp

@[simp] theorem State.lineEnter_spine (s : State) (d : Desc) : (State.lineEnter s d).spine = s.spine := by
  simp [State.lineEnter]

@[simp] theorem State.forget_spine (s : State) (id : U32) : (State.forget s id).spine = s.spine := by
  simp [State.forget]

@[simp] theorem State.makeAbsent_spine (s : State) (id : U32) : (State.makeAbsent s id).spine = s.spine := by
  unfold State.makeAbsent
  (repeat' split) <;> simp

@[simp] theorem State.lineNext_spine (b : Bool) (id : U32) (n : Nat) (s : State) : (State.lineNext b id n s).spine = s.spine := by
  induction n generalizing s with
  | zero => rfl
  | succ n ih =>
    unfold State.lineNext
    split
    · rfl
    · split
      · rfl
      · rw [ih]; simp

@[simp] theorem State.loadEnd_spine (s : State) (r : LoadRun) (code : Code) (result : Nat) : (State.loadEnd s r code result).spine = s.spine := by
  simp [State.loadEnd]

@[simp] theorem State.imageOver_spine (s : State) (id : U32) (parcels : Nat) : (State.imageOver s id parcels).spine = s.spine := by
  simp [State.imageOver]

@[simp] theorem State.placedOver_spine (s : State) (o : Obj) : (State.placedOver s o).spine = s.spine := by
  simp [State.placedOver]

@[simp] theorem State.shardArrived_spine (s : State) (r : LoadRun) (o : Obj) (n : Nat) : (State.shardArrived s r o n).spine = s.spine := by
  unfold State.shardArrived
  simp only []
  (repeat' split) <;> simp

@[simp] theorem State.loadArrived_spine (s : State) (r : LoadRun) (n : Nat) : (State.loadArrived s r n).spine = s.spine := by
  unfold State.loadArrived
  (repeat' split) <;> simp

@[simp] theorem State.loadOverEnd_spine (s : State) (r : LoadRun) (o : Obj) : (State.loadOverEnd s r o).spine = s.spine := by
  simp [State.loadOverEnd]

@[simp] theorem State.loadHalted_spine (s : State) (r : LoadRun) : (State.loadHalted s r).spine = s.spine := by
  unfold State.loadHalted
  (repeat' split) <;> simp

@[simp] theorem State.loadObjDone_spine (s : State) (r : LoadRun) : (State.loadObjDone s r).spine = s.spine := by
  unfold State.loadObjDone
  (repeat' split) <;> simp

@[simp] theorem State.loadImageDone_spine (s : State) (r : LoadRun) : (State.loadImageDone s r).spine = s.spine := by
  unfold State.loadImageDone
  (repeat' split) <;> simp

@[simp] theorem State.setModeRt_spine (s : State) (off v : Nat) : (State.setModeRt s off v).spine = s.spine := by
  simp [State.setModeRt]

@[simp] theorem State.setRegsRt_spine (s : State) (off v : Nat) : (State.setRegsRt s off v).spine = s.spine := by
  unfold State.setRegsRt
  (repeat' split) <;> simp

@[simp] theorem State.applyRt_spine (s : State) (x : RtRecord) : (State.applyRt s x).spine = s.spine := by
  simp [State.applyRt]

@[simp] theorem State.maintDone_spine (s : State) (activity : Byte) (outcome : Nat) (c : Option CtxId) (discarded dropped : Bool) (target : U32) (tag result : Nat) : (State.maintDone s activity outcome c discarded dropped target tag result).spine = s.spine := by
  simp [State.maintDone]

@[simp] theorem State.discardDesc_spine (s : State) (d : Desc) : (State.discardDesc s d).spine = s.spine := by
  simp [State.discardDesc]

@[simp] theorem State.actDescEnd_spine (s : State) (a : Activity) (d : Desc) (code : Code) (result : Nat) : (State.actDescEnd s a d code result).spine = s.spine := by
  simp [State.actDescEnd]

@[simp] theorem State.actStartEnd_spine (s : State) (a : Activity) (c : CtxId) (q : SeqId) (robj : U32) (wait : Bool) (code : Code) (result : Nat) : (State.actStartEnd s a c q robj wait code result).spine = s.spine := by
  simp [State.actStartEnd]

@[simp] theorem State.actEnd_spine (s : State) (a : Activity) (code : Code) (result : Nat) : (State.actEnd s a code result).spine = s.spine := by
  unfold State.actEnd
  (repeat' split) <;> simp

@[simp] theorem State.actRefused_spine (s : State) (a : Activity) (code : Code) : (State.actRefused s a code).spine = s.spine := by
  unfold State.actRefused
  (repeat' split) <;> simp

@[simp] theorem State.unstall_spine (s : State) (r : Reader) : (State.unstall s r).spine = s.spine := by
  simp [State.unstall]

@[simp] theorem State.actLeaves_spine (s : State) (a : Activity) : (State.actLeaves s a).spine = s.spine := by
  simp [State.actLeaves]

@[simp] theorem State.dropActs_spine (s : State) (c : CtxId) : (State.dropActs s c).spine = s.spine := by
  unfold State.dropActs
  (repeat' (first | (simp; done) | split | (refine (foldl_spine _ (fun _ _ => ?_) _ _).trans ?_) | dsimp only))

@[simp] theorem State.measure_spine (s : State) (kind ctx card : Byte) (id : Nat) (digest : Bytes) : (State.measure s kind ctx card id digest).spine = s.spine := by
  simp [State.measure]

@[simp] theorem State.attest_spine (s : State) (d : Desc) : (State.attest s d).spine = s.spine := by
  simp [State.attest]

@[simp] theorem State.lifeEvent_spine (s : State) (reason : Byte) (seq : Nat) : (State.lifeEvent s reason seq).spine = s.spine := by
  simp [State.lifeEvent]

@[simp] theorem State.refreshLife_spine (s : State) : (State.refreshLife s).spine = s.spine := by
  simp [State.refreshLife]

@[simp] theorem State.warnLife_spine (s : State) : (State.warnLife s).spine = s.spine := by
  simp [State.warnLife]

@[simp] theorem State.eraseBlocks_spine (s : State) (ks : List Nat) : (State.eraseBlocks s ks).spine = s.spine := by
  simp [State.eraseBlocks]

@[simp] theorem State.freeCode_spine (s : State) : ((State.freeCode s).2).spine = s.spine := by
  simp [State.freeCode]

@[simp] theorem State.ckptMet_spine (s : State) (ok dusk : Bool) : (State.ckptMet s ok dusk).spine = s.spine := by
  simp [State.ckptMet]

@[simp] theorem State.startCkpt_spine (s : State) : (State.startCkpt s).spine = s.spine := by
  simp [State.startCkpt]

@[simp] theorem State.requestCkpt_spine (s : State) : (State.requestCkpt s).spine = s.spine := by
  unfold State.requestCkpt
  (repeat' split) <;> simp

@[simp] theorem State.nextCkpt_spine (s : State) : (State.nextCkpt s).spine = s.spine := by
  simp [State.nextCkpt]

@[simp] theorem State.retire_spine (s : State) (bad : List Nat) (seq : Nat) : (State.retire s bad seq).spine = s.spine := by
  simp [State.retire]

@[simp] theorem State.ckptFailed_spine (s : State) (k : Ckpt) (reason : Byte) : (State.ckptFailed s k reason).spine = s.spine := by
  simp [State.ckptFailed]

@[simp] theorem State.ckptWritten_spine (s : State) (k : Ckpt) (bad : List Nat) : (State.ckptWritten s k bad).spine = s.spine := by
  simp [State.ckptWritten]

@[simp] theorem State.restoreClass_spine (s : State) (correctable : Bool) (ks : List Counter) : (State.restoreClass s correctable ks).spine = s.spine := by
  unfold State.restoreClass
  simp only []
  (repeat' split) <;> simp

@[simp] theorem State.restoreCkpt_spine (s : State) (k : Ckpt) : (State.restoreCkpt s k).spine = s.spine := by
  simp [State.restoreCkpt]

@[simp] theorem State.dawnLife_spine (s : State) (reason : Byte) : (State.dawnLife s reason).spine = s.spine := by
  simp [State.dawnLife]

@[simp] theorem State.readCard_spine (s : State) (t : Socket) : (State.readCard s t).spine = s.spine := by
  unfold State.readCard
  simp only []
  (repeat' split) <;> simp

@[simp] theorem State.loadBundle_spine (s : State) (p : HostPort) : (State.loadBundle s p).spine = s.spine := by
  simp [State.loadBundle]

@[simp] theorem State.wipeCard_spine (s : State) : (State.wipeCard s).spine = s.spine := by
  simp [State.wipeCard]

@[simp] theorem State.trimTo_spine (s : State) (d : Nat) (t : Trim) : (State.trimTo s d t).spine = s.spine := by
  simp [State.trimTo]

@[simp] theorem State.thermalEvent_spine (s : State) (reason : Byte) : (State.thermalEvent s reason).spine = s.spine := by
  simp [State.thermalEvent]

@[simp] theorem State.fillTarget_spine (s : State) (h t : Shard) (new : List NewSlot) : (State.fillTarget s h t new).spine = s.spine := by
  unfold State.fillTarget
  dsimp only
  rw [State.wr_spine]
  refine (foldl_snd_spine _ (fun p a => ?_) _ _).trans ?_
  · simp
  · simp

@[simp] theorem State.actFinish_spine (s : State) (a : Activity) (code : Code) (result : Nat) : (State.actFinish s a code result).spine = s.spine := by
  simp [State.actFinish]

@[simp] theorem State.actTurned_spine (s : State) (a : Activity) (code : Code) : (State.actTurned s a code).spine = s.spine := by
  simp [State.actTurned]

@[simp] theorem State.actBegun_spine (s : State) (a : Activity) : (State.actBegun s a).spine = s.spine := by
  simp [State.actBegun]

@[simp] theorem State.buildBegin_spine (s : State) (a : Activity) : (State.buildBegin s a).spine = s.spine := by
  unfold State.buildBegin
  (repeat' split) <;> simp

@[simp] theorem State.installBegin_spine (s : State) (a : Activity) : (State.installBegin s a).spine = s.spine := by
  unfold State.installBegin
  (repeat' split) <;> simp

@[simp] theorem State.cancelMerge_spine (s : State) (num : Nat) (id : U32) : (State.cancelMerge s num id).spine = s.spine := by
  simp [State.cancelMerge]

@[simp] theorem State.abortBegin_spine (s : State) (a : Activity) : (State.abortBegin s a).spine = s.spine := by
  unfold State.abortBegin
  (repeat' split) <;> simp

@[simp] theorem State.actBegin_spine (s : State) (a : Activity) : (State.actBegin s a).spine = s.spine := by
  unfold State.actBegin
  (repeat' split) <;> simp

@[simp] theorem State.actNext_spine (n : Nat) (s : State) : (State.actNext n s).spine = s.spine := by
  induction n generalizing s with
  | zero => rfl
  | succ n ih =>
    unfold State.actNext
    split
    · rfl
    · rw [ih]; simp

@[simp] theorem State.laneNext_spine (s : State) : (State.laneNext s).spine = s.spine := by
  simp [State.laneNext]

@[simp] theorem State.actReceive_spine (s : State) (a : Activity) : (State.actReceive s a).spine = s.spine := by
  unfold State.actReceive
  (repeat' split) <;> simp

@[simp] theorem State.buildOut_spine (s : State) (a : Activity) (id : U32) (h t : Shard) : (State.buildOut s a id h t).spine = s.spine := by
  simp [State.buildOut]

@[simp] theorem State.buildEnd_spine (s : State) (a : Activity) : (State.buildEnd s a).spine = s.spine := by
  unfold State.buildEnd
  simp only []
  (repeat' split) <;> simp

@[simp] theorem State.replayLog_spine (s : State) (h : Shard) (target : U32) : (State.replayLog s h target).spine = s.spine := by
  unfold State.replayLog
  (repeat' (first | (simp; done) | split | (refine (foldl_spine _ (fun _ _ => ?_) _ _).trans ?_) | dsimp only))

@[simp] theorem State.copyTail_spine (s : State) (h : Shard) (target : U32) (snap : Nat) : (State.copyTail s h target snap).spine = s.spine := by
  simp [State.copyTail]

@[simp] theorem State.installOver_spine (s : State) (a : Activity) : (State.installOver s a).spine = s.spine := by
  simp [State.installOver]

@[simp] theorem State.installDone_spine (s : State) (a : Activity) (target : U32) : (State.installDone s a target).spine = s.spine := by
  exact rfl

@[simp] theorem State.installFails_spine (s : State) (a : Activity) (code : Code) : (State.installFails s a code).spine = s.spine := by
  simp [State.installFails]

@[simp] theorem State.installEff_spine (s : State) (a : Activity) (id : U32) : (State.installEff s a id).spine = s.spine := by
  simp [State.installEff]

@[simp] theorem State.writeRows_spine (s : State) (t : Table) (ps : List (RowPlan × Nat)) : (State.writeRows s t ps).spine = s.spine := by
  simp [State.writeRows]

@[simp] theorem State.refreshHot_spine (s : State) (t : U32) (entries : List (U32 × Nat)) : ((State.refreshHot s t entries).2).spine = s.spine := by
  unfold State.refreshHot
  dsimp only
  have h : ∀ (l : List (U32 × Nat)) (p : List HotRow × Nat × State),
      (l.foldl (fun (a : List HotRow × Nat × State) e =>
    let u := s.table e.1
    let tier := (s.dirWord u e.2).tier
    let n := u.rowLen tier
    (a.1 ++ [{ table := e.1, row := e.2, offset := a.2.1, length := n }], a.2.1 + u.stride tier,
     (a.2.2.put .hot a.2.1 (s.rowRaw u e.2)).setDirWord u e.2 { a.2.2.dirWord u e.2 with hot := true })) p).2.2.spine = p.2.2.spine := by
    intro l
    induction l with
    | nil => intro p; rfl
    | cons a l ih => intro p; rw [List.foldl_cons, ih]; simp
  simp [h]

@[simp] theorem State.refreshEnd_spine (s : State) (a : Activity) : (State.refreshEnd s a).spine = s.spine := by
  unfold State.refreshEnd
  simp only []
  (repeat' split) <;> simp

@[simp] theorem State.startReceive_spine (s : State) (args : Bytes) (a : Activity) : (State.startReceive s args a).spine = s.spine := by
  unfold State.startReceive
  split <;> simp

@[simp] theorem State.spread_spine (s : State) (but : Option SelynPort) (origin : Nat) (ty : Byte) (fields : Bytes) : (State.spread s but origin ty fields).spine = s.spine := by
  simp [State.spread]

@[simp] theorem State.loseRange_spine (s : State) (r : U16 × U16) : (State.loseRange s r).spine = s.spine := by
  unfold State.loseRange
  (repeat' (first | (simp; done) | split | (refine (foldl_spine _ (fun _ _ => ?_) _ _).trans ?_) | dsimp only))

@[simp] theorem State.addLost_spine (s : State) (n : SelynPort) (r : U16 × U16) : (State.addLost s n r).spine = s.spine := by
  simp [State.addLost]

@[simp] theorem State.retrain_spine (s : State) (n : SelynPort) : (State.retrain s n).spine = s.spine := by
  simp [State.retrain]

@[simp] theorem State.freeForwarded_spine (s : State) (fs : List Frame) : (State.freeForwarded s fs).spine = s.spine := by
  unfold State.freeForwarded
  (repeat' (first | (simp; done) | split | (refine (foldl_spine _ (fun _ _ => ?_) _ _).trans ?_) | dsimp only))

@[simp] theorem State.runFree_spine (s : State) : (State.runFree s).spine = s.spine := by
  simp [State.runFree]

@[simp] theorem State.unowned_spine (s : State) : (State.unowned s).spine = s.spine := by
  simp [State.unowned]

@[simp] theorem State.linkDown_spine (s : State) (n : SelynPort) (why : Byte) : (State.linkDown s n why).spine = s.spine := by
  unfold State.linkDown
  dsimp only
  (repeat' split) <;> simp

@[simp] theorem State.linkUp_spine (s : State) (n : SelynPort) : (State.linkUp s n).spine = s.spine := by
  simp [State.linkUp]

@[simp] theorem State.setFormed_spine (s : State) : (State.setFormed s).spine = s.spine := by
  simp [State.setFormed]

@[simp] theorem State.sendRollcall_spine (s : State) (u : SelynPort) : (State.sendRollcall s u).spine = s.spine := by
  unfold State.sendRollcall
  dsimp only
  split <;> simp

@[simp] theorem State.tryRollcall_spine (s : State) : (State.tryRollcall s).spine = s.spine := by
  unfold State.tryRollcall
  dsimp only
  (repeat' split) <;> simp only [State.sendRollcall_spine, State.linkEvent_spine, State.setFormed_spine]

@[simp] theorem State.acked_spine (s : State) (n : SelynPort) (f : Frame) : (State.acked s n f).spine = s.spine := by
  unfold State.acked
  simp only []
  (repeat' split) <;> simp

@[simp] theorem State.takeAck_spine (s : State) (n : SelynPort) (ack : BitVec 12) (cvc : BitVec 2) (credits : Nat) : (State.takeAck s n ack cvc credits).spine = s.spine := by
  simp [State.takeAck]

@[simp] theorem State.resend_spine (s : State) (n : SelynPort) : (State.resend s n).spine = s.spine := by
  simp [State.resend]

@[simp] theorem State.badFrame_spine (s : State) (n : SelynPort) : (State.badFrame s n).spine = s.spine := by
  simp [State.badFrame]

@[simp] theorem State.deliver_spine (s : State) (n : SelynPort) (h : FrameHdr) (payload : Bytes) : (State.deliver s n h payload).spine = s.spine := by
  unfold State.deliver
  simp only []
  (repeat' split) <;> simp

@[simp] theorem State.routeData_spine (s : State) (n : SelynPort) (h : FrameHdr) (payload : Bytes) : (State.routeData s n h payload).spine = s.spine := by
  unfold State.routeData
  (repeat' split) <;> simp

@[simp] theorem State.follow_spine (s : State) (offset : Int) (first : Bool) : (State.follow s offset first).spine = s.spine := by
  simp [State.follow]

@[simp] theorem State.sourceExchange_spine (s : State) (i : Nat) (offset : Int) (roundTrip : U32) : (State.sourceExchange s i offset roundTrip).spine = s.spine := by
  simp [State.sourceExchange]

@[simp] theorem State.passMismatch_spine (s : State) (n : SelynPort) (pass : U32) (k : U16) (c : CtxId) : (State.passMismatch s n pass k c).spine = s.spine := by
  simp [State.passMismatch]

@[simp] theorem State.found_spine (s : State) (r : U16 × U16) : (State.found s r).spine = s.spine := by
  simp [State.found]

@[simp] theorem State.rejoinChild_spine (s : State) (n : SelynPort) (r lost : U16 × U16) (depth : Byte) : (State.rejoinChild s n r lost depth).spine = s.spine := by
  unfold State.rejoinChild
  dsimp only
  (repeat' split) <;> simp

@[simp] theorem State.stats_spine (s : State) (d : Desc) : (State.stats s d).spine = s.spine := by
  simp [State.stats]

@[simp] theorem State.adopt_spine (s : State) (i : U32) : (State.adopt s i).spine = s.spine := by
  simp [State.adopt]

@[simp] theorem State.dropUnnamed_spine (s : State) : (State.dropUnnamed s).spine = s.spine := by
  simp [State.dropUnnamed]

@[simp] theorem State.emptyWindows_spine (s : State) (c : CtxId) : (State.emptyWindows s c).spine = s.spine := by
  unfold State.emptyWindows
  (repeat' split) <;> simp

@[simp] theorem State.unbind_spine (s : State) (c : CtxId) : (State.unbind s c).spine = s.spine := by
  simp [State.unbind]

@[simp] theorem State.bind_spine (s : State) (c : CtxId) (i : U32) : (State.bind s c i).spine = s.spine := by
  simp [State.bind]

@[simp] theorem State.bindNow_spine (s : State) (d : Desc) : (State.bindNow s d).spine = s.spine := by
  unfold State.bindNow
  simp only []
  (repeat' split) <;> simp

@[simp] theorem State.unbindNow_spine (s : State) (d : Desc) : (State.unbindNow s d).spine = s.spine := by
  unfold State.unbindNow
  simp only []
  (repeat' split) <;> simp

@[simp] theorem State.stepEffect_spine (s : State) (d : Desc) : (State.stepEffect s d).spine = s.spine := by
  simp [State.stepEffect]

@[simp] theorem State.stepDesc_spine (s : State) (d : Desc) : (State.stepDesc s d).spine = s.spine := by
  simp [State.stepDesc]

@[simp] theorem State.stepEnter_spine (s : State) (d : Desc) : (State.stepEnter s d).spine = s.spine := by
  simp [State.stepEnter]

@[simp] theorem State.stepDescriptor_spine (s : State) (d : Desc) : (State.stepDescriptor s d).spine = s.spine := by
  simp [State.stepDescriptor]

@[simp] theorem State.pauseDesc_spine (s : State) (d : Desc) : (State.pauseDesc s d).spine = s.spine := by
  simp [State.pauseDesc]

@[simp] theorem State.resumeDesc_spine (s : State) (d : Desc) : (State.resumeDesc s d).spine = s.spine := by
  simp [State.resumeDesc]

@[simp] theorem State.cancelDesc_spine (s : State) (d : Desc) : (State.cancelDesc s d).spine = s.spine := by
  simp [State.cancelDesc]

@[simp] theorem State.maintDesc_spine (s : State) (d : Desc) : (State.maintDesc s d).spine = s.spine := by
  simp [State.maintDesc]

@[simp] theorem State.checkpointDesc_spine (s : State) (d : Desc) : (State.checkpointDesc s d).spine = s.spine := by
  simp [State.checkpointDesc]

@[simp] theorem State.syncAddDesc_spine (s : State) (d : Desc) : (State.syncAddDesc s d).spine = s.spine := by
  simp [State.syncAddDesc]

@[simp] theorem State.syncSetDesc_spine (s : State) (d : Desc) : (State.syncSetDesc s d).spine = s.spine := by
  simp [State.syncSetDesc]

@[simp] theorem State.syncReadDesc_spine (s : State) (d : Desc) : (State.syncReadDesc s d).spine = s.spine := by
  simp [State.syncReadDesc]

@[simp] theorem State.syncDesc_spine (s : State) (d : Desc) : (State.syncDesc s d).spine = s.spine := by
  unfold State.syncDesc
  (repeat' split) <;> simp

@[simp] theorem State.setSwpend_spine (s : State) (p : HostPort) (mask : U64) : (State.setSwpend s p mask).spine = s.spine := by
  simp [State.setSwpend]

@[simp] theorem State.testDesc_spine (s : State) (d : Desc) : (State.testDesc s d).spine = s.spine := by
  unfold State.testDesc
  (repeat' split) <;> simp

@[simp] theorem State.bindDesc_spine (s : State) (d : Desc) : (State.bindDesc s d).spine = s.spine := by
  simp [State.bindDesc]

@[simp] theorem State.descEffect_spine (s : State) (d : Desc) : (State.descEffect s d).spine = s.spine := by
  unfold State.descEffect
  (repeat' split) <;> simp

@[simp] theorem State.take_spine (s : State) (d : Desc) (refetched : Bool) : (State.take s d refetched).spine = s.spine := by
  simp [State.take]

@[simp] theorem State.crcCheck_spine (s : State) (d : Desc) (re : Bool) : ((State.crcCheck s d re).1).spine = s.spine := by
  unfold State.crcCheck
  simp only []
  (repeat' split) <;> simp

@[simp] theorem State.tryDesc_spine (s : State) (d : Desc) (re : Bool) : ((State.tryDesc s d re).1).spine = s.spine := by
  unfold State.tryDesc
  simp only []
  (repeat' split) <;> simp

@[simp] theorem State.countFetch_spine (s : State) (d : Desc) : (State.countFetch s d).spine = s.spine := by
  simp [State.countFetch]

@[simp] theorem State.arrive_spine (s : State) (d : Desc) : (State.arrive s d).spine = s.spine := by
  unfold State.arrive
  (repeat' (first | (simp; done) | split | (refine (foldl_spine _ (fun _ _ => ?_) _ _).trans ?_) | dsimp only | simp)) <;> (rename_i h; have h' := congrArg (fun p => (Prod.fst p).spine) h; simp at h'; simp [← h'])

@[simp] theorem State.arriveIf_spine (s : State) (ok : Bool) (d : Desc) : (State.arriveIf s ok d).spine = s.spine := by
  simp [State.arriveIf]

@[simp] theorem State.noteHeld_spine (s : State) (i : Nat) : (State.noteHeld s i).spine = s.spine := by
  unfold State.noteHeld
  (repeat' (first | (simp; done) | split | (refine (foldl_spine _ (fun _ _ => ?_) _ _).trans ?_) | dsimp only))

@[simp] theorem State.arbiterHolds_spine (s : State) (i : Nat) (es : List QEntry) : (State.arbiterHolds s i es).spine = s.spine := by
  simp [State.arbiterHolds]

@[simp] theorem State.arbiterWait_spine (s : State) (i : Nat) (e : QEntry) : (State.arbiterWait s i e).spine = s.spine := by
  simp [State.arbiterWait]

@[simp] theorem State.partnerWait_spine (s : State) (i : Nat) (e : QEntry) : (State.partnerWait s i e).spine = s.spine := by
  simp [State.partnerWait]

@[simp] theorem State.beginEntry_spine (s : State) (i : Nat) (e : QEntry) : (State.beginEntry s i e).spine = s.spine := by
  simp [State.beginEntry]

@[simp] theorem State.lonely_spine (s : State) (i j : Nat) : (State.lonely s i j).spine = s.spine := by
  simp [State.lonely]

@[simp] theorem State.grantSteppe_spine (s0 : State) : (State.grantSteppe s0).spine = s0.spine := by
  unfold State.grantSteppe
  dsimp only
  split
  · simp
  · split
    · rename_i h
      have h' := congrArg (fun p => (Prod.snd p).spine) h
      simp at h'
      simp [← h']
    · rename_i h
      have h' := congrArg (fun p => (Prod.snd p).spine) h
      simp at h'
      split <;> simp [← h']

@[simp] theorem State.countRound_spine (s : State) (arbiter : Nat) (reqs : List ArbReq) (win : Option ArbReq) : (State.countRound s arbiter reqs win).spine = s.spine := by
  unfold State.countRound
  refine foldl_spine _ (fun t r => ?_) _ _
  split <;> simp

@[simp] theorem State.searchWait_spine (s : State) (i : Nat) (e : QEntry) : (State.searchWait s i e).spine = s.spine := by
  simp [State.searchWait]

@[simp] theorem State.grantQueue_spine (s0 : State) (arbiter i : Nat) : (State.grantQueue s0 arbiter i).spine = s0.spine := by
  unfold State.grantQueue
  dsimp only
  split
  · simp
  · split
    · rename_i h
      have h' := congrArg (fun p => (Prod.snd p).spine) h
      simp at h'
      simp [← h']
    · rename_i h
      have h' := congrArg (fun p => (Prod.snd p).spine) h
      simp at h'
      split <;> simp [← h']

@[simp] theorem State.pullQueues_spine (s : State) (c : CtxId) : (State.pullQueues s c).spine = s.spine := by
  simp [State.pullQueues]

@[simp] theorem State.beginSuspend_spine (s : State) (c : CtxId) : (State.beginSuspend s c).spine = s.spine := by
  simp [State.beginSuspend]

@[simp] theorem State.beginResume_spine (s : State) (c : CtxId) : (State.beginResume s c).spine = s.spine := by
  simp [State.beginResume]

@[simp] theorem State.suspended_spine (s : State) (c : CtxId) : (State.suspended s c).spine = s.spine := by
  simp [State.suspended]

@[simp] theorem State.reacquire_spine (s : State) (c : CtxId) (q : SeqId) : (State.reacquire s c q).spine = s.spine := by
  unfold State.reacquire
  (repeat' split) <;> simp

@[simp] theorem State.restored_spine (s : State) (c : CtxId) : (State.restored s c).spine = s.spine := by
  simp [State.restored]

@[simp] theorem State.markReplayed_spine (s : State) (c : CtxId) (slot : Option Nat) : (State.markReplayed s c slot).spine = s.spine := by
  simp [State.markReplayed]

@[simp] theorem State.endStep_spine (s : State) (c : CtxId) (code : Code) : (State.endStep s c code).spine = s.spine := by
  simp [State.endStep]

@[simp] theorem State.poison_spine (s : State) (isImage : Bool) (id : U32) (off len : Nat) : (State.poison s isImage id off len).spine = s.spine := by
  unfold State.poison
  (repeat' split) <;> simp

@[simp] theorem State.readFails_spine (s : State) (ep : Episode) : ((State.readFails s ep).2).spine = s.spine := by
  unfold State.readFails
  (repeat' split) <;> simp

@[simp] theorem State.ringReadFails_spine (s : State) (c : CtxId) (r : BitVec 2) : (State.ringReadFails s c r).spine = s.spine := by
  simp [State.ringReadFails]

@[simp] theorem State.replayFails_spine (s : State) (ep : Episode) : (State.replayFails s ep).spine = s.spine := by
  unfold State.replayFails
  simp only []
  (repeat' split) <;> simp

@[simp] theorem State.replayPasses_spine (s : State) (ep : Episode) : (State.replayPasses s ep).spine = s.spine := by
  unfold State.replayPasses
  (repeat' split) <;> simp

@[simp] theorem State.episodeEvent_spine (s : State) (ep : Episode) (response : Byte) : (State.episodeEvent s ep response).spine = s.spine := by
  unfold State.episodeEvent
  (repeat' split) <;> simp

@[simp] theorem State.scrubOn_spine (s : State) (tier : BitVec 2) : (State.scrubOn s tier).spine = s.spine := by
  simp [State.scrubOn]

@[simp] theorem State.scrubFinds_spine (s : State) (tier : BitVec 2) (object : Option U32) (isImage : Bool) (off : Nat) (loc : Location) : (State.scrubFinds s tier object isImage off loc).spine = s.spine := by
  unfold State.scrubFinds
  (repeat' split) <;> simp

@[simp] theorem State.cancelOne_spine (s : State) (e : Desc × Bool) : (State.cancelOne s e).spine = s.spine := by
  simp [State.cancelOne]

@[simp] theorem State.cancelWaiting_spine (s : State) (c : CtxId) : (State.cancelWaiting s c).spine = s.spine := by
  simp [State.cancelWaiting]

@[simp] theorem State.cancelSteps_spine (s : State) (c : CtxId) : (State.cancelSteps s c).spine = s.spine := by
  simp [State.cancelSteps]

@[simp] theorem State.flushSlots_spine (s : State) (c : CtxId) : (State.flushSlots s c).spine = s.spine := by
  simp [State.flushSlots]

@[simp] theorem State.drain_spine (s : State) (c : CtxId) : (State.drain s c).spine = s.spine := by
  simp [State.drain]

@[simp] theorem State.drainOn_spine (s : State) (c : CtxId) : (State.drainOn s c).spine = s.spine := by
  simp [State.drainOn]

@[simp] theorem State.beginDusk_spine (s : State) (c : CtxId) : (State.beginDusk s c).spine = s.spine := by
  simp [State.beginDusk]

@[simp] theorem State.reportLoss_spine (s : State) (p : HostPort) : (State.reportLoss s p).spine = s.spine := by
  unfold State.reportLoss
  (repeat' split) <;> simp

@[simp] theorem State.drainAll_spine (s : State) : (State.drainAll s).spine = s.spine := by
  simp [State.drainAll]

@[simp] theorem State.endLoads_spine (s : State) (p : HostPort) : (State.endLoads s p).spine = s.spine := by
  unfold State.endLoads
  refine foldl_spine _ (fun t _ => ?_) _ _
  split <;> simp

@[simp] theorem State.losePort_spine (s : State) (p : HostPort) : (State.losePort s p).spine = s.spine := by
  simp [State.losePort]

@[simp] theorem State.dropAllActs_spine (s : State) : (State.dropAllActs s).spine = s.spine := by
  simp [State.dropAllActs]

@[simp] theorem State.stopBuilds_spine (s : State) : (State.stopBuilds s).spine = s.spine := by
  unfold State.stopBuilds
  (repeat' (first | (simp; done) | split | (refine (foldl_spine _ (fun _ _ => ?_) _ _).trans ?_) | dsimp only))

@[simp] theorem State.idle_spine (s : State) : (State.idle s).spine = s.spine := by
  simp [State.idle]

@[simp] theorem State.readIdle_spine (s : State) (p : HostPort) : (State.readIdle s p).spine = s.spine := by
  simp [State.readIdle]

@[simp] theorem State.readHeads_spine (s : State) (p : HostPort) : (State.readHeads s p).spine = s.spine := by
  simp [State.readHeads]

@[simp] theorem State.fetchSome_spine (s : State) (c : CtxId) (r : BitVec 2) (n : Nat) : (State.fetchSome s c r n).spine = s.spine := by
  simp [State.fetchSome]

@[simp] theorem State.pollRing_spine (s : State) (c : CtxId) (r : BitVec 2) : ((State.pollRing s c r).1).spine = s.spine := by
  unfold State.pollRing
  simp only []
  (repeat' split) <;> simp

@[simp] theorem State.pollRings_spine (s : State) (p : HostPort) : ((State.pollRings s p).1).spine = s.spine := by
  unfold State.pollRings
  split
  · rfl
  · refine foldl_fst_spine _ (fun p a => ?_) _ _
    refine foldl_fst_spine _ (fun p a => ?_) _ _
    simp

@[simp] theorem State.pace_spine (s : State) (p : HostPort) (moved : Bool) : (State.pace s p moved).spine = s.spine := by
  simp [State.pace]

@[simp] theorem State.fire_spine (s : State) (p : HostPort) (v : BitVec 6) : (State.fire s p v).spine = s.spine := by
  simp [State.fire]

@[simp] theorem State.fireOrClear_spine (s : State) (p : HostPort) (v : BitVec 6) : (State.fireOrClear s p v).spine = s.spine := by
  simp [State.fireOrClear]

@[simp] theorem State.resetFunction_spine (s : State) (p : HostPort) : (State.resetFunction s p).spine = s.spine := by
  simp [State.resetFunction]

@[simp] theorem State.trainPort_spine (s : State) (p : HostPort) : (State.trainPort s p).spine = s.spine := by
  simp [State.trainPort]

@[simp] theorem State.requestLevel_spine (s : State) (level : BitVec 2) : (State.requestLevel s level).spine = s.spine := by
  simp [State.requestLevel]

@[simp] theorem State.setTrims_spine (s : State) (dom : Nat) (value : U32) : (State.setTrims s dom value).spine = s.spine := by
  simp [State.setTrims]

@[simp] theorem State.regulateEvents_spine (s : State) (w : Power) (excess thermal power : Bool) : (State.regulateEvents s w excess thermal power).spine = s.spine := by
  unfold State.regulateEvents
  dsimp only
  (repeat' split) <;> simp

@[simp] theorem State.regulate_spine (s : State) : (State.regulate s).spine = s.spine := by
  unfold State.regulate
  exact (State.regulateEvents_spine _ _ _ _ _).trans rfl

@[simp] theorem State.critical_spine (s : State) : (State.critical s).spine = s.spine := by
  simp [State.critical]

theorem State.junctions_spine (s : State) (h : s.hottest < 460) : s.junctions.spine = s.spine := by
  unfold State.junctions
  rw [if_neg (by omega)]
  split <;> simp

@[simp] theorem State.startDusk_spine (s : State) : (State.startDusk s).spine = s.spine := by
  simp [State.startDusk]

@[simp] theorem State.selftestFail_spine (s : State) (l : Location) : (State.selftestFail s l).spine = s.spine := by
  simp [State.selftestFail]

@[simp] theorem State.startTraining_spine (s : State) (n : SelynPort) : (State.startTraining s n).spine = s.spine := by
  simp [State.startTraining]

@[simp] theorem State.takeOwner_spine (s : State) (p : HostPort) : (State.takeOwner s p).spine = s.spine := by
  simp [State.takeOwner]

@[simp] theorem State.dropOwner_spine (s : State) (p : HostPort) : (State.dropOwner s p).spine = s.spine := by
  simp [State.dropOwner]

@[simp] theorem State.askSuspend_spine (s : State) (c : CtxId) : (State.askSuspend s c).spine = s.spine := by
  simp [State.askSuspend]

@[simp] theorem State.withdraw_spine (s : State) (c : CtxId) : (State.withdraw s c).spine = s.spine := by
  simp [State.withdraw]

@[simp] theorem State.clearFault_spine (s : State) (c : CtxId) : (State.clearFault s c).spine = s.spine := by
  simp [State.clearFault]

@[simp] theorem State.resetRing_spine (s : State) (c : CtxId) (r : BitVec 2) : (State.resetRing s c r).spine = s.spine := by
  simp [State.resetRing]

@[simp] theorem State.writeControl_spine (s : State) (c : CtxId) (v : Nat) : (State.writeControl s c v).spine = s.spine := by
  simp [State.writeControl]

@[simp] theorem State.writeCq_spine (s : State) (c : CtxId) (v : Nat) : (State.writeCq s c v).spine = s.spine := by
  simp [State.writeCq]

@[simp] theorem State.writeSq_spine (s : State) (c : CtxId) (r v : Nat) : (State.writeSq s c r v).spine = s.spine := by
  simp [State.writeSq]

@[simp] theorem State.writeAttn_spine (s : State) (p : HostPort) (v : Nat) : (State.writeAttn s p v).spine = s.spine := by
  simp [State.writeAttn]

@[simp] theorem State.clearSwpend_spine (s : State) (p : HostPort) (mask : U64) : (State.clearSwpend s p mask).spine = s.spine := by
  simp [State.clearSwpend]

@[simp] theorem State.releaseDma_spine (s : State) (mask : U32) : (State.releaseDma s mask).spine = s.spine := by
  simp [State.releaseDma]

@[simp] theorem State.writeThresh_spine (s : State) (k : Nat) (v : Nat) : (State.writeThresh s k v).spine = s.spine := by
  simp [State.writeThresh]

@[simp] theorem State.clearInteg_spine (s : State) (v : Nat) : (State.clearInteg s v).spine = s.spine := by
  simp [State.clearInteg]

@[simp] theorem State.clearSync_spine (s : State) (base count : Nat) : (State.clearSync s base count).spine = s.spine := by
  simp [State.clearSync]

@[simp] theorem State.writeLinkPort_spine (s : State) (n : SelynPort) (v : Nat) : (State.writeLinkPort s n v).spine = s.spine := by
  simp [State.writeLinkPort]

@[simp] theorem State.writeMsix_spine (s : State) (p : HostPort) (k v : Nat) : (State.writeMsix s p k v).spine = s.spine := by
  simp [State.writeMsix]

@[simp] theorem State.writeHost_spine (s : State) (p : HostPort) (off v : Nat) : (State.writeHost s p off v).spine = s.spine := by
  simp [State.writeHost]

@[simp] theorem State.writeIntc_spine (s : State) (p : HostPort) (off v : Nat) : (State.writeIntc s p off v).spine = s.spine := by
  simp [State.writeIntc]

@[simp] theorem State.writeCtxReg_spine (s : State) (c : CtxId) (r v : Nat) : (State.writeCtxReg s c r v).spine = s.spine := by
  simp [State.writeCtxReg]

@[simp] theorem State.writeCtx_spine (s : State) (p : HostPort) (off v : Nat) : (State.writeCtx s p off v).spine = s.spine := by
  simp [State.writeCtx]

@[simp] theorem State.writeMode_spine (s : State) (off v : Nat) : (State.writeMode s off v).spine = s.spine := by
  simp [State.writeMode]

@[simp] theorem State.writeVesper_spine (s : State) (p : HostPort) (off v : Nat) : (State.writeVesper s p off v).spine = s.spine := by
  simp [State.writeVesper]

theorem State.lose_spine (s : State) : s.lose.spine =
    ({ State.reset with pending := s.pending, boot := { Boot.init with fuses := s.boot.fuses } } : State).spine := rfl

theorem State.selfTest_spine (s : State) (failed : List Location) : (s.selfTest failed).spine =
    ({ s with boot := { s.boot with state := 0, selftested := true, bars := false, firmware := false, locked := false } } : State).spine := by
  have h : (failed.dedup.foldl State.selftestFail s).spine = s.spine := foldl_spine _ (fun t l => by simp) _ _
  simp only [State.spine, Prod.mk.injEq] at h
  simp [State.selfTest, State.spine, h]

theorem State.go_spine (s : State) (p : HostPort) : (s.go p).spine =
    if s.owner? = some p ∧ s.boot.state = 1 then ({ s with boot := { s.boot with state := 2 } } : State).spine else s.spine := by
  unfold State.go
  split <;> rfl

theorem State.burn_spine (s : State) (f : Fuses) : (s.burn f).spine = ({ s with boot := { s.boot with fuses := f } } : State).spine := by
  unfold State.burn
  split
  · rename_i h; rw [h]
  · rfl

theorem State.refuseImage_spine (s : State) (status : Nat) :
    (s.refuseImage status).spine = ({ s with boot := { s.boot with state := 1 } } : State).spine := rfl

/-- The fuses that an accepted image leaves (R463). -/
def State.burntFuses (s : State) : Fuses :=
  let h := s.get .boot 0 32
  let f := s.boot.fuses
  let f1 : Fuses := if bitAt h 10 0 then { f with floor := f.floor ||| BitVec.ofNat 64 (2 ^ fld h 11 1 - 1) } else f
  if bitAt h 10 1 ∧ fld h 9 1 = 1 then { f1 with revoked := f1.revoked ||| 1 } else f1

theorem State.burn_fuses (s : State) (f : Fuses) : (s.burn f).boot.fuses = f := by
  unfold State.burn
  split
  · rename_i h; exact h.symm
  · rfl

theorem State.burn_boot (s : State) (f : Fuses) : (s.burn f).boot = { s.boot with fuses := f, burns := (s.burn f).boot.burns } := by
  unfold State.burn
  split
  · rename_i h; rw [h]
  · rfl

theorem State.burnFuses_spine (s : State) : s.burnFuses.spine = ({ s with boot := { s.boot with fuses := s.burntFuses } } : State).spine := by
  unfold State.burnFuses State.burntFuses
  dsimp only
  generalize State.get s .boot 0 32 = h
  by_cases h0 : bitAt h 10 0 = true <;> by_cases h1 : bitAt h 10 1 = true ∧ fld h 9 1 = 1 <;>
    simp only [h0, h1, if_true, if_false, Bool.false_eq_true, and_self] <;> (try rw [State.burn_spine]) <;> (try rw [State.burn_fuses]) <;> (try rfl)
  rw [State.burn_boot]
  have e := State.burn_spine s { s.boot.fuses with floor := s.boot.fuses.floor ||| BitVec.ofNat 64 (2 ^ fld h 11 1 - 1) }
  simp only [State.spine, Prod.mk.injEq] at e ⊢
  simp [e]

theorem State.acceptImage_spine (s : State) :
    s.acceptImage.spine = ({ s with boot := { s.boot with fuses := s.burntFuses, firmware := true } } : State).spine := by
  have e := State.burnFuses_spine s
  unfold State.acceptImage
  dsimp only
  rw [State.measure_spine]
  simp only [State.spine, Prod.mk.injEq] at e ⊢
  simp [e]

theorem State.lock_spine (s : State) (p : HostPort) : (s.lock p).spine = if s.owner? = some p ∧ s.boot.state = 3 then
    ({ s with boot := { s.boot with locked := true, state := 4 }, stepUnits := s.regs.stepmem.toNat } : State).spine else s.spine := by
  unfold State.lock
  split
  · exact foldl_spine _ (fun t n => by simp) _ _
  · rfl

/-- Outside MEM.STEPMEM a write to the memory block leaves the spine; MEM.STEPMEM takes it only while nothing is locked (R13). -/
theorem State.writeMem_spine (s : State) (off v : Nat) : (s.writeMem off v).spine =
    if off = 0x60000 ∧ s.boot.locked = false ∧ within (v % 64) 1 32 = true then
      ({ s with regs := { s.regs with stepmem := BitVec.ofNat 6 v } } : State).spine else s.spine := by
  unfold State.writeMem
  by_cases h : off = 0x60000
  · cases hl : s.boot.locked <;> cases hw : within (v % 64) 1 32 <;> simp [h, hw] <;> rfl
  · have n : ¬ (off = 0x60000 ∧ s.boot.locked = false ∧ within (v % 64) 1 32 = true) := fun e => h e.1
    rw [if_neg n]
    simp only [h, if_false]
    (repeat' split) <;> simp

theorem State.writeTree_spine (s : State) (v : Nat) (h : s.boot.locked = true) : (s.writeTree v).spine = s.spine := by
  simp [State.writeTree, h]

/-- LINK.TREE changes nothing of the spine but its own fields (R393). -/
theorem State.writeTree_boot (s : State) (v : Nat) : (s.writeTree v).boot = s.boot ∧ (s.writeTree v).pending = s.pending ∧
    (s.writeTree v).stepUnits = s.stepUnits ∧ (s.writeTree v).regs.stepmem = s.regs.stepmem := by
  unfold State.writeTree
  dsimp only
  split <;> exact ⟨rfl, rfl, rfl, rfl⟩

theorem State.writeLinkEngine_spine (s : State) (off v : Nat) (h : s.boot.locked = true) : (s.writeLinkEngine off v).spine = s.spine := by
  have e := State.writeTree_spine s v h
  unfold State.writeLinkEngine
  (repeat' split) <;> simp [e] <;> rfl

theorem State.writeLinkEngine_spine_of_ne (s : State) (off v : Nat) (h : off ≠ 0x80000) : (s.writeLinkEngine off v).spine = s.spine := by
  unfold State.writeLinkEngine
  rw [if_neg h]
  (repeat' split) <;> simp <;> rfl

/-- What equal spines say, field by field. -/
theorem State.of_spine {s t : State} (h : t.spine = s.spine) :
    t.pending = s.pending ∧ t.stepUnits = s.stepUnits ∧ t.boot.state = s.boot.state ∧ t.boot.locked = s.boot.locked ∧ t.boot.bars = s.boot.bars ∧
    t.boot.firmware = s.boot.firmware ∧ t.boot.selftested = s.boot.selftested ∧ t.boot.fuses = s.boot.fuses ∧
    t.boot.imageLength = s.boot.imageLength ∧ t.regs.stepmem = s.regs.stepmem ∧ t.regs.treeIndex = s.regs.treeIndex ∧
    t.regs.treeRole = s.regs.treeRole ∧ t.regs.treeUplink = s.regs.treeUplink ∧ t.regs.treeChildren = s.regs.treeChildren ∧
    t.regs.treeSize = s.regs.treeSize ∧ t.regs.treeId = s.regs.treeId := by
  simp only [State.spine, Prod.mk.injEq] at h
  obtain ⟨h1, h2, h3, h4, h5, h6, h7, h8, h9, h10⟩ := h
  exact ⟨h1, h2, h3, h4, h5, h6, h7, h8, h9, h10⟩

end Sys2Proof.Machine
end

