-- ==== Sys2Proof/Laws/SpineExec.lean ====
section
/-! SUPPORT. What each command does to the spine of the state: nothing, but for a reset, Dawn and a register write. -/

namespace Sys2Proof.Machine

theorem State.claimPoison_spine (s : State) (c : CtxId) (rest : Access → Option (State → State))
    (h : ∀ a f, rest a = some f → ∀ t, (f t).spine = t.spine) : ∀ a f, s.claimPoison c rest a = some f → ∀ t, (f t).spine = t.spine := by
  intro a f hf t
  unfold State.claimPoison at hf
  split at hf
  · cases hf; simp
  · exact h a f hf t

theorem State.noPoison_spine : ∀ a f, State.noPoisonRule a = some f → ∀ t, (f t).spine = t.spine := by
  intro a f hf; cases hf

theorem State.loadrPoison_spine (c : CtxId) (x : Loadr) : ∀ a f, State.loadrPoison c x a = some f → ∀ t, (f t).spine = t.spine := by
  intro a f hf t
  unfold State.loadrPoison at hf
  split at hf
  · split at hf
    · cases hf
    · cases hf
      refine (foldl_spine _ (fun _ _ => ?_) _ _).trans ?_ <;> simp
  · cases hf

theorem State.runSteppe_spine (s : State) (c : CtxId) (w e : Bytes) (cmd : Nat) (allowed : Bool) (acc : List Access)
    (onPoison : Access → Option (State → State)) (eff : State → State) (hp : ∀ a f, onPoison a = some f → ∀ t, (f t).spine = t.spine)
    (he : ∀ t, (eff t).spine = t.spine) : (s.runSteppe c w e cmd allowed acc onPoison eff).spine = s.spine :=
  State.runCommand_spine _ _ _ _ _ _ _ _ _ hp he (fun t => by simp)

@[simp] theorem State.rimRows_spine (s : State) (c : CtxId) (w e : Bytes) (op : Nat) (extra : Bool) (u : RimUse)
    (row : State → Nat → List F32 → List F32) : (s.rimRows c w e op extra u row).spine = s.spine :=
  State.runSteppe_spine _ _ _ _ _ _ _ _ _ State.noPoison_spine (fun t => by simp)

@[simp] theorem State.runSeq_spine (s : State) (c : CtxId) (q : SeqId) (here : Bool) (f : State → State) (h : (f s).spine = s.spine) :
    (s.runSeq c q here f).spine = s.spine := by
  unfold State.runSeq
  dsimp only
  split
  · rfl
  · split
    · rfl
    · split
      · simp
      · split
        · exact h
        · rfl

theorem State.runGlen_spine (s : State) (c : CtxId) (on : State.Copies) (allowed : Bool) (acc : List Access) (eff finish : State → State)
    (he : ∀ t, (eff t).spine = t.spine) (hf : ∀ t, (finish t).spine = t.spine) : (s.runGlen c on allowed acc eff finish).spine = s.spine := by
  have h := State.runCommand_spine s c on allowed acc State.noPoisonRule eff finish none State.noPoison_spine he hf
  unfold State.runGlen
  (repeat' split) <;> first | exact h | simp

theorem State.runWrite_spine (s : State) (c : CtxId) (q : SeqId) (b : Bytes) (op : Nat) (eff : State → Write → U32 → State)
    (he : ∀ t x i, (eff t x i).spine = t.spine) : (s.runWrite c q b op eff).spine = s.spine := by
  unfold State.runWrite
  dsimp only
  split
  · simp
  · refine State.runGlen_spine _ _ _ _ _ _ _ (fun t => ?_) (fun t => by simp)
    split
    · rfl
    · exact he _ _ _

theorem State.runDma_spine (s : State) (c : CtxId) (q : SeqId) (b : Bytes) (allowed : Bool) (acc src : List Access)
    (eff : State → DmaEnd × State) (full : Option U32) (he : ∀ t, (eff t).2.spine = t.spine) :
    (s.runDma c q b allowed acc src eff full).spine = s.spine := by
  have h := (he (s.endWait c (State.copyOf 0x0C q b))).trans (State.endWait_spine s c _)
  unfold State.runDma
  dsimp only
  split
  · rfl
  · split
    · simp
    · split
      · simp
      · split
        · simp
        · split
          · split <;> simp
          · split
            · simp
            · split <;> rename_i h' <;> rw [h'] at h <;> simpa using h

theorem State.receive_spine (s : State) (n : SelynPort) (h : FrameHdr) (f : State → State) (hf : ∀ t, (f t).spine = t.spine) :
    (s.receive n h f).spine = s.spine := by
  unfold State.receive
  split
  · rfl
  · split
    · simp
    · dsimp only
      rw [hf]
      simp

theorem State.control_spine (s : State) (n : SelynPort) (h : FrameHdr) (f : State → State) (hf : ∀ t, (f t).spine = t.spine) :
    (s.control n h f).spine = s.spine :=
  State.receive_spine _ _ _ _ (fun t => by rw [hf]; simp)

theorem execLoadr_spine (c : CtxId) (w e : Bytes) (s : State) : ∃ t, execLoadr c w e s = .next t ∧ t.spine = s.spine := by
  unfold execLoadr
  refine ⟨_, rfl, ?_⟩
  exact State.runSteppe_spine _ _ _ _ _ _ _ _ _ (State.claimPoison_spine _ _ _ (State.loadrPoison_spine _ _)) (fun t => by simp)

theorem execMatmul_spine (c : CtxId) (w e : Bytes) (s : State) : ∃ t, execMatmul c w e s = .next t ∧ t.spine = s.spine := by
  unfold execMatmul
  refine ⟨_, rfl, ?_⟩
  (repeat' (first | (simp; done) | (refine State.runCommand_spine _ _ _ _ _ _ _ _ _ (State.claimPoison_spine _ _ _ State.noPoison_spine) (fun t => ?_) (fun t => ?_)) | split | dsimp only))

theorem execGrouped_spine (c : CtxId) (w e : Bytes) (s : State) : ∃ t, execGrouped c w e s = .next t ∧ t.spine = s.spine := by
  unfold execGrouped
  refine ⟨_, rfl, ?_⟩
  (repeat' (first | (simp; done) | (refine State.runCommand_spine _ _ _ _ _ _ _ _ _ (State.claimPoison_spine _ _ _ State.noPoison_spine) (fun t => ?_) (fun t => ?_)) | split | dsimp only))

theorem execDropr_spine (c : CtxId) (w e : Bytes) (s : State) : ∃ t, execDropr c w e s = .next t ∧ t.spine = s.spine := by
  unfold execDropr
  refine ⟨_, rfl, ?_⟩
  refine State.runSteppe_spine _ _ _ _ _ _ _ _ _ State.noPoison_spine (fun t => ?_); simp

theorem execRimAdd_spine (c : CtxId) (w e : Bytes) (s : State) : ∃ t, execRimAdd c w e s = .next t ∧ t.spine = s.spine := by
  unfold execRimAdd
  refine ⟨_, rfl, ?_⟩
  simp

theorem execRimMul_spine (c : CtxId) (w e : Bytes) (s : State) : ∃ t, execRimMul c w e s = .next t ∧ t.spine = s.spine := by
  unfold execRimMul
  refine ⟨_, rfl, ?_⟩
  simp

theorem execScaleBias_spine (c : CtxId) (w e : Bytes) (s : State) : ∃ t, execScaleBias c w e s = .next t ∧ t.spine = s.spine := by
  unfold execScaleBias
  refine ⟨_, rfl, ?_⟩
  simp

theorem execConvert_spine (c : CtxId) (w e : Bytes) (s : State) : ∃ t, execConvert c w e s = .next t ∧ t.spine = s.spine := by
  unfold execConvert
  refine ⟨_, rfl, ?_⟩
  simp

theorem execGelu_spine (c : CtxId) (w e : Bytes) (s : State) : ∃ t, execGelu c w e s = .next t ∧ t.spine = s.spine := by
  unfold execGelu
  refine ⟨_, rfl, ?_⟩
  simp

theorem execGeluTanh_spine (c : CtxId) (w e : Bytes) (s : State) : ∃ t, execGeluTanh c w e s = .next t ∧ t.spine = s.spine := by
  unfold execGeluTanh
  refine ⟨_, rfl, ?_⟩
  simp

theorem execSilu_spine (c : CtxId) (w e : Bytes) (s : State) : ∃ t, execSilu c w e s = .next t ∧ t.spine = s.spine := by
  unfold execSilu
  refine ⟨_, rfl, ?_⟩
  simp

theorem execSoftmax_spine (c : CtxId) (w e : Bytes) (s : State) : ∃ t, execSoftmax c w e s = .next t ∧ t.spine = s.spine := by
  unfold execSoftmax
  refine ⟨_, rfl, ?_⟩
  simp

theorem execLayernorm_spine (c : CtxId) (w e : Bytes) (s : State) : ∃ t, execLayernorm c w e s = .next t ∧ t.spine = s.spine := by
  unfold execLayernorm
  refine ⟨_, rfl, ?_⟩
  simp

theorem execRmsnorm_spine (c : CtxId) (w e : Bytes) (s : State) : ∃ t, execRmsnorm c w e s = .next t ∧ t.spine = s.spine := by
  unfold execRmsnorm
  refine ⟨_, rfl, ?_⟩
  simp

theorem execL2norm_spine (c : CtxId) (w e : Bytes) (s : State) : ∃ t, execL2norm c w e s = .next t ∧ t.spine = s.spine := by
  unfold execL2norm
  refine ⟨_, rfl, ?_⟩
  simp

theorem execMeanpool_spine (c : CtxId) (w e : Bytes) (s : State) : ∃ t, execMeanpool c w e s = .next t ∧ t.spine = s.spine := by
  unfold execMeanpool
  refine ⟨_, rfl, ?_⟩
  refine State.runSteppe_spine _ _ _ _ _ _ _ _ _ State.noPoison_spine (fun t => ?_); simp

theorem execRope_spine (c : CtxId) (w e : Bytes) (s : State) : ∃ t, execRope c w e s = .next t ∧ t.spine = s.spine := by
  unfold execRope
  refine ⟨_, rfl, ?_⟩
  simp

theorem execSiluMul_spine (c : CtxId) (w e : Bytes) (s : State) : ∃ t, execSiluMul c w e s = .next t ∧ t.spine = s.spine := by
  unfold execSiluMul
  refine ⟨_, rfl, ?_⟩
  simp

theorem execRoute_spine (c : CtxId) (w e : Bytes) (s : State) : ∃ t, execRoute c w e s = .next t ∧ t.spine = s.spine := by
  unfold execRoute
  refine ⟨_, rfl, ?_⟩
  refine State.runSteppe_spine _ _ _ _ _ _ _ _ _ State.noPoison_spine (fun t => ?_); simp

theorem execSample_spine (c : CtxId) (w e : Bytes) (s : State) : ∃ t, execSample c w e s = .next t ∧ t.spine = s.spine := by
  unfold execSample
  refine ⟨_, rfl, ?_⟩
  refine State.runSteppe_spine _ _ _ _ _ _ _ _ _ State.noPoison_spine (fun t => ?_); simp

theorem execTokenizeCommand_spine (c : CtxId) (q : SeqId) (b : Bytes) (s : State) : ∃ t, execTokenizeCommand c q b s = .next t ∧ t.spine = s.spine := by
  unfold execTokenizeCommand
  refine ⟨_, rfl, ?_⟩
  refine State.runCommand_spine _ _ _ _ _ _ _ _ _ State.noPoison_spine (fun t => ?_) (fun t => ?_) <;> simp

theorem execDetokenizeCommand_spine (c : CtxId) (q : SeqId) (b : Bytes) (s : State) : ∃ t, execDetokenizeCommand c q b s = .next t ∧ t.spine = s.spine := by
  unfold execDetokenizeCommand
  refine ⟨_, rfl, ?_⟩
  refine State.runCommand_spine _ _ _ _ _ _ _ _ _ State.noPoison_spine (fun t => ?_) (fun t => ?_) <;> simp

theorem execGrammarReset_spine (c : CtxId) (q : SeqId) (b : Bytes) (s : State) : ∃ t, execGrammarReset c q b s = .next t ∧ t.spine = s.spine := by
  unfold execGrammarReset
  refine ⟨_, rfl, ?_⟩
  (repeat' (first | (simp; done) | (refine State.runCommand_spine _ _ _ _ _ _ _ _ _ State.noPoison_spine (fun t => ?_) (fun t => ?_)) | (refine State.runSeq_spine _ _ _ _ _ ?_) | split | dsimp only))

theorem execGrammarMask_spine (c : CtxId) (q : SeqId) (b : Bytes) (s : State) : ∃ t, execGrammarMask c q b s = .next t ∧ t.spine = s.spine := by
  unfold execGrammarMask
  refine ⟨_, rfl, ?_⟩
  (repeat' (first | (simp; done) | (refine State.runCommand_spine _ _ _ _ _ _ _ _ _ State.noPoison_spine (fun t => ?_) (fun t => ?_)) | (refine State.runSeq_spine _ _ _ _ _ ?_) | split | dsimp only))

theorem execGrammarAdvance_spine (c : CtxId) (q : SeqId) (b : Bytes) (s : State) : ∃ t, execGrammarAdvance c q b s = .next t ∧ t.spine = s.spine := by
  unfold execGrammarAdvance
  refine ⟨_, rfl, ?_⟩
  (repeat' (first | (simp; done) | (refine State.runCommand_spine _ _ _ _ _ _ _ _ _ State.noPoison_spine (fun t => ?_) (fun t => ?_)) | (refine State.runSeq_spine _ _ _ _ _ ?_) | split | dsimp only))

theorem execList_spine (c : CtxId) (q : SeqId) (b : Bytes) (s : State) : ∃ t, execList c q b s = .next t ∧ t.spine = s.spine := by
  unfold execList
  refine ⟨_, rfl, ?_⟩
  (repeat' (first | (simp; done) | (refine State.runCommand_spine _ _ _ _ _ _ _ _ _ State.noPoison_spine (fun t => ?_) (fun t => ?_)) | (refine State.runSeq_spine _ _ _ _ _ ?_) | split | dsimp only))

theorem execAccept_spine (c : CtxId) (q : SeqId) (b : Bytes) (s : State) : ∃ t, execAccept c q b s = .next t ∧ t.spine = s.spine := by
  unfold execAccept
  refine ⟨_, rfl, ?_⟩
  (repeat' (first | (simp; done) | (refine State.runCommand_spine _ _ _ _ _ _ _ _ _ State.noPoison_spine (fun t => ?_) (fun t => ?_)) | (refine State.runSeq_spine _ _ _ _ _ ?_) | split | dsimp only))

theorem execCommit_spine (c : CtxId) (q : SeqId) (b : Bytes) (s : State) : ∃ t, execCommit c q b s = .next t ∧ t.spine = s.spine := by
  unfold execCommit
  refine ⟨_, rfl, ?_⟩
  (repeat' (first | (simp; done) | (refine State.runCommand_spine _ _ _ _ _ _ _ _ _ State.noPoison_spine (fun t => ?_) (fun t => ?_)) | (refine State.runSeq_spine _ _ _ _ _ ?_) | split | dsimp only))

theorem execSummary_spine (c : CtxId) (q : SeqId) (b : Bytes) (s : State) : ∃ t, execSummary c q b s = .next t ∧ t.spine = s.spine := by
  unfold execSummary
  refine ⟨_, rfl, ?_⟩
  dsimp only
  split
  · exact State.runCommand_spine _ _ _ _ _ _ _ _ _ State.noPoison_spine (fun t => rfl) (fun t => rfl)
  · split
    · refine State.runCommand_spine _ _ _ _ _ _ _ _ _ (fun a f h t => ?_) (fun t => by simp) (fun t => by simp)
      split at h
      · cases h
      · cases h; simp
    · refine State.runCommand_spine _ _ _ _ _ _ _ _ _ (fun a f h t => ?_) (fun t => by simp) (fun t => by simp)
      split at h
      · cases h
      · cases h; simp
    · exact State.runCommand_spine _ _ _ _ _ _ _ _ _ State.noPoison_spine (fun t => rfl) (fun t => by simp)

theorem execNop_spine (c : CtxId) (q : SeqId) (s : State) : ∃ t, execNop c q s = .next t ∧ t.spine = s.spine := by
  unfold execNop
  refine ⟨_, rfl, ?_⟩
  simp

theorem execIssue_spine (c : CtxId) (q : SeqId) (engine : Byte) (len : Byte) (b : Bytes) (s : State) : ∃ t, execIssue c q engine len b s = .next t ∧ t.spine = s.spine := by
  unfold execIssue
  refine ⟨_, rfl, ?_⟩
  simp

theorem execQueueClaim_spine (c : CtxId) (q : SeqId) (s : State) : ∃ t, execQueueClaim c q s = .next t ∧ t.spine = s.spine := by
  unfold execQueueClaim
  refine ⟨_, rfl, ?_⟩
  (repeat' (first | (simp; done) | (refine State.runCommand_spine _ _ _ _ _ _ _ _ _ State.noPoison_spine (fun t => ?_) (fun t => ?_)) | (refine State.runSeq_spine _ _ _ _ _ ?_) | split | dsimp only))

theorem execWaitdone_spine (c : CtxId) (q : SeqId) (engine : Byte) (most : U32) (s : State) : ∃ t, execWaitdone c q engine most s = .next t ∧ t.spine = s.spine := by
  unfold execWaitdone
  refine ⟨_, rfl, ?_⟩
  simp

theorem execSignal_spine (c : CtxId) (q : SeqId) (counter : U16) (inc : U32) (s : State) : ∃ t, execSignal c q counter inc s = .next t ∧ t.spine = s.spine := by
  unfold execSignal
  refine ⟨_, rfl, ?_⟩
  simp

theorem execWait_spine (c : CtxId) (q : SeqId) (counter : U16) (threshold : U32) (s : State) : ∃ t, execWait c q counter threshold s = .next t ∧ t.spine = s.spine := by
  unfold execWait
  refine ⟨_, rfl, ?_⟩
  simp

theorem execAcquire_spine (c : CtxId) (q : SeqId) (counter : U16) (s : State) : ∃ t, execAcquire c q counter s = .next t ∧ t.spine = s.spine := by
  unfold execAcquire
  refine ⟨_, rfl, ?_⟩
  simp

theorem execRelease_spine (c : CtxId) (q : SeqId) (counter : U16) (s : State) : ∃ t, execRelease c q counter s = .next t ∧ t.spine = s.spine := by
  unfold execRelease
  refine ⟨_, rfl, ?_⟩
  simp

theorem execSetp_spine (c : CtxId) (q : SeqId) (r : BitVec 4) (imm : U32) (s : State) : ∃ t, execSetp c q r imm s = .next t ∧ t.spine = s.spine := by
  unfold execSetp
  refine ⟨_, rfl, ?_⟩
  simp

theorem execLdp_spine (c : CtxId) (q : SeqId) (r : BitVec 4) (word : BitVec 3) (s : State) : ∃ t, execLdp c q r word s = .next t ∧ t.spine = s.spine := by
  unfold execLdp
  refine ⟨_, rfl, ?_⟩
  (repeat' (first | (simp; done) | (refine State.runCommand_spine _ _ _ _ _ _ _ _ _ State.noPoison_spine (fun t => ?_) (fun t => ?_)) | (refine State.runSeq_spine _ _ _ _ _ ?_) | split | dsimp only))

theorem execAddi_spine (c : CtxId) (q : SeqId) (r : BitVec 4) (imm : U32) (s : State) : ∃ t, execAddi c q r imm s = .next t ∧ t.spine = s.spine := by
  unfold execAddi
  refine ⟨_, rfl, ?_⟩
  simp

theorem execBrz_spine (c : CtxId) (q : SeqId) (r : BitVec 4) (target : U32) (s : State) : ∃ t, execBrz c q r target s = .next t ∧ t.spine = s.spine := by
  unfold execBrz
  refine ⟨_, rfl, ?_⟩
  simp

theorem execBrnz_spine (c : CtxId) (q : SeqId) (r : BitVec 4) (target : U32) (s : State) : ∃ t, execBrnz c q r target s = .next t ∧ t.spine = s.spine := by
  unfold execBrnz
  refine ⟨_, rfl, ?_⟩
  simp

theorem execJmp_spine (c : CtxId) (q : SeqId) (target : U32) (s : State) : ∃ t, execJmp c q target s = .next t ∧ t.spine = s.spine := by
  unfold execJmp
  refine ⟨_, rfl, ?_⟩
  simp

theorem execStepend_spine (c : CtxId) (q : SeqId) (s : State) : ∃ t, execStepend c q s = .next t ∧ t.spine = s.spine := by
  unfold execStepend
  refine ⟨_, rfl, ?_⟩
  simp

theorem execSaddle_spine (c : CtxId) (q : SeqId) (entry : U16) (s : State) : ∃ t, execSaddle c q entry s = .next t ∧ t.spine = s.spine := by
  unfold execSaddle
  refine ⟨_, rfl, ?_⟩
  refine State.runSeq_spine _ _ _ _ _ ?_; (dsimp only; (repeat' split) <;> simp)

theorem execHalt_spine (c : CtxId) (q : SeqId) (s : State) : ∃ t, execHalt c q s = .next t ∧ t.spine = s.spine := by
  unfold execHalt
  refine ⟨_, rfl, ?_⟩
  refine State.runSeq_spine _ _ _ _ _ ?_; (dsimp only; (repeat' split) <;> simp)

theorem execTrap_spine (c : CtxId) (q : SeqId) (code : U32) (s : State) : ∃ t, execTrap c q code s = .next t ∧ t.spine = s.spine := by
  unfold execTrap
  refine ⟨_, rfl, ?_⟩
  simp

theorem execLookup_spine (c : CtxId) (q : SeqId) (b : Bytes) (s : State) : ∃ t, execLookup c q b s = .next t ∧ t.spine = s.spine := by
  unfold execLookup
  refine ⟨_, rfl, ?_⟩
  refine State.runCommand_spine _ _ _ _ _ _ _ _ _ State.noPoison_spine (fun t => ?_) (fun t => ?_) <;> simp

theorem execUpdate_spine (c : CtxId) (q : SeqId) (b : Bytes) (s : State) : ∃ t, execUpdate c q b s = .next t ∧ t.spine = s.spine := by
  unfold execUpdate
  refine ⟨_, rfl, ?_⟩
  simp

theorem execSearchCommand_spine (c : CtxId) (copies : List Bytes) (s : State) : ∃ t, execSearchCommand c copies s = .next t ∧ t.spine = s.spine := by
  unfold execSearchCommand
  refine ⟨_, rfl, ?_⟩
  split
  · rfl
  · split
    · simp
    · refine State.runGlen_spine _ _ _ _ _ _ _ (fun t => by simp) (fun t => ?_)
      exact foldl_spine _ (fun u p => by simp) _ _

theorem execWriteInsert_spine (c : CtxId) (q : SeqId) (b : Bytes) (s : State) : ∃ t, execWriteInsert c q b s = .next t ∧ t.spine = s.spine := by
  unfold execWriteInsert
  refine ⟨_, rfl, ?_⟩
  refine State.runWrite_spine _ _ _ _ _ _ (fun t x i => ?_); simp

theorem execWriteDelete_spine (c : CtxId) (q : SeqId) (b : Bytes) (s : State) : ∃ t, execWriteDelete c q b s = .next t ∧ t.spine = s.spine := by
  unfold execWriteDelete
  refine ⟨_, rfl, ?_⟩
  refine State.runWrite_spine _ _ _ _ _ _ (fun t x i => ?_); simp

theorem execTopk_spine (c : CtxId) (q : SeqId) (b : Bytes) (s : State) : ∃ t, execTopk c q b s = .next t ∧ t.spine = s.spine := by
  unfold execTopk
  refine ⟨_, rfl, ?_⟩
  refine State.runCommand_spine _ _ _ _ _ _ _ _ _ State.noPoison_spine (fun t => ?_) (fun t => ?_) <;> simp

theorem execMerge_spine (c : CtxId) (q : SeqId) (b : Bytes) (s : State) : ∃ t, execMerge c q b s = .next t ∧ t.spine = s.spine := by
  unfold execMerge
  refine ⟨_, rfl, ?_⟩
  refine State.runCommand_spine _ _ _ _ _ _ _ _ _ State.noPoison_spine (fun t => ?_) (fun t => ?_) <;> simp

theorem execPack_spine (c : CtxId) (q : SeqId) (b : Bytes) (s : State) : ∃ t, execPack c q b s = .next t ∧ t.spine = s.spine := by
  unfold execPack
  refine ⟨_, rfl, ?_⟩
  refine State.runCommand_spine _ _ _ _ _ _ _ _ _ State.noPoison_spine (fun t => ?_) (fun t => ?_) <;> simp

theorem execCopy_spine (c : CtxId) (q : SeqId) (b : Bytes) (s : State) : ∃ t, execCopy c q b s = .next t ∧ t.spine = s.spine := by
  unfold execCopy
  refine ⟨_, rfl, ?_⟩
  refine State.runDma_spine _ _ _ _ _ _ _ _ _ (fun t => ?_); simp

theorem execWfill_spine (c : CtxId) (q : SeqId) (b : Bytes) (s : State) : ∃ t, execWfill c q b s = .next t ∧ t.spine = s.spine := by
  unfold execWfill
  refine ⟨_, rfl, ?_⟩
  refine State.runDma_spine _ _ _ _ _ _ _ _ _ (fun t => ?_); simp

theorem execLoadComplete_spine (isImage : Bool) (object : U32) (s : State) : ∃ t, execLoadComplete isImage object s = .next t ∧ t.spine = s.spine := by
  unfold execLoadComplete
  refine ⟨_, rfl, ?_⟩
  (repeat' (first | (simp; done) | (refine State.runCommand_spine _ _ _ _ _ _ _ _ _ State.noPoison_spine (fun t => ?_) (fun t => ?_)) | (refine State.runSeq_spine _ _ _ _ _ ?_) | split | dsimp only))

theorem execRelocationProceed_spine (object : U32) (s : State) : ∃ t, execRelocationProceed object s = .next t ∧ t.spine = s.spine := by
  unfold execRelocationProceed
  refine ⟨_, rfl, ?_⟩
  (dsimp only; (repeat' split) <;> simp)

theorem execEvictFree_spine (object : U32) (s : State) : ∃ t, execEvictFree object s = .next t ∧ t.spine = s.spine := by
  unfold execEvictFree
  refine ⟨_, rfl, ?_⟩
  (dsimp only; (repeat' split) <;> simp)

theorem execCertload_spine (p : HostPort) (s : State) : ∃ t, execCertload p s = .next t ∧ t.spine = s.spine := by
  unfold execCertload
  refine ⟨_, rfl, ?_⟩
  simp

theorem execCardWipe_spine (p : HostPort) (s : State) : ∃ t, execCardWipe p s = .next t ∧ t.spine = s.spine := by
  unfold execCardWipe
  refine ⟨_, rfl, ?_⟩
  simp

theorem execCheckpointTimer_spine (s : State) : ∃ t, execCheckpointTimer s = .next t ∧ t.spine = s.spine := by
  unfold execCheckpointTimer
  refine ⟨_, rfl, ?_⟩
  simp

theorem execCheckpointWritten_spine (ok : Bool) (bad : List Nat) (s : State) : ∃ t, execCheckpointWritten ok bad s = .next t ∧ t.spine = s.spine := by
  unfold execCheckpointWritten
  refine ⟨_, rfl, ?_⟩
  (dsimp only; (repeat' split) <;> simp)

theorem execStart_spine (c : CtxId) (q : SeqId) (b : Bytes) (s : State) : ∃ t, execStart c q b s = .next t ∧ t.spine = s.spine := by
  unfold execStart
  refine ⟨_, rfl, ?_⟩
  (repeat' (first | (simp; done) | (refine State.runCommand_spine _ _ _ _ _ _ _ _ _ State.noPoison_spine (fun t => ?_) (fun t => ?_)) | (refine State.runSeq_spine _ _ _ _ _ ?_) | split | dsimp only))

theorem execInstallProceed_spine (shard : BitVec 6) (s : State) : ∃ t, execInstallProceed shard s = .next t ∧ t.spine = s.spine := by
  unfold execInstallProceed
  refine ⟨_, rfl, ?_⟩
  (repeat' (first | (simp; done) | (refine State.runCommand_spine _ _ _ _ _ _ _ _ _ State.noPoison_spine (fun t => ?_) (fun t => ?_)) | (refine State.runSeq_spine _ _ _ _ _ ?_) | split | dsimp only))

theorem execMaintActivityComplete_spine (activity : Byte) (target : U32) (s : State) : ∃ t, execMaintActivityComplete activity target s = .next t ∧ t.spine = s.spine := by
  unfold execMaintActivityComplete
  refine ⟨_, rfl, ?_⟩
  (dsimp only; (repeat' split) <;> simp)

theorem execSend_spine (c : CtxId) (q : SeqId) (b : Bytes) (s : State) : ∃ t, execSend c q b s = .next t ∧ t.spine = s.spine := by
  unfold execSend
  refine ⟨_, rfl, ?_⟩
  (repeat' (first | (simp; done) | (refine State.runCommand_spine _ _ _ _ _ _ _ _ _ State.noPoison_spine (fun t => ?_) (fun t => ?_)) | (refine State.runSeq_spine _ _ _ _ _ ?_) | split | dsimp only))

theorem execRecv_spine (c : CtxId) (q : SeqId) (b : Bytes) (s : State) : ∃ t, execRecv c q b s = .next t ∧ t.spine = s.spine := by
  unfold execRecv
  refine ⟨_, rfl, ?_⟩
  refine State.runCommand_spine _ _ _ _ _ _ _ _ _ State.noPoison_spine (fun t => ?_) (fun t => ?_) <;> simp

theorem execLanesLocked_spine (n : SelynPort) (good : Byte) (s : State) : ∃ t, execLanesLocked n good s = .next t ∧ t.spine = s.spine := by
  unfold execLanesLocked
  refine ⟨_, rfl, ?_⟩
  simp

theorem execTrainingRecord_spine (n : SelynPort) (tr : TrainRec) (s : State) : ∃ t, execTrainingRecord n tr s = .next t ∧ t.spine = s.spine := by
  unfold execTrainingRecord
  refine ⟨_, rfl, ?_⟩
  simp

theorem execLaneLockLoss_spine (n : SelynPort) (s : State) : ∃ t, execLaneLockLoss n s = .next t ∧ t.spine = s.spine := by
  unfold execLaneLockLoss
  refine ⟨_, rfl, ?_⟩
  simp

theorem execRetrainTimeout_spine (n : RetrainEnd) (s : State) : ∃ t, execRetrainTimeout n s = .next t ∧ t.spine = s.spine := by
  unfold execRetrainTimeout
  refine ⟨_, rfl, ?_⟩
  simp

theorem execLinkRetryTimer_spine (n : SelynPort) (s : State) : ∃ t, execLinkRetryTimer n s = .next t ∧ t.spine = s.spine := by
  unfold execLinkRetryTimer
  refine ⟨_, rfl, ?_⟩
  simp

theorem execReplayRequest_spine (n : SelynPort) (ack : BitVec 12) (s : State) : ∃ t, execReplayRequest n ack s = .next t ∧ t.spine = s.spine := by
  unfold execReplayRequest
  refine ⟨_, rfl, ?_⟩
  simp

theorem execIdleFrame_spine (n : SelynPort) (ack : BitVec 12) (cvc : BitVec 2) (credits : BitVec 6) (s : State) : ∃ t, execIdleFrame n ack cvc credits s = .next t ∧ t.spine = s.spine := by
  unfold execIdleFrame
  refine ⟨_, rfl, ?_⟩
  simp

theorem execFailedFrame_spine (n : SelynPort) (s : State) : ∃ t, execFailedFrame n s = .next t ∧ t.spine = s.spine := by
  unfold execFailedFrame
  refine ⟨_, rfl, ?_⟩
  simp

theorem execDataFrame_spine (n : SelynPort) (h : FrameHdr) (payload : Bytes) (s : State) : ∃ t, execDataFrame n h payload s = .next t ∧ t.spine = s.spine := by
  unfold execDataFrame
  refine ⟨_, rfl, ?_⟩
  refine State.receive_spine _ _ _ _ (fun t => ?_); simp

theorem execArrive_spine (n : SelynPort) (h : FrameHdr) (a : ArriveRec) (s : State) : ∃ t, execArrive n h a s = .next t ∧ t.spine = s.spine := by
  unfold execArrive
  refine ⟨_, rfl, ?_⟩
  refine State.receive_spine _ _ _ _ (fun t => ?_); simp

theorem execReleaseParcel_spine (n : SelynPort) (h : FrameHdr) (pass : U32) (counter : U16) (c : CtxId) (s : State) : ∃ t, execReleaseParcel n h pass counter c s = .next t ∧ t.spine = s.spine := by
  unfold execReleaseParcel
  refine ⟨_, rfl, ?_⟩
  refine State.receive_spine _ _ _ _ (fun t => ?_); (dsimp only; (repeat' split) <;> simp)

theorem execAbandon_spine (n : SelynPort) (h : FrameHdr) (pass : U32) (counter : U16) (c : CtxId) (device : U16) (why : Byte) (s : State) : ∃ t, execAbandon n h pass counter c device why s = .next t ∧ t.spine = s.spine := by
  unfold execAbandon
  refine ⟨_, rfl, ?_⟩
  refine State.receive_spine _ _ _ _ (fun t => ?_); simp

theorem execSaddleTimeout_spine (counter : U16) (s : State) : ∃ t, execSaddleTimeout counter s = .next t ∧ t.spine = s.spine := by
  unfold execSaddleTimeout
  refine ⟨_, rfl, ?_⟩
  (dsimp only; (repeat' split) <;> simp)

theorem execTimeReq_spine (n : SelynPort) (h : FrameHdr) (t1 : U64) (s : State) : ∃ t, execTimeReq n h t1 s = .next t ∧ t.spine = s.spine := by
  unfold execTimeReq
  refine ⟨_, rfl, ?_⟩
  refine State.receive_spine _ _ _ _ (fun t => ?_); simp

theorem execTimeResp_spine (n : SelynPort) (h : FrameHdr) (t1 t2 t3 : U64) (s : State) : ∃ t, execTimeResp n h t1 t2 t3 s = .next t ∧ t.spine = s.spine := by
  unfold execTimeResp
  refine ⟨_, rfl, ?_⟩
  refine State.receive_spine _ _ _ _ (fun t => ?_); simp

theorem execTimeExchange_spine (s : State) : ∃ t, execTimeExchange s = .next t ∧ t.spine = s.spine := by
  unfold execTimeExchange
  refine ⟨_, rfl, ?_⟩
  (dsimp only; (repeat' split) <;> simp)

theorem execRollcall_spine (n : SelynPort) (h : FrameHdr) (low high : U16) (depth : Byte) (treeId size : U16) (s : State) : ∃ t, execRollcall n h low high depth treeId size s = .next t ∧ t.spine = s.spine := by
  unfold execRollcall
  refine ⟨_, rfl, ?_⟩
  refine State.receive_spine _ _ _ _ (fun t => ?_); (dsimp only; (repeat' split) <;> simp)

theorem execFormed_spine (n : SelynPort) (h : FrameHdr) (treeId size : U16) (s : State) : ∃ t, execFormed n h treeId size s = .next t ∧ t.spine = s.spine := by
  unfold execFormed
  refine ⟨_, rfl, ?_⟩
  refine State.receive_spine _ _ _ _ (fun t => ?_); simp

theorem execLost_spine (n : SelynPort) (h : FrameHdr) (low : RangeFrom) (high : U16) (why : Byte) (s : State) : ∃ t, execLost n h low high why s = .next t ∧ t.spine = s.spine := by
  unfold execLost
  refine ⟨_, rfl, ?_⟩
  refine State.receive_spine _ _ _ _ (fun t => ?_); simp

theorem execRejoin_spine (n : SelynPort) (h : FrameHdr) (low : RangeFrom) (high : U16) (s : State) : ∃ t, execRejoin n h low high s = .next t ∧ t.spine = s.spine := by
  unfold execRejoin
  refine ⟨_, rfl, ?_⟩
  refine State.receive_spine _ _ _ _ (fun t => ?_); simp

theorem execRelay_spine (n : SelynPort) (h : FrameHdr) (origin : U16) (code : Byte) (seq : U32) (detail : Bytes) (s : State) : ∃ t, execRelay n h origin code seq detail s = .next t ∧ t.spine = s.spine := by
  unfold execRelay
  refine ⟨_, rfl, ?_⟩
  refine State.receive_spine _ _ _ _ (fun t => ?_); (dsimp only; (repeat' split) <;> simp)

theorem execBindEffect_spine (c : CtxId) (s : State) : ∃ t, execBindEffect c s = .next t ∧ t.spine = s.spine := by
  unfold execBindEffect
  refine ⟨_, rfl, ?_⟩
  (repeat' (first | (simp; done) | (refine State.runCommand_spine _ _ _ _ _ _ _ _ _ State.noPoison_spine (fun t => ?_) (fun t => ?_)) | (refine State.runSeq_spine _ _ _ _ _ ?_) | split | dsimp only))

theorem execStepStart_spine (c : CtxId) (s : State) : ∃ t, execStepStart c s = .next t ∧ t.spine = s.spine := by
  unfold execStepStart
  refine ⟨_, rfl, ?_⟩
  (dsimp only; (repeat' split) <;> simp)

theorem execQuery_spine (d : Desc) (s : State) : ∃ t, execQuery d s = .next t ∧ t.spine = s.spine := by
  unfold execQuery
  refine ⟨_, rfl, ?_⟩
  simp

theorem execEmbed_spine (d : Desc) (s : State) : ∃ t, execEmbed d s = .next t ∧ t.spine = s.spine := by
  unfold execEmbed
  refine ⟨_, rfl, ?_⟩
  simp

theorem execSearch_spine (d : Desc) (s : State) : ∃ t, execSearch d s = .next t ∧ t.spine = s.spine := by
  unfold execSearch
  refine ⟨_, rfl, ?_⟩
  simp

theorem execRerank_spine (d : Desc) (s : State) : ∃ t, execRerank d s = .next t ∧ t.spine = s.spine := by
  unfold execRerank
  refine ⟨_, rfl, ?_⟩
  simp

theorem execGenerate_spine (d : Desc) (s : State) : ∃ t, execGenerate d s = .next t ∧ t.spine = s.spine := by
  unfold execGenerate
  refine ⟨_, rfl, ?_⟩
  simp

theorem execPause_spine (d : Desc) (s : State) : ∃ t, execPause d s = .next t ∧ t.spine = s.spine := by
  unfold execPause
  refine ⟨_, rfl, ?_⟩
  simp

theorem execResume_spine (d : Desc) (s : State) : ∃ t, execResume d s = .next t ∧ t.spine = s.spine := by
  unfold execResume
  refine ⟨_, rfl, ?_⟩
  simp

theorem execCancel_spine (d : Desc) (s : State) : ∃ t, execCancel d s = .next t ∧ t.spine = s.spine := by
  unfold execCancel
  refine ⟨_, rfl, ?_⟩
  simp

theorem execInsert_spine (d : Desc) (s : State) : ∃ t, execInsert d s = .next t ∧ t.spine = s.spine := by
  unfold execInsert
  refine ⟨_, rfl, ?_⟩
  simp

theorem execDelete_spine (d : Desc) (s : State) : ∃ t, execDelete d s = .next t ∧ t.spine = s.spine := by
  unfold execDelete
  refine ⟨_, rfl, ?_⟩
  simp

theorem execTrainStep_spine (d : Desc) (s : State) : ∃ t, execTrainStep d s = .next t ∧ t.spine = s.spine := by
  unfold execTrainStep
  refine ⟨_, rfl, ?_⟩
  simp

theorem execLoad_spine (d : Desc) (s : State) : ∃ t, execLoad d s = .next t ∧ t.spine = s.spine := by
  unfold execLoad
  refine ⟨_, rfl, ?_⟩
  simp

theorem execLoadImage_spine (d : Desc) (s : State) : ∃ t, execLoadImage d s = .next t ∧ t.spine = s.spine := by
  unfold execLoadImage
  refine ⟨_, rfl, ?_⟩
  simp

theorem execEvict_spine (d : Desc) (s : State) : ∃ t, execEvict d s = .next t ∧ t.spine = s.spine := by
  unfold execEvict
  refine ⟨_, rfl, ?_⟩
  simp

theorem execEvictImage_spine (d : Desc) (s : State) : ∃ t, execEvictImage d s = .next t ∧ t.spine = s.spine := by
  unfold execEvictImage
  refine ⟨_, rfl, ?_⟩
  simp

theorem execMergeBuild_spine (d : Desc) (s : State) : ∃ t, execMergeBuild d s = .next t ∧ t.spine = s.spine := by
  unfold execMergeBuild
  refine ⟨_, rfl, ?_⟩
  simp

theorem execMergeInstall_spine (d : Desc) (s : State) : ∃ t, execMergeInstall d s = .next t ∧ t.spine = s.spine := by
  unfold execMergeInstall
  refine ⟨_, rfl, ?_⟩
  simp

theorem execMergeAbort_spine (d : Desc) (s : State) : ∃ t, execMergeAbort d s = .next t ∧ t.spine = s.spine := by
  unfold execMergeAbort
  refine ⟨_, rfl, ?_⟩
  simp

theorem execHotRowRefresh_spine (d : Desc) (s : State) : ∃ t, execHotRowRefresh d s = .next t ∧ t.spine = s.spine := by
  unfold execHotRowRefresh
  refine ⟨_, rfl, ?_⟩
  simp

theorem execSyncAdd_spine (d : Desc) (s : State) : ∃ t, execSyncAdd d s = .next t ∧ t.spine = s.spine := by
  unfold execSyncAdd
  refine ⟨_, rfl, ?_⟩
  simp

theorem execSyncSet_spine (d : Desc) (s : State) : ∃ t, execSyncSet d s = .next t ∧ t.spine = s.spine := by
  unfold execSyncSet
  refine ⟨_, rfl, ?_⟩
  simp

theorem execSyncRead_spine (d : Desc) (s : State) : ∃ t, execSyncRead d s = .next t ∧ t.spine = s.spine := by
  unfold execSyncRead
  refine ⟨_, rfl, ?_⟩
  simp

theorem execStats_spine (d : Desc) (s : State) : ∃ t, execStats d s = .next t ∧ t.spine = s.spine := by
  unfold execStats
  refine ⟨_, rfl, ?_⟩
  simp

theorem execStep_spine (d : Desc) (s : State) : ∃ t, execStep d s = .next t ∧ t.spine = s.spine := by
  unfold execStep
  refine ⟨_, rfl, ?_⟩
  simp

theorem execStepUnbind_spine (d : Desc) (s : State) : ∃ t, execStepUnbind d s = .next t ∧ t.spine = s.spine := by
  unfold execStepUnbind
  refine ⟨_, rfl, ?_⟩
  simp

theorem execTokenize_spine (d : Desc) (s : State) : ∃ t, execTokenize d s = .next t ∧ t.spine = s.spine := by
  unfold execTokenize
  refine ⟨_, rfl, ?_⟩
  simp

theorem execDetokenize_spine (d : Desc) (s : State) : ∃ t, execDetokenize d s = .next t ∧ t.spine = s.spine := by
  unfold execDetokenize
  refine ⟨_, rfl, ?_⟩
  simp

theorem execFence_spine (d : Desc) (s : State) : ∃ t, execFence d s = .next t ∧ t.spine = s.spine := by
  unfold execFence
  refine ⟨_, rfl, ?_⟩
  simp

theorem execAttest_spine (d : Desc) (s : State) : ∃ t, execAttest d s = .next t ∧ t.spine = s.spine := by
  unfold execAttest
  refine ⟨_, rfl, ?_⟩
  simp

theorem execCheckpoint_spine (d : Desc) (s : State) : ∃ t, execCheckpoint d s = .next t ∧ t.spine = s.spine := by
  unfold execCheckpoint
  refine ⟨_, rfl, ?_⟩
  simp

theorem execTestSetpend_spine (d : Desc) (s : State) : ∃ t, execTestSetpend d s = .next t ∧ t.spine = s.spine := by
  unfold execTestSetpend
  refine ⟨_, rfl, ?_⟩
  simp

theorem execTestEcho_spine (d : Desc) (s : State) : ∃ t, execTestEcho d s = .next t ∧ t.spine = s.spine := by
  unfold execTestEcho
  refine ⟨_, rfl, ?_⟩
  simp

theorem execUnknownOpcode_spine (d : Desc) (s : State) : ∃ t, execUnknownOpcode d s = .next t ∧ t.spine = s.spine := by
  unfold execUnknownOpcode
  refine ⟨_, rfl, ?_⟩
  simp

theorem execDescriptorPlaced_spine (c : CtxId) (r : BitVec 2) (s : State) : ∃ t, execDescriptorPlaced c r s = .next t ∧ t.spine = s.spine := by
  unfold execDescriptorPlaced
  refine ⟨_, rfl, ?_⟩
  split
  · rfl
  · rename_i d re rest hw
    have h := State.tryDesc_spine (s.modCtx c (fun x => x.setWaits r rest)) d re
    split <;> rename_i h' <;> rw [h'] at h <;> simpa using h

theorem execArbiterGrant_spine (arbiter : Nat) (reqs : List ArbReq) (s : State) : ∃ t, execArbiterGrant arbiter reqs s = .next t ∧ t.spine = s.spine := by
  unfold execArbiterGrant
  refine ⟨_, rfl, ?_⟩
  (repeat' split) <;> simp

theorem execEnginePreemption_spine (queue : Nat) (s : State) : ∃ t, execEnginePreemption queue s = .next t ∧ t.spine = s.spine := by
  unfold execEnginePreemption
  refine ⟨_, rfl, ?_⟩
  (dsimp only; (repeat' split) <;> simp)

theorem execSteppeSaveComplete_spine (s : State) : ∃ t, execSteppeSaveComplete s = .next t ∧ t.spine = s.spine := by
  unfold execSteppeSaveComplete
  refine ⟨_, rfl, ?_⟩
  (dsimp only; (repeat' split) <;> simp)

theorem execContextRestoreComplete_spine (c : CtxId) (s : State) : ∃ t, execContextRestoreComplete c s = .next t ∧ t.spine = s.spine := by
  unfold execContextRestoreComplete
  refine ⟨_, rfl, ?_⟩
  simp

theorem execInheritanceBudgetExpiry_spine (c : CtxId) (s : State) : ∃ t, execInheritanceBudgetExpiry c s = .next t ∧ t.spine = s.spine := by
  unfold execInheritanceBudgetExpiry
  refine ⟨_, rfl, ?_⟩
  dsimp only
  (repeat' split) <;> simp

theorem execReplayOutcome_spine (ep : Episode) (s : State) : ∃ t, execReplayOutcome ep s = .next t ∧ t.spine = s.spine := by
  unfold execReplayOutcome
  refine ⟨_, rfl, ?_⟩
  (dsimp only; (repeat' split) <;> simp)

theorem execScrubRead_spine (tier : BitVec 2) (object : Option U32) (isImage : Bool) (offset : U64) (found : ScrubFind) (loc : Location) (s : State) : ∃ t, execScrubRead tier object isImage offset found loc s = .next t ∧ t.spine = s.spine := by
  unfold execScrubRead
  refine ⟨_, rfl, ?_⟩
  (dsimp only; (repeat' split) <;> simp)

theorem execContextSaveComplete_spine (c : CtxId) (s : State) : ∃ t, execContextSaveComplete c s = .next t ∧ t.spine = s.spine := by
  unfold execContextSaveComplete
  refine ⟨_, rfl, ?_⟩
  simp

theorem execGraceExpiry_spine (c : CtxId) (s : State) : ∃ t, execGraceExpiry c s = .next t ∧ t.spine = s.spine := by
  unfold execGraceExpiry
  refine ⟨_, rfl, ?_⟩
  (dsimp only; (repeat' split) <;> simp)

theorem execPortPoll_spine (p : HostPort) (s : State) : ∃ t, execPortPoll p s = .next t ∧ t.spine = s.spine := by
  unfold execPortPoll
  refine ⟨_, rfl, ?_⟩
  simp

theorem execPortIdle_spine (p : HostPort) (s : State) : ∃ t, execPortIdle p s = .next t ∧ t.spine = s.spine := by
  unfold execPortIdle
  refine ⟨_, rfl, ?_⟩
  simp

theorem execPtmExchange_spine (p : HostPort) (master : U64) (roundTrip : U32) (s : State) : ∃ t, execPtmExchange p master roundTrip s = .next t ∧ t.spine = s.spine := by
  unfold execPtmExchange
  refine ⟨_, rfl, ?_⟩
  simp

theorem execMsixModerationTime_spine (p : HostPort) (v : BitVec 6) (s : State) : ∃ t, execMsixModerationTime p v s = .next t ∧ t.spine = s.spine := by
  unfold execMsixModerationTime
  refine ⟨_, rfl, ?_⟩
  simp

theorem execMsixResend_spine (p : HostPort) (v : BitVec 6) (s : State) : ∃ t, execMsixResend p v s = .next t ∧ t.spine = s.spine := by
  unfold execMsixResend
  refine ⟨_, rfl, ?_⟩
  simp

theorem execMsixUnmask_spine (p : HostPort) (v : BitVec 6) (s : State) : ∃ t, execMsixUnmask p v s = .next t ∧ t.spine = s.spine := by
  unfold execMsixUnmask
  refine ⟨_, rfl, ?_⟩
  simp

theorem execMsixEnable_spine (p : MsixControl) (s : State) : ∃ t, execMsixEnable p s = .next t ∧ t.spine = s.spine := by
  unfold execMsixEnable
  refine ⟨_, rfl, ?_⟩
  simp

theorem execPcieDlDown_spine (p : HostPort) (s : State) : ∃ t, execPcieDlDown p s = .next t ∧ t.spine = s.spine := by
  unfold execPcieDlDown
  refine ⟨_, rfl, ?_⟩
  simp

theorem execPcieCompletionTimeout_spine (p : HostPort) (s : State) : ∃ t, execPcieCompletionTimeout p s = .next t ∧ t.spine = s.spine := by
  unfold execPcieCompletionTimeout
  refine ⟨_, rfl, ?_⟩
  simp

theorem execFunctionLevelReset_spine (p : HostPort) (s : State) : ∃ t, execFunctionLevelReset p s = .next t ∧ t.spine = s.spine := by
  unfold execFunctionLevelReset
  refine ⟨_, rfl, ?_⟩
  simp

theorem execD3hotEntry_spine (p : HostPort) (s : State) : ∃ t, execD3hotEntry p s = .next t ∧ t.spine = s.spine := by
  unfold execD3hotEntry
  refine ⟨_, rfl, ?_⟩
  simp

theorem execPerst_spine (p : HostPort) (s : State) : ∃ t, execPerst p s = .next t ∧ t.spine = s.spine := by
  unfold execPerst
  refine ⟨_, rfl, ?_⟩
  simp

theorem execPortLinkTrained_spine (p : HostPort) (s : State) : ∃ t, execPortLinkTrained p s = .next t ∧ t.spine = s.spine := by
  unfold execPortLinkTrained
  refine ⟨_, rfl, ?_⟩
  simp

theorem execLevelWrite_spine (p : HostPort) (level : BitVec 2) (s : State) : ∃ t, execLevelWrite p level s = .next t ∧ t.spine = s.spine := by
  unfold execLevelWrite
  refine ⟨_, rfl, ?_⟩
  simp

theorem execRampEnd_spine (s : State) : ∃ t, execRampEnd s = .next t ∧ t.spine = s.spine := by
  unfold execRampEnd
  refine ⟨_, rfl, ?_⟩
  simp

theorem execTrimWrite_spine (p : HostPort) (dom : Fin 7) (value : U32) (s : State) : ∃ t, execTrimWrite p dom value s = .next t ∧ t.spine = s.spine := by
  unfold execTrimWrite
  refine ⟨_, rfl, ?_⟩
  simp

theorem execAutotrim_spine (dom : Fin 7) (s : State) : ∃ t, execAutotrim dom s = .next t ∧ t.spine = s.spine := by
  unfold execAutotrim
  refine ⟨_, rfl, ?_⟩
  simp

theorem execPowerControlTick_spine (s : State) : ∃ t, execPowerControlTick s = .next t ∧ t.spine = s.spine := by
  unfold execPowerControlTick
  refine ⟨_, rfl, ?_⟩
  simp

theorem execDuskStart_spine (p : HostPort) (s : State) : ∃ t, execDuskStart p s = .next t ∧ t.spine = s.spine := by
  unfold execDuskStart
  refine ⟨_, rfl, ?_⟩
  simp

theorem execDeviceDuskDone_spine (s : State) : ∃ t, execDeviceDuskDone s = .next t ∧ t.spine = s.spine := by
  unfold execDeviceDuskDone
  refine ⟨_, rfl, ?_⟩
  simp

theorem execVinRise_spine (s : State) : ∃ t, execVinRise s = .next t ∧ t.spine = s.spine := by
  unfold execVinRise
  refine ⟨_, rfl, ?_⟩
  simp

theorem execRailsInRegulation_spine (s : State) : ∃ t, execRailsInRegulation s = .next t ∧ t.spine = s.spine := by
  unfold execRailsInRegulation
  refine ⟨_, rfl, ?_⟩
  simp

theorem execVinReturn_spine (s : State) : ∃ t, execVinReturn s = .next t ∧ t.spine = s.spine := by
  unfold execVinReturn
  refine ⟨_, rfl, ?_⟩
  simp

theorem execBootWindowWrite_spine (p : HostPort) (offset : BitVec 26) (data : Bytes) (s : State) : ∃ t, execBootWindowWrite p offset data s = .next t ∧ t.spine = s.spine := by
  unfold execBootWindowWrite
  refine ⟨_, rfl, ?_⟩
  simp

theorem execMgmtIndexWrite_spine (index : Byte) (s : State) : ∃ t, execMgmtIndexWrite index s = .next t ∧ t.spine = s.spine := by
  unfold execMgmtIndexWrite
  refine ⟨_, rfl, ?_⟩
  simp

theorem execMgmtRead_spine (count : Byte) (s : State) : ∃ t, execMgmtRead count s = .next t ∧ t.spine = s.spine := by
  unfold execMgmtRead
  refine ⟨_, rfl, ?_⟩
  simp

theorem execOwnerClaim_spine (p : HostPort) (s : State) : ∃ t, execOwnerClaim p s = .next t ∧ t.spine = s.spine := by
  unfold execOwnerClaim
  refine ⟨_, rfl, ?_⟩
  simp

theorem execOwnerRelease_spine (p : HostPort) (s : State) : ∃ t, execOwnerRelease p s = .next t ∧ t.spine = s.spine := by
  unfold execOwnerRelease
  refine ⟨_, rfl, ?_⟩
  simp

theorem execCtxSuspend_spine (p : HostPort) (c : CtxId) (s : State) : ∃ t, execCtxSuspend p c s = .next t ∧ t.spine = s.spine := by
  unfold execCtxSuspend
  refine ⟨_, rfl, ?_⟩
  simp

theorem execSuspendWithdraw_spine (p : HostPort) (c : CtxId) (s : State) : ∃ t, execSuspendWithdraw p c s = .next t ∧ t.spine = s.spine := by
  unfold execSuspendWithdraw
  refine ⟨_, rfl, ?_⟩
  simp

theorem execCtxClear_spine (p : HostPort) (c : CtxId) (s : State) : ∃ t, execCtxClear p c s = .next t ∧ t.spine = s.spine := by
  unfold execCtxClear
  refine ⟨_, rfl, ?_⟩
  simp

theorem execRingReset_spine (p : HostPort) (c : CtxId) (r : BitVec 2) (s : State) : ∃ t, execRingReset p c r s = .next t ∧ t.spine = s.spine := by
  unfold execRingReset
  refine ⟨_, rfl, ?_⟩
  simp

theorem execCtxDusk_spine (p : HostPort) (c : CtxId) (s : State) : ∃ t, execCtxDusk p c s = .next t ∧ t.spine = s.spine := by
  unfold execCtxDusk
  refine ⟨_, rfl, ?_⟩
  simp

theorem execCqWrite_spine (p : HostPort) (c : CtxId) (value : U64) (s : State) : ∃ t, execCqWrite p c value s = .next t ∧ t.spine = s.spine := by
  unfold execCqWrite
  refine ⟨_, rfl, ?_⟩
  simp

theorem execSwset_spine (p : HostPort) (bits : U64) (s : State) : ∃ t, execSwset p bits s = .next t ∧ t.spine = s.spine := by
  unfold execSwset
  refine ⟨_, rfl, ?_⟩
  simp

theorem execSwpendClear_spine (p : HostPort) (bits : U64) (s : State) : ∃ t, execSwpendClear p bits s = .next t ∧ t.spine = s.spine := by
  unfold execSwpendClear
  refine ⟨_, rfl, ?_⟩
  simp

theorem execDmahaltRelease_spine (p : HostPort) (bits : U32) (s : State) : ∃ t, execDmahaltRelease p bits s = .next t ∧ t.spine = s.spine := by
  unfold execDmahaltRelease
  refine ⟨_, rfl, ?_⟩
  simp

theorem execAttnRingWrite_spine (p : HostPort) (value : U64) (s : State) : ∃ t, execAttnRingWrite p value s = .next t ∧ t.spine = s.spine := by
  unfold execAttnRingWrite
  refine ⟨_, rfl, ?_⟩
  simp

theorem execIntegThreshWrite_spine (p : HostPort) (kind : BitVec 4) (value : U32) (s : State) : ∃ t, execIntegThreshWrite p kind value s = .next t ∧ t.spine = s.spine := by
  unfold execIntegThreshWrite
  refine ⟨_, rfl, ?_⟩
  simp

theorem execIntegClear_spine (p : HostPort) (value : U32) (s : State) : ∃ t, execIntegClear p value s = .next t ∧ t.spine = s.spine := by
  unfold execIntegClear
  refine ⟨_, rfl, ?_⟩
  simp

theorem execSyncClear_spine (p : HostPort) (base count : U16) (s : State) : ∃ t, execSyncClear p base count s = .next t ∧ t.spine = s.spine := by
  unfold execSyncClear
  refine ⟨_, rfl, ?_⟩
  simp

theorem execLinkPortWrite_spine (p : HostPort) (n : SelynPort) (value : U32) (s : State) : ∃ t, execLinkPortWrite p n value s = .next t ∧ t.spine = s.spine := by
  unfold execLinkPortWrite
  refine ⟨_, rfl, ?_⟩
  simp

theorem execPowerSample_spine (milliwatts : Nat) (vinMv : U32) (sensors : List U16) (s : State) :
    execPowerSample milliwatts vinMv sensors s = .fault .outsideRatings ∨
      ∃ t, execPowerSample milliwatts vinMv sensors s = .next t ∧ (t.spine = s.spine ∨
        (460 ≤ (s.sampled milliwatts vinMv sensors).hottest ∧ t = (s.sampled milliwatts vinMv sensors).trip)) := by
  unfold execPowerSample
  split
  · exact .inl rfl
  · refine .inr ⟨_, rfl, ?_⟩
    split
    · exact .inl rfl
    · rcases Nat.lt_or_ge (s.sampled milliwatts vinMv sensors).hottest 460 with h | h
      · exact .inl (by rw [State.junctions_spine _ h]; rfl)
      · exact .inr ⟨h, if_pos h⟩

theorem execJunctionCritical_spine (die : BitVec 2) (reading : U16) (s : State) :
    execJunctionCritical die reading s = .fault .outsideRatings ∨
      ∃ t, execJunctionCritical die reading s = .next t ∧ (t.spine = s.spine ∨
        (460 ≤ (s.readAt die reading).hottest ∧ t = (s.readAt die reading).trip)) := by
  unfold execJunctionCritical
  split
  · exact .inl rfl
  · refine .inr ⟨_, rfl, ?_⟩
    split
    · exact .inl rfl
    · rcases Nat.lt_or_ge (s.readAt die reading).hottest 460 with h | h
      · exact .inl (by rw [State.junctions_spine _ h]; rfl)
      · exact .inr ⟨h, if_pos h⟩

/-- DAWN_BRINGUP enters state 1 with the BARs answering, or does nothing. -/
theorem execDawnBringup_spine (hbm : BitVec 20) (s : State) : ∃ t, execDawnBringup hbm s = .next t ∧
    t.spine = if s.power.pwrgd = true ∧ s.power.resetN = true ∧ s.boot.selftested = true ∧ s.boot.bars = false then
      ({ s with boot := { s.boot with state := 1, bars := true } } : State).spine else s.spine := by
  unfold execDawnBringup
  refine ⟨_, rfl, ?_⟩
  cases h1 : s.power.pwrgd <;> cases h2 : s.power.resetN <;> cases h3 : s.boot.selftested <;> cases h4 : s.boot.bars <;> simp <;>
    simp [State.spine, h3]

theorem State.readCard_boot (s : State) (k : Socket) : (s.readCard k).spine = s.spine := by simp

/-- RETAINED_STATE_RESTORE enters state 3 from the running firmware of state 2, or does nothing. -/
theorem execRetainedStateRestore_spine (trained : U16) (dimms : U32) (socket : Socket) (s : State) :
    ∃ t, execRetainedStateRestore trained dimms socket s = .next t ∧
      t.spine = if s.boot.state = 2 ∧ s.boot.firmware = true then ({ s with boot := { s.boot with state := 3 } } : State).spine else s.spine := by
  unfold execRetainedStateRestore
  refine ⟨_, rfl, ?_⟩
  by_cases h : s.boot.state = 2 ∧ s.boot.firmware = true
  · rw [if_neg (by simp [h]), if_pos h]
    dsimp only
    generalize hs3 : List.foldl _ _ _ = s3
    have e : s3.spine = s.spine := by
      subst hs3
      refine (foldl_spine _ (fun t d => by simp) _ _).trans ?_
      have := State.readCard_spine s socket
      simp only [State.spine, Prod.mk.injEq] at this ⊢
      simp [this]
    simp only [State.spine, Prod.mk.injEq] at e ⊢
    simp [e]
  · rw [if_pos (by by_cases a : s.boot.state = 2 <;> simp_all), if_neg h]

end Sys2Proof.Machine
end

