-- ==== Sys2Proof/Tests/Slice0.lean ====
section
/-! SUPPORT. Tests: the checks of WellFormed, concrete states that meet the hypotheses of every statement of Certificates/Slice0/Obligations.lean, clause by clause,
and single steps whose results the manual's own rules and worked examples give. -/

set_option Elab.async false

namespace Sys2Proof.Tests
open Sys2Proof Sys2Proof.Machine

/-! ### Helpers -/

/-- A block of n bytes, zero but for the fields given by offset, length and value. -/
def block (n : Nat) (fs : List (Nat × Nat × Nat)) : Bytes := fs.foldl (fun b f => setFld b f.1 f.2.1 f.2.2) (List.replicate n 0)

/-- A descriptor of an opcode for context 0, ring 0, with its CRC (R375). -/
def desc (op : Nat) (fs : List (Nat × Nat × Nat)) : Desc :=
  let b := block 60 ((0, 1, op) :: fs)
  { ctx := 0, ring := 0, index := 0, bytes := b ++ toLE 4 (crc32c b) }

/-- Image 7, a tree image: every sequencer's program has two words, the placement table names objects 1 to 15, and the Saddle plan has one entry, on counter 64600. -/
def img : Bytes :=
  block 32 [(10, 2, 1)] ++ ((List.range 12).map (fun k => block 16 [(0, 4, 0x100 + 16 * k), (10, 2, 2)])).flatten ++
  block 32 [(0, 4, 0x200), (10, 2, 15), (16, 4, 0x3E0), (26, 2, 1)] ++ List.replicate 256 0 ++
  ((List.range 15).map (fun k => block 32 [(0, 4, k + 1)])).flatten ++ block 16 [(0, 4, 5), (4, 2, 64600)]

/-- An object of a kind, a tier and a size, resident and writable. -/
def obj (kind tier : Byte) (size : Nat) : Obj :=
  { kind := kind, tier := tier, readOnly := false, home := false, half := none, size := size, entryMask := 0, entryBase := 0, mask := 0, base := 0,
    state := .resident, poisoned := [], head := 0, fill := 0, stalled := [], saved := none }

/-- A step in progress of a descriptor. -/
def run (d : Desc) : StepRun :=
  { d := d, no := 1, codes := [], ranks := [], toks := 0, work := [], replayed := false, fallback := false, result := 0, left := [], passed := false, released := false }

/-- Context 0: READY, bound to image 7, a step in progress, every sequencer running at word 0, counters 0 to 15, slots 0 to 7, rings set up. -/
def ctx0 : Ctx :=
  { Ctx.init with state := .ready, image := some 7, run := some (run (desc 0x03 [])), syncCount := 16, slotCount := 8, cq := { log2size := 4, base := 0x10000 },
                  sq := [(0, { log2size := 4, base := 0x20000 })], seqs := SeqId.all.map (fun q => (q.num, { Seq.init with status := .running })) }

/-- The device after the lock, owned by port 0, with context 0 running and fifteen tier 0 objects of 256 KiB. -/
def st : State :=
  ({ State.reset with
      power := { Power.init with resetN := true }
      boot := { Boot.init with state := 4, locked := true, firmware := true, bars := true, selftested := true }
      regs := { Regs.init with owner := 0 }
      images := [(7, { length := 0x3F0, poisoned := [], loaded := true })]
      objs := (List.range 15).map (fun k => (k + 1, obj 0 0 0x40000))
      ctxs := [(0, ctx0)] } : State).put (.image 7) 0 img

/-- That state with context 0 changed. -/
def stWith (f : Ctx → Ctx) : State := { st with ctxs := [(0, f ctx0)] }
/-- That state with a sync counter's word. -/
def stCounter (k : Nat) (w : U32) : State := { st with sync := [(k, w)] }
/-- A context whose sequencers but q have a status. -/
def others (q : SeqId) (v : SeqStatus) (x : Ctx) : Ctx := { x with seqs := SeqId.all.map (fun p => (p.num, { Seq.init with status := if p = q then .running else v })) }

/-- A state with an object's record and its first bytes. -/
def has (s : State) (id : U32) (o : Obj) (bs : Bytes) : State := (s.setObj id o).put (.obj id) 0 bs
/-- A state whose image 7 holds an instruction at word 0 of a sequencer's program. -/
def word (s : State) (q : SeqId) (op a b : Nat) : State := s.put (.image 7) (0x100 + 16 * q.num) (toLE 8 (State.seqWord op a b))
/-- A sequencer that executes that instruction at its position. -/
def ready (s : State) (q : SeqId) (op a b : Nat) : Bool := seqReady (word s q op a b) 0 q ((word s q op a b).seqAt 0 q == State.seqWord op a b)
/-- A state whose queues run the copies of a command of context 0. -/
def started (s : State) (on : State.Copies) : State :=
  on.foldl (fun s p => s.modQueue p.1 (fun u =>
    { u with running := some ({ ctx := 0, src := p.2.1, b := p.2.2, words := p.2.2.length / 32, ready := true, consumed := true } : QEntry) })) s
/-- The Steppe runs a block of context 0. -/
def steppe (s : State) (w : Bytes) : State := started s (State.steppeCopies w w)

/-! ### WellFormed: an ill-formed command for each check -/

theorem test_illformed_issue : Instr.wf (.issue 0 .text 7 2 (block 32 [])) = false := by decide
/-- Each copy of a Steppe command: its length, its code; a RIM command's op byte. -/
theorem test_illformed_copies :
    Instr.wf (.loadr 0 (block 64 [(0, 1, 1)]) (block 32 [(0, 1, 1)])) = false ∧ Instr.wf (.loadr 0 (block 32 [(0, 1, 1)]) (block 64 [(0, 1, 1)])) = false ∧
    Instr.wf (.matmul 0 (block 64 [(0, 1, 3)]) (block 64 [(0, 1, 2)])) = false ∧ Instr.wf (.matmul 0 (block 64 [(0, 1, 2)]) (block 64 [(0, 1, 3)])) = false ∧
    Instr.wf (.rimAdd 0 (block 64 [(0, 1, 4), (1, 1, 2)]) (block 64 [(0, 1, 4), (1, 1, 1)])) = false ∧
    Instr.wf (.rimAdd 0 (block 64 [(0, 1, 4), (1, 1, 1)]) (block 64 [(0, 1, 4), (1, 1, 2)])) = false ∧
    Instr.wf (.rimAdd 0 (block 64 [(0, 1, 4), (1, 1, 1)]) (block 64 [(0, 1, 4), (1, 1, 1)])) = true := by decide +kernel
theorem test_illformed_block : Instr.wf (.topk 0 .glenRefine (block 32 [(0, 1, 1)])) = false ∧ Instr.wf (.topk 0 .glenRefine (block 64 [(0, 1, 2)])) = false := by decide +kernel
theorem test_illformed_search : Instr.wf (.searchCommand 0 []) = false ∧ Instr.wf (.searchCommand 0 [block 64 [(0, 1, 1)], block 64 [(0, 1, 2)]]) = false := by decide +kernel
theorem test_illformed_write :
    Instr.wf (.writeInsert 0 .glenWalk (block 64 [(0, 1, 2), (1, 1, 1)])) = false ∧ Instr.wf (.writeDelete 0 .glenWalk (block 64 [(0, 1, 2)])) = false := by decide +kernel
/-- A descriptor's length, its opcode, its second byte where the rows differ by it, its bit. -/
theorem test_illformed_descriptor :
    Instr.wf (.query { ctx := 0, ring := 0, index := 0, bytes := block 63 [(0, 1, 1)] }) = false ∧ Instr.wf (.query (desc 2 [])) = false ∧
    Instr.wf (.mergeBuild (desc 0x0E [(16, 1, 2)])) = false ∧ Instr.wf (.hotRowRefresh (desc 0x0E [(16, 1, 3)])) = false ∧
    Instr.wf (.syncRead (desc 0x0F [(16, 1, 1)])) = false ∧ Instr.wf (.testEcho (desc 0x17 [])) = false ∧
    Instr.wf (.load (desc 0x0C [(20, 1, 2)])) = false ∧ Instr.wf (.loadImage (desc 0x0C [])) = false ∧ Instr.wf (.step (desc 0x11 [(20, 1, 1)])) = false ∧
    Instr.wf (.unknownOpcode (desc 0x17 [])) = false ∧ Instr.wf (.unknownOpcode { ctx := 0, ring := 0, index := 0, bytes := [] }) = false ∧
    Instr.wf (.query (desc 1 [])) = true := by decide +kernel
theorem test_illformed_arbiter : Instr.wf (.arbiterGrant 0 [{ who := 1, base := 0, urgent := false, work := none, leaves := false }, { who := 1, base := 3, urgent := true, work := none, leaves := false }]) = false := by decide
theorem test_illformed_preemption : Instr.wf (.enginePreemption 18) = false := by decide
theorem test_illformed_scrub : Instr.wf (.scrubRead 3 none false 0 .clean { kind := 1, a := 0, b := 0, c := 0, row := 0 }) = false := by decide
theorem test_illformed_window : Instr.wf (.bootWindowWrite 0 0x3FFFFFF [1, 2]) = false := by decide
theorem test_illformed_register : Instr.wf (.registerWrite 0 0 3 0) = false := by decide
theorem test_illformed_sample : Instr.wf (.powerSample 0 0 (List.replicate 39 0)) = false := by decide +kernel
theorem test_illformed_frame : Instr.wf (.dataFrame 3 { last := true, seq := 0, ack := 0, vc := 1, cvc := 0, credits := 0, dest := 0, ctx := 0, stream := 0 } []) = false := by decide
theorem test_illformed_relay :
    Instr.wf (.relay 3 { last := true, seq := 0, ack := 0, vc := 0, cvc := 0, credits := 0, dest := 0, ctx := 0, stream := 0 } 0 0 0 []) = false := by decide

/-- The table gives its rows no bits, so no word spells a command. -/
theorem test_decode_none : decodeTableWord 32 0 = none := by decide

/-! ### The machine -/

/-- StepRunsFrontCommand, IdleStepPassesTime: a queue with a command, and none. -/
theorem test_witness_queue : ({ st with pending := [.portIdle 0] } : State).pending = .portIdle 0 :: [] ∧ st.pending = [] := by decide +kernel
/-- CommandsLeaveQueue, FusesOnlyBurn, LockFreezes, MemoryStaysCanonical, DawnStaysOrdered: a state that meets the invariants, with the lock set, whose commands go on. -/
theorem test_witness_invariants :
    st.mem.wf ∧ dawnOrdered st ∧ st.boot.locked = true ∧ (∃ t, exec (.nop 0 .text) st = .next t) ∧ ∃ t, step { st with pending := [.nop 0 .text] } = .next t :=
  ⟨by decide +kernel, by unfold dawnOrdered; decide +kernel, by decide +kernel, ⟨_, rfl⟩, _, rfl⟩

/-! ### Sequencers -/

/-- SequencerRegisters and SequencerBranches: each instruction at a sequencer's position, on the first and the last register. -/
theorem test_witness_registers :
    ready st .text 0x00 0 0 = true ∧ (st.ctx 0).run = some (run (desc 0x03 [])) ∧
    (∀ r ∈ [(0 : BitVec 4), 15],
      ready st .text 0x07 (State.regA r) 0xFFFFFFFF = true ∧ ready st .text 0x08 (State.regA r + 7) 0 = true ∧ ready st .text 0x09 (State.regA r) 1 = true ∧
      ready st .text 0x0A (State.regA r) 1 = true ∧ ready st .text 0x0B (State.regA r) 1 = true) ∧ ready st .text 0x0C 0 1 = true := by decide +kernel
/-- SequencerWaits: a WAITDONE with as many unfinished as it lets be, and with more; a WAIT on the last counter of the window, met and not. -/
theorem test_witness_waits :
    (ready st .text 0x02 0x7000 0 = true ∧ ((st.ctx 0).seq .text).unfinished.getD 7 0 ≤ 0) ∧
    (let s := stWith (fun x => x.modSeq .text (fun v => { v with unfinished := [(7, 3)] }))
     ready s .text 0x02 0x7000 2 = true ∧ 2 < ((s.ctx 0).seq .text).unfinished.getD 7 0) ∧
    (ready st .text 0x04 15 1 = true ∧ (st.ctx 0).inWindow 15 = true ∧ (st.ctx 0).inWindow 16 = false ∧ ¬ 1 ≤ (st.counter 15).toNat) ∧
    (let s := stCounter 15 0x7FFFFFFF; ready s .text 0x04 15 0x7FFFFFFF = true ∧ isLock (s.counter 15) = false ∧ 0x7FFFFFFF ≤ (s.counter 15).toNat) := by decide +kernel
/-- SignalAddsToCount, on a lock word and on the largest count. -/
theorem test_witness_signal :
    (let s := stCounter 3 (lockWord 1 .text); ready s .text 0x03 3 1 = true ∧ (s.ctx 0).inWindow 3 = true ∧ (1 : U32) ≠ 0 ∧ isLock (s.counter 3) = true) ∧
    (let s := stCounter 3 0x7FFFFFFF; ready s .text 0x03 3 1 = true ∧ (s.ctx 0).inWindow 3 = true ∧ isLock (s.counter 3) = false) := by decide +kernel
/-- LocksTakenAndReleased: a free lock, the caller's own, another's, that of a context that is FAULTED, a release of the caller's and of another context's. -/
theorem test_witness_locks :
    (ready st .text 0x05 0 0 = true ∧ (st.ctx 0).inWindow 0 = true ∧ st.counter 0 = 0) ∧
    (let s := stCounter 0 (lockWord 0 .text)
     ready s .text 0x05 0 0 = true ∧ ready s .text 0x06 0 0 = true ∧ (s.ctx 0).inWindow 0 = true ∧ s.counter 0 = lockWord 0 .text ∧ isLock (s.counter 0) = true ∧
       lockCtx (s.counter 0) = 0 ∧ (s.nextSeq 0 .text).lockWaiters 0 = []) ∧
    (let s := stCounter 0 (lockWord 0 .packer)
     ready s .text 0x05 0 0 = true ∧ s.counter 0 ≠ 0 ∧ s.counter 0 ≠ lockWord 0 .text ∧
       ¬ (isLock (s.counter 0) = true ∧ ((s.ctx (lockCtx (s.counter 0))).state = .faulted ∨ (s.ctx (lockCtx (s.counter 0))).state = .drained))) ∧
    (let s : State := { stCounter 0 (lockWord 1 .packer) with ctxs := [(0, ctx0), (1, { Ctx.init with state := .faulted })] }
     ready s .text 0x05 0 0 = true ∧ s.counter 0 ≠ 0 ∧ s.counter 0 ≠ lockWord 0 .text ∧ isLock (s.counter 0) = true ∧ (s.ctx (lockCtx (s.counter 0))).state = .faulted) ∧
    (let s := stCounter 0 5; ready s .text 0x06 0 0 = true ∧ ¬ (isLock (s.counter 0) = true ∧ lockCtx (s.counter 0) = 0)) := by decide +kernel
/-- A TOPK block. -/
def topkIssue : Bytes := block 64 [(0, 1, 1)]
/-- A state with an ISSUE of it at glen.refine's position. -/
def issuing (s : State) : State := (word s .glenRefine 0x01 0x6002 (0xC0 - 16 * SeqId.glenRefine.num)).put (.image 7) 0x1C0 topkIssue
/-- IssueFillsQueue: with room, without room, and a claim of an ISSUE that waited. -/
theorem test_witness_issue :
    (let s := issuing st
     seqReady s 0 .glenRefine (s.issueAt 0 .glenRefine 6 2 topkIssue) = true ∧ mayIssue 6 .glenRefine = true ∧ cmdWords 6 (fld topkIssue 0 1) = some 2 ∧
       topkIssue.length = 64 ∧ s.queueRoom (queueIx 6 .glenRefine) 2 = true) ∧
    (let full : QEntry := { ctx := 1, src := .glenRefine, b := [], words := 511, ready := true, consumed := false }
     let s := issuing { st with queues := [(queueIx 6 .glenRefine, { Queue.init with w := 511, entries := [full] })] }
     seqReady s 0 .glenRefine (s.issueAt 0 .glenRefine 6 2 topkIssue) = true ∧ s.queueRoom (queueIx 6 .glenRefine) 2 = false) ∧
    (let s := stWith (fun x => x.modSeq .glenRefine (fun v => { v with status := .queue 6 2 topkIssue }))
     (s.ctx 0).active = true ∧ ((s.ctx 0).seq .glenRefine).status = .queue 6 2 topkIssue ∧ s.queueRoom (queueIx 6 .glenRefine) 2 = true) := by decide +kernel
/-- BoundariesAndEnds: the last STEPEND, and one of the first; TRAP. -/
theorem test_witness_stepend :
    (let s := stWith (others .text .boundary); ready s .text 0x0D 0 0 = true ∧ ∀ p, p ≠ SeqId.text → ((s.ctx 0).seq p).status = .boundary) ∧
    ready st .text 0x0D 0 0 = true ∧ (∃ p, p ≠ SeqId.text ∧ ((st.ctx 0).seq p).status ≠ .boundary) ∧ ready st .text 0x10 0 0xFFFFFFFF = true :=
  ⟨⟨by decide +kernel, fun p => by cases p <;> decide +kernel⟩, by decide +kernel, ⟨.packer, by decide +kernel, by decide +kernel⟩, by decide +kernel⟩
/-- The plan's entry, on the device alone in its tree and below a parent, at port 3. -/
def planned (uplink : Nat) : State := st.put (.image 7) 0x3E0 (block 16 [(0, 4, 5), (4, 2, 64600), (6, 1, uplink)])
/-- BoundariesAndEnds: a SADDLE of a tree image in a context that a loss in the tree has broken. -/
theorem test_witness_saddleLost :
    let s := stWith (fun x => { x with broken := true })
    ready s .text 0x0E 0 0 = true ∧ (s.planEntry? 0 0).map planCounter = some 64600 ∧ (s.saddles.getD 64600 (Saddle.open 0 0)).ctx = 0 ∧
      (s.ctx 0).broken = true ∧ s.inTree 0 = true ∧ ∀ p, p ≠ SeqId.text → ∀ n, ((s.ctx 0).seq p).status = .saddle n → n = 0 :=
  ⟨by decide +kernel, by decide +kernel, by decide +kernel, by decide +kernel, by decide +kernel, fun p _ n h => (by cases p <;> cases h)⟩
/-- BoundariesAndEnds: a SADDLE that is not the last arrival, one that meets another entry, and the last one, at the top and below it. -/
theorem test_witness_saddle :
    (ready st .text 0x0E 0 0 = true ∧ (st.planEntry? 0 0).map planCounter = some 64600 ∧ (st.saddles.getD 64600 (Saddle.open 0 0)).ctx = 0 ∧
      (∀ p, p ≠ SeqId.text → ∀ n, ((st.ctx 0).seq p).status = .saddle n → n = 0) ∧ ∃ p, p ≠ SeqId.text ∧ ((st.ctx 0).seq p).status ≠ .saddle 0) ∧
    (let s := stWith (others .text (.saddle 1)); ready s .text 0x0E 0 0 = true ∧ ((s.ctx 0).seq .packer).status = .saddle 1 ∧ (1 : U16) ≠ 0) ∧
    (∀ u ∈ [15, 3],
      let s : State := { planned u with ctxs := [(0, others .text (.saddle 0) ctx0)] }
      ready s .text 0x0E 0 0 = true ∧ ((s.planEntry? 0 0).map (fun e => (planChildren e, planReduces e, planUplink e))) = some ([], false, if u = 15 then none else some 3) ∧
        (s.saddles.getD 64600 (Saddle.open 0 0)).sent = false) ∧
    ∀ p, p ≠ SeqId.text → (((stWith (others .text (.saddle 0))).ctx 0).seq p).status = .saddle 0 :=
  ⟨⟨by decide +kernel, by decide +kernel, by decide +kernel, fun p _ n h => (by cases p <;> cases h), .packer, by decide +kernel, by decide +kernel⟩,
    by decide +kernel, by decide +kernel, fun p => by cases p <;> decide +kernel⟩
/-- BoundariesAndEnds: the last HALT of a step, and one before it. -/
theorem test_witness_halt :
    (let s := stWith (others .text .halted)
     ready s .text 0x0F 0 0 = true ∧ (s.ctx 0).run = some (run (desc 0x03 [])) ∧
       ∀ p, p ≠ SeqId.text → ((s.ctx 0).seq p).status = .halted ∨ ((s.ctx 0).seq p).status = .stopped) ∧
    ready st .text 0x0F 0 0 = true ∧ ∃ p, p ≠ SeqId.text ∧ ¬ (((st.ctx 0).seq p).status = .halted ∨ ((st.ctx 0).seq p).status = .stopped) :=
  ⟨⟨by decide +kernel, by decide +kernel, fun p => by cases p <;> decide +kernel⟩, by decide +kernel, .packer, by decide +kernel, by decide +kernel⟩
/-! ### Engine commands -/

/-- A RIM block: operation, elements, rows, parameter; a in object 1, b in 2, c in 3, output to 4. -/
def rim (op n rows param : Nat) (fs : List (Nat × Nat × Nat)) : Bytes :=
  block 64 ([(0, 1, 4), (1, 1, op), (8, 4, n), (12, 4, rows), (16, 4, 1), (20, 4, 2), (24, 4, 3), (28, 4, 4), (32, 4, param)] ++ fs)
/-- A TOPK block of n elements: k entries from object 1 to object 2, records to object 3. -/
def topk (n k : Nat) : Bytes := block 64 [(0, 1, 1), (4, 4, n), (8, 4, 1), (12, 4, k), (16, 4, 1), (24, 4, 2), (28, 4, 3)]

/-- EngineCommandStops: a context that does not run, a queue that has not started the command, a refused block (k = 0), an object that loads, a poisoned parcel
(of a home copy, and of none). -/
theorem test_witness_engineStops :
    let on := fun (b : Bytes) => State.copyOf 6 .glenRefine b
    let runs := fun (s : State) (b : Bytes) => ((s.ctx 0).active && s.started 0 (on b)) = true
    (¬ runs (started (stWith (fun x => { x with state := .suspended })) (on (topk 1 1))) (topk 1 1)) ∧ (¬ runs st (topk 1 1)) ∧
    (let s := started st (on (topk 1 0)); runs s (topk 1 0) ∧ (mayIssue 6 .glenRefine && s.topkOk 0 (topk 1 0) (Topk.of (topk 1 0))) = false) ∧
    (let s := started (has st 1 { obj 0 0 0x40000 with state := .loading } []) (on (topk 1 1))
     runs s (topk 1 1) ∧ (mayIssue 6 .glenRefine && s.topkOk 0 (topk 1 1) (Topk.of (topk 1 1))) = true ∧ s.resident (State.topkAcc (Topk.of (topk 1 1))) = false) ∧
    (∀ o ∈ [{ obj 0 0 0x40000 with poisoned := [0] }, { obj 0 1 0x40000 with poisoned := [0], readOnly := true, home := true }],
      let s := started (has st 1 o []) (on (topk 1 1))
      runs s (topk 1 1) ∧ (mayIssue 6 .glenRefine && s.topkOk 0 (topk 1 1) (Topk.of (topk 1 1))) = true ∧
        s.resident (State.topkAcc (Topk.of (topk 1 1))) = true ∧ (s.poisonedAccess (State.topkAcc (Topk.of (topk 1 1)))).isSome = true ∧
        s.stalls 1 = o.home) := by decide +kernel

/-- RimElementwise: every operation, on two rows of four elements. -/
theorem test_witness_rimElementwise :
    let rr := fun (w : Bytes) => rimReady (steppe st w) 0 w
    let u := fun (op b c : Nat) => (Rim.of (rim op 4 2 0 [])).use b c
    rr (rim 1 4 2 0 []) (u 1 32 0) 1 = true ∧ rr (rim 2 4 2 0 []) (u 2 32 0) 2 = true ∧
    rr (rim 3 4 2 0 []) (u 3 16 16) 3 = true ∧ rr (rim 4 4 2 0 []) (u 4 0 0) 4 = true ∧
    rr (rim 5 4 2 0 []) (u 5 0 0) 5 = true ∧ rr (rim 6 4 2 0 []) (u 6 0 0) 6 = true ∧
    rr (rim 7 4 2 0 []) (u 7 0 0) 7 = true ∧
    rr (rim 14 4 2 0 []) { u 14 0 0 with nin := 8, aRow := 32 } 14 = true := by decide +kernel
/-- RimRowwise: every operation, SOFTMAX with and without its mask, ROUTE at its least and its greatest expert count. -/
theorem test_witness_rimRowwise :
    let rr := fun (w : Bytes) => rimReady (steppe st w) 0 w
    let u := fun (op b c : Nat) => (Rim.of (rim op 4 2 0 [])).use b c
    rr (rim 8 4 2 0 []) (u 8 0 0) 8 = true ∧ rr (rim 8 4 2 0 [(3, 1, 1)]) (u 8 0 8) 8 = true ∧
    rr (rim 9 4 2 0 []) (u 9 16 16) 9 = true ∧ rr (rim 10 4 2 0 []) (u 10 16 0) 10 = true ∧
    rr (rim 11 4 2 0 []) (u 11 0 0) 11 = true ∧
    (let m : RimUse := { u 12 0 0 with oRows := 1 }; rr (rim 12 4 2 0 []) m 12 = true ∧ engineReady (steppe st (rim 12 4 2 0 [])) 0 (State.steppeCopies (rim 12 4 2 0 []) (rim 12 4 2 0 [])) ((Rim.of (rim 12 4 2 0 [])).acc m) = true) ∧
    rr (rim 13 4 2 0 []) (u 13 32 0) 13 = true ∧
    (∀ e ∈ [1, 1024],
      let r : RimUse := { bBytes := 0, cBytes := 0, nin := 1, aRow := 8, oRow := 8 * e + 8, oRows := 1 }
      rr (rim 15 1 1 e []) r 15 = true ∧ ∀ p < 1, State.routeRowOk e (st.routeRow (Rim.of (rim 15 1 1 e [])) r p) = true) ∧
    (let sp : RimUse := { bBytes := 64, cBytes := 0, nin := 4, aRow := 16, oRow := 16, oRows := 2 }
     rr (rim 16 4 2 0 []) sp 16 = true ∧ (Rim.of (rim 16 4 2 0 [])).afmt = 0 ∧
     (List.range 2).any (fun r => bitAt (st.rd 2 (32 * r) 32) 14 0) = false ∧ ∀ r < 2, sampleParamsOk (st.rd 2 (32 * r) 32) = true) := by decide +kernel
/-- RimStoresOnlyOutputRows: no step waits for its writes. -/
theorem test_witness_rimStores : (st.ctx 0).finishing = [] := by decide +kernel

/-- ArrayCommandsComplete: a LOADR of one JB8 column to the last slot, a MATMUL and a GROUPED of one row, a DROPR of everything. -/
theorem test_witness_array :
    (let b := block 32 [(0, 1, 1), (2, 1, 3), (3, 1, 127), (4, 2, 2048), (6, 2, 1), (8, 4, 32), (12, 4, 1)]
     let x := Loadr.of b
     let s := steppe st b
     blockOk 0 b = true ∧ fld b 0 1 = 1 ∧ x.idle = false ∧ s.loadrOk 0 b x = true ∧
       engineReady s 0 (State.steppeCopies b b) (s.claimAcc 0 false x.slot x.slots ++ s.loadrReads x) = true) ∧
    (let b := block 64 [(0, 1, 2), (1, 1, 4), (2, 1, 0x33), (4, 2, 2048), (6, 1, 127), (8, 4, 32), (12, 4, 1), (16, 2, 1), (20, 2, 511), (24, 4, 1), (28, 4, 2)]
     let x := Matmul.of b
     ∀ window ∈ [false, true],
      let s0 := if window = true then (has st 1 (obj kindWindow 0 256) []).modObj 1 (fun o => { o with fill := 256 }) else st
      let s := steppe s0 b
      blockOk 0 b = true ∧ fld b 0 1 = 2 ∧ x.idle = false ∧ s.matmulOk 0 b x = true ∧ s.isWindow x.sobj = window ∧ (window = true → s.matmulWaits 0 b x = none) ∧
       engineReady s 0 (State.steppeCopies b b) (s.claimAcc 0 false x.slot x.slots ++ s.claimAcc 0 true x.entry x.entries ++ s.matmulAcc x ++ s.matmulTakes 0 b x) = true) ∧
    (let b := block 64 [(0, 1, 3), (2, 1, 0x33), (4, 2, 2048), (6, 1, 127), (8, 4, 32), (12, 4, 1), (16, 2, 1), (18, 2, 1), (20, 4, 1), (24, 4, 2), (28, 4, 3), (32, 4, 4)]
     let s := steppe (has st 2 (obj 0 0 0x40000) (block 16 [(4, 4, 1)])) b
     let x := Grouped.of b
     blockOk 0 b = true ∧ fld b 0 1 = 3 ∧ (x.idle || x.e == 0) = false ∧ s.groupedOk 0 b x = true ∧ s.groupedWaits 0 b x = none ∧
       engineReady s 0 (State.steppeCopies b b) (s.claimAcc 0 false x.slot x.slots ++ s.claimAcc 0 true State.groupedEntry 1 ++ s.groupedAcc x ++ s.groupedTakes 0 b x) = true) ∧
    (let b := block 32 [(0, 1, 5), (2, 1, 128), (6, 2, 512)]
     let s := steppe st b
     blockOk 0 b = true ∧ fld b 0 1 = 5 ∧ (Dropr.of b).ok b = true ∧ engineReady s 0 (State.steppeCopies b b) (s.dropAcc 0 (Dropr.of b)) = true) := by decide +kernel
/-- An embedding table of one FP16 row of 32 elements, with its optimizer state, in object 14 of tier 1; one bag of one position. -/
def stTable : State :=
  has (has st 14 (obj kindTable 1 0x40000) (block 128 [(0, 4, 0x47524A42), (4, 2, 1), (7, 1, 1), (8, 1, 1), (10, 2, 32), (16, 8, 1), (24, 8, 1), (56, 8, 128), (64, 8, 256),
    (72, 8, 256), (80, 8, 256), (88, 8, 256)])) 2 (obj 0 0 0x40000) (block 8 [(4, 4, 1)])
/-- A shard of one slot and 32 dimensions in object 15 of tier 1, its vectors in object 13. -/
def stShard : State :=
  { (has st 15 (obj kindShard 1 0x40000) (block 256 [(10, 2, 32), (16, 8, 1), (32, 4, 13)])) with shards := [(0, 15)] }

/-- TableAndShardCommandsComplete: LOOKUP of one bag. -/
theorem test_witness_lookup :
    let b := block 64 [(0, 1, 1), (4, 4, 14), (8, 4, 1), (12, 4, 2), (20, 4, 3), (24, 4, 4), (28, 4, 1)]
    let x := Lookup.of b
    let on := State.copyOf 1 .gorgeW b
    let s := started stTable on
    let head := s.headAcc x.tobj x.bags
    mayIssue 1 .gorgeW = true ∧ s.lookupOk 0 b x = true ∧ s.touchedRows (s.table 14) x.bags = [(14, 0)] ∧
      engineReady s 0 on (head ++ s.lookupAcc x ++ (if s.readable (head ++ s.posAcc x.bags) then s.touchedAcc (s.table x.tobj) x.bags else [])) = true := by decide +kernel
/-- TableAndShardCommandsComplete: UPDATE of one bag, with nothing sent yet. -/
theorem test_witness_update :
    let b := block 64 [(0, 1, 2), (4, 4, 14), (8, 4, 1), (12, 4, 2), (20, 4, 5), (28, 4, 4), (32, 4, 1)]
    let x := Update.of b
    let on := State.copyOf 1 .gorgeW b
    let s := started stTable on
    let head := s.headAcc x.tobj x.bags
    s.updateOk 0 b x = true ∧ s.progressOf (State.progKey 0 .gorgeW 1) b = 0 ∧ s.missingEnds 0 x = [] ∧
      engineReady s 0 on (head ++ s.updateAcc x ++ (if s.readable (head ++ s.posAcc x.bags) then s.updateRows x else [])) = true := by decide +kernel
/-- A shard of no slots with a graph of degree 32 in object 12, in a context that searches by graph. -/
def stGraph : State :=
  { (has (stWith (fun x => { x with modeNow := { x.modeNow with graph := true } })) 15 (obj kindShard 1 0x40000)
      (block 256 [(9, 1, 32), (10, 2, 32), (32, 4, 13), (36, 4, 12)])) with shards := [(0, 15)] }
/-- A SEARCH of n queries over shard 0: its graph flag and ef. -/
def searchBlock (n g ef : Nat) : Bytes :=
  block 64 [(0, 1, 1), (1, 1, g), (3, 1, 1), (4, 2, 1), (6, 2, ef), (8, 8, 1), (16, 4, n), (20, 4, 1), (28, 4, 2), (32, 4, 3)]
/-- TableAndShardCommandsComplete: SEARCH of one query in a shard without its graph, of 64 in one with it. -/
theorem test_witness_search :
    let b := searchBlock 1 0 0
    let x := Search.of b
    let who := State.searchIssuers x.graph
    let on := State.searchCopies x.graph (who.map (fun _ => b))
    let s := started stShard on
    x.graph = false ∧ s.held 0 on (maskShards x.mask) = false ∧ s.searchOk 0 (who.map (fun _ => b)) b x = true ∧ engineReady s 0 on (s.searchAcc x ++ s.searchStore 0 x) = true := by decide +kernel
theorem test_witness_search_graph :
    let b := searchBlock 64 1 16
    let x := Search.of b
    let who := State.searchIssuers x.graph
    let on := State.searchCopies x.graph (who.map (fun _ => b))
    let s := started stGraph on
    x.graph = true ∧ s.held 0 on (maskShards x.mask) = false ∧ s.searchOk 0 (who.map (fun _ => b)) b x = true ∧ engineReady s 0 on (s.searchAcc x ++ s.searchStore 0 x) = true := by decide +kernel
/-- TableAndShardCommandsComplete: the two WRITEs of the one shard. -/
theorem test_witness_writes : ∀ op ∈ [0, 1],
    let b := block 64 [(0, 1, 2), (1, 1, op), (8, 4, 1), (12, 4, 1), (16, 4, 2), (20, 4, 4), (24, 4, 3)]
    let x := Write.of b
    let on := State.copyOf 5 .glenWalk b
    let s := started stShard on
    s.shards.get? x.shard = some 15 ∧ s.held 0 on [x.shard] = false ∧ mayIssue 5 .glenWalk = true ∧ s.writeOk 0 b x = true ∧
      engineReady s 0 on (s.writeAcc x) = true ∧ x.op = op := by decide +kernel

/-- A pipeline record in object 1 and a template in object 2: no text of its own, a budget of one token. -/
def stPack : State :=
  has (has st 1 (obj 0 0 0x40000) (block 128 [(0, 4, 0x4550494A), (4, 2, 1), (32, 2, 1), (34, 1, 1), (36, 2, 1), (38, 2, 16), (40, 2, 1), (44, 4, 1), (50, 2, 1)])) 2 (obj 0 0 0x40000)
    (block 32 [(0, 4, 0x4C504D54), (4, 2, 1), (6, 1, 2), (16, 1, 1), (24, 1, 2)])
/-- The state with an image that only names objects 1 to 4 and 13. -/
def st0 : State :=
  ({ st with mem := State.reset.mem } : State).put (.image 7) 224 (block 32 [(0, 4, 0x200), (10, 2, 5)] ++ List.replicate 256 0 ++
    ([1, 2, 3, 4, 13].map (fun k => block 32 [(0, 4, k)])).flatten)
/-- A tokenizer of 256 tokens without text and without merges in object 13 of tier 1. -/
def stTok : State :=
  ((has st0 13 (obj 1 1 0x40000) (block 64 [(0, 4, 0x4B4F544A), (4, 2, 2), (8, 4, 256), (16, 4, 1), (24, 2, 1), (28, 4, 0x100), (32, 4, 0x600), (40, 4, 0x700), (44, 4, 0x800)])).put (.obj 13) 0x700 (List.replicate 4 0xFF)).put (.obj 13) 0x710 (List.replicate 4 0xFF)
/-- A grammar of one state that allows tokens 0 to 7 for ever, in object 12 of tier 1. -/
def stGram : State :=
  has st 12 (obj 0 1 72) (block 72 [(0, 4, 0x4D52474A), (4, 4, 8), (8, 4, 1), (16, 4, 32), (20, 4, 40), (24, 4, 56), (28, 4, 64), (36, 4, 1), (40, 1, 0xFF), (48, 2, 1), (60, 4, 7)])
/-- A GRAMMAR block of n tokens. -/
def gram (op n : Nat) : Bytes := block 64 [(0, 1, 3), (1, 1, op), (4, 4, 12), (8, 4, 1), (12, 4, 2), (16, 4, 3), (20, 4, 4), (24, 4, n)]

/-- SelectionAndTextCommandsComplete: TOPK of one element, MERGE of 32 lists for 64 queries. -/
theorem test_witness_selection :
    (let b := topk 1 1
     let on := State.copyOf 6 .glenRefine b
     let s := started st on
     mayIssue 6 .glenRefine = true ∧ s.topkOk 0 b (Topk.of b) = true ∧ engineReady s 0 on (State.topkAcc (Topk.of b)) = true) ∧
    (let b := block 64 [(0, 1, 2), (3, 1, 32), (4, 4, 1), (8, 4, 64), (12, 4, 1), (16, 4, 1), (20, 4, 2), (24, 4, 3), (28, 4, 4)]
     let on := State.copyOf 6 .glenRefine b
     let s := started st on
     s.mergeOk 0 b (Merge.of b) = true ∧ s.mergeWaits 0 (Merge.of b) = none ∧ engineReady s 0 on (State.mergeAcc (Merge.of b) ++ s.mergeStore 0 .glenRefine (Merge.of b)) = true) := by decide +kernel
/-- SelectionAndTextCommandsComplete: PACK of one prompt. -/
theorem test_witness_pack :
    let b := block 64 [(0, 1, 1), (4, 4, 1), (8, 4, 2), (12, 4, 3), (16, 4, 4), (20, 4, 5), (24, 4, 6), (28, 4, 7), (56, 4, 1)]
    let on := State.copyOf 0x0A .packer b
    let s := started stPack on
    mayIssue 0x0A .packer = true ∧ s.packOk 0 b (Pack.of b) = true ∧ engineReady s 0 on (s.packAcc (Pack.of b)) = true := by decide +kernel
/-- SelectionAndTextCommandsComplete: TOKENIZE. -/
theorem test_witness_tokenize :
    let b := block 64 [(0, 1, 1), (4, 4, 13), (8, 4, 1), (12, 4, 2), (20, 4, 3), (48, 4, 1), (52, 4, 1)]
    let on := State.copyOf 7 .text b
    let s := started stTok on
    mayIssue 7 .text = true ∧ s.tokenizeOk 0 b (TokCmd.of b) = true ∧ engineReady s 0 on (s.tokenizeAcc (TokCmd.of b)) = true := by decide +kernel
/-- SelectionAndTextCommandsComplete: DETOKENIZE of nine tokens. -/
theorem test_witness_detokenize :
    let b := block 64 [(0, 1, 2), (4, 4, 13), (8, 4, 1), (12, 4, 2), (20, 4, 3), (24, 4, 4), (28, 4, 9)]
    let on := State.copyOf 8 .text b
    let s := started stTok on
    mayIssue 8 .text = true ∧ s.detokOk 0 b (DetokCmd.of b) = true ∧ engineReady s 0 on (s.detokAcc (DetokCmd.of b)) = true := by decide +kernel
/-- That grammar as the machine reads it. -/
def gram12 : Grammar := { obj := 12, v := 8, states := 1, start := 0, soff := 32, aoff := 40, roff := 56, toff := 64 }
/-- SelectionAndTextCommandsComplete: the three grammar commands, a mask for eight draft tokens and an advance of nine. -/
theorem test_witness_grammar :
    let at' := fun (op n : Nat) => started stGram (State.copyOf 9 .text (gram op n))
    let rdy := fun (op n : Nat) (acc : List Access) => engineReady (at' op n) 0 (State.copyOf 9 .text (gram op n)) ((at' op n).grammarRead 12 :: acc) = true
    mayIssue 9 .text = true ∧ (∀ p ∈ [(0, 0), (1, 8), (2, 9)], (at' p.1 p.2).grammar? 12 = some gram12) ∧
    ((at' 0 0).grammarOk 0 .text (gram 0 0) 0 (GrammarCmd.of (gram 0 0)) [⟨1, 0, 72, true⟩] = true ∧ rdy 0 0 [⟨1, 0, 72, true⟩]) ∧
    (let acc : List Access := [⟨1, 0, 72, false⟩, ⟨2, 0, 32, false⟩, ⟨3, 0, 9, true⟩, ⟨4, 0, 37, true⟩]
     (at' 1 8).maskBytes (GrammarCmd.of (gram 1 8)) = 1 ∧ (at' 1 8).grammarOk 0 .text (gram 1 8) 1 (GrammarCmd.of (gram 1 8)) acc = true ∧ rdy 1 8 acc) ∧
    (let acc : List Access := [⟨1, 0, 72, false⟩, ⟨1, 0, 72, true⟩, ⟨2, 0, 36, false⟩]
     let x := GrammarCmd.of (gram 2 9)
     (at' 2 9).gAdvance gram12 (GState.of ((at' 2 9).gStateBytes 0 x)) ((at' 2 9).grammarTokens x) = some { state := 0, stack := [] } ∧
       (at' 2 9).grammarOk 0 .text (gram 2 9) 2 x acc = true ∧ rdy 2 9 acc) := by decide +kernel

/-- An entry of the slot list at slot 0. -/
def entry : SlotStep :=
  { slot := 0, join := false, code := none, terminal := false, skip := false, prefill := false, drafted := 0, ready := true, accepted := 0, ending := none, replayed := false,
    tag := 0, dropped := 0 }
/-- A GENERATE of one slot in progress, LIST done, the cursor at an entry; slot 0 in a state, with the model of object 11. -/
def stServe (slotState : Nat) (e : SlotStep) : State :=
  (has (has (stWith (fun x => { x with run := some (run (desc 5 [(16, 8, 1)])), serving := { Serving.init with listed := true, entries := [e] } }))
    11 (obj 1 1 64) (block 64 [(0, 4, 0x4C444D4A), (4, 2, 1), (6, 2, 1), (8, 4, 32), (12, 4, 1), (32, 8, pageSize 1 32)])) 5 (obj 0 0 0x100000) []).put .slots 0
    (block 16 [(0, 1, slotState), (12, 4, 11)])
/-- A serving unit's block. -/
def serve (cmd : Nat) (fs : List (Nat × Nat × Nat)) : Bytes := block 64 ((0, 1, cmd) :: fs)

/-- A state in whose queue the serving unit runs a block. -/
def serves (s : State) (b : Bytes) : State := started s (State.copyOf 0x0B .serving b)
/-- A serving unit's block has its form, and what it names is there. -/
def serveReady (s : State) (b : Bytes) (acc : List Access) : Bool :=
  mayIssue 0x0B .serving && blockOk 0x0B b && zeroBytes b 1 3 && engineReady (serves s b) 0 (State.copyOf 0x0B .serving b) acc

/-- ServingCommandsComplete: LIST, ACCEPT and COMMIT of an entry that takes part and of one that does not, SUMMARY of a slot that pauses, resumes, runs. -/
theorem test_witness_serving :
    (let b := serve 1 [(4, 4, 1)]
     let s := serves (stServe 2 entry) b
     s.generateOf 0 = some (desc 5 [(16, 8, 1)]) ∧ zeroBytes b 8 63 = true ∧ s.accOk 0 [0] ⟨1, 0, 32, true⟩ = true ∧ serveReady (stServe 2 entry) b [⟨1, 0, 32, true⟩] = true) ∧
    (let b := serve 2 [(4, 4, 1), (20, 4, 2)]
     let s := serves (stServe 2 entry) b
     let x := AcceptCmd.of b 0
     s.entryAt 0 = some entry ∧ (s.model? (s.inForce 0)).map Model.v = some 1 ∧ (s.acceptAcc x entry 1).all (s.accOk 0 [0]) = true ∧
       serveReady (stServe 2 entry) b (s.acceptAcc x entry 1) = true) ∧
    (let b := serve 2 [(4, 4, 1), (20, 4, 2)]
     let e := { entry with skip := true }
     let s := serves (stServe 2 e) b
     s.entryAt 0 = some e ∧ e.skip = true ∧ (State.acceptNames (AcceptCmd.of b (s.ctx 0).serving.cursor)).all (s.accOk 0 [0]) = true ∧ serveReady (stServe 2 e) b [] = true) ∧
    (∀ ending ∈ [none, some Code.uncorrectable],
      let b := serve 3 [(4, 4, 1), (8, 4, 2)]
      let e := { entry with skip := true, ending := ending }
      let s := serves (stServe 2 e) b
      let acc : List Access := [⟨1, 0, 40, false⟩, ⟨2, 0, 16, false⟩]
      s.entryAt 0 = some e ∧ e.skip = true ∧ s.generateOf 0 = some (desc 5 [(16, 8, 1)]) ∧ zeroBytes b 28 63 = true ∧ acc.all (s.accOk 0 [0]) = true ∧
        serveReady (stServe 2 e) b [] = true) ∧
    (let b := serve 3 [(4, 4, 1), (8, 4, 2)]
     let s := serves (stServe 2 entry) b
     let acc : List Access := [⟨1, 0, 40, false⟩, ⟨2, 0, 16, false⟩]
     s.entryAt 0 = some entry ∧ entry.ready = true ∧ zeroBytes b 28 63 = true ∧ acc.all (s.accOk 0 [0]) = true ∧ serveReady (stServe 2 entry) b acc = true ∧ s.rdNat 1 0 4 ≤ 9) ∧
    (∀ p ∈ [(3, SlotState.pausing), (4, SlotState.resuming), (2, SlotState.running)],
      let b := serve 4 [(4, 4, 5)]
      let s := serves (stServe p.1 entry) b
      let stage : Access := ⟨5, 0, 0x100000, true⟩
      zeroBytes b 8 63 = true ∧ s.accOk 0 [0] stage = true ∧ s.slotState 0 = p.2 ∧ serveReady (stServe p.1 entry) b (stage :: s.slotPages 0 false) = true ∧
        serveReady (stServe p.1 entry) b (stage :: s.resumeRows 0 0) = true) := by decide +kernel

/-- A COPY of one byte from object 1 to object 2. -/
def copyB : Bytes := block 64 [(0, 1, 1), (4, 4, 1), (8, 4, 2), (28, 8, 1)]
/-- A WFILL of 256 bytes of object 14 to the window of object 13. -/
def wfillB : Bytes := block 64 [(0, 1, 0x10), (4, 4, 13), (8, 4, 14), (28, 8, 256)]
/-- The window and its source. -/
def stWin : State := has (has st 13 (obj kindWindow 0 256) []) 14 (obj 0 1 256) []
/-- DmaAndLaneCommandsComplete: COPY. -/
theorem test_witness_copy :
    let x := Copy.of copyB
    let on := State.copyOf 0x0C .text copyB
    let s := started st on
    (s.ctx 0).active = true ∧ s.started 0 on = true ∧ s.copyOk 0 copyB x = true ∧ s.channelOpen 0 = true ∧ s.resident (s.copySrc x ++ State.copyDst x) = true ∧
      s.poisonedAccess (s.copySrc x) = none ∧ ((s.endWait 0 on).copyEff 0 x).1 = .done := by decide +kernel
/-- DmaAndLaneCommandsComplete: WFILL of a whole window. -/
theorem test_witness_wfill :
    let x := Wfill.of wfillB
    let on := State.copyOf 0x0C .text wfillB
    let s := started stWin on
    s.started 0 on = true ∧ s.wfillOk 0 wfillB x = true ∧ s.channelOpen 0 = true ∧ s.wfillNow 0 .text wfillB x = [(0, 256)] ∧
      s.resident [⟨14, 0, 256, false⟩, ⟨13, 0, 0, false⟩, ⟨14, 0, 0, false⟩] = true ∧ s.poisonedAccess [⟨14, 0, 256, false⟩] = none ∧
      s.wfillFull 0 .text wfillB x = none ∧ ((s.endWait 0 on).wfillEff 0 .text wfillB x).1 = .done := by decide +kernel
/-- DmaAndLaneCommandsComplete: START of a retention checkpoint, with WAIT and without. -/
theorem test_witness_start : ∀ wait ∈ [0, 1],
    let b := block 64 [(0, 1, 1), (1, 1, wait), (16, 1, 5), (60, 4, 1)]
    let on := State.copyOf 0x0D .maint b
    let s := started st on
    s.startPends 0 .maint = false ∧ s.started 0 on = true ∧ mayIssue 0x0D .maint = true ∧ blockOk 0x0D b = true ∧ zeroBits b 1 7 2 = true ∧
      zeroBytes b 2 15 = true ∧ s.accOk 0 [0] ⟨fldObj b 60, 0, 16, true⟩ = true := by decide +kernel

/-- A device whose uplink is port 3, in a tree of 910. -/
def stTree : State := { st with regs := { st.regs with treeIndex := 5, treeUplink := 3, treeRole := 1, treeSize := 910, treeFormed := true } }
/-- LinkCommandsComplete: a SEND of the longest and of one byte to device 0, a RECV on the last stream. -/
theorem test_witness_link :
    mayIssue 0x0E .text = true ∧
    (∀ len ∈ [1, 2 ^ 26],
      let b := block 32 [(0, 1, 1), (2, 1, 1), (6, 2, 0xFFFE), (12, 4, 1), (24, 4, len)]
      let on := State.copyOf 0x0E .text b
      let s := started (has stTree 1 (obj 0 0 (2 ^ 26)) []) on
      blockOk 0x0E b = true ∧ zeroBits b 1 7 2 = true ∧ zeroBytes b 9 11 = true ∧ zeroBytes b 28 31 = true ∧ s.accOk 0 [0, 1] ⟨1, 0, len, false⟩ = true ∧
        fld b 4 2 ≠ s.regs.treeIndex.toNat ∧ engineReady s 0 on [⟨1, 0, len, false⟩] = true ∧ s.isLost 0 = false ∧ s.route 0 = some 3 ∧
        (s.isTop && decide (s.regs.treeSize.toNat ≤ fld b 4 2)) = false ∧ (s.link 3).waitq = []) ∧
    (let b := block 32 [(0, 1, 2), (6, 2, 0xFFFE), (12, 4, 1), (24, 4, 256), (28, 4, 2)]
     let on := State.copyOf 0x0E .text b
     let s := started st on
     blockOk 0x0E b = true ∧ zeroBytes b 1 5 = true ∧ zeroBytes b 8 11 = true ∧ s.accOk 0 [0, 1] ⟨1, 0, 256, true⟩ = true ∧ s.accOk 0 [0] ⟨2, 0, 8, true⟩ = true ∧
       engineReady s 0 on [⟨1, 0, 0, true⟩, ⟨2, 0, 8, true⟩] = true ∧ s.recvs.length < 1024 ∧ (s.ctx 0).inbound = [] ∧
       (let r : Recv := { ctx := 1, src := .text, stream := 0, object := 1, offset := 0, capacity := 256, robj := 2, since := 0, taken := 0, received := 0, overflow := false }
        let full : State := { s with recvs := List.replicate 1024 r }
        engineReady full 0 on [⟨1, 0, 0, true⟩, ⟨2, 0, 8, true⟩] = true ∧ 1024 ≤ full.recvs.length)) := by decide +kernel

/-! ### Descriptors -/

/-- TEST ECHO, with header fields. -/
def echo (fs : List (Nat × Nat × Nat)) : Desc := desc 0x17 ((16, 1, 1) :: fs)
/-- DescriptorsAdmitted: a stopped ring; one descriptor waits already; a reserved flag; a counter below its threshold; a good one; the last three by DESCRIPTOR_PLACED. -/
theorem test_witness_admitted :
    (carries (.testEcho (echo [])) = some (echo []) ∧ (stWith (fun x => { x with stopped := 1 })).fetchable (echo []) = false) ∧
    (let s := stWith (fun x => { x with waiting := [(0, [(echo [], false)])] }); s.fetchable (echo []) = true ∧ admits s (echo []) = false) ∧
    (let d := echo [(1, 1, 16)]
     carries (.testEcho d) = some d ∧ admits st d = true ∧ descCrcOk d.bytes = true ∧ (headerOk d && st.countersOk d) = false) ∧
    (let d := echo [(1, 1, 2), (8, 2, 15), (12, 4, 0x7FFFFFFF)]
     admits st d = true ∧ descCrcOk d.bytes = true ∧ (headerOk d && st.countersOk d) = true ∧ st.waitMet d = false) ∧
    expandsNow st (echo []) = true ∧ (st.ctx 0).waits 0 = [] ∧
    (let d := echo [(1, 1, 2), (8, 2, 15), (12, 4, 0x7FFFFFFF)]
     let s : State := { stWith (fun x => { x with waiting := [(0, [(d, false)])] }) with sync := [(15, 0x7FFFFFFF)] }
     (s.ctx 0).waits 0 = [(d, false)] ∧ d.ctx = 0 ∧ (s.ctx 0).expands = true ∧ (s.ctx 0).outstanding.any (fun e => isFence e.1) = false ∧ (s.ctx 0).cqRoom = true ∧
       descCrcOk d.bytes = true ∧ headerOk d = true ∧ s.countersOk d = true ∧ s.waitMet d = true ∧ s.descRoom d = true) := by decide +kernel
/-- DescriptorsAdmitted: the DMA's queue is full. -/
theorem test_witness_descRoom :
    let s := st.modQueue (queueIx 0x0C .steppeW) (fun u => { u with w := 2048 })
    let d := desc 0x0C []
    carries (.load d) = some d ∧ admits s d = true ∧ descCrcOk d.bytes = true ∧ (headerOk d && s.countersOk d) = true ∧ s.waitMet d = true ∧ s.descRoom d = false := by
  decide +kernel
/-- DescriptorsAdmitted: a CRC that fails, and what the second fetch finds: bytes that fail again, a good descriptor, one with a reserved flag. -/
theorem test_witness_refetch :
    let d : Desc := { ctx := 0, ring := 0, index := 1, bytes := block 64 [(0, 1, 0x17), (16, 1, 1)] }
    let at' := fun (b : Bytes) => st.put (.host 0) 0x20040 b
    let again := fun (s : State) => s.hostRd (s.ctx 0).port (((s.ctx 0).sq.getD 0 RingReg.init).base.toNat + 64 * d.index.toNat) 64
    let counted := fun (s : State) => (s.countFetch d).countLoc false { kind := 0xA, a := 0, b := 0, c := 0, row := 0 }
    carries (.testEcho d) = some d ∧ admits st d = true ∧ descCrcOk d.bytes = false ∧ descCrcOk (again st) = false ∧
    (let s := at' (echo []).bytes
     let d' : Desc := { d with bytes := again s }
     admits s d = true ∧ descCrcOk (again s) = true ∧ (headerOk d' && (counted s).countersOk d') = true ∧ (counted s).waitMet d' = true ∧ (counted s).descRoom d' = true) ∧
    (let s := at' (echo [(1, 1, 16)]).bytes
     let d' : Desc := { d with bytes := again s }
     admits s d = true ∧ descCrcOk (again s) = true ∧ (headerOk d' && (counted s).countersOk d') = false) := by decide +kernel

/-- DirectDescriptorsComplete: an opcode R378 does not list, FENCE, the SYNC operations at their bounds, TEST, STATS of every class of the context and of three of the device, ATTEST of an exact area. -/
theorem test_witness_direct :
    (let d := desc 0x18 []; carries (.unknownOpcode d) = some d ∧ admits st d = true ∧ descCrcOk d.bytes = true) ∧
    (let d := desc 0x14 []; carries (.fence d) = some d ∧ expandsNow st d = true) ∧
    (∀ v ∈ [1, 0x7FFFFFFF],
      let d := desc 0x0F [(18, 2, 15), (20, 4, v)]
      carries (.syncAdd d) = some d ∧ expandsNow st d = true ∧ (st.ctx 0).inWindow 15 = true ∧ isLock (st.counter 15) = false) ∧
    (let d := desc 0x0F [(16, 1, 1), (18, 2, 15), (20, 4, 0x7FFFFFFF)]
     let s : State := { stCounter 15 (lockWord 1 .text) with ctxs := [(0, ctx0), (1, { Ctx.init with state := .faulted })] }
     carries (.syncSet d) = some d ∧ expandsNow s d = true ∧ (s.ctx 0).inWindow 15 = true ∧ isLock (s.counter 15) = true ∧
       (s.ctx (lockCtx (s.counter 15))).state = .faulted) ∧
    (let d := desc 0x0F [(16, 1, 2), (18, 2, 15)]; carries (.syncRead d) = some d ∧ expandsNow st d = true) ∧
    (let d := desc 0x17 []; carries (.testSetpend d) = some d ∧ expandsNow st d = true) ∧
    (carries (.testEcho (echo [])) = some (echo [])) ∧
    (∀ p ∈ [(0x1FF, 0), (0x1C0, 1)],
      let d := desc 0x10 [(16, 8, p.1), (24, 8, 0x100000), (32, 4, 0x10000), (36, 1, p.2)]
      carries (.stats d) = some d ∧ expandsNow st d = true ∧ descField d 36 1 ≤ 1 ∧ statsMask d < 2 ^ 9 ∧ st.owner? = some (st.ctx 0).port ∧
        State.statsSize ((expanded st d).statsSections d) ≤ descField d 32 4) ∧
    (let d := desc 0x15 [(48, 8, 0x100000), (56, 4, 17344)]
     carries (.attest d) = some d ∧ expandsNow st d = true ∧ st.reportSize ≤ descField d 56 4) := by decide +kernel

/-- StepDescriptorsQueue: GENERATE of no slot and of 256; no image; a broken context; behind a STEP; and every other step descriptor. -/
theorem test_witness_stepDescriptors :
    (let d := desc 5 []; expandsNow st d = true ∧ (expanded st d).stepOperandsOk d = false) ∧
    (let d := desc 5 [(16, 4, 256)]
     carries (.generate d) = some d ∧ expandsNow st d = true ∧ (expanded st d).stepOperandsOk d = true ∧ (st.ctx 0).steps = [] ∧ (st.ctx 0).image.isSome = true ∧
       (st.ctx 0).broken = false ∧
       (let s := stWith (fun x => { x with image := none, state := .idle }); expandsNow s d = true ∧ (expanded s d).stepOperandsOk d = true ∧ (s.ctx 0).image = none) ∧
       (let s := stWith (fun x => { x with broken := true }); expandsNow s d = true ∧ (expanded s d).stepOperandsOk d = true ∧ (s.ctx 0).broken = true) ∧
       (let s := stWith (fun x => { x with steps := [desc 0x11 []] })
        expandsNow s d = true ∧ (expanded s d).stepOperandsOk d = true ∧ (s.ctx 0).steps.any (fun f => descOp f == 0x11) = true)) ∧
    (∀ op ∈ [1, 2, 3, 4, 9, 10, 11, 18, 19], expandsNow st (desc op []) = true) ∧ carries (.query (desc 1 [])) = some (desc 1 []) ∧
    carries (.embed (desc 2 [])) = some (desc 2 []) ∧ carries (.search (desc 3 [])) = some (desc 3 []) ∧ carries (.rerank (desc 4 [])) = some (desc 4 []) ∧
    carries (.insert (desc 9 [])) = some (desc 9 []) ∧ carries (.delete (desc 10 [])) = some (desc 10 []) ∧ carries (.trainStep (desc 11 [])) = some (desc 11 []) ∧
    carries (.tokenize (desc 18 [])) = some (desc 18 []) ∧ carries (.detokenize (desc 19 [])) = some (desc 19 []) := by decide +kernel

/-- A pipeline record in object 1: its kind, flags, template, re-rank workers and emax; a template with both frames in object 2, a tokenizer in object 13; one list entry in
host memory. -/
def stStep (kind flags tmpl workers emax : Nat) : State :=
  { (has (has stTok 1 (obj 1 0 0x40000) (block 128 [(0, 4, 0x4550494A), (4, 2, 1), (6, 1, kind), (7, 1, flags), (8, 4, 13), (12, 4, tmpl), (32, 2, 1), (34, 1, 1),
        (35, 1, workers), (36, 2, 1), (38, 2, 16), (40, 2, 1), (42, 2, emax), (44, 4, 1), (50, 2, 1), (20, 4, 4 * workers)]))
      2 (obj 1 0 0x40000) (block 48 [(0, 4, 0x4C504D54), (4, 2, 1), (6, 1, 2), (7, 1, 2), (16, 1, 1), (24, 1, 2), (32, 1, 1), (40, 1, 3)])).put (.host 0) 0x300000
      (block 32 [(8, 4, 1), (12, 4, 1)]) with regs := stTree.regs }
/-- The same with a table to re-rank by in object 4. -/
def stRerank : State := has (stStep 0 1 2 1 0) 4 (obj kindTable 1 0x40000) (block 128 [(0, 4, 0x47524A42), (4, 2, 1), (6, 1, 1)])
/-- A step descriptor of one list entry that names that record. -/
def stepDesc (op list : Nat) : Desc := desc op [(16, 8, 1), (24, 4, 1), (32, 8, list), (40, 4, 32)]
/-- StepDescriptorsQueue: operands in range for the three steps that name a pipeline record. -/
theorem test_witness_recordSteps :
    (∀ p ∈ [(stStep 0 0 2 0 0, stepDesc 1 0x300000), (stStep 1 0x20 0 0 16, stepDesc 2 0x300100), (stRerank, stepDesc 4 0x300000)],
      expandsNow p.1 p.2 = true ∧ (expanded p.1 p.2).stepAreasOk p.2 = true ∧ (expanded p.1 p.2).stepOperandsOk p.2 = true ∧ (p.1.ctx 0).image.isSome = true ∧
        (p.1.ctx 0).broken = false) := by decide +kernel
/-- A QUERY under HCRC whose list has one entry. -/
def hcrcQuery : Desc := desc 1 [(1, 1, 8), (16, 8, 1), (24, 4, 1), (32, 8, 0x300000), (40, 4, 32)]
/-- What the host's check of that list's parcel covers. -/
def listParcel : Bytes := block 32 [(8, 4, 1), (12, 4, 1)] ++ (List.replicate 32 0 ++ (List.replicate 64 0 ++ (List.replicate 64 0 ++ List.replicate 64 0)))
theorem test_parcelCheck : hcrcOf listParcel ≠ List.replicate 4 0 := by
  have e : hcrcOf listParcel = toLE 4 (crc32c listParcel) := by
    have l : listParcel.length = 256 := by decide +kernel
    have t : slice listParcel 0 256 = listParcel := by decide +kernel
    simp [hcrcOf, l, ceilDiv, t]
  have a : (block 32 [(8, 4, 1), (12, 4, 1)]).foldl crc32cByte 0xFFFFFFFF = 0xF862FC66 := by decide +kernel
  have b : (List.replicate 32 (0 : Byte)).foldl crc32cByte 0xF862FC66 = 0xC6133DCA := by decide +kernel
  have c : (List.replicate 64 (0 : Byte)).foldl crc32cByte 0xC6133DCA = 0xEC778900 := by decide +kernel
  have d : (List.replicate 64 (0 : Byte)).foldl crc32cByte 0xEC778900 = 0x8C5C81C1 := by decide +kernel
  have f : (List.replicate 64 (0 : Byte)).foldl crc32cByte 0x8C5C81C1 = 0x30FE1388 := by decide +kernel
  rw [e, crc32c, listParcel, List.foldl_append, List.foldl_append, List.foldl_append, List.foldl_append, a, b, c, d, f]
  decide +kernel
/-- StepDescriptorsQueue: under HCRC, a QUERY list whose host check fails. -/
theorem test_witness_areaFails :
    carries (.query hcrcQuery) = some hcrcQuery ∧ expandsNow (stStep 0 0 2 0 0) hcrcQuery = true ∧ (expanded (stStep 0 0 2 0 0) hcrcQuery).stepAreasOk hcrcQuery = false ∧
      ((stStep 0 0 2 0 0).ctx 0).broken = false := by
  refine ⟨by decide +kernel, by decide +kernel, ?_, by decide +kernel⟩
  have p : (expanded (stStep 0 0 2 0 0) hcrcQuery).hostRd ((expanded (stStep 0 0 2 0 0) hcrcQuery).ctx 0).port 0x300000 256 = listParcel := by decide +kernel
  have r : (expanded (stStep 0 0 2 0 0) hcrcQuery).hostRd ((expanded (stStep 0 0 2 0 0) hcrcQuery).ctx 0).port 0x300100 4 = List.replicate 4 0 := by decide +kernel
  have o : descOp hcrcQuery = 1 ∧ State.nIn hcrcQuery 1 64 = true ∧ descField hcrcQuery 16 8 = 1 ∧ descField hcrcQuery 32 8 = 0x300000 ∧ descFlag hcrcQuery 3 = true ∧
      hcrcQuery.ctx = 0 := by decide +kernel
  obtain ⟨o1, o2, o3, o4, o5, o6⟩ := o
  simp only [State.stepAreasOk, State.hcrcPart, o1, o2, o3, o4, o5, o6, Nat.mul_one, Nat.min_self]
  have u : roundUp 32 256 = 256 ∧ ceilDiv 32 256 = 1 := by decide +kernel
  simp only [u.1, u.2, Nat.mul_one, Nat.reduceAdd, p, r, Bool.not_true, Bool.false_or, decide_eq_false_iff_not]
  exact fun h => test_parcelCheck h.symm
/-- StepDescriptorsQueue: operands in range for a SEARCH of an area of 176 bytes over no shard, and for the steps that name none. -/
theorem test_witness_plainSteps :
    (let d := desc 3 [(16, 8, 1), (32, 8, 0x300000), (40, 4, 240)]
     let s := st.put (.host 0) 0x300000 (block 64 [(0, 2, 1), (2, 1, 1)])
     expandsNow s d = true ∧ (expanded s d).stepOperandsOk d = true) ∧
    (∀ op ∈ [9, 10, 11, 18, 19], (expanded st (desc op [])).stepOperandsOk (desc op []) = true) := by decide +kernel

/-- A good image of twelve HALTs whose one placement entry is the save area 20 of 512 MiB, without its digest. -/
def imgBody : Bytes :=
  block 0x20 [(0, 4, 0x53544A49), (4, 2, 3), (6, 2, 0x0980), (8, 1, 0xB1), (9, 1, 12), (12, 4, 0xD60), (0x1A, 2, 1)] ++
  ((List.range 12).map (fun k => block 16 [(1, 1, k + 1), (4, 4, 8), (8, 1, 1), (9, 1, k), (10, 2, 1)])).flatten ++
  block 0x20 [(0, 4, 0xD00), (4, 4, 32), (8, 1, 2), (9, 1, 0xFF), (10, 2, 1), (0x10, 4, 0x100), (0x18, 1, 3), (0x19, 1, 0xFF)] ++
  ((List.range 12).map (fun _ => block 8 [(7, 1, 0x0F)] ++ List.replicate 248 0)).flatten ++
  block 0x20 [(0, 4, 20), (4, 1, 6), (5, 1, 1), (0x10, 8, 0x20000000), (0x18, 8, 2 ^ 64 - 1)]
/-- Its digest, from another implementation of SHAKE256. -/
def imgDigest : Bytes :=
  toLE 64 0x5aead7800ed81f6f163e3508ad08d167dc94821e48a06145189f56f4e812135a138efcc84e3c089f30e1a9f09fd95dbc51b5c978698dd3911644e595c0e62f9e
/-- A STEP that binds image 9. -/
def bind9 : Desc := desc 0x11 [(16, 4, 9)]
/-- Context 0 idle, with image 9 in step memory and its save area named. -/
def stBind : State :=
  let s := stWith (fun x => { x with state := .idle, image := none, run := none, save := 20, seqs := [] })
  { (s.put (.image 9) 0 imgBody).put (.image 9) 0xD20 imgDigest with images := [(9, { length := 0xD60, poisoned := [], loaded := true })], objs := [] }
/-- BindsAndStarts: a STEP before the lock. -/
theorem test_witness_stepUnlocked :
    let s : State := { st with boot := { st.boot with locked := false } }
    let d := desc 0x11 [(16, 4, 9)]
    carries (.step d) = some d ∧ expandsNow s d = true ∧ s.boot.locked = false := by decide +kernel
/-- BindsAndStarts: a STEP that binds, but for its digest. -/
theorem test_witness_bind :
    let d := desc 0x11 [(16, 4, 9)]
    let e := expanded stBind d
    carries (.step d) = some d ∧ expandsNow stBind d = true ∧ stBind.boot.locked = true ∧ stBind.bindFree 0 = true ∧ (stBind.ctx 0).steps = [] ∧
      (stBind.images.get? 9).map Image.loaded = some true ∧ e.saveOk 0 9 = true ∧ e.imageOk 0 9 0xD60 = true := by decide +kernel
/-- A number taken to its value before it is used. -/
def nowNat {α : Type} (n : Nat) (k : Nat → α) : α := match n with | 0 => k 0 | m + 1 => k (m + 1)
theorem nowNat_eq {α : Type} (n : Nat) (k : Nat → α) : nowNat n k = k n := by cases n <;> rfl
/-- A list of numbers taken to its values before it is used. -/
def nowList {α : Type} : List Nat → (List Nat → α) → α
  | [], k => k []
  | x :: l, k => nowNat x (fun y => nowList l (fun m => k (y :: m)))
theorem nowList_eq {α : Type} (l : List Nat) (k : List Nat → α) : nowList l k = k l := by
  induction l generalizing k with
  | nil => rfl
  | cons x l ih => rw [nowList, nowNat_eq, ih]
/-- A run of bytes taken to its values before it is used. -/
def nowBytes {α : Type} : Bytes → (Bytes → α) → α
  | [], k => k []
  | x :: l, k => nowNat x.toNat (fun y => nowBytes l (fun m => k (BitVec.ofNat 8 y :: m)))
theorem nowBytes_eq {α : Type} (l : Bytes) (k : Bytes → α) : nowBytes l k = k l := by
  induction l generalizing k with
  | nil => rfl
  | cons x l ih => rw [nowBytes, nowNat_eq, ih, BitVec.ofNat_toNat, BitVec.setWidth_eq]
/-- The lanes moved, row by row. -/
def movedNow : List Nat → List Nat
  | [p0, p1, p2, p3, p4, q0, q1, q2, q3, q4, r0, r1, r2, r3, r4, s0, s1, s2, s3, s4, t0, t1, t2, t3, t4] =>
    [p0, q1, r2, s3, t4, p3, q4, r0, s1, t2, p1, q2, r3, s4, t0, p4, q0, r1, s2, t3, p2, q3, r4, s0, t1]
  | l => keccakMove l
theorem movedNow_eq (l : List Nat) : movedNow l = keccakMove l := by unfold movedNow; split <;> rfl
/-- A lane mixed with the two after it. -/
def mixNow (v w x : Nat) : Nat := v ^^^ (x &&& (w ^^^ 0xFFFFFFFFFFFFFFFF))
/-- The rows mixed, one by one. -/
def rowsNow : List Nat → List Nat
  | v :: w :: x :: y :: z :: l => mixNow v w x :: mixNow w x y :: mixNow x y z :: mixNow y z v :: mixNow z v w :: rowsNow l
  | _ => []
theorem rowsNow_eq (l : List Nat) : rowsNow (keccakMove l) = keccakChi (keccakMove l) := rfl
/-- A round of Keccak, each of its stages taken to its values, the turns given. -/
def roundNow {α : Type} (rot : List Nat) (rc : Nat) (k : List Nat → α) (a : List Nat) : α :=
  nowList (keccakMix a) fun d => nowList (List.zipWith rol64 (List.zipWith (· ^^^ ·) a (List.replicate 5 d).flatten) rot) fun u =>
  nowList (rowsNow (movedNow u)) fun e => nowList (e.modifyHead (· ^^^ rc)) k
theorem roundNow_eq {α : Type} (rc : Nat) (k : List Nat → α) (l : List Nat) : roundNow keccakRot rc k l = k (keccakRound l rc) := by
  simp only [roundNow, nowList_eq, movedNow_eq, rowsNow_eq]; rfl
/-- Rounds of Keccak, each taken to its values. -/
def rounds {α : Type} (rot : List Nat) : List Nat → List Nat → (List Nat → α) → α
  | [], a, k => k a
  | rc :: t, a, k => roundNow rot rc (fun b => rounds rot t b k) a
theorem rounds_eq {α : Type} (t a : List Nat) (k : List Nat → α) : rounds keccakRot t a k = k (t.foldl keccakRound a) := by
  induction t generalizing a with
  | nil => rfl
  | cons rc t ih => rw [rounds, roundNow_eq, ih, List.foldl_cons]
/-- Blocks absorbed, each taken to its values, the turns and the round constants given. -/
def absorbsBy {α : Type} (rot rcs : List Nat) : Nat → List Nat → Bytes → (List Nat → α) → α
  | 0, a, _, k => k a
  | n + 1, a, bs, k => nowBytes (bs.take 136) fun blk =>
    nowList ((List.range 25).map (fun i => a.getD i 0 ^^^ (if i < 17 then fld blk (8 * i) 8 else 0))) fun x =>
    rounds rot rcs x fun b => nowBytes (bs.drop 136) fun r => absorbsBy rot rcs n b r k
theorem absorbsBy_eq {α : Type} (n : Nat) (a : List Nat) (bs : Bytes) (k : List Nat → α) :
    absorbsBy keccakRot keccakRc n a bs k = k (absorb n a bs) := by
  induction n generalizing a bs with
  | zero => rfl
  | succ n ih => rw [absorbsBy, nowBytes_eq, nowList_eq, rounds_eq, nowBytes_eq, ih]; simp only [absorb, absorbBlock, keccakF]
/-- Blocks absorbed, each taken to its values. -/
def absorbs {α : Type} (n : Nat) (a : List Nat) (bs : Bytes) (k : List Nat → α) : α :=
  nowList keccakRot fun rot => nowList keccakRc fun rcs => absorbsBy rot rcs n a bs k
theorem absorbs_eq {α : Type} (n : Nat) (a : List Nat) (bs : Bytes) (k : List Nat → α) : absorbs n a bs k = k (absorb n a bs) := by
  rw [absorbs, nowList_eq, nowList_eq, absorbsBy_eq]
/-- The 25 lanes that a number of 1,600 bits holds. -/
def lanesOf (n : Nat) : List Nat := (List.range 25).map (fun i => n / 2 ^ (64 * i) % 2 ^ 64)
/-- The lanes after 5, 10, 15 and 20 blocks of the image that binds, from another implementation. -/
def lanes1 : List Nat := lanesOf 0xfad251ddc2dd827239e789794d8889e0a2ff3c08c8f0c34ab737805af2b0d158f0134e3ab96b11d93e98d32e08e6c76f5e66d8ff92e2e531e1cdc21565322fd4b14b82144d65e37c00a7425b9bdbb8a61410e39fd06f723a7d329e830bb0576f1e4473e7c170fd576432b4b802d855a1f29fae8a980db0665b2f8de2312e4a9c047249b8dfbb38964944b5f54ef18971ceb218096ff1925c1864a6ae2778b2b135f9ad0c5356874c0d6f9d536e791f0b3118e91b86dce91efd400c66517e8fa6d4f52bd782853d59
def lanes2 : List Nat := lanesOf 0x1a506850f8847141b3f27d0c55298023a7201a012e0d74ed5344daee698c77e11cec2ff0b7eac2313664f30ac91791eed0e2fdaf623722eba9a036f9b98c32505e16944819a0deff40526a7877a8e6b3ef8cfb368efcd487c2892bfde731386447b68ed5108ada98282f36272a7af0e81b400e1cd400d8af03a1f135a3c0f2a63ec64ff63cd5a75437e8c3401a2e404a92ff3dab26cb5ff62e9143fe132861518a42a1060cc2a2779befa53234646a6ac6ff733ee5c80305a3e5799d6aff2164fbd63fca13de1c6a
def lanes3 : List Nat := lanesOf 0xb17355f57803b67c63687bb41f9958230cf9d4ead49c65e6e49902823579ac4dca0856b8c2ebc31c5eee3778d023fa0e1653c3ed8ebd00ce1b91c8019d0316710e24b1e8f1166b05e04e2f1ef1dffbe0d0ed36df4dde5031401d05c96f73eec3bdc3493628dff9c3b30e470b7736825a788342096cf19049a2d7a90695bad5ac23f43be7a0e92e61ba9890cbfb0c84598581419b006ac455564ec6146903c265a0c85752d82017a477e052373db46e0f971373ed6d93dafee0273d3c9d962a20c840e0c60ea9c232
def lanes4 : List Nat := lanesOf 0x96348bdc6a165da2b15d34cd1fd48682430a4f898d9dd4e84964f32bf9a01e0b4df04c9360de97e40240b2d59d208eb728b9f648af6cd54a3ca011857f5268085a5f140d9e17df5b77e0be8429194540c434a3be99331cc42f24c18f5008569f4914cd66d0b8088f9bd16bd7dcdbeb1604c769d7a8f36be62b4bc845fd2724527443091f76aca05dd69cc1fd3e9c7cf6eb861a4bc8c4f7783d26b2acfec47c5f32ed6fd6ac09a339c8203e3b4e14cf204591eec38dddc687758b79f9df43633af5abe5977cc2ebad
theorem absorb_add (m n : Nat) (a : List Nat) (bs : Bytes) : absorb (m + n) a bs = absorb n (absorb m a bs) (bs.drop (136 * m)) := by
  induction m generalizing a bs with
  | zero => simp [absorb]
  | succ m ih => rw [Nat.succ_add, absorb, ih, absorb, List.drop_drop, Nat.mul_succ, Nat.add_comm (136 * m)]
/-- The image that binds, padded to 25 blocks. -/
def imgMsg : Bytes := imgBody ++ (0x1F :: (List.replicate 38 0 ++ [0x80]))
theorem test_absorb1 : absorb 5 (List.replicate 25 0) imgMsg = lanes1 := by
  have h : absorbs 5 (List.replicate 25 0) imgMsg (fun a => decide (a = lanes1)) = true := by decide +kernel
  rwa [absorbs_eq, decide_eq_true_eq] at h
theorem test_absorb2 : absorb 5 lanes1 (imgMsg.drop 680) = lanes2 := by
  have h : absorbs 5 lanes1 (imgMsg.drop 680) (fun a => decide (a = lanes2)) = true := by decide +kernel
  rwa [absorbs_eq, decide_eq_true_eq] at h
theorem test_absorb3 : absorb 5 lanes2 (imgMsg.drop 1360) = lanes3 := by
  have h : absorbs 5 lanes2 (imgMsg.drop 1360) (fun a => decide (a = lanes3)) = true := by decide +kernel
  rwa [absorbs_eq, decide_eq_true_eq] at h
theorem test_absorb4 : absorb 5 lanes3 (imgMsg.drop 2040) = lanes4 := by
  have h : absorbs 5 lanes3 (imgMsg.drop 2040) (fun a => decide (a = lanes4)) = true := by decide +kernel
  rwa [absorbs_eq, decide_eq_true_eq] at h
theorem test_absorb5 : ((absorb 5 lanes4 (imgMsg.drop 2720)).take 17 |>.flatMap (toLE 8)).take 64 = imgDigest := by
  have h : absorbs 5 lanes4 (imgMsg.drop 2720) (fun a => decide (((a.take 17).flatMap (toLE 8)).take 64 = imgDigest)) = true := by decide +kernel
  rwa [absorbs_eq, decide_eq_true_eq] at h
theorem imgMsg_absorb : absorb 25 (List.replicate 25 0) imgMsg = absorb 5 lanes4 (imgMsg.drop 2720) := by
  rw [absorb_add 5 20, test_absorb1, absorb_add 5 15, test_absorb2, List.drop_drop, absorb_add 5 10, test_absorb3, List.drop_drop, absorb_add 5 5,
    test_absorb4, List.drop_drop]
/-- BindsAndStarts: the digest of the image that binds. -/
theorem test_witness_bindDigest : (expanded stBind (desc 0x11 [(16, 4, 9)])).digestOk 9 { length := 0xD60, poisoned := [], loaded := true } = true := by
  have hl : imgBody.length = 0xD20 := by decide +kernel
  have hm : (expanded stBind (desc 0x11 [(16, 4, 9)])).mem =
      (st.mem.write ((Space.image 9).key 0) imgBody).write ((Space.image 9).key 0xD20) imgDigest := rfl
  have hd : (expanded stBind (desc 0x11 [(16, 4, 9)])).get (.image 9) 0xD20 64 = imgDigest := by
    have h := Memory.read_write (st.mem.write ((Space.image 9).key 0) imgBody) ((Space.image 9).key 0xD20) imgDigest
    have e : imgDigest.length = 64 := by decide +kernel
    rw [e] at h
    rw [State.get, hm, h]
  have hb : (expanded stBind (desc 0x11 [(16, 4, 9)])).get (.image 9) 0 0xD20 = imgBody := by
    have h := Memory.read_write st.mem ((Space.image 9).key 0) imgBody
    rw [hl] at h
    rw [State.get, hm, Memory.read_write_of_not _ _ _ _ _ (.inl (by decide +kernel)), h]
  have h := test_absorb5
  rw [← imgMsg_absorb, imgMsg] at h
  have hs : shake256 imgBody 64 = imgDigest := by
    simp only [shake256, hl, List.length_append, squeeze, ceilDiv]
    simpa [squeeze] using h
  have e : (0xD60 - 64 : Nat) = 0xD20 := rfl
  simp only [State.digestOk, List.isEmpty_nil, Bool.true_and, decide_eq_true_eq, e]
  rw [hd, hb, hs]

/-- The digest of no bytes, from another implementation of SHAKE256. -/
def noDigest : Bytes :=
  toLE 64 0xbec4b7b3ac2e294086b49a47491c82fcf692b5679d0105cb00f2c0d8ddc45dd72f76d56e64270cb5821bb862ea52cd3f24eb3e74eb3f3b23138da80b2bddb946
/-- BindsAndStarts: the same image with a poisoned parcel, and one of which a digest of no bytes is all that is left of its first 64 bytes. -/
def stPoisoned : State := { stBind with images := [(9, { length := 0xD60, poisoned := [0], loaded := true })] }
def stShort : State := { (stBind.put (.image 9) 0 noDigest) with images := [(9, { length := 64, poisoned := [], loaded := true })] }
theorem test_witness_bindFails :
    expandsNow stPoisoned bind9 = true ∧ (expanded stPoisoned bind9).saveOk 0 9 = true ∧
      (expanded stPoisoned bind9).digestOk 9 { length := 0xD60, poisoned := [0], loaded := true } = false ∧
    expandsNow stShort bind9 = true ∧ (expanded stShort bind9).saveOk 0 9 = true ∧ (expanded stShort bind9).imageOk 0 9 64 = false := by decide +kernel
theorem test_witness_shortDigest : (expanded stShort bind9).digestOk 9 { length := 64, poisoned := [], loaded := true } = true := by
  have hd : (expanded stShort bind9).get (.image 9) 0 64 = noDigest := by
    have h := Memory.read_write stBind.mem ((Space.image 9).key 0) noDigest
    have e : noDigest.length = 64 := by decide +kernel
    rw [e] at h
    exact h
  have h : absorbs 1 (List.replicate 25 0) (0x1F :: (List.replicate 134 0 ++ [0x80]))
      (fun a => decide (((a.take 17).flatMap (toLE 8)).take 64 = noDigest)) = true := by decide +kernel
  rw [absorbs_eq, decide_eq_true_eq] at h
  have hs : shake256 [] 64 = noDigest := by
    simp only [shake256, List.length_nil, List.length_append, squeeze, ceilDiv]
    simpa [squeeze] using h
  simp only [State.digestOk, List.isEmpty_nil, Bool.true_and, decide_eq_true_eq, Nat.sub_self]
  rw [hd]
  exact hs.symm

/-- BindsAndStarts: an UNBIND of a context without requests, a STEP that waited, the next step of a context whose programs have halted. -/
theorem test_witness_starts :
    (let d := desc 0x11 [(20, 1, 1)]
     let s := stWith (fun x => { x with run := none })
     carries (.stepUnbind d) = some d ∧ expandsNow s d = true ∧ s.boot.locked = true ∧ descField d 16 4 = 0 ∧ s.bindFree 0 = true ∧ (s.ctx 0).steps = [] ∧
       (s.ctx 0).image = some 7 ∧ (expanded s d).liveSlots 0 = []) ∧
    (let s := stWith (fun x => { x with run := none, steps := [desc 0x11 []] })
     (s.ctx 0).steps = [desc 0x11 []] ∧ descOp (desc 0x11 []) = 0x11 ∧ s.bindFree 0 = true) ∧
    (let s := stWith (fun x => { x with run := none, steps := [desc 5 []], seqs := [] })
     (s.ctx 0).steps = [desc 5 []] ∧ descOp (desc 5 []) ≠ 0x11 ∧ (s.ctx 0).run = none ∧ (s.ctx 0).image.isSome = true ∧ (s.ctx 0).broken = false ∧
       (s.ctx 0).active = true ∧ (s.ctx 0).allHalted = true) := by decide +kernel

/-- Context 0 between two steps. -/
def stBetween : State := stWith (fun x => { x with run := none })
/-- That state with image 9 in step memory, LOADING. -/
def stLoading : State := { stBetween with images := [(9, { length := 64, poisoned := [], loaded := false })] }
/-- BindsAndStarts: a STEP of an image that is not there, that is not loaded. -/
theorem test_witness_bindRefusals :
    carries (.step bind9) = some bind9 ∧ expandsNow stBetween bind9 = true ∧ stBetween.boot.locked = true ∧ stBetween.bindFree 0 = true ∧ (stBetween.ctx 0).steps = [] ∧
      (stBetween.images.get? 9).isNone = true ∧ expandsNow stLoading bind9 = true ∧
      (stLoading.images.get? 9).map (fun m => m.loaded && (expanded stLoading bind9).saveOk 0 9) = some false := by decide +kernel
/-- BindsAndStarts: an UNBIND with an operand, of no image, with a live request. -/
theorem test_witness_unbindRefusals :
    (let d := desc 0x11 [(16, 4, 9), (20, 1, 1)]
     carries (.stepUnbind d) = some d ∧ expandsNow st d = true ∧ descField d 16 4 ≠ 0) ∧
    (let d := desc 0x11 [(20, 1, 1)]
     let s := stWith (fun x => { x with run := none, image := none })
     expandsNow s d = true ∧ s.bindFree 0 = true ∧ (s.ctx 0).steps = [] ∧ (s.ctx 0).image = none ∧
       (let u := stBetween.put .slots 0 [2]; expandsNow u d = true ∧ u.bindFree 0 = true ∧ (expanded u d).liveSlots 0 ≠ [])) := by decide +kernel
/-- BindsAndStarts: a STEP and an UNBIND while a step runs. -/
theorem test_witness_bindWaits :
    ∀ d ∈ [bind9, desc 0x11 [(20, 1, 1)]],
      expandsNow st d = true ∧ st.boot.locked = true ∧ (bitAt d.bytes 20 0 = true → descField d 16 4 = 0) ∧ st.bindFree 0 = false := by decide +kernel
/-- BindsAndStarts: a step without an image, of a broken context, of one that drains. -/
theorem test_witness_startRefusals :
    ((stWith (fun x => { x with draining := true })).ctx 0).draining = true ∧
    (let s := stWith (fun x => { x with run := none, steps := [desc 5 []], image := none })
     (s.ctx 0).steps = [desc 5 []] ∧ (s.ctx 0).run = none ∧ (s.ctx 0).image = none) ∧
    (let s := stWith (fun x => { x with run := none, steps := [desc 5 []], broken := true })
     (s.ctx 0).steps = [desc 5 []] ∧ (s.ctx 0).run = none ∧ (s.ctx 0).image.isSome = true ∧ (s.ctx 0).broken = true) := by decide +kernel

/-- Slot 7 in a state, its request's tag 9. -/
def stSlot (slotState : Nat) : State := st.put .slots (512 * 7) (block 16 [(0, 1, slotState), (8, 4, 9)])
/-- ServingControlsComplete: on a running request, an ended one and a FREE slot, the last of the context's range. -/
theorem test_witness_servingControls :
    (∀ k ∈ [2, 5], ∀ op ∈ [6, 8],
      let s := stSlot k
      let d := desc op [(16, 2, 7), (20, 4, 9)]
      expandsNow s d = true ∧ s.ownsSlot 0 7 = true ∧ State.descSlot d = 7 ∧ s.slotNat 7 8 4 = descField d 20 4 ∧ s.slotState 7 = (if k = 2 then .running else .ended)) ∧
    (let d := desc 7 [(16, 2, 7)]; carries (.resume d) = some d ∧ expandsNow st d = true ∧ st.ownsSlot 0 7 = true ∧ st.slotState 7 = .free) ∧
    (∀ op ∈ [6, 7, 8], let d := desc op [(16, 2, 8)]; expandsNow st d = true ∧ State.descSlot d = 8 ∧ st.ownsSlot 0 8 = false) ∧
    (∀ k ∈ [0, 2], ∀ op ∈ [6, 8],
      let d := desc op [(16, 2, 7), (20, 4, if k = 2 then 8 else 9)]
      expandsNow (stSlot k) d = true ∧ (stSlot k).ownsSlot 0 7 = true ∧ ((stSlot k).slotState 7 = .free ∨ (stSlot k).slotNat 7 8 4 ≠ descField d 20 4)) ∧
    carries (.pause (desc 6 [(16, 2, 7), (20, 4, 9)])) = some (desc 6 [(16, 2, 7), (20, 4, 9)]) ∧
    carries (.cancel (desc 8 [(16, 2, 7), (20, 4, 9)])) = some (desc 8 [(16, 2, 7), (20, 4, 9)]) := by decide +kernel

/-- A transfer of object 1. -/
def loadRun (isImage : Bool) (moveTo : Option (U64 × U32)) : LoadRun :=
  { d := desc 0x0C [(16, 4, 1)], isImage := isImage, object := 1, offset := 0, length := 256, whole := true, moveTo := moveTo, moved := false }
/-- TransferCommandsComplete: LOAD and EVICT that begin, that wait in a line, that find an object ABSENT or in host memory, an image, and the commands that end them. -/
theorem test_witness_transfers :
    (let d := desc 0x0C [(16, 4, 1)]
     carries (.load d) = some d ∧ expandsNow st d = true ∧ st.lineBusy false 1 = false ∧ st.objLine.any (State.lineOf false 1) = false ∧
       ({ st with loads := [loadRun false none] } : State).lineBusy false 1 = true ∧ ({ st with objLine := [d] } : State).objLine.any (State.lineOf false 1) = true) ∧
    (let d := desc 0x0C [(16, 4, 8), (20, 1, 2)]
     carries (.loadImage d) = some d ∧ expandsNow st d = true ∧ st.lineBusy true 8 = false) ∧
    (let d := desc 0x0D [(16, 4, 1)]
     carries (.evict d) = some d ∧ expandsNow st d = true ∧ (st.obj? 1).map (fun o => (o.stalled, o.state, o.tier)) = some ([], .resident, 0) ∧
       ((has st 1 { obj 0 0 0x40000 with state := .absent } []).obj? 1).map Obj.state = some .absent ∧ ((has st 1 (obj 0 3 0x40000) []).obj? 1).map Obj.tier = some 3) ∧
    (let d := desc 0x0D [(16, 4, 8), (20, 1, 2)]
     let s : State := { st with images := st.images ++ [(8, { length := 64, poisoned := [], loaded := true })] }
     carries (.evictImage d) = some d ∧ expandsNow s d = true ∧ s.lineBusy true 8 = false ∧ (s.images.get? 8).isSome = true ∧ s.imageBound 8 = false) ∧
    (∀ b ∈ [true, false],
      let s : State := { st with loads := [loadRun b none] }
      s.loadOf? b 1 = some (loadRun b none) ∧ s.channelOpen (loadRun b none).d.ctx = true ∧ (s.port (s.ctx (loadRun b none).d.ctx).port).lost = false ∧
        (loadRun b none).moveTo = none) ∧
    (let s : State := { st with loads := [loadRun false none], ports := [(0, { Port.init with lost := true })] }
     s.loadOf? false 1 = some (loadRun false none) ∧ (s.port (s.ctx (loadRun false none).d.ctx).port).lost = true) ∧
    (let r := loadRun false (some (0x1000, 0))
     let s : State := { st with loads := [r] }
     s.loadOf? false 1 = some r ∧ r.moved = false ∧ s.channelOpen r.d.ctx = true ∧ (s.obj? 1).isSome = true) ∧
    (let d := desc 0x0D [(16, 4, 1)]
     ({ st with evicts := [d] } : State).evicts.find? (fun d => decide ((LoadOps.of d).id = 1)) = some d) := by decide +kernel

/-- A device whose one object is object 1, in a residence. -/
def stOne (r : Residence) : State := { st with objs := [(1, { obj 0 0 0x40000 with state := r })] }
/-- TransferCommandsComplete: a LOAD of no object, and one whose place another object has. -/
theorem test_witness_loadRefusals :
    (let d := desc 0x0C [(16, 4, 99)]; carries (.load d) = some d ∧ expandsNow st d = true ∧ st.lineBusy false 99 = false ∧ st.obj? 99 = none) ∧
    (let d := desc 0x0C [(16, 4, 1)]
     expandsNow st d = true ∧ (expanded st d).loadRefusal d (LoadOps.of d) (obj 0 0 0x40000) 0 0 = some .protocol) := by decide +kernel
/-- TransferCommandsComplete: a LOAD of an ABSENT object, of a range, and one that moves its object. -/
theorem test_witness_loadBegins :
    ∀ p ∈ [(Residence.absent, 0, 0), (.resident, 1, 0), (.resident, 0, 0x80000)],
      let o := { obj 0 0 0x40000 with state := p.1 }
      let d := desc 0x0C [(16, 4, 1), (20, 1, p.2.1), (40, 8, 256 * p.2.1), (48, 8, p.2.2)]
      let x := LoadOps.of d
      carries (.load d) = some d ∧ expandsNow (stOne p.1) d = true ∧ (stOne p.1).obj? 1 = some o ∧ x.base = BitVec.ofNat 64 p.2.2 ∧ x.base ≠ openBase ∧
        x.range = (p.2.1 == 1) ∧ x.mask = 0 ∧ (expanded (stOne p.1) d).loadRefusal d x o x.base o.entryMask = none := by decide +kernel
/-- TransferCommandsComplete: a LOAD of an image with everything in range, an EVICT of an object with a stalled reader, of none, an EVICT of no image. -/
theorem test_witness_evicts :
    (let d := desc 0x0C [(16, 4, 8), (20, 1, 2), (40, 8, 512), (48, 8, 2 ^ 64 - 1)]
     let x := LoadOps.of d
     let s : State := { st with stepUnits := 2 }
     carries (.loadImage d) = some d ∧ expandsNow s d = true ∧ x.base = openBase ∧ x.mask = 0 ∧ x.range = false ∧ x.off = 0 ∧ x.len = 512 ∧ s.imageBound x.id = false ∧
     x.len + ((s.images.filter (fun e => e.1 != x.id.toNat)).map (fun e => e.2.length)).sum ≤ s.stepRoom) ∧
    (let o := { obj 0 0 0x40000 with stalled := [(.command 0 9 .glenRefine, 0)] }
     let d := desc 0x0D [(16, 4, 1)]
     let s := has st 1 o []
     expandsNow s d = true ∧ s.obj? 1 = some o ∧ o.stalled ≠ []) ∧
    (let d := desc 0x0D [(16, 4, 99)]; carries (.evict d) = some d ∧ expandsNow st d = true ∧ st.obj? 99 = none) ∧
    (let d := desc 0x0D [(16, 4, 8), (20, 1, 2)]; carries (.evictImage d) = some d ∧ expandsNow st d = true ∧ (st.images.get? 8).isNone = true) := by decide +kernel
/-- TransferCommandsComplete: an object that a running command uses, and one that nothing does. -/
theorem test_witness_inUse :
    let s := started st (State.copyOf 6 .glenRefine (topk 1 1))
    (s.inUse 1 false = true ∧ s.inUse 1 true = true) ∧ (s.inUse 9 false = false ∧ s.inUse 9 true = false) := by decide +kernel

/-- An activity of the lane that has begun. -/
def act (code : Byte) (target : U32) : Activity :=
  { code := code, target := target, desc := none, start := some (0, .maint, 1, false), begun := true, outcome := .ok, result := 0, args := List.replicate 44 0 }
/-- LaneCommandsComplete: CHECKPOINT, the four MAINT kinds with operands in range and out of it, an install that proceeds, and every activity that ends. -/
theorem test_witness_lane :
    (let d := desc 0x16 []; carries (.checkpoint d) = some d ∧ expandsNow st d = true) ∧
    (let d := desc 0x0E [(16, 1, 1), (17, 1, 63)]; carries (.mergeBuild d) = some d ∧ expandsNow st d = true ∧ State.actArgsOk (slice d.bytes 16 44) = true) ∧
    (let d := desc 0x0E [(16, 1, 1), (17, 1, 64)]; carries (.mergeBuild d) = some d ∧ expandsNow st d = true ∧ State.actArgsOk (slice d.bytes 16 44) = false) ∧
    (let d := desc 0x0E [(16, 1, 2)]; carries (.mergeInstall d) = some d ∧ expandsNow st d = true ∧ State.actArgsOk (slice d.bytes 16 44) = true) ∧
    (let d := desc 0x0E [(16, 1, 3)]; carries (.mergeAbort d) = some d ∧ expandsNow st d = true ∧ State.actArgsOk (slice d.bytes 16 44) = true) ∧
    (let d := desc 0x0E [(16, 1, 4)]; carries (.hotRowRefresh d) = some d ∧ expandsNow st d = true ∧ State.actArgsOk (slice d.bytes 16 44) = true) ∧
    (let s : State := { stShard with acts := [act 2 0], installing := [0] }
     let reads := s.installAcc (s.shard 15) (s.shard (BitVec.ofNat 32 ((act 2 0).arg 24 4))) (s.snapshots.getD (act 2 0).shard 0)
     let bad := has s 15 { obj kindShard 1 0x40000 with poisoned := [0] } []
     s.actOn? 2 0 = some (act 2 0) ∧ s.shards.get? 0 = some 15 ∧ s.installing.contains 0 = true ∧ s.poisonedAccess reads = none ∧ s.installWaits 0 = false ∧
       (let e : QEntry := { ctx := 0, src := .glenWalk, b := [], words := 2, ready := true, consumed := true }
        let w : State := { s with installOpen := [(0, 8, e)], queues := [(8, { Queue.init with running := some e })] }
        w.installWaits 0 = true) ∧
       (bad.poisonedAccess reads).isSome = true) ∧
    (∀ n ∈ [1, 2, 3, 4],
      let k : Byte := BitVec.ofNat 8 n
      let u := ({ stShard with acts := [act k 0] } : State).laneNext
      u.actOn? k 0 = some (act k 0) ∧ u.installing.any (fun n => n.toNat == (act k 0).shard) = false) := by decide +kernel

/-! ### Sharing the engines, integrity, the card -/

/-- ArbiterGrantsHighest: the first and the last channel, with an urgent request and without, withdrawn after its grant and not. -/
theorem test_witness_arbiter :
    ∀ a ∈ [0, 95], ∀ u ∈ [true, false], ∀ v ∈ [true, false],
      let reqs : List ArbReq := [{ who := 1, base := 0, urgent := u, work := none, leaves := v }, { who := 2, base := 15, urgent := false, work := none, leaves := false }]
      a < 96 ∧ reqs ≠ [] ∧ (reqs.map ArbReq.who).Nodup := by decide +kernel
/-- A frame of context 0 that waits at a port. -/
def frame0 : Frame :=
  { seq := 0, vc := 1, data := true, last := true, dest := 0, ctx := 0, stream := 0, payload := List.replicate 256 0, src := none, own := some 0 }
/-- ArbiterGrantsHighest: at the first and the last port, nothing waits; a parcel waits with a credit; a control frame waits beside it. -/
theorem test_witness_egress :
    ∀ n ∈ [(0 : SelynPort), 9],
      let at' := fun (fs : List Frame) => st.modLink n (fun l => { l with state := .up8, waitq := fs, credits := [(0, 8), (1, 32)] })
      let ctl : Frame := { frame0 with vc := 0, data := false, own := none }
      (st.link n).ready = [] ∧ ((at' [frame0]).link n).ready = [frame0] ∧ ((at' [frame0, ctl]).link n).ready = [frame0, ctl] := by decide +kernel

/-- A command of context 0. -/
def qe (q : SeqId) : QEntry := { ctx := 0, src := q, b := topk 1 1, words := 2, ready := true, consumed := false }
/-- GrantStartsCandidate: an idle queue without and with a candidate, and the Steppe's two queues. -/
theorem test_witness_grant :
    (st.candidates 17 = [] ∧ (st.queue 17).running = none) ∧
    (let s : State := { st with queues := [(17, { Queue.init with w := 2, entries := [qe .text] })] }
     (s.queue 17).running = none ∧ s.candidates 17 ≠ [] ∧ 17 + 95 ≤ 112 ∧ (s.noteHeld 17).candidates 17 ≠ []) ∧
    ((st.noteHeld 17).candidates 17 = [] ∧ ((((st.noteHeld 0).noteHeld 1).lonely 0 1).lonely 1 0).steppeCandidates = []) ∧
    (let s : State := { st with queues := [(2, { Queue.init with running := some (qe .gorgeW) })] }; (s.queue 2).running = some (qe .gorgeW) ∧ 97 = 95 + 2) ∧
    (let s : State := { st with saving := some 0 }; s.saving ≠ none) ∧
    ((st.queue 0).running = none ∧ (st.queue 1).running = none ∧ st.saving = none ∧ st.steppeCandidates = []) ∧
    (let s : State := { st with queues := [(0, { Queue.init with w := 2, entries := [qe .steppeW] }), (1, { Queue.init with w := 2, entries := [qe .steppeE] })] }
     (s.queue 0).running = none ∧ (s.queue 1).running = none ∧ s.saving = none ∧ ((((s.noteHeld 0).noteHeld 1).lonely 0 1).lonely 1 0).steppeCandidates ≠ []) := by decide +kernel
/-- PreemptionSetsAside: a candidate of higher base, and none. -/
theorem test_witness_preemption :
    (let s : State := { st with queues := [(0, { Queue.init with running := some (qe .steppeW) })] }
     (s.queue 0).running = some (qe .steppeW) ∧ ¬ (s.ctx 0).base < s.rivalBase 0) ∧
    (let s : State := { st with
       ctxs := [(0, ctx0), (1, { ctx0 with prio := 7 })]
       queues := [(0, { Queue.init with running := some (qe .steppeW), w := 2, entries := [{ qe .steppeW with ctx := 1 }] }),
                  (1, { Queue.init with w := 2, entries := [{ qe .steppeE with ctx := 1 }] })] }
     (s.queue 0).running = some (qe .steppeW) ∧ s.regs.preempt ≠ 0xFFFFFFFF ∧ preemptible (queueEngine 0) = true ∧ (s.ctx 0).base < s.rivalBase 0) := by decide +kernel

/-- PreemptionSetsAside: a TOPK, for a candidate of higher base; its context's save area is there, and is not. -/
theorem test_witness_preemption_saved :
    ∀ r ∈ [Residence.resident, .absent],
      let s : State := { has (st) 15 { obj 6 1 0x20000000 with state := r } [] with
        ctxs := [(0, { ctx0 with save := 15 }), (1, { ctx0 with prio := 7 })]
        queues := [(9, { Queue.init with running := some (qe .glenRefine), w := 2, entries := [{ qe .text with ctx := 1 }] })] }
      (s.queue 9).running = some (qe .glenRefine) ∧ s.regs.preempt ≠ 0xFFFFFFFF ∧ preemptible (queueEngine 9) = true ∧ (s.ctx 0).base < s.rivalBase 9 ∧
        s.saveHere 0 = decide (r = .resident) := by decide +kernel

/-- Context 0 with its save area, object 15. -/
def stSave (f : Ctx → Ctx) : State := has (stWith (fun x => f { x with save := 15 })) 15 (obj 6 1 0x20000000) []
/-- SuspensionCommandsComplete: every clause. -/
theorem test_witness_suspension :
    (let s : State := { stSave id with saving := some 0 }; s.saving = some 0 ∧ s.saveHere 0 = true) ∧
    (let s := stSave (fun x => { x with suspending := true }); (s.ctx 0).suspending = true ∧ (s.ctx 0).state = .ready ∧ s.saveHere 0 = true) ∧
    (∀ p ∈ [[], [0]],
      let s := has (stSave (fun x => { x with state := .suspended, resuming := true })) 15 { obj 6 1 0x20000000 with poisoned := p } []
      (s.ctx 0).resuming = true ∧ (s.ctx 0).state = .suspended ∧ s.saveHere 0 = true ∧
        (s.poisonedAccess [⟨(s.ctx 0).save, 0, State.saveUsed, false⟩]).isSome = decide (p = [0])) ∧
    ((stWith (fun x => { x with episode := some { start := 0, budget := 200, counter := 3 } })).ctx 0).episode.isSome = true ∧
    (st.ctxMay 0 0 = true ∧ (st.ctx 0).suspendReq = false ∧ (st.ctx 0).state = .ready ∧ (st.ctx 0).episode = none) ∧
    (let s := stWith (fun x => { x with state := .suspended, suspendReq := true })
     s.ctxMay 0 0 = true ∧ (s.ctx 0).state = .suspended ∧ (s.ctx 0).draining = false ∧ (s.port (s.ctx 0).port).lost = false) := by decide +kernel

/-- An error episode of a read of object 1. -/
def ep (passed : Bool) : Episode :=
  { what := .uncorrectableRead, ctx := 0, use := .other, isImage := false, object := 1, offset := 0, length := 256, loc := { kind := 1, a := 0, b := 0, c := 0, row := 0 },
    passed := passed, loc2 := none, direct := none }
/-- A checkpoint that runs. -/
def ckpt : Ckpt :=
  { seq := 1, deviceId := [], tagOk := true, time := 0, fwid := 0, blocks := [], rt := [], detected := [], correctable := [], manifests := [], dropped := false, shards := [],
    bundle := [], wear := [], remaining := 0, days := 0 }
/-- IntegrityAndCardCommandsComplete: a count in an empty class; the episodes, scrub of each tier, the checkpoint timer and its end, certificates of a good bundle and of none, a card to wipe. -/
theorem test_witness_integrity :
    (∀ b ∈ [true, false], (st.counters b).length < Config.counterRoom) ∧
    (has st 1 { obj 0 0 0x40000 with poisoned := [0] } []).alreadyPoisoned (ep true) = true ∧
    (∀ b ∈ [true, false], st.alreadyPoisoned (ep b) = false ∧ (ep b).passed = b ∧ (ep b).loc2 = none) ∧
    ({ ep true with what := .corrected } : Episode).what = .corrected ∧
    (∀ b ∈ [true, false], let e := { ep b with loc2 := some { kind := 1, a := 1, b := 0, c := 0, row := 0 } }; e.what ≠ .corrected ∧ st.alreadyPoisoned e = false ∧ e.loc2.isSome = true) ∧
    (let s := has stShard 15 (obj kindShard 1 0x40000) (block 256 [(10, 2, 32), (16, 8, 1), (32, 4, 13), (140, 1, 1), (152, 8, 12)])
     s.scrubSkips 15 = true ∧ s.scrubSkips 12 = true ∧ s.scrubSkips 9 = false) ∧
    (let s : State := { st with regs := { st.regs with scrubStore := 0 } }; s.scrubOff 0 = true) ∧
    (3 ≤ st.boot.state.toNat ∧ st.power.duskState = 0 ∧ ∀ tier ∈ [(0 : BitVec 2), 1, 2], tier ≠ 3 ∧ st.scrubOff tier = false) ∧
    (st.vesper.interval ≠ 0 ∧ st.vesper.running = none) ∧
    (let s : State := { st with vesper := { st.vesper with running := some ckpt } }; s.vesper.interval ≠ 0 ∧ s.vesper.running = some ckpt) ∧
    ({ st with vesper := { st.vesper with interval := 0 } } : State).vesper.interval = 0 ∧
    st.ownerMay 1 = false ∧ st.ownerMay 0 = true ∧ bundleOk st.boot.idKey (st.hostRd 0 st.vesper.certAddr.toNat st.vesper.certLen.toNat) = false ∧
    (let s : State := { st.put (.host 0) 0x4000 (block 64 [(0, 4, 0x54524543), (4, 2, 1)]) with vesper := { st.vesper with certAddr := 0x4000, certLen := 64 } }
     s.ownerMay 0 = true ∧ bundleOk s.boot.idKey (s.hostRd 0 s.vesper.certAddr.toNat s.vesper.certLen.toNat) = true) ∧
    (let s : State := { st with vesper := { st.vesper with card := 2 } }; s.ownerMay 0 = true ∧ s.vesper.card ≠ 0 ∧ s.vesper.card ≠ 1) := by decide +kernel

/-! ### Host ports and registers -/

/-- The device with no context in use, owned by port 0. -/
def stIdle : State := { st with ctxs := [] }
/-- That device with a function applied to port 0. -/
def stPort (f : Port → Port) : State := st.modPort 0 f
/-- PortsLostAndReturned: a loss, a port that is lost, a return with the device's power up and not. -/
theorem test_witness_portLoss :
    ((stIdle.port 0).lost = false ∧ (∀ e ∈ stIdle.ctxs, e.2.state = .idle ∧ e.2.draining = false) ∧ stIdle.loads = [] ∧ (stIdle.port (1 - 0)).report = none) ∧
    ((stPort (fun x => { x with lost := true })).port 0).lost = true ∧ (st.power.pwrgd = true ∧ st.power.resetN = true) ∧
    ¬ (State.reset.power.pwrgd = true ∧ State.reset.power.resetN = true) := by decide +kernel
/-- PortsPolled: a lost port, one before firmware polls, one that is polled, one that goes idle. -/
theorem test_witness_poll :
    State.reset.boot.state.toNat < 3 ∧ (st.port 0).lost = false ∧ 3 ≤ st.boot.state.toNat ∧ (st.port 0).idle = false ∧ st.portBusy 0 = false := by decide +kernel
/-- A state whose doorbell of context 0, ring 0 holds a tail. -/
def stTail (n : Nat) (stopped : BitVec 4) : State := (stWith (fun x => { x with stopped := stopped })).put (.host 0) 0 (toLE 4 n)
/-- RingsFetched: a ring as full as it can be, one over, and a stopped one. -/
theorem test_witness_rings :
    (let s := stTail 16 0
     (s.ctx 0).sq.getD 0 RingReg.init = { log2size := 4, base := 0x20000 } ∧ (s.ctx 0).stopped.getLsbD 0 = false ∧
       leNat (s.hostRd (s.ctx 0).port ((s.port (s.ctx 0).port).dbpage.toNat + 0) 4) = 16 ∧ (s.ctx 0).fetchedN.getD 0 0 = 0) ∧
    (let s := stTail 17 0
     (s.ctx 0).stopped.getLsbD 0 = false ∧ leNat (s.hostRd (s.ctx 0).port ((s.port (s.ctx 0).port).dbpage.toNat + 0) 4) = 17) ∧
    (let s := stTail 17 1; s.ctxMay 0 0 = true ∧ (s.ctx 0).stopped.getLsbD 0 = true) := by decide +kernel
/-- A vector with a source asserted and two messages' worth of assertions. -/
def vec (masked : Bool) : Vector383 := { Vector383.init with masked := masked, time := 65535, n := 1, sent := some 0 }
/-- Port 0 with MSI-X on and vector 63 in that state. -/
def stVec (masked asserted : Bool) : State :=
  stPort (fun x => { x with msixEnable := true, swpend := if asserted then 1 <<< 63 else 0, vectors := [(63, vec masked)] })
/-- InterruptCommandsComplete: every clause, on the last vector. -/
theorem test_witness_interrupts :
    (∀ m ∈ [true, false],
      let s := stVec m true
      s.vecAsserted 0 63 = true ∧ (s.port 0).msixEnable = true ∧ (s.port 0).lost = false ∧ ((s.port 0).vec 63).time ≠ 0 ∧ ((s.port 0).vec 63).n ≠ 0 ∧
        ((s.port 0).vec 63).sent.isSome = true ∧ s.vecMasked 0 63 = m ∧ (s.port 0).funcMask = false) ∧
    (stVec true false).vecAsserted 0 63 = false ∧ (stVec true false).boot.bars = true ∧ State.reset.boot.bars = false ∧ st.boot.bars = true ∧
    (let s : State := { st with integ := { st.integ with attnSeen := [(0, true)] } }
     s.boot.bars = true ∧ s.integ.attnSeen.getD 0 false = true ∧
       ∀ v0 ∈ [0, 0x1004, 0x100C], let v := BitVec.ofNat 64 v0; v.toNat % 16 = 0 ∨ (4 ≤ v.toNat % 16 ∧ v.toNat % 16 ≤ 12)) := by decide +kernel

/-- OwnerRule: no owner, a lost owner, an owner, each kind of write, a port that is not the owner. -/
theorem test_witness_owner :
    (let s : State := { st with regs := Regs.init }; s.boot.bars = true ∧ s.owner? = none) ∧
    (let s := stPort (fun x => { x with lost := true }); s.boot.bars = true ∧ s.owner? = some 0 ∧ (s.port 0).lost = true) ∧
    (st.boot.bars = true ∧ st.owner? = some 0 ∧ (st.port 0).lost = false ∧ st.owner? ≠ some 1) ∧
    ((0x100 : U64).getLsbD 8 = true ∧ (0x100 : U64).getLsbD 9 = false ∧ (0x300 : U64).getLsbD 9 = true ∧ (0x200 : U64).getLsbD 8 = false) := by decide +kernel
/-- OnlyPermittedWrites: another port than the owner's and than the context's, at the ends of the ranges; and a state before W6. -/
theorem test_witness_permitted :
    st.ownerMay 1 = false ∧ ({ st with boot := { st.boot with state := 2 } } : State).ownerMay 0 = false ∧ st.ctxMay 1 0 = false ∧ st.owner? ≠ some 1 ∧
    (∀ o0 ∈ [0x50000, 0xEFFFF], let o := BitVec.ofNat 21 o0; 0x50000 ≤ o.toNat ∧ o.toNat < 0xF0000) ∧ (0xF0000 ≤ (0xF0000 : BitVec 21).toNat) ∧
    (∀ o0 ∈ [0x20000, 0x200FF], let o := BitVec.ofNat 21 o0; (o.toNat - 0x20000) / 256 = (0 : CtxId).toNat ∧ 0x20000 ≤ o.toNat ∧ o.toNat < 0x30000 ∧ o.toNat % 256 / 8 ≠ 2) := by decide +kernel
/-- RwlWriteDiscarded: each of the three registers, its lower and its upper half. -/
theorem test_witness_rwl : st.boot.locked = true ∧ ∀ o0 ∈ [0x60000, 0x60004, 0x80000, 0x80004, 0xF0008, 0xF000C], let o := BitVec.ofNat 21 o0; 
    o.toNat / 8 * 8 ∈ [0x60000, 0x80000, 0xF0008] := by decide +kernel
/-- ContextRegisterCommands: each state of a context that a clause names, rings of the least and the greatest size. -/
theorem test_witness_ctxRegisters :
    (∀ b ∈ [true, false],
      let s := stWith (fun x => { x with draining := true, run := some { run (desc 3 []) with passed := b } })
      (s.ctx 0).draining = true ∧ (s.ctx 0).state = .ready ∧ (s.ctx 0).suspending = false ∧ (s.ctx 0).run = some { run (desc 3 []) with passed := b }) ∧
    st.ctxMay 0 0 = true ∧ (st.ctx 0).state = .ready ∧ (st.ctx 0).draining = false ∧ (stIdle.ctx 0).state = .idle ∧ stIdle.ctxMay 0 0 = true ∧
    (let s := stWith (fun x => { x with state := .faulted }); s.ctxMay 0 0 = true ∧ (s.ctx 0).state = .faulted ∧ (s.ctx 0).draining = false) ∧
    (let s := stWith (fun x => { x with state := .drained }); s.ctxMay 0 0 = true ∧ (s.ctx 0).state = .drained ∧ s.power.duskState ≠ 1) ∧
    (∀ v0 ∈ [0x1004, 0x1010], let v := BitVec.ofNat 64 v0; State.ringOk v.toNat false = true) := by decide +kernel
/-- A location counter of kind 3. -/
def counter3 : Counter := { loc := { kind := 3, a := 0, b := 0, c := 0, row := 0 }, selftest := false, restored := false, count := 5, next := 6, time := 0 }
/-- OwnerRegisterCommands: kinds and counts at the ends of their ranges, a counter of the kind, each form of INTEG.CLEAR, the last general counter. -/
theorem test_witness_ownerRegisters :
    st.ownerMay 0 = true ∧ (∀ k0 ∈ [1, 14], let k := BitVec.ofNat 4 k0; k ≠ 0 ∧ k ≠ 15) ∧
    (let s : State := { st with integ := { st.integ with detected := [counter3] } }
     ∀ x ∈ s.integ.detected, x.loc.kind = 3 ∧ (0xFFFF : U32).setWidth 16 ≠ (s.regs.thresh.getD 3 Thresh.init).detected) ∧
    ((0x10 : U32).getLsbD 4 = true ∧ (0x2F : U32).getLsbD 4 = false ∧ (0x2F : U32).getLsbD 5 = true ∧ (0x0F : U32).getLsbD 5 = false) ∧
    ((1 : U16) ≠ 0 ∧ (64511 : U16).toNat + (1 : U16).toNat ≤ 64512 ∧ st.windowMeets 64511 1 = false ∧ st.windowMeets 15 1 = true) := by decide +kernel
/-- RegistersReadBack: the bounds of each field, a port whose contexts are at rest, offsets and sizes that do not fit. -/
theorem test_witness_readBack :
    st.boot.bars = true ∧ st.ownerMay 0 = true ∧ (stIdle.ctxsOf 0).all (fun e => e.2.state != .ready && e.2.state != .suspended) = true ∧
    (∀ v0 ∈ [1, 1000], let v := BitVec.ofNat 64 v0; 1 ≤ v.toNat % 1024 ∧ v.toNat % 1024 ≤ 1000) ∧ (∀ v0 ∈ [0, 1001], let v := BitVec.ofNat 64 v0; v.toNat % 1024 = 0 ∨ 1000 < v.toNat % 1024) ∧
    (∀ v0 ∈ [1, 500], let v := BitVec.ofNat 64 v0; 1 ≤ v.toNat % 512 ∧ v.toNat % 512 ≤ 500) ∧
    (let s : State := { st with boot := { st.boot with state := 3, locked := false } }
     s.ownerMay 0 = true ∧ s.boot.locked = false ∧ ∀ v0 ∈ [1, 32], let v := BitVec.ofNat 64 v0; 1 ≤ v.toNat % 64 ∧ v.toNat % 64 ≤ 32) ∧
    (0x100000 ≤ (0x100000 : BitVec 21).toNat ∧ (0x10004 : BitVec 21).toNat % 8 ≠ 0 ∧ ((2 : Byte) ≠ 8 ∧ (2 : Byte) ≠ 4) ∧ (0x10002 : BitVec 21).toNat % 4 ≠ 0) := by decide +kernel

/-! ### Power, pins and Dawn -/

/-- The device before the lock, in a state of Dawn. -/
def stDawn (f : Boot → Boot) : State := { stIdle with boot := f Boot.init }
/-- The device with power as given. -/
def stPow (f : Power → Power) : State := { stIdle with power := f stIdle.power }
/-- PinsFollowSupply: each level that a clause names. -/
theorem test_witness_pins :
    ((stPow (fun w => { w with vin := false })).power.vin = false ∧ st.power.vin = true ∧ st.power.thermtrip = false ∧
      (stPow (fun w => { w with thermtrip := true })).power.thermtrip = true) ∧
    (State.reset.power.resetN = false ∧ State.reset.power.pwrgd = true ∧ ([] : List Location).length + State.reset.integ.detected.length ≤ 64 ∧
      (let s : State := { State.reset with power := { Power.init with pwrgd := false } }; s.power.resetN = false ∧ s.power.pwrgd = false)) ∧
    (let s := stPow (fun w => { w with early := true }); s.power.early = true ∧ s.power.pwrgd = true ∧ s.power.resetN = true) ∧ st.power.early = false ∧
    (stPow (fun w => { w with rails := false })).power.rails = false := by decide +kernel
/-- ResetLosesState: RESET# released, the rails up. -/
theorem test_witness_reset : st.power.resetN = true ∧ st.power.rails = true := by decide +kernel
/-- DawnSequence: every state of Dawn, an image that is too short. -/
theorem test_witness_dawn :
    (let s := stDawn (fun b => { b with selftested := true }); s.power.pwrgd = true ∧ s.power.resetN = true ∧ s.boot.selftested = true ∧ s.boot.bars = false) ∧
    (let s := stDawn (fun b => { b with state := 1 }); s.owner? = some 0 ∧ s.boot.state = 1 ∧ (0x3FFFFFF : Nat) + [(0xFF : Byte)].length ≤ 67108864) ∧ st.boot.state ≠ 1 ∧
    (let s := stDawn (fun b => { b with state := 2 }); s.boot.state = 2 ∧ s.boot.firmware = false ∧ s.imageStatus = 6) ∧
    (let s := stDawn (fun b => { b with state := 2, firmware := true }); s.boot.state = 2 ∧ s.boot.firmware = true) ∧
    (let s := stDawn (fun b => { b with state := 3, firmware := true }); s.owner? = some 0 ∧ s.boot.state = 3 ∧ (s.link 0).enable = true ∧ (s.link 0).state = .down) ∧
    ¬ (st.owner? = some 0 ∧ st.boot.state = 3) := by decide +kernel
/-- A boot window that holds an image whose every field boot ROM checks is good, with the key digest of 64 zero bytes fused. -/
def stImage : State :=
  (stDawn (fun b => { b with
    state := 2, imageLength := 29952
    fuses := { b.fuses with key0 := 0x366a66d9b4ec08d7556c23891864fa91eb0853bf8b915347de87949eeaf2a57e } })).put .boot 0
    (block 16 [(0, 4, 0x4D57464A), (4, 2, 1), (6, 2, 0x0980), (8, 1, 0xB1)])
/-- DawnSequence: an image is accepted exactly when FIPS 205 verifies its signature; the model leaves that function open (log 12). -/
theorem test_witness_imageAccepted
    (h : let hd := stImage.get .boot 0 imageHead
      Config.slhVerify256s (slice hd 32 64) (slice hd 96 29792) (slice hd 0 96 ++ stImage.firmwareImage.drop imageHead) = true) :
    stImage.boot.state = 2 ∧ stImage.boot.firmware = false ∧ stImage.imageStatus = 0 := by
  refine ⟨by decide +kernel, by decide +kernel, ?_⟩
  have c1 : ¬ (stImage.boot.imageLength.toNat < imageHead ∨ bootWindow < stImage.boot.imageLength.toNat ∨
    stImage.boot.imageLength.toNat ≠ imageHead + fld (stImage.get .boot 0 imageHead) 12 4) := by decide +kernel
  have c2 : ¬ (fld (stImage.get .boot 0 imageHead) 0 4 ≠ 0x4D57464A ∨ fld (stImage.get .boot 0 imageHead) 4 2 ≠ 1 ∨
    !zeroBytes (stImage.get .boot 0 imageHead) 24 31 ∨ !zeroBytes (stImage.get .boot 0 imageHead) 29888 29951) := by decide +kernel
  have c3 : ¬ (fld (stImage.get .boot 0 imageHead) 6 2 ≠ 0x0980 ∨ fld (stImage.get .boot 0 imageHead) 8 1 ≠ 0xB1) := by decide +kernel
  have c4 : ¬ (1 < fld (stImage.get .boot 0 imageHead) 9 1 ∨ shake256 (slice (stImage.get .boot 0 imageHead) 32 64) 32 ≠
    toLE 32 (stImage.keySlot (fld (stImage.get .boot 0 imageHead) 9 1)).toNat ∨ stImage.boot.fuses.revoked.getLsbD (fld (stImage.get .boot 0 imageHead) 9 1)) := by
    decide +kernel
  have c5 : ¬ (fld (stImage.get .boot 0 imageHead) 11 1 < popCount stImage.boot.fuses.floor.toNat) := by decide +kernel
  simp only [State.imageStatus, if_neg c1, if_neg c2, if_neg c3, if_neg c4, if_neg c5]
  rw [h]; rfl

/-- ModeBlockCommandsComplete: the level in force, a new one, one during a ramp, AUTOTRIM at the power bound, Dusk from each state. -/
theorem test_witness_modes :
    st.ownerMay 0 = true ∧ (st.power.ramp = false ∧ st.power.current = 2 ∧ (2 : BitVec 2) ≠ 3 ∧ (0 : BitVec 2) ≠ st.power.current) ∧
    (let s := stPow (fun w => { w with ramp := true, level := 0 }); s.power.ramp = true ∧ (1 : BitVec 2) ≠ s.power.level) ∧
    (let s := stPow (fun w => { w with samples := [1140000] })
     s.power.autotrim = true ∧ 3 ≤ s.boot.state.toNat ∧ s.meanPower 1000 ≤ 950 * s.power.cap ∧ s.power.offset = 0 ∧ s.power.lastTrim = none ∧
       (s.power.trims.getD 6 Trim.init).at s.power.current.toNat < 8) ∧
    (stPow (fun w => { w with duskState := 1 })).power.duskState = 1 ∧
    (stIdle.ownerMay 0 = true ∧ stIdle.power.duskState ≠ 1 ∧ stIdle.acts = [] ∧ (∀ e ∈ stIdle.ctxs, (e.2.state = .idle ∨ e.2.state = .drained) ∧ e.2.draining = false) ∧
      (stIdle.port 0).report = none ∧ (stIdle.port 1).report = none) ∧
    (let s := stPow (fun w => { w with duskState := 1 }); s.allAtRest = true ∧ s.laneQuiet = true) := by decide +kernel
/-- PowerControllerActs: just within the ratings and just beyond, for VIN and for a junction; the junction bound of 105 °C. -/
theorem test_witness_power :
    State.beyondRatings 14001 [] = true ∧ State.beyondRatings 14000 [501] = true ∧ State.beyondRatings 14000 (List.replicate 40 500) = false ∧
    st.power.rails = true ∧ st.power.resetN = true ∧ (List.replicate 40 (500 : U16)).length = 40 ∧ 500 < (501 : U16).toNat ∧ 420 ≤ (420 : U16).toNat ∧
    (let hot := fun (r : U16) => ((List.replicate 40 r).map BitVec.toNat).foldl max 0; hot 419 < 420 ∧ hot 420 = 420 ∧ hot 459 < 460 ∧ hot 460 = 460) ∧
    st.power.sensors.length = 40 ∧ (st.readAt 0 420).hottest = 420 ∧ (st.readAt 1 460).hottest = 460 ∧ State.reset.power.resetN = false ∧
    (500 : U16).toNat ≤ 500 ∧ (419 : U16).toNat < 420 ∧
    (let s := stPow (fun w => { w with critical := true, sensors := List.replicate 40 380 }); s.power.critical = true ∧ 4 * s.power.throttle.toNat ≤ s.hottest) ∧
    (let s := stPow (fun w => { w with samples := List.replicate 100 3000001 }); 3000000 < s.meanPower 100 ∧ s.power.critical = false) ∧
    ¬ 3000000 < st.meanPower 100 ∧ st.power.critical = false := by decide +kernel
/-- ManagementTarget: without and with power, a read to the last byte. -/
theorem test_witness_mgmt :
    (stPow (fun w => { w with pwrgd := false })).power.pwrgd = false ∧ (stPow (fun w => { w with pwrgd := false })).power.thermtrip = false ∧ st.power.pwrgd = true ∧
    (stPow (fun w => { w with mgmtIndex := 11 })).power.mgmtIndex.toNat + (1 : Byte).toNat ≤ 12 := by decide +kernel

/-! ### Selyn -/

/-- Port 3 of the tree device with a function applied. -/
def stLink (f : Link → Link) : State := stTree.modLink 3 f
/-- A frame's header on a virtual channel, to a device. -/
def hdr (vc : BitVec 2) (dest : BitVec 10) (seq : BitVec 12) : FrameHdr :=
  { last := true, seq := seq, ack := 0, vc := vc, cvc := 0, credits := 0, dest := dest, ctx := 0, stream := 0 }
/-- A training record of the parent's child port 9. -/
def trec : TrainRec := { member := 0x0980, stepping := 0xB1, port := 9, uplink := 15, children := 0x200, size := 910, treeId := 0 }
/-- A frame that is not acknowledged. -/
def frame : Frame := { seq := 0, vc := 1, data := true, last := true, dest := 0, ctx := 0, stream := 0, payload := [], src := none, own := none }
/-- LinkPortsTrain: first training and a retrain, right and wrong records, the retry timer at its last try and after it, the port's writes. -/
theorem test_witness_training :
    (let l := (stLink (fun l => { l with state := .training })).link 3; l.state = .training ∧ l.retrain = none) ∧
    (let l := (stLink (fun l => { l with state := .training, retrain := some 0, everUp := true })).link 3; l.state = .training ∧ l.retrain.isSome = true ∧ l.everUp = true) ∧
    (let s := stLink (fun l => { l with state := .training, lanes := 8 })
     (s.link 3).state = .training ∧ (s.link 3).lanes ≠ 0 ∧ s.treePort 3 = true ∧ trec.member = 0x0980 ∧ trec.stepping = 0xB1 ∧ trec.treeId = s.regs.treeId ∧
       trec.size = s.regs.treeSize ∧ s.uplink? = some 3 ∧ trec.children.getLsbD trec.port.toNat = true ∧ ¬ ({ trec with stepping := 0xA0 } : TrainRec).stepping = 0xB1) ∧
    (∀ n ∈ [[7], [8]],
      let l := (stLink (fun l => { l with state := .up8, tries := n, replay := [frame] })).link 3
      l.up = true ∧ l.replay ≠ [] ∧ ((∀ k ∈ l.tries, k < 8) ∨ ∃ k ∈ l.tries, 8 ≤ k) ∧ l.tries = n) ∧
    (let l := (stLink (fun l => { l with state := .up4 })).link 3; l.up = true ∧ l.replay = [] ∧ l.x4 = false) ∧
    ((stTree.link 3).state = .down ∧ (stTree.link 3).enable = true ∧ stTree.boot.locked = true ∧ (stTree.link 3).retrain = none) ∧
    ((stLink (fun l => { l with state := .up8 })).link 3).state = .up8 ∧
    (let l := (stLink (fun l => { l with state := .training, retrain := some 0 })).link 3; l.state = .training ∧ l.retrain.isSome = true ∧ l.everUp = false) ∧
    stTree.ownerMay 0 = true ∧ (stTree.link 3).up = false ∧ (stTree.link 3).retrain = none ∧ (stTree.link 3).state = .down ∧ stTree.boot.locked = true := by decide +kernel
/-- The tree device with its uplink up, and one child port, 4, up towards devices 6 to 9. -/
def stUp : State :=
  let s : State := { stTree with regs := { stTree.regs with treeChildren := 0x10 } }
  (s.modLink 3 (fun l => { l with state := .up8 })).modLink 4 (fun l => { l with state := .up8, child := some (6, 9, 0) })
/-- The top of a formed tree of 10 with child port 4 up. -/
def stTop : State :=
  let s : State := { st with regs := { st.regs with treeRole := 2, treeChildren := 0x10, treeSize := 10, treeFormed := true } }
  s.modLink 4 (fun l => { l with state := .up8, child := some (1, 9, 1) })
/-- FramesTakenInOrder: a port that is down, a frame out of sequence, one for this device, one beyond the tree at its top, one for a device below. -/
theorem test_witness_frames :
    (frameOf (.dataFrame 3 (hdr 1 5 0) []) = some (3, hdr 1 5 0) ∧ (stTree.link 3).up = false) ∧
    ((stUp.link 3).up = true ∧ (hdr 1 5 1).seq ≠ (stUp.link 3).expected) ∧
    (accepts stUp 3 (hdr 1 5 0) = true ∧ (hdr 1 5 0).dest.toNat = (accepted stUp 3 (hdr 1 5 0)).regs.treeIndex.toNat) ∧
    (accepts stTop 4 (hdr 1 10 0) = true ∧ (hdr 1 10 0).dest.toNat ≠ (accepted stTop 4 (hdr 1 10 0)).regs.treeIndex.toNat ∧ (accepted stTop 4 (hdr 1 10 0)).isTop = true ∧
      (accepted stTop 4 (hdr 1 10 0)).regs.treeSize.toNat ≤ (hdr 1 10 0).dest.toNat) ∧
    (accepts stUp 3 (hdr 1 9 0) = true ∧ (accepted stUp 3 (hdr 1 9 0)).isTop = false ∧ (accepted stUp 3 (hdr 1 9 0)).route 9 = some 4) := by decide +kernel
/-- An open Saddle of context 0 on the plan's counter. -/
def stSaddle (v : Saddle) : State := { stUp with saddles := [(64600, v)] }
/-- An ARRIVE of a pass. -/
def arrive (pass : U32) : ArriveRec :=
  { origin := 6, pass := pass, counter := 64600, ctx := 0, reduced := false, own := 0, earliest := 0, latest := 0, latestIx := 6, earliestIx := 6 }
/-- SaddleParcelsComplete: an ARRIVE and a RELEASE of this pass and of another, a Saddle that is late, reported, sent, and one without a timer. -/
theorem test_witness_saddleParcels :
    (let s := stSaddle (Saddle.open 0 0)
     let u := heard s 4 (hdr 0 0 0)
     accepts s 4 (hdr 0 0 0) = true ∧ (arrive 1).pass ≠ u.passes.getD 64600 0 ∧ (arrive 0).pass = u.passes.getD 64600 0 ∧ u.saddles.get? 64600 = some (Saddle.open 0 0) ∧
       (Saddle.open 0 0).ctx = (arrive 0).ctx ∧ (u.planEntry? 0 0).isSome = true) ∧
    (let v : Saddle := { Saddle.open 0 0 with timer := some 0 }
     (stSaddle v).saddles.get? 64600 = some v ∧ ((stSaddle v).planEntry? 0 0).isSome = true ∧ v.reported = false ∧ v.sent = false ∧ v.timer.isSome = true) ∧
    (let v : Saddle := { Saddle.open 0 0 with timer := some 0, reported := true }; (stSaddle v).saddles.get? 64600 = some v ∧ v.reported = true) := by decide +kernel
/-- DeviceTimeFollows: the owner's port outside a tree and another, a TIME_RESP that answers and one that does not, the uplink and the top. -/
theorem test_witness_time :
    ((st.port 0).lost = false ∧ st.owner? = some 0 ∧ ¬ (st.regs.treeFormed = true ∧ st.uplink?.isSome = true) ∧ (st.port 1).lost = false ∧ st.owner? ≠ some 1) ∧
    (let s : State := { stUp with clock := { stUp.clock with sentT1 := some 5 } }
     let u := heard s 3 (hdr 0 0 0)
     accepts s 3 (hdr 0 0 0) = true ∧ u.uplink? = some 3 ∧ u.clock.sentT1 = some 5 ∧ u.clock.sentT1 ≠ some 6 ∧ u.regs.treeFormed = true ∧ u.uplinkLost = false) ∧
    ({ stUp with lostSet := stUp.beyond 3 } : State).uplinkLost = true ∧
    (stUp.uplink? = some 3 ∧ stUp.regs.treeFormed = true ∧ (stUp.link 3).up = true ∧ stUp.uplinkLost = false) ∧ stTop.uplink? = none := by decide +kernel
/-- TreeParcelsComplete: a ROLLCALL of a child, right and wrong, with and without a lost range; a FORMED of the parent and of another; a RELAY below the top and on it. -/
theorem test_witness_treeParcels :
    (let u := heard stUp 4 (hdr 0 0 0)
     accepts stUp 4 (hdr 0 0 0) = true ∧ u.childPorts.contains 4 = true ∧ u.regs.treeId = 0 ∧ (910 : U16) = u.regs.treeSize.setWidth 16 ∧ (1 : U16) ≠ u.regs.treeId ∧
       (u.link 4).lostRange = none) ∧
    (let s := stUp.modLink 4 (fun l => { l with lostRange := some (6, 9) })
     let u := heard s 4 (hdr 0 0 0)
     accepts s 4 (hdr 0 0 0) = true ∧ (u.link 4).lostRange = some (6, 9) ∧ ((6 : U16), (9 : U16)) ≠ (6, 8)) ∧
    (let u := heard stUp 3 (hdr 0 0 0); accepts stUp 3 (hdr 0 0 0) = true ∧ u.uplink? = some 3 ∧ u.uplink? ≠ some 4 ∧ (910 : U16) = u.regs.treeSize.setWidth 16) ∧
    (let u := heard stTop 4 (hdr 0 0 0); accepts stTop 4 (hdr 0 0 0) = true ∧ u.uplink? = none) := by decide +kernel

/-! ### Single steps, against the manual's own numbers -/

/-- The check of "123456789" (R420). -/
theorem test_crc32c : crc32c [0x31, 0x32, 0x33, 0x34, 0x35, 0x36, 0x37, 0x38, 0x39] = 0xE3069283 := by decide +kernel
/-- The worked example of R72 and R73: 37.0, -0.3 and 0.0009 in one JB8 block. -/
theorem test_jb8_block : (encodeRow 3 none [0x42140000, 0xBE99999A, 0x3A6BEDFA]).take 4 = [0x7C, 0x79, 0xC2, 0x00] := by decide +kernel
/-- The worked example of R85: 9 × 10 = 90 passes, and 74, one bit from it, does not. -/
theorem test_residue : runChecks [(9, 10, 0)] 90 = true ∧ runChecks [(9, 10, 0)] 74 = false := by decide +kernel
/-- The worked example of R355: the lock word of context 17's gorge.w. -/
theorem test_lock_word : lockWord 17 .gorgeW = 0x80000112 := by decide
/-- An entry of a ranked list, SIDE or not. -/
def ent (id src : Nat) (score : F32) (side : Bool) : Ranked := { id := id, src := src, score := score, ver := (if side then 2 ^ 31 else 0) + 12, attr := 0 }
/-- A list with its count, status and ties. -/
def ins (count status ties : Nat) (l : List Ranked) : Input := { entries := l, record := block 32 [(0, 4, count), (4, 1, status), (12, 4, ties)], fits := true }
/-- The worked example of R239 to R243: three worker lists, k = 5. -/
theorem test_merge_example :
    let r := mergeQuery 5
      [ins 5 0 2 [ent 120 3 0x3F666666 false, ent 77 3 0x3F59999A false, ent 500 3 0x3F4CCCCD false, ent 610 3 0x3F400000 false, ent 611 3 0x3F400000 false],
       ins 5 0 0 [ent 40 5 0x3F6147AE false, ent 77 5 0x3F5C28F6 true, ent 300 5 0x3F400000 false, ent 900 5 0x3F333333 false, ent 901 5 0x3F266666 false],
       ins 3 1 0 [ent 15 8 0x3F400000 false, ent 16 8 0x3F400000 false, ent 17 8 0x3F19999A false]]
    r.1.map Ranked.id = [120, 40, 77, 500, 15] ∧ fld r.2.1 0 4 = 5 ∧ fld r.2.1 4 1 = 0 ∧ bitAt r.2.1 5 1 = true ∧ fld r.2.1 12 4 = 6 ∧ fld r.2.1 20 4 = 1 ∧ r.2.2 = [] := by
  decide +kernel
/-- The merge hash of the worked example of R136, its pairs placed by R131's hash. -/
def hash136 : Bytes := block 256
    [(0, 4, 0xFFFFFFFF), (16, 4, 111), (20, 4, 119), (24, 4, 257), (28, 4, 1), (32, 4, 0xFFFFFFFF), (48, 4, 0xFFFFFFFF), (64, 4, 0xFFFFFFFF),
     (80, 4, 0xFFFFFFFF), (96, 4, 0xFFFFFFFF), (112, 4, 101), (116, 4, 114), (120, 4, 259), (124, 4, 3), (128, 4, 32), (132, 4, 108), (136, 4, 256),
     (140, 4, 0), (144, 4, 108), (148, 4, 111), (152, 4, 260), (156, 4, 4), (160, 4, 0xFFFFFFFF), (176, 4, 0xFFFFFFFF), (192, 4, 0xFFFFFFFF),
     (208, 4, 0xFFFFFFFF), (224, 4, 256), (228, 4, 257), (232, 4, 258), (236, 4, 2), (240, 4, 0xFFFFFFFF)]
/-- The table of that example in object 13, with SPACE_JOIN, and the input "low lower" in object 1. -/
def st136 : State :=
  has (has st 1 (obj 0 0 64) [0x6C, 0x6F, 0x77, 0x20, 0x6C, 0x6F, 0x77, 0x65, 0x72]) 13 (obj 0 1 0x2000)
    (block 64 [(0, 4, 0x4B4F544A), (4, 2, 2), (7, 1, 1), (8, 4, 261), (12, 4, 5), (16, 4, 4), (24, 2, 1), (28, 4, 0x100), (32, 4, 0x40), (40, 4, 0x500), (44, 4, 0x600)] ++
      List.replicate 192 0 ++ ((List.range 256).map (toLE 4)).flatten ++ hash136)
/-- The worked example of R136: "low lower" becomes 108, 257, 258, 259. -/
theorem test_tokenize_example :
    ((st136.tokenizeEff 0 .text (TokCmd.of (block 64 [(0, 1, 1), (4, 4, 13), (8, 4, 1), (12, 4, 2), (20, 4, 3), (48, 4, 9), (52, 4, 8)]))).rd 2 0 16) =
      toLE 4 108 ++ toLE 4 257 ++ toLE 4 258 ++ toLE 4 259 := by decide +kernel
/-- The worked example after R436: a column's second episode meets its threshold, and the next is 4. -/
theorem test_threshold_doubles :
    let loc : Location := { kind := 4, a := 1, b := 0, c := 0, row := 1500 }
    (((st.countLoc false loc).countLoc false loc).integ.detected.map (fun x => (x.count, x.next))) = [(2, 4)] := by decide +kernel
/-- The state that a command answers. -/
def after (o : Host.Outcome State Fault Refusal) : State := match o with | .next t => t | _ => State.reset
/-- The worked example after R383: an idle port is polled 1 µs later, then 2. -/
theorem test_idle_pace :
    let t := after (exec (.portIdle 0) stIdle)
    (t.port 0).idle = true ∧ (t.port 0).interval = 1000 := by decide +kernel
/-- R508's first six bytes: member, stepping, Dawn state 4, level 2, no cause. -/
theorem test_mgmt_read : (after (exec (.mgmtRead 6) st)).power.mgmtOut = [0x80, 0x09, 0xB1, 4, 2, 0] := by decide +kernel
/-- R225: of two equal elements the first is taken, and the other is a boundary tie. -/
theorem test_topk_tie :
    let s := has st 1 (obj 0 0 64) (toLE 4 0x3F800000 ++ toLE 4 0x3F800000)
    let t := after (exec (.topk 0 .glenRefine (topk 2 1)) (started s (State.copyOf 6 .glenRefine (topk 2 1))))
    t.rd 2 0 12 = toLE 8 0 ++ toLE 4 0x3F800000 ∧ t.rdNat 3 0 4 = 1 ∧ t.rdNat 3 8 4 = 1 := by decide +kernel
/-- R114: 1.0 + 2.0 = 3.0. -/
theorem test_rim_add :
    let s := has (has st 1 (obj 0 0 64) (toLE 4 0x3F800000)) 2 (obj 0 0 64) (toLE 4 0x40000000)
    (after (exec (.rimAdd 0 (rim 1 1 1 0 []) (rim 1 1 1 0 [])) (steppe s (rim 1 1 1 0 [])))).rdNat 4 0 4 = 0x40400000 := by decide +kernel
/-- R155: all eight tokens are allowed. -/
theorem test_grammar_mask :
    let t := after (exec (.grammarMask 0 .text (gram 1 0)) (started stGram (State.copyOf 9 .text (gram 1 0))))
    t.rd 3 0 1 = [0xFF] ∧ t.rdNat 4 0 4 = 8 ∧ t.rdNat 4 36 1 = 0xFF := by decide +kernel
/-- R38: ADDI is modulo 2^64. -/
theorem test_addi :
    (((after (exec (.addi 0 .text 1 (-1)) (word st .text 0x09 (State.regA 1) 0xFFFFFFFF))).ctx 0).seq .text).reg 1 = 0xFFFFFFFFFFFFFFFF := by decide +kernel
/-- R346: a count stops at 0x7FFFFFFF. -/
theorem test_signal : (after (exec (.signal 0 .text 3 5) (word (stCounter 3 0x7FFFFFFE) .text 0x03 3 5))).counter 3 = 0x7FFFFFFF := by decide +kernel
/-- R345: ACQUIRE writes the holder's word. -/
theorem test_acquire : (after (exec (.acquire 0 .text 3) (word st .text 0x05 3 0))).counter 3 = 0x80000008 := by decide +kernel
/-- R459: W3 leaves the device in state 1 with its BARs open. -/
theorem test_bringup :
    let t := after (exec (.dawnBringup 0xFFFFF) (stDawn (fun b => { b with selftested := true })))
    t.boot.state = 1 ∧ t.boot.bars = true := by decide +kernel
/-- R397: a frame out of sequence is not taken. -/
theorem test_frame_order :
    let t := after (exec (.dataFrame 3 (hdr 1 5 1) []) stUp)
    (t.link 3).discarding = true ∧ (t.link 3).expected = 0 := by decide +kernel
/-- R340: the larger lost of two equal priorities wins, and its lost restarts. -/
theorem test_arbiter :
    let reqs : List ArbReq := [{ who := 1, base := 5, urgent := false, work := none, leaves := false }, { who := 2, base := 3, urgent := false, work := none, leaves := false }]
    let s := after (exec (.arbiterGrant 0 reqs) st)
    (s.arb 0 1).lost = 0 ∧ (s.arb 0 2).lost = 1 ∧ (s.arb 0 1).grants = 1 := by decide +kernel

/-- R364 and R460: BAR0 reads 4 and 8 aligned bytes and nothing else; after the lock BAR2 reads nothing. -/
theorem test_bar_reads :
    st.bar0Read 0 0x60000 4 = some [8, 0, 0, 0] ∧ st.bar0Read 0 0x60002 2 = none ∧ st.bar2Read 8 = none ∧
      (stDawn (fun b => { b with state := 1, bars := true })).bar2Read 2 = some [0, 0] := by decide +kernel
end Sys2Proof.Tests
end

section
/-! PROOFS. Setup registers and the boot lock (00_scope.md): what a register write does, what every command leaves of the spine, and from these that the
lock freezes the set-up. -/

namespace Sys2Proof.Machine

/-! ### Register writes -/

/-- A register write is discarded or writes its register with some value: its own, or one joined to the half that it leaves (R364, R482, R483). -/
theorem execRegisterWrite_discards_or_writes (p : HostPort) (off : BitVec 21) (size : Byte) (v : U64) (s : State) :
    execRegisterWrite p off size v s = .next s ∨ ∃ w, execRegisterWrite p off size v s = .next (s.writeReg p (off.toNat / 8 * 8) w) := by
  unfold execRegisterWrite
  dsimp only
  split
  · exact .inl rfl
  · split
    · split
      · exact .inr ⟨_, rfl⟩
      · exact .inl rfl
    · split
      · exact .inl rfl
      · split
        · exact .inr ⟨_, rfl⟩
        · split
          · exact .inr ⟨_, rfl⟩
          · exact .inl rfl

/-- An aligned write of 8 bytes below 1 MiB writes the register at its offset (R364, R482). -/
theorem execRegisterWrite_eight (p : HostPort) (off : BitVec 21) (v : U64) (s : State) (hlt : off.toNat < 0x100000) (hal : off.toNat % 8 = 0) :
    execRegisterWrite p off 8 v s = .next (s.writeReg p off.toNat v.toNat) := by
  have h8 : off.toNat / 8 * 8 = off.toNat := by omega
  simp [execRegisterWrite, Nat.not_le.mpr hlt, hal, h8]

/-- A write beyond 1 MiB, misaligned, or of another size than 4 or 8 bytes is discarded (R482). -/
theorem execRegisterWrite_malformed (p : HostPort) (off : BitVec 21) (size : Byte) (v : U64) (s : State)
    (h : 0x100000 ≤ off.toNat ∨ (size = 8 ∧ off.toNat % 8 ≠ 0) ∨ (size ≠ 8 ∧ size ≠ 4) ∨ (size = 4 ∧ off.toNat % 4 ≠ 0)) :
    execRegisterWrite p off size v s = .next s := by
  unfold execRegisterWrite
  dsimp only
  rcases h with hbeyond | ⟨rfl, hmis⟩ | ⟨hne8, hne4⟩ | ⟨rfl, hmis⟩
  · rw [if_pos hbeyond]
  · simp [hmis]
  · rw [if_neg hne8, if_pos (Or.inl hne4), ite_self]
  · simp [hmis]

/-! ### The boot block and the frozen registers in a locked device -/

/-- In a state in order the lock is set in state 4 alone, where the BARs answer (R459, R464). -/
theorem dawnOrdered.state_of_locked {s : State} (ho : dawnOrdered s) (hl : s.boot.locked = true) : s.boot.state = 4 ∧ s.boot.bars = true := by
  obtain ⟨-, hlock, hbars, -⟩ := ho
  have h4 := hlock.mp hl
  exact ⟨h4, hbars.mpr (by rw [h4]; decide)⟩

/-- BOOT.CTRL.go has no effect but in state 1 (R460). -/
theorem State.go_of_state_ne (s : State) (p : HostPort) (h : s.boot.state ≠ 1) : s.go p = s := if_neg fun e => h e.2

/-- BOOT.CTRL.lock has no effect but in state 3 (R464). -/
theorem State.lock_of_state_ne (s : State) (p : HostPort) (h : s.boot.state ≠ 3) : s.lock p = s := if_neg fun e => h e.2

/-- In state 4 the lock leaves the BOOT block nothing to take: the image length is frozen, and neither go nor lock has an effect (R15, R464). -/
theorem State.writeBoot_of_locked (s : State) (p : HostPort) (off v : Nat) (hl : s.boot.locked = true) (h4 : s.boot.state = 4) :
    s.writeBoot p off v = s := by
  have hgo : s.go p = s := s.go_of_state_ne p (by rw [h4]; decide)
  have hlock : s.lock p = s := s.lock_of_state_ne p (by rw [h4]; decide)
  simp [State.writeBoot, hl, hgo, hlock]

/-- After the lock a write to the register of an RWL field changes nothing (R15, R393, R494). -/
theorem State.writeReg_rwl_of_locked (s : State) (p : HostPort) (off v : Nat) (hl : s.boot.locked = true)
    (hoff : off ∈ [0x60000, 0x80000, 0xF0008]) : s.writeReg p off v = s := by
  simp only [List.mem_cons, List.not_mem_nil, or_false] at hoff
  rcases hoff with rfl | rfl | rfl
  · simp [State.writeReg, State.writeMem, hl]
  · simp [State.writeReg, State.writeLinkEngine, State.writeTree, hl]
  · simp [State.writeReg, State.writeBoot, hl]

/-- Once the lock is set no register write moves the spine. -/
theorem State.writeReg_spine_of_locked (s : State) (p : HostPort) (off v : Nat) (hl : s.boot.locked = true) (h4 : s.boot.state = 4) :
    (s.writeReg p off v).spine = s.spine := by
  have hboot := s.writeBoot_of_locked p off v hl h4
  have hmem : (s.writeMem off v).spine = s.spine := by rw [State.writeMem_spine, if_neg (by simp [hl])]
  have hlink := s.writeLinkEngine_spine off v hl
  simp [State.writeReg, hboot, hmem, hlink]

theorem execRegisterWrite_spine_of_locked (p : HostPort) (off : BitVec 21) (size : Byte) (v : U64) (s : State) (hl : s.boot.locked = true)
    (h4 : s.boot.state = 4) : ∃ t, execRegisterWrite p off size v s = .next t ∧ t.spine = s.spine := by
  rcases execRegisterWrite_discards_or_writes p off size v s with h | ⟨w, h⟩
  · exact ⟨s, h, rfl⟩
  · exact ⟨_, h, s.writeReg_spine_of_locked p _ w hl h4⟩

/-! ### The commands that move the spine -/

/-- The commands that move the spine in some state: the resets, the reports that may trip the device, the phases of Dawn, and a register write. -/
def movesSpine : Instr → Bool
  | .resetAssert | .resetRelease _ | .pwrgdResetDelay | .vinLow | .thermalTrip | .thermtripLatchClear | .powerSample .. | .junctionCritical ..
  | .dawnBringup _ | .bootGo _ | .imageVerified | .retainedStateRestore .. | .bootLock _ | .registerWrite .. => true
  | _ => false

/-- Every other command goes on and leaves the spine. -/
theorem exec_spine (i : Instr) (s : State) (hi : movesSpine i = false) : ∃ t, exec i s = .next t ∧ t.spine = s.spine := by
  cases i with
  | resetAssert | resetRelease | pwrgdResetDelay | vinLow | thermalTrip | thermtripLatchClear | powerSample | junctionCritical
  | dawnBringup | bootGo | imageVerified | retainedStateRestore | bootLock | registerWrite => cases hi
  | nop c q => exact execNop_spine c q s
  | issue c q engine len b => exact execIssue_spine c q engine len b s
  | queueClaim c q => exact execQueueClaim_spine c q s
  | waitdone c q engine most => exact execWaitdone_spine c q engine most s
  | signal c q counter inc => exact execSignal_spine c q counter inc s
  | wait c q counter threshold => exact execWait_spine c q counter threshold s
  | acquire c q counter => exact execAcquire_spine c q counter s
  | release c q counter => exact execRelease_spine c q counter s
  | setp c q r imm => exact execSetp_spine c q r imm s
  | ldp c q r word => exact execLdp_spine c q r word s
  | addi c q r imm => exact execAddi_spine c q r imm s
  | brz c q r target => exact execBrz_spine c q r target s
  | brnz c q r target => exact execBrnz_spine c q r target s
  | jmp c q target => exact execJmp_spine c q target s
  | stepend c q => exact execStepend_spine c q s
  | saddle c q entry => exact execSaddle_spine c q entry s
  | halt c q => exact execHalt_spine c q s
  | trap c q code => exact execTrap_spine c q code s
  | loadr c w e => exact execLoadr_spine c w e s
  | matmul c w e => exact execMatmul_spine c w e s
  | grouped c w e => exact execGrouped_spine c w e s
  | rimAdd c w e => exact execRimAdd_spine c w e s
  | rimMul c w e => exact execRimMul_spine c w e s
  | scaleBias c w e => exact execScaleBias_spine c w e s
  | convert c w e => exact execConvert_spine c w e s
  | gelu c w e => exact execGelu_spine c w e s
  | geluTanh c w e => exact execGeluTanh_spine c w e s
  | silu c w e => exact execSilu_spine c w e s
  | softmax c w e => exact execSoftmax_spine c w e s
  | layernorm c w e => exact execLayernorm_spine c w e s
  | rmsnorm c w e => exact execRmsnorm_spine c w e s
  | l2norm c w e => exact execL2norm_spine c w e s
  | meanpool c w e => exact execMeanpool_spine c w e s
  | rope c w e => exact execRope_spine c w e s
  | siluMul c w e => exact execSiluMul_spine c w e s
  | route c w e => exact execRoute_spine c w e s
  | sample c w e => exact execSample_spine c w e s
  | dropr c w e => exact execDropr_spine c w e s
  | lookup c q b => exact execLookup_spine c q b s
  | update c q b => exact execUpdate_spine c q b s
  | searchCommand c copies => exact execSearchCommand_spine c copies s
  | writeInsert c q b => exact execWriteInsert_spine c q b s
  | writeDelete c q b => exact execWriteDelete_spine c q b s
  | topk c q b => exact execTopk_spine c q b s
  | merge c q b => exact execMerge_spine c q b s
  | tokenizeCommand c q b => exact execTokenizeCommand_spine c q b s
  | detokenizeCommand c q b => exact execDetokenizeCommand_spine c q b s
  | grammarReset c q b => exact execGrammarReset_spine c q b s
  | grammarMask c q b => exact execGrammarMask_spine c q b s
  | grammarAdvance c q b => exact execGrammarAdvance_spine c q b s
  | pack c q b => exact execPack_spine c q b s
  | list c q b => exact execList_spine c q b s
  | accept c q b => exact execAccept_spine c q b s
  | commit c q b => exact execCommit_spine c q b s
  | summary c q b => exact execSummary_spine c q b s
  | copy c q b => exact execCopy_spine c q b s
  | wfill c q b => exact execWfill_spine c q b s
  | start c q b => exact execStart_spine c q b s
  | send c q b => exact execSend_spine c q b s
  | recv c q b => exact execRecv_spine c q b s
  | query d => exact execQuery_spine d s
  | embed d => exact execEmbed_spine d s
  | search d => exact execSearch_spine d s
  | rerank d => exact execRerank_spine d s
  | generate d => exact execGenerate_spine d s
  | pause d => exact execPause_spine d s
  | resume d => exact execResume_spine d s
  | cancel d => exact execCancel_spine d s
  | insert d => exact execInsert_spine d s
  | delete d => exact execDelete_spine d s
  | trainStep d => exact execTrainStep_spine d s
  | load d => exact execLoad_spine d s
  | loadImage d => exact execLoadImage_spine d s
  | loadComplete isImage object => exact execLoadComplete_spine isImage object s
  | relocationProceed object => exact execRelocationProceed_spine object s
  | evict d => exact execEvict_spine d s
  | evictFree object => exact execEvictFree_spine object s
  | evictImage d => exact execEvictImage_spine d s
  | mergeBuild d => exact execMergeBuild_spine d s
  | mergeInstall d => exact execMergeInstall_spine d s
  | installProceed shard => exact execInstallProceed_spine shard s
  | mergeAbort d => exact execMergeAbort_spine d s
  | hotRowRefresh d => exact execHotRowRefresh_spine d s
  | maintActivityComplete activity target => exact execMaintActivityComplete_spine activity target s
  | syncAdd d => exact execSyncAdd_spine d s
  | syncSet d => exact execSyncSet_spine d s
  | syncRead d => exact execSyncRead_spine d s
  | stats d => exact execStats_spine d s
  | step d => exact execStep_spine d s
  | stepUnbind d => exact execStepUnbind_spine d s
  | bindEffect c => exact execBindEffect_spine c s
  | stepStart c => exact execStepStart_spine c s
  | tokenize d => exact execTokenize_spine d s
  | detokenize d => exact execDetokenize_spine d s
  | fence d => exact execFence_spine d s
  | attest d => exact execAttest_spine d s
  | checkpoint d => exact execCheckpoint_spine d s
  | testSetpend d => exact execTestSetpend_spine d s
  | testEcho d => exact execTestEcho_spine d s
  | unknownOpcode d => exact execUnknownOpcode_spine d s
  | descriptorPlaced c r => exact execDescriptorPlaced_spine c r s
  | arbiterGrant arbiter reqs => exact execArbiterGrant_spine arbiter reqs s
  | enginePreemption queue => exact execEnginePreemption_spine queue s
  | steppeSaveComplete => exact execSteppeSaveComplete_spine s
  | contextSaveComplete c => exact execContextSaveComplete_spine c s
  | contextRestoreComplete c => exact execContextRestoreComplete_spine c s
  | inheritanceBudgetExpiry c => exact execInheritanceBudgetExpiry_spine c s
  | replayOutcome ep => exact execReplayOutcome_spine ep s
  | scrubRead tier object isImage offset found loc => exact execScrubRead_spine tier object isImage offset found loc s
  | checkpointTimer => exact execCheckpointTimer_spine s
  | checkpointWritten ok bad => exact execCheckpointWritten_spine ok bad s
  | portPoll p => exact execPortPoll_spine p s
  | portIdle p => exact execPortIdle_spine p s
  | ptmExchange p master roundTrip => exact execPtmExchange_spine p master roundTrip s
  | msixModerationTime p v => exact execMsixModerationTime_spine p v s
  | msixResend p v => exact execMsixResend_spine p v s
  | msixUnmask p v => exact execMsixUnmask_spine p v s
  | msixEnable p => exact execMsixEnable_spine p s
  | pcieDlDown p => exact execPcieDlDown_spine p s
  | pcieCompletionTimeout p => exact execPcieCompletionTimeout_spine p s
  | functionLevelReset p => exact execFunctionLevelReset_spine p s
  | d3hotEntry p => exact execD3hotEntry_spine p s
  | perst p => exact execPerst_spine p s
  | portLinkTrained p => exact execPortLinkTrained_spine p s
  | ownerClaim p => exact execOwnerClaim_spine p s
  | ownerRelease p => exact execOwnerRelease_spine p s
  | ctxSuspend p c => exact execCtxSuspend_spine p c s
  | suspendWithdraw p c => exact execSuspendWithdraw_spine p c s
  | ctxClear p c => exact execCtxClear_spine p c s
  | ringReset p c r => exact execRingReset_spine p c r s
  | ctxDusk p c => exact execCtxDusk_spine p c s
  | graceExpiry c => exact execGraceExpiry_spine c s
  | cqWrite p c value => exact execCqWrite_spine p c value s
  | swset p bits => exact execSwset_spine p bits s
  | swpendClear p bits => exact execSwpendClear_spine p bits s
  | dmahaltRelease p bits => exact execDmahaltRelease_spine p bits s
  | attnRingWrite p value => exact execAttnRingWrite_spine p value s
  | integThreshWrite p kind value => exact execIntegThreshWrite_spine p kind value s
  | integClear p value => exact execIntegClear_spine p value s
  | syncClear p base count => exact execSyncClear_spine p base count s
  | linkPortWrite p n value => exact execLinkPortWrite_spine p n value s
  | levelWrite p level => exact execLevelWrite_spine p level s
  | rampEnd => exact execRampEnd_spine s
  | trimWrite p dom value => exact execTrimWrite_spine p dom value s
  | autotrim dom => exact execAutotrim_spine dom s
  | duskStart p => exact execDuskStart_spine p s
  | deviceDuskDone => exact execDeviceDuskDone_spine s
  | bootWindowWrite p offset data => exact execBootWindowWrite_spine p offset data s
  | certload p => exact execCertload_spine p s
  | cardWipe p => exact execCardWipe_spine p s
  | vinRise => exact execVinRise_spine s
  | railsInRegulation => exact execRailsInRegulation_spine s
  | vinReturn => exact execVinReturn_spine s
  | powerControlTick => exact execPowerControlTick_spine s
  | mgmtIndexWrite index => exact execMgmtIndexWrite_spine index s
  | mgmtRead count => exact execMgmtRead_spine count s
  | lanesLocked n good => exact execLanesLocked_spine n good s
  | trainingRecord n tr => exact execTrainingRecord_spine n tr s
  | laneLockLoss n => exact execLaneLockLoss_spine n s
  | retrainTimeout n => exact execRetrainTimeout_spine n s
  | linkRetryTimer n => exact execLinkRetryTimer_spine n s
  | dataFrame n h payload => exact execDataFrame_spine n h payload s
  | replayRequest n ack => exact execReplayRequest_spine n ack s
  | idleFrame n ack cvc credits => exact execIdleFrame_spine n ack cvc credits s
  | arrive n h a => exact execArrive_spine n h a s
  | releaseParcel n h pass counter c => exact execReleaseParcel_spine n h pass counter c s
  | abandon n h pass counter c device why => exact execAbandon_spine n h pass counter c device why s
  | timeReq n h t1 => exact execTimeReq_spine n h t1 s
  | timeResp n h t1 t2 t3 => exact execTimeResp_spine n h t1 t2 t3 s
  | timeExchange => exact execTimeExchange_spine s
  | rollcall n h low high depth treeId size => exact execRollcall_spine n h low high depth treeId size s
  | formed n h treeId size => exact execFormed_spine n h treeId size s
  | lost n h low high why => exact execLost_spine n h low high why s
  | rejoin n h low high => exact execRejoin_spine n h low high s
  | relay n h origin code seq detail => exact execRelay_spine n h origin code seq detail s
  | saddleTimeout counter => exact execSaddleTimeout_spine counter s
  | failedFrame n => exact execFailedFrame_spine n s
/-- A reset has no effect on the spine, loses the device's state, or ends in the self-test (R438, R479, R505 to R507). -/
theorem exec_reset_spine (i : Instr) (s : State) (h : resets i = true) :
    ∃ t, exec i s = .next t ∧ (t.spine = s.spine ∨ t.spine = s.lose.spine ∨ t.spine = (s.selfTest []).spine) := by
  cases i with
  | resetAssert =>
    refine ⟨_, rfl, ?_⟩
    split
    · exact .inl rfl
    · exact .inr (.inl rfl)
  | resetRelease failed =>
    refine ⟨_, rfl, ?_⟩
    split
    · exact .inl rfl
    · dsimp only
      split
      · exact .inr (.inr (by rw [State.selfTest_spine, State.selfTest_spine]; rfl))
      · exact .inl rfl
  | pwrgdResetDelay =>
    refine ⟨_, rfl, ?_⟩
    split
    · exact .inr (.inr (by rw [State.selfTest_spine, State.selfTest_spine]))
    · exact .inl rfl
  | vinLow =>
    refine ⟨_, rfl, ?_⟩
    dsimp only
    split
    · exact .inr (.inl rfl)
    · exact .inl rfl
  | thermalTrip =>
    refine ⟨_, rfl, ?_⟩
    split
    · exact .inl rfl
    · exact .inr (.inl rfl)
  | thermtripLatchClear => exact ⟨_, rfl, .inr (.inl rfl)⟩
  | _ => cases h

/-- The lock is clear where the device's state is lost (R479). -/
theorem State.locked_of_lose_spine {s t : State} (h : t.spine = s.lose.spine) : t.boot.locked = false := by
  obtain ⟨-, -, -, hlocked, -⟩ := State.of_spine h
  exact hlocked

/-- The lock is clear after the self-test (R464). -/
theorem State.locked_of_selfTest_spine {s t : State} {failed : List Location} (h : t.spine = (s.selfTest failed).spine) : t.boot.locked = false := by
  obtain ⟨-, -, -, hlocked, -⟩ := State.of_spine h
  exact hlocked

/-! ### The locked device -/

/-- What a command may make of a locked device: its spine stays, or the lock is cleared by a reset or the thermal trip (R13, R464). -/
def lockHolds (i : Instr) (s t : State) : Prop :=
  t.spine = s.spine ∨ (t.boot.locked = false ∧ (resets i = true ∨ trips s i = true))

theorem lockHolds_of_spine {i : Instr} {s t : State} (hx : exec i s = .next t) (h : ∃ u, exec i s = .next u ∧ u.spine = s.spine) :
    lockHolds i s t := by
  obtain ⟨u, hu, hsp⟩ := h
  cases hu.symm.trans hx
  exact .inl hsp

theorem lockHolds_of_resets {i : Instr} {s t : State} (hx : exec i s = .next t) (h : resets i = true) : lockHolds i s t := by
  obtain ⟨u, hu, hsp⟩ := exec_reset_spine i s h
  cases hu.symm.trans hx
  rcases hsp with hsp | hsp | hsp
  · exact .inl hsp
  · exact .inr ⟨State.locked_of_lose_spine hsp, .inl h⟩
  · exact .inr ⟨State.locked_of_selfTest_spine hsp, .inl h⟩

/-- A report of junction readings r leaves the spine, or trips the device, which clears the lock (R450). -/
theorem lockHolds_of_readings {i : Instr} {s t r : State} (hx : exec i s = .next t) (htrips : 460 ≤ r.hottest → trips s i = true)
    (h : exec i s = .fault .outsideRatings ∨ ∃ u, exec i s = .next u ∧ (u.spine = s.spine ∨ (460 ≤ r.hottest ∧ u = r.trip))) :
    lockHolds i s t := by
  rcases h with hfault | ⟨u, hu, hsp⟩
  · cases hfault.symm.trans hx
  · cases hu.symm.trans hx
    rcases hsp with hsp | ⟨hhot, rfl⟩
    · exact .inl hsp
    · exact .inr ⟨rfl, .inr (htrips hhot)⟩

/-- Every command keeps the spine of a locked device in order, or is a reset or a trip that clears the lock. -/
theorem exec_lockHolds (i : Instr) (s t : State) (ho : dawnOrdered s) (hl : s.boot.locked = true) (hx : exec i s = .next t) : lockHolds i s t := by
  obtain ⟨h4, hbars⟩ := ho.state_of_locked hl
  cases hm : movesSpine i with
  | false => exact lockHolds_of_spine hx (exec_spine i s hm)
  | true =>
    cases i with
    | resetAssert | resetRelease | pwrgdResetDelay | vinLow | thermalTrip | thermtripLatchClear => exact lockHolds_of_resets hx rfl
    | powerSample mw vin sensors => exact lockHolds_of_readings hx decide_eq_true (execPowerSample_spine mw vin sensors s)
    | junctionCritical die reading => exact lockHolds_of_readings hx decide_eq_true (execJunctionCritical_spine die reading s)
    | dawnBringup hbm =>
      obtain ⟨u, hu, hsp⟩ := execDawnBringup_spine hbm s
      exact lockHolds_of_spine hx ⟨u, hu, by rw [hsp, if_neg (by simp [hbars])]⟩
    | bootGo p => exact lockHolds_of_spine hx ⟨_, rfl, by rw [s.go_of_state_ne p (by rw [h4]; decide)]⟩
    | bootLock p => exact lockHolds_of_spine hx ⟨_, rfl, by rw [s.lock_of_state_ne p (by rw [h4]; decide)]⟩
    | imageVerified => exact lockHolds_of_spine hx ⟨_, rfl, by rw [if_pos (.inl (by rw [h4]; decide))]⟩
    | retainedStateRestore trained dimms socket =>
      obtain ⟨u, hu, hsp⟩ := execRetainedStateRestore_spine trained dimms socket s
      exact lockHolds_of_spine hx ⟨u, hu, by rw [hsp, if_neg (by simp [h4])]⟩
    | registerWrite p off size v => exact lockHolds_of_spine hx (execRegisterWrite_spine_of_locked p off size v s hl h4)
    | _ => cases hm

/-- Settles O9: a command that keeps the spine keeps every frozen field, and one that does not is a reset or a trip, which clears the lock. -/
theorem lockFreezes : Obligations.LockFreezes := by
  intro i s t ho hl hx
  rcases exec_lockHolds i s t ho hl hx with hsp | ⟨hclear, hwhy⟩
  · obtain ⟨-, hstep, -, hlocked, -, -, -, -, himage, hstepmem, hindex, hrole, huplink, hchildren, hsize, hid⟩ := State.of_spine hsp
    refine ⟨fun hclear => ?_, fun _ => ⟨hstepmem, hindex, hrole, huplink, hchildren, hsize, hid, himage, hstep⟩⟩
    rw [hlocked, hl] at hclear
    cases hclear
  · refine ⟨fun _ => hwhy, fun hset => ?_⟩
    rw [hclear] at hset
    cases hset

/-- Settles O45: a register write is discarded or writes its register, and after the lock that write changes nothing. -/
theorem rwlWriteDiscarded : Obligations.RwlWriteDiscarded := by
  intro s p off size v hl hoff
  rcases execRegisterWrite_discards_or_writes p off size v s with h | ⟨w, h⟩
  · exact h
  · rwa [s.writeReg_rwl_of_locked p _ w hl hoff] at h

/-! ### Registers read back -/

/-- An 8-byte write at an aligned offset below 1 MiB brings the value that the register then reads. -/
theorem execRegisterWrite_reads {s : State} {p : HostPort} {v : U64} {off : BitVec 21} {n w : Nat}
    (hoff : off.toNat = n ∧ n < 0x100000 ∧ n % 8 = 0) (h : (s.writeReg p n v.toNat).regValue p n = w) :
    ∃ t, exec (.registerWrite p off 8 v) s = .next t ∧ t.regValue p off.toNat = w := by
  obtain ⟨rfl, hlt, hal⟩ := hoff
  exact ⟨_, execRegisterWrite_eight p off v s hlt hal, h⟩

/-- Part of a 64-bit value fits in 64 bits. -/
theorem toNat_ofNat_of_le_toNat {n : Nat} {v : U64} (h : n ≤ v.toNat) : (BitVec.ofNat 64 n).toNat = n :=
  BitVec.toNat_ofNat n 64 ▸ Nat.mod_eq_of_lt (h.trans_lt v.isLt)

section
variable (s : State) (p : HostPort) (v : U64)

/-! The HOST registers, from W3 on (R459, R487, R488). -/
section
variable (hbars : s.boot.bars = true)
include hbars

theorem State.writeReg_dbpage_reads (hrest : s.portAtRest p = true) : (s.writeReg p 0x10008 v.toNat).regValue p 0x10008 = v.toNat / 4096 * 4096 := by
  simpa [State.writeReg, State.writeHost, State.bankMay, hbars, hrest, State.regValue, State.bankedReg]
    using toNat_ofNat_of_le_toNat (Nat.div_mul_le_self v.toNat 4096)

theorem State.writeReg_hdpage_reads (hrest : s.portAtRest p = true) : (s.writeReg p 0x10010 v.toNat).regValue p 0x10010 = v.toNat / 4096 * 4096 := by
  simpa [State.writeReg, State.writeHost, State.bankMay, hbars, hrest, State.regValue, State.bankedReg]
    using toNat_ofNat_of_le_toNat (Nat.div_mul_le_self v.toNat 4096)

theorem State.writeReg_idlepage_reads : (s.writeReg p 0x10018 v.toNat).regValue p 0x10018 = v.toNat / 64 * 64 := by
  simpa [State.writeReg, State.writeHost, State.bankMay, hbars, State.regValue, State.bankedReg]
    using toNat_ofNat_of_le_toNat (Nat.div_mul_le_self v.toNat 64)

theorem State.writeReg_ptm_reads (hlo : 1 ≤ v.toNat % 1024) (hhi : v.toNat % 1024 ≤ 1000) :
    (s.writeReg p 0x10028 v.toNat).regValue p 0x10028 = v.toNat % 1024 := by
  simp [State.writeReg, State.writeHost, State.bankMay, State.within, hbars, hlo, hhi, State.regValue, State.bankedReg]
end

/-- A PTM interval outside 1 to 1000 is discarded (R484, R487). -/
theorem State.writeReg_ptm_out_of_range (h : v.toNat % 1024 = 0 ∨ 1000 < v.toNat % 1024) : s.writeReg p 0x10028 v.toNat = s := by
  have hout : State.within (v.toNat % 1024) 1 1000 = false := by
    simp only [State.within, Bool.and_eq_false_iff, decide_eq_false_iff_not]
    omega
  simp [State.writeReg, State.writeHost, hout]

/-! The owner's registers, from W6 on (R366, R459). -/
section
variable (hown : s.ownerMay p = true)
include hown

/-- MEM.SCRUB: three rates side by side. -/
theorem State.writeReg_scrub_reads : (s.writeReg p 0x60008 v.toNat).regValue p 0x60008 = v.toNat % 2 ^ 32 := by
  have hjoin : v.toNat % 256 + 256 * (v.toNat / 256 % 256) + 65536 * (v.toNat / 65536 % 65536) = v.toNat % 2 ^ 32 := by omega
  simpa [State.writeReg, hown, State.writeMem, State.regValue, State.modeMemReg] using hjoin

theorem State.writeReg_preempt_reads : (s.writeReg p 0xA0000 v.toNat).regValue p 0xA0000 = v.toNat % 2 ^ 32 := by
  simp [State.writeReg, hown, State.writeLinkEngine, State.regValue, State.linkEngineReg]

theorem State.writeReg_maintCap_reads (hlo : 1 ≤ v.toNat % 512) (hhi : v.toNat % 512 ≤ 500) :
    (s.writeReg p 0xA0010 v.toNat).regValue p 0xA0010 = v.toNat % 512 := by
  simp [State.writeReg, hown, State.writeLinkEngine, State.within, hlo, hhi, State.regValue, State.linkEngineReg]

theorem State.writeReg_certAddr_reads : (s.writeReg p 0xE0030 v.toNat).regValue p 0xE0030 = v.toNat := by
  simp [State.writeReg, hown, State.writeVesper, State.regValue, State.vesperBootReg]

theorem State.writeReg_certLen_reads : (s.writeReg p 0xE0038 v.toNat).regValue p 0xE0038 = v.toNat % 2 ^ 17 := by
  simp [State.writeReg, hown, State.writeVesper, State.regValue, State.vesperBootReg]

/-- MEM.STEPMEM, before the lock (R13, R494). -/
theorem State.writeReg_stepmem_reads (hunlocked : s.boot.locked = false) (hlo : 1 ≤ v.toNat % 64) (hhi : v.toNat % 64 ≤ 32) :
    (s.writeReg p 0x60000 v.toNat).regValue p 0x60000 = v.toNat % 64 := by
  simp [State.writeReg, hown, State.writeMem, hunlocked, State.within, hlo, hhi, State.regValue, State.modeMemReg]
end
end

/-- Settles O48: each register's write brings the value that the register then reads, and what R482 does not permit is discarded. -/
theorem registersReadBack : Obligations.RegistersReadBack := by
  intro s p v takes
  refine ⟨fun hbars => ⟨?_, fun hrest => ⟨?_, ?_⟩, fun hlo hhi => ?_, fun hout => ?_⟩,
    fun hown => ⟨?_, ?_, ?_, ?_, fun hlo hhi => ?_, fun hunlocked hlo hhi => ?_⟩, fun off size => execRegisterWrite_malformed p off size v s⟩
  · exact execRegisterWrite_reads (by decide) (s.writeReg_idlepage_reads p v hbars)
  · exact execRegisterWrite_reads (by decide) (s.writeReg_dbpage_reads p v hbars hrest)
  · exact execRegisterWrite_reads (by decide) (s.writeReg_hdpage_reads p v hbars hrest)
  · exact execRegisterWrite_reads (by decide) (s.writeReg_ptm_reads p v hbars hlo hhi)
  · exact (execRegisterWrite_eight p 0x10028 v s (by decide) (by decide)).trans (congrArg _ (s.writeReg_ptm_out_of_range p v hout))
  · exact execRegisterWrite_reads (by decide) (s.writeReg_scrub_reads p v hown)
  · exact execRegisterWrite_reads (by decide) (s.writeReg_preempt_reads p v hown)
  · exact execRegisterWrite_reads (by decide) (s.writeReg_certAddr_reads p v hown)
  · exact execRegisterWrite_reads (by decide) (s.writeReg_certLen_reads p v hown)
  · exact execRegisterWrite_reads (by decide) (s.writeReg_maintCap_reads p v hown hlo hhi)
  · exact execRegisterWrite_reads (by decide) (s.writeReg_stepmem_reads p v hown hunlocked hlo hhi)

end Sys2Proof.Machine
end

section
/-! PROOFS. Descriptors (01_architecture.md): the admission that every descriptor meets before its opcode's effect, from its ring or offered again. -/

namespace Sys2Proof.Machine

/-! ### What admission reads of a context -/

/-- A context lets a descriptor come to the checks of R377: it is polled, no FENCE of it is outstanding, and its completion ring has room (R331, R348, R373). -/
def Ctx.mayExpand (x : Ctx) : Bool := x.expands && !x.outstanding.any (fun e => isFence e.1) && x.cqRoom

theorem Ctx.mayExpand_iff {x : Ctx} :
    x.mayExpand = true ↔ x.expands = true ∧ x.outstanding.any (fun e => isFence e.1) = false ∧ x.cqRoom = true := by
  simp only [Ctx.mayExpand, Bool.and_eq_true, Bool.not_eq_true', and_assoc]

@[simp] theorem Ctx.waits_setWaits_same (x : Ctx) (r : BitVec 2) (l : List (Desc × Bool)) : (x.setWaits r l).waits r = l := by
  cases l with
  | nil => simp [Ctx.waits, Ctx.setWaits, Tab.getD_erase]
  | cons e es => simp [Ctx.waits, Ctx.setWaits]

@[simp] theorem Ctx.mayExpand_setWaits (x : Ctx) (r : BitVec 2) (l : List (Desc × Bool)) : (x.setWaits r l).mayExpand = x.mayExpand := rfl

/-- A descriptor is admitted when its ring is fetched, nothing of the ring waits before it, and its context lets it come to the checks. -/
theorem admits_iff {s : State} {d : Desc} :
    admits s d = true ↔ s.fetchable d = true ∧ (s.ctx d.ctx).waits d.ring = [] ∧ (s.ctx d.ctx).mayExpand = true := by
  simp only [admits, Ctx.mayExpand, State.fetchable, Bool.and_eq_true, List.isEmpty_iff]
  tauto

section
variable (s : State) (d : Desc)

@[simp] theorem State.mayExpand_countFetch : ((s.countFetch d).ctx d.ctx).mayExpand = (s.ctx d.ctx).mayExpand := by
  rw [State.countFetch, State.ctx_modCtx_same]; rfl

@[simp] theorem State.waits_countFetch : ((s.countFetch d).ctx d.ctx).waits d.ring = (s.ctx d.ctx).waits d.ring := by
  rw [State.countFetch, State.ctx_modCtx_same]; rfl

/-! Checks 3 and 4 of R377 and the room of a queue (R25) read the context's window, the device's counters and its queues. -/

theorem State.countersOk_modCtx {c : CtxId} {f : Ctx → Ctx} (hc : d.ctx = c) (h : (f (s.ctx c)).inWindow = (s.ctx c).inWindow) :
    (s.modCtx c f).countersOk d = s.countersOk d := by
  subst hc
  simp only [State.countersOk, State.ctx_modCtx_same, h]

@[simp] theorem State.waitMet_modCtx (c : CtxId) (f : Ctx → Ctx) : (s.modCtx c f).waitMet d = s.waitMet d := rfl

@[simp] theorem State.descRoom_modCtx (c : CtxId) (f : Ctx → Ctx) : (s.modCtx c f).descRoom d = s.descRoom d := rfl

@[simp] theorem State.countersOk_countFetch : (s.countFetch d).countersOk d = s.countersOk d := s.countersOk_modCtx d rfl rfl

@[simp] theorem State.waitMet_countFetch : (s.countFetch d).waitMet d = s.waitMet d := s.waitMet_modCtx d _ _

@[simp] theorem State.descRoom_countFetch : (s.countFetch d).descRoom d = s.descRoom d := s.descRoom_modCtx d _ _
end

/-! ### Check 1 of R377 -/

/-- The bytes that a second fetch of a descriptor finds at its place in the ring (R372, R377). -/
def State.fetchAgain (s : State) (d : Desc) : Bytes :=
  s.hostRd (s.ctx d.ctx).port (((s.ctx d.ctx).sq.getD d.ring.toNat RingReg.init).base.toNat + 64 * d.index.toNat) 64

/-- A descriptor with the bytes of its second fetch (R377). -/
def State.refetched (s : State) (d : Desc) : Desc := { d with bytes := s.fetchAgain d }

/-- A failed CRC counted at the descriptor's ring (R377, R432). -/
def State.countCrc (s : State) (d : Desc) : State :=
  s.countLoc false { kind := 0xA, a := d.ctx, b := BitVec.ofNat 8 d.ring.toNat, c := 0, row := 0 }

/-- A descriptor whose CRC fails twice: opcode and tag 0, and the IRQ flag of the bytes that failed (log 64). -/
def unreadable (d : Desc) (b : Bytes) : Desc := { d with bytes := [0, BitVec.ofNat 8 (fld b 1 1 % 2)] ++ List.replicate 62 0 }

section
variable {s : State} {d : Desc} {re : Bool}

@[simp] theorem State.fetchAgain_countFetch : (s.countFetch d).fetchAgain d = s.fetchAgain d := by
  rw [State.fetchAgain, State.countFetch, State.ctx_modCtx_same]; rfl

theorem State.crcCheck_of_ok (h : descCrcOk d.bytes = true) : s.crcCheck d re = (s, d, re, true) := if_pos h

theorem State.crcCheck_of_refetched (h : descCrcOk d.bytes = false) (hagain : descCrcOk (s.fetchAgain d) = true) :
    s.crcCheck d re = (s.countCrc d, s.refetched d, true, true) :=
  (if_neg (by simp [h])).trans (if_pos hagain)

theorem State.crcCheck_of_unreadable (h : descCrcOk d.bytes = false) (hagain : descCrcOk (s.fetchAgain d) = false) :
    s.crcCheck d re = (s.countCrc d, unreadable d (s.fetchAgain d), false, false) :=
  (if_neg (by simp [h])).trans (if_neg (Bool.eq_false_iff.mp hagain))

/-- Check 1 of a counted descriptor whose second fetch's CRC holds. -/
theorem State.crcCheck_countFetch_of_refetched (h : descCrcOk d.bytes = false) (hagain : descCrcOk (s.fetchAgain d) = true) :
    (s.countFetch d).crcCheck d re = ((s.countFetch d).countCrc d, s.refetched d, true, true) := by
  rw [← State.fetchAgain_countFetch] at hagain
  rw [State.crcCheck_of_refetched h hagain, State.refetched, State.refetched, State.fetchAgain_countFetch]
end

/-! ### A descriptor offered for expansion -/

theorem Ctx.not_mayExpand (x : Ctx) : (!x.expands || x.outstanding.any (fun e => isFence e.1) || !x.cqRoom) = !x.mayExpand := by
  simp only [Ctx.mayExpand, Bool.not_and, Bool.not_not]

section
variable {s s1 : State} {d d1 : Desc} {re re1 : Bool}

/-- A descriptor that its context holds back waits, unchecked (R331, R348, R373). -/
theorem State.tryDesc_of_heldBack (h : (s.ctx d.ctx).mayExpand = false) : s.tryDesc d re = (s, some (d, re)) := by
  simp only [State.tryDesc, Ctx.not_mayExpand, h, Bool.not_false, if_true]

section
variable (hmay : (s.ctx d.ctx).mayExpand = true)
include hmay

theorem State.tryDesc_of_unreadable (hcrc : s.crcCheck d re = (s1, d1, re1, false)) :
    s.tryDesc d re = ((s1.take d1 re1).completeUnsignalled d1 (Done.of .integrity 0), none) := by
  simp [State.tryDesc, Ctx.not_mayExpand, hmay, hcrc]

variable (hcrc : s.crcCheck d re = (s1, d1, re1, true))
include hcrc

theorem State.tryDesc_of_badHeader (hbad : (headerOk d1 && s1.countersOk d1) = false) :
    s.tryDesc d re = ((s1.take d1 re1).completeUnsignalled d1 (Done.of .protocol 0), none) := by
  have hbad' : (!headerOk d1 || !s1.countersOk d1) = true := by rw [← Bool.not_and, hbad]; rfl
  simp [State.tryDesc, Ctx.not_mayExpand, hmay, hcrc, hbad']

variable (hgood : (headerOk d1 && s1.countersOk d1) = true)
include hgood

theorem State.tryDesc_of_early (hearly : s1.waitMet d1 = false ∨ s1.descRoom d1 = false) :
    s.tryDesc d re = (s1, some (d1, re1)) := by
  have hearly' : (!s1.waitMet d1 || !s1.descRoom d1) = true := by simpa using hearly
  simp [State.tryDesc, Ctx.not_mayExpand, hmay, hcrc, ← Bool.not_and, hgood, hearly']

theorem State.tryDesc_of_expands (hwait : s1.waitMet d1 = true) (hroom : s1.descRoom d1 = true) :
    s.tryDesc d re = ((s1.take d1 re1).descEffect d1, none) := by
  simp [State.tryDesc, Ctx.not_mayExpand, hmay, hcrc, ← Bool.not_and, hgood, hwait, hroom]
end
end

/-! ### A descriptor that arrives from its ring -/

section
variable {s t : State} {d : Desc}

theorem State.arrive_of_not_fetchable (h : s.fetchable d = false) : s.arrive d = s := by
  simp [State.arrive, h]

/-- The descriptor put behind its ring's waiting ones, once it is counted. -/
theorem ringWaits_countFetch :
    ringWaits s ((s.countFetch d).modCtx d.ctx (fun x => x.setWaits d.ring (x.waits d.ring ++ [(d, false)]))) d := by
  refine ⟨⟨rfl, fun c hc => ?_⟩, ?_⟩
  · rw [State.ctx_modCtx_of_ne _ _ hc, State.countFetch, State.ctx_modCtx_of_ne _ _ hc]
  · rw [State.ctx_modCtx_same, Ctx.waits_setWaits_same, State.waits_countFetch]

/-- A fetched descriptor with others of its ring before it waits behind them (R25). -/
theorem State.arrive_of_behind (hf : s.fetchable d = true) (hw : (s.ctx d.ctx).waits d.ring ≠ []) : ringWaits s (s.arrive d) d := by
  have harr : s.arrive d = (s.countFetch d).modCtx d.ctx (fun x => x.setWaits d.ring (x.waits d.ring ++ [(d, false)])) := by
    simp [State.arrive, hf, hw, State.modCtx]
  exact harr ▸ ringWaits_countFetch

/-- A fetched descriptor with none before it that has to wait is its ring's first waiting one. -/
theorem State.arrive_of_waits (hf : s.fetchable d = true) (hw : (s.ctx d.ctx).waits d.ring = [])
    (htry : (s.countFetch d).tryDesc d false = (s.countFetch d, some (d, false))) : ringWaits s (s.arrive d) d := by
  have harr : s.arrive d = (s.countFetch d).modCtx d.ctx (fun x => x.setWaits d.ring (x.waits d.ring ++ [(d, false)])) := by
    simp [State.arrive, hf, hw, htry]
  exact harr ▸ ringWaits_countFetch

/-- A descriptor that its context lets come and that need not wait leaves the state that the checks give. -/
theorem State.arrive_of_taken (h : admits s d = true) (htry : (s.countFetch d).tryDesc d false = (t, none)) : s.arrive d = t := by
  obtain ⟨hf, hw, -⟩ := admits_iff.mp h
  simp [State.arrive, hf, hw, htry]

theorem State.arrive_of_not_admits (hf : s.fetchable d = true) (h : admits s d = false) : ringWaits s (s.arrive d) d := by
  by_cases hw : (s.ctx d.ctx).waits d.ring = []
  · have hmay : (s.ctx d.ctx).mayExpand = false :=
      Bool.eq_false_iff.mpr fun hmay => Bool.eq_false_iff.mp h (admits_iff.mpr ⟨hf, hw, hmay⟩)
    exact State.arrive_of_waits hf hw (State.tryDesc_of_heldBack (by simpa using hmay))
  · exact State.arrive_of_behind hf hw

section
variable (h : admits s d = true)
include h

theorem State.mayExpand_of_admits : ((s.countFetch d).ctx d.ctx).mayExpand = true := by
  obtain ⟨-, -, hmay⟩ := admits_iff.mp h
  rwa [State.mayExpand_countFetch]

/-! The first fetch's CRC holds. -/
section
variable (hcrc : descCrcOk d.bytes = true)
include hcrc

theorem State.arrive_badHeader (hbad : (headerOk d && s.countersOk d) = false) :
    s.arrive d = (expanded s d).completeUnsignalled d (Done.of .protocol 0) :=
  State.arrive_of_taken h (State.tryDesc_of_badHeader (State.mayExpand_of_admits h) (State.crcCheck_of_ok hcrc) (by simpa using hbad))

variable (hgood : (headerOk d && s.countersOk d) = true)
include hgood

theorem State.arrive_early (hearly : s.waitMet d = false ∨ s.descRoom d = false) : ringWaits s (s.arrive d) d := by
  obtain ⟨hf, hw, -⟩ := admits_iff.mp h
  exact State.arrive_of_waits hf hw
    (State.tryDesc_of_early (State.mayExpand_of_admits h) (State.crcCheck_of_ok hcrc) (by simpa using hgood)
      (by simpa using hearly))

theorem State.arrive_expands (hwait : s.waitMet d = true) (hroom : s.descRoom d = true) : s.arrive d = (expanded s d).descEffect d :=
  State.arrive_of_taken h
    (State.tryDesc_of_expands (State.mayExpand_of_admits h) (State.crcCheck_of_ok hcrc) (by simpa using hgood)
      (by simpa using hwait) (by simpa using hroom))
end

/-! The first fetch's CRC fails: it is counted, and the descriptor fetched once more. -/
section
variable (hcrc : descCrcOk d.bytes = false)
include hcrc

theorem State.arrive_unreadable (hagain : descCrcOk (s.fetchAgain d) = false) :
    s.arrive d = (((s.countFetch d).countCrc d).take (unreadable d (s.fetchAgain d)) false).completeUnsignalled (unreadable d (s.fetchAgain d))
      (Done.of .integrity 0) := by
  rw [← State.fetchAgain_countFetch] at hagain ⊢
  exact State.arrive_of_taken h (State.tryDesc_of_unreadable (State.mayExpand_of_admits h) (State.crcCheck_of_unreadable hcrc hagain))

variable (hagain : descCrcOk (s.fetchAgain d) = true)
include hagain

theorem State.arrive_refetched_badHeader
    (hbad : (headerOk (s.refetched d) && ((s.countFetch d).countCrc d).countersOk (s.refetched d)) = false) :
    s.arrive d = (((s.countFetch d).countCrc d).take (s.refetched d) true).completeUnsignalled (s.refetched d) (Done.of .protocol 0) :=
  State.arrive_of_taken h
    (State.tryDesc_of_badHeader (State.mayExpand_of_admits h) (State.crcCheck_countFetch_of_refetched hcrc hagain) hbad)

theorem State.arrive_refetched_expands
    (hgood : (headerOk (s.refetched d) && ((s.countFetch d).countCrc d).countersOk (s.refetched d)) = true)
    (hwait : ((s.countFetch d).countCrc d).waitMet (s.refetched d) = true)
    (hroom : ((s.countFetch d).countCrc d).descRoom (s.refetched d) = true) :
    s.arrive d = (((s.countFetch d).countCrc d).take (s.refetched d) true).descEffect (s.refetched d) :=
  State.arrive_of_taken h
    (State.tryDesc_of_expands (State.mayExpand_of_admits h) (State.crcCheck_countFetch_of_refetched hcrc hagain) hgood hwait hroom)
end
end
end

/-! ### The descriptor commands -/

theorem State.arriveIf_of_carried (s : State) {ok : Bool} {d d' : Desc} (h : (if ok then some d' else none) = some d) :
    s.arriveIf ok d' = s.arrive d := by
  obtain ⟨hok, rfl⟩ : ok = true ∧ d' = d := by simpa using h
  exact if_pos hok

/-- A command that carries a descriptor of its own kind brings it from its ring (R378). -/
theorem exec_of_carries {i : Instr} {d : Desc} (h : carries i = some d) (s : State) : exec i s = .next (s.arrive d) := by
  cases i with
  | query | embed | search | rerank | generate | pause | resume | cancel | insert | delete | trainStep | load | loadImage | evict | evictImage
  | mergeBuild | mergeInstall | mergeAbort | hotRowRefresh | syncAdd | syncSet | syncRead | stats | step | stepUnbind | tokenize | detokenize
  | fence | attest | checkpoint | testSetpend | testEcho | unknownOpcode => exact congrArg Host.Outcome.next (s.arriveIf_of_carried h)
  | _ => cases h

/-! ### DESCRIPTOR_PLACED -/

section
variable {s t : State} {c : CtxId} {r : BitVec 2}

theorem execDescriptorPlaced_of_none (h : (s.ctx c).waits r = []) : execDescriptorPlaced c r s = .next s := by
  simp [execDescriptorPlaced, h]

/-- The oldest waiting descriptor leaves its ring's waiting ones when it need not wait longer. -/
theorem execDescriptorPlaced_of_taken {d : Desc} {re : Bool} {rest : List (Desc × Bool)} (h : (s.ctx c).waits r = (d, re) :: rest)
    (htry : (s.modCtx c (fun x => x.setWaits r rest)).tryDesc d re = (t, none)) : execDescriptorPlaced c r s = .next t := by
  simp [execDescriptorPlaced, h, htry]
end

/-- Settles O27: a descriptor's command brings it from its ring, and check after check of R377 says whether it completes, waits or takes its effect. -/
theorem descriptorsAdmitted : Obligations.DescriptorsAdmitted := by
  refine ⟨fun i s d hi => ?_, fun s c r => ⟨execDescriptorPlaced_of_none, fun d re rest hw hc => ?_⟩⟩
  · rw [exec_of_carries hi s]
    refine ⟨fun hf => congrArg _ (State.arrive_of_not_fetchable hf), fun hf h => ⟨_, rfl, State.arrive_of_not_admits hf h⟩,
      fun h hcrc hbad => congrArg _ (State.arrive_badHeader h hcrc hbad),
      fun h hcrc hgood hearly => ⟨_, rfl, State.arrive_early h hcrc hgood hearly⟩, fun h => ?_,
      fun h hcrc => ⟨fun hagain => congrArg _ (State.arrive_unreadable h hcrc hagain), fun hagain => ⟨fun hbad => ?_, fun hgood hwait hroom => ?_⟩⟩⟩
    · simp only [expandsNow, Bool.and_eq_true] at h
      obtain ⟨⟨⟨⟨⟨hadm, hcrc⟩, hhead⟩, hcount⟩, hwait⟩, hroom⟩ := h
      exact congrArg _ (State.arrive_expands hadm hcrc (by rw [hhead, hcount]; rfl) hwait hroom)
    · exact congrArg _ (State.arrive_refetched_badHeader h hcrc hagain hbad)
    · exact congrArg _ (State.arrive_refetched_expands h hcrc hagain hgood hwait hroom)
  · subst hc
    intro u hexp hfence hcq hcrc hhead hcount hwait hroom
    have hmay : (u.ctx d.ctx).mayExpand = true := by
      rw [State.ctx_modCtx_same, Ctx.mayExpand_setWaits]
      exact Ctx.mayExpand_iff.mpr ⟨hexp, hfence, hcq⟩
    have hgood : (headerOk d && u.countersOk d) = true := by
      rw [hhead, s.countersOk_modCtx d rfl rfl, hcount]; rfl
    exact execDescriptorPlaced_of_taken hw (State.tryDesc_of_expands hmay (State.crcCheck_of_ok hcrc) hgood
      ((s.waitMet_modCtx d _ _).trans hwait) ((s.descRoom_modCtx d _ _).trans hroom))

end Sys2Proof.Machine
end

section
/-! PROOFS. Sequencers (02_static_schedules.md): what each instruction of a ready sequencer does, and the step boundaries, Saddles and ends that the twelve of
a context reach together. -/

namespace Sys2Proof.Machine

/-! ### One sequencer moved -/

section
variable {s : State} {c : CtxId} {q : SeqId}

theorem goesTo_modSeq {f : Seq → Seq} {pos : Nat} (h : f ((s.ctx c).seq q) = { (s.ctx c).seq q with pos := pos, status := .running }) :
    goesTo s (s.modSeq c q f) c q pos :=
  ⟨s.seqOnly_modSeq c q f, by rw [State.seq_modSeq_same, h]⟩

theorem goesTo_nextSeq : goesTo s (s.nextSeq c q) c q (((s.ctx c).seq q).pos + 1) := goesTo_modSeq rfl

/-- A sequencer that runs goes to a position when its position alone is set. -/
theorem goesTo_of_running (h : ((s.ctx c).seq q).status = .running) {f : Seq → Seq} {pos : Nat}
    (hf : f ((s.ctx c).seq q) = { (s.ctx c).seq q with pos := pos }) : goesTo s (s.modSeq c q f) c q pos :=
  goesTo_modSeq (by rw [hf, ← h])

theorem waitsAt_waitSeq (st : SeqStatus) : waitsAt s (s.waitSeq c q st) c q st :=
  ⟨s.seqOnly_modSeq c q _, State.seq_modSeq_same s c q _⟩

theorem regWritten_modSeq {f : Seq → Seq} {r : BitVec 4} {w : U64} (h : f ((s.ctx c).seq q) = (((s.ctx c).seq q).setReg r w).next) :
    regWritten s (s.modSeq c q f) c q r w := by
  refine ⟨s.seqOnly_modSeq c q f, ?_, fun r' hr => ?_, ?_⟩
  · rw [State.seq_modSeq_same, h]; exact Seq.reg_setReg_same _ r w
  · rw [State.seq_modSeq_same, h]; exact Seq.reg_setReg_of_ne _ w hr
  · rw [State.seq_modSeq_same, h]; rfl

/-! ### One instruction -/

/-- The command of an instruction, at a sequencer that is ready for it, has the instruction's effect. -/
theorem exec_of_seqReady {i : Instr} {here : Bool} {f : State → State} (hi : exec i s = .next (s.runSeq c q here f))
    (h : seqReady s c q here = true) : exec i s = .next (f s) := by
  rw [hi, State.runSeq_of_ready h f]
end

/-- Settles O10: a ready sequencer's NOP, SETP, LDP or ADDI is one function applied to it. -/
theorem sequencerRegisters : Obligations.SequencerRegisters := by
  intro s c q
  refine ⟨fun h => ⟨_, exec_of_seqReady rfl h, goesTo_nextSeq⟩,
    fun r imm h => ⟨_, exec_of_seqReady rfl h, regWritten_modSeq rfl⟩,
    fun r word run h hrun => ?_,
    fun r imm h => ⟨_, exec_of_seqReady rfl h, regWritten_modSeq rfl⟩⟩
  refine ⟨_, exec_of_seqReady rfl h, ?_⟩
  simp only [hrun]
  exact regWritten_modSeq rfl

/-- Settles O11: a branch sets the position to its target, or goes on like every instruction. -/
theorem sequencerBranches : Obligations.SequencerBranches := by
  intro s c q r target v
  refine ⟨fun h => ?_, fun h => ?_, fun h => ?_⟩ <;>
    obtain ⟨-, hrun, -⟩ := seqReady_active h <;>
    refine ⟨_, exec_of_seqReady rfl h, ?_⟩
  · exact goesTo_of_running hrun rfl
  · by_cases hz : v.reg r = 0
    · rw [if_pos hz]; exact goesTo_of_running hrun (if_pos hz)
    · rw [if_neg hz]; exact goesTo_modSeq (if_neg hz)
  · by_cases hz : v.reg r = 0
    · rw [if_pos hz]; exact goesTo_modSeq (if_neg (not_not_intro hz))
    · rw [if_neg hz]; exact goesTo_of_running hrun (if_pos hz)

/-- Settles O12: each wait tests its condition once and either goes on or records what it waits for. -/
theorem sequencerWaits : Obligations.SequencerWaits := by
  intro s c q v
  refine ⟨fun engine most h => ⟨fun hle => ?_, fun hlt => ?_⟩, fun k threshold h hwin => ⟨fun hmet => ?_, fun hmet => ?_⟩⟩
  · refine ⟨_, exec_of_seqReady rfl h, ?_⟩
    rw [if_pos hle]; exact goesTo_nextSeq
  · refine ⟨_, exec_of_seqReady rfl h, ?_⟩
    rw [if_neg (Nat.not_le.mpr hlt)]; exact waitsAt_waitSeq _
  · obtain ⟨hlock, hcount⟩ := hmet
    refine ⟨_, exec_of_seqReady rfl h, ?_⟩
    simp only [hwin, hlock, hcount, Bool.not_true, Bool.not_false, decide_true, Bool.and_self, Bool.false_eq_true, if_true, if_false]
    exact goesTo_nextSeq
  · refine ⟨_, exec_of_seqReady rfl h, ?_⟩
    have hcond : (!isLock (s.counter k.toNat) && decide (threshold.toNat ≤ (s.counter k.toNat).toNat)) = false := by
      simpa using hmet
    simp only [hwin, hcond, Bool.not_true, Bool.false_eq_true, if_false]
    exact waitsAt_waitSeq _

/-! ### ISSUE and QUEUE_CLAIM -/

/-- A command of sequencer q is written into its engine's queue, n words long, and the sequencer, whose record is `was` but for what follows, goes on (R334, R335). -/
def fillsQueue (s : State) (c : CtxId) (q : SeqId) (engine : Byte) (t : State) (b : Bytes) (n : Nat) (was : Seq) : Prop :=
  t = { s with queues := t.queues, ctxs := t.ctxs } ∧
  t.queue (queueIx engine.toNat q) = { s.queue (queueIx engine.toNat q) with
    w := ((s.queue (queueIx engine.toNat q)).w + n) % (2 * Config.queueDepth engine.toNat)
    entries := (s.queue (queueIx engine.toNat q)).entries ++
      [({ ctx := c, src := q, b := b, words := n, ready := true, consumed := false } : QEntry)] } ∧
  (∀ j, j ≠ queueIx engine.toNat q → t.queue j = s.queue j) ∧ (∀ d, d ≠ c → t.ctx d = s.ctx d) ∧
  (t.ctx c).seq q = { was with
    unfinished := ((s.ctx c).seq q).unfinished.set engine.toNat (((s.ctx c).seq q).unfinished.getD engine.toNat 0 + 1)
    pos := ((s.ctx c).seq q).pos + 1, status := .running } ∧
  (∀ p, p ≠ q → (t.ctx c).seq p = (s.ctx c).seq p) ∧
  t.ctx c = { s.ctx c with
    seqs := (t.ctx c).seqs
    steppeW := (s.ctx c).steppeW + (if engine = 0 ∧ q = .steppeW then 1 else 0)
    steppeE := (s.ctx c).steppeE + (if engine = 0 ∧ q ≠ .steppeW then 1 else 0) }

/-- The sequencer with one more command unfinished on an engine (R38). -/
def Seq.issued (v : Seq) (engine : Nat) : Seq := { v with unfinished := v.unfinished.set engine (v.unfinished.getD engine 0 + 1) }

/-- The context of an ISSUE counts the command as unfinished, and one for the Steppe in its queue's count (R93). -/
theorem State.ctx_enqueue (s : State) (c : CtxId) (q : SeqId) (engine : Byte) (b : Bytes) :
    (s.enqueue c q engine.toNat b).ctx c = { (s.ctx c).modSeq q (fun v => v.issued engine.toNat) with
      steppeW := (s.ctx c).steppeW + (if engine = 0 ∧ q = .steppeW then 1 else 0)
      steppeE := (s.ctx c).steppeE + (if engine = 0 ∧ q ≠ .steppeW then 1 else 0) } := by
  have h : (s.enqueue c q engine.toNat b).ctx c = (let x := (s.ctx c).modSeq q (fun v => v.issued engine.toNat)
      if engine.toNat = 0 then (if q = .steppeW then { x with steppeW := x.steppeW + 1 } else { x with steppeE := x.steppeE + 1 }) else x) :=
    State.ctx_modCtx_same _ _ _
  have hz : engine.toNat = 0 ↔ engine = 0 := ⟨fun h => BitVec.eq_of_toNat_eq h, fun h => by rw [h]; rfl⟩
  rw [h]
  by_cases he : engine = 0
  · by_cases hq : q = .steppeW <;>
      simp only [he, hq, ne_eq, not_true_eq_false, not_false_eq_true, and_self, and_false, if_true, if_false] <;> rfl
  · simp only [hz, he, false_and, if_false]; rfl

@[simp] theorem State.queue_modCtx (s : State) (c : CtxId) (f : Ctx → Ctx) (i : Nat) : (s.modCtx c f).queue i = s.queue i := rfl

theorem State.queue_enqueue_same (s : State) (c : CtxId) (q : SeqId) (engine : Nat) (b : Bytes) :
    (s.enqueue c q engine b).queue (queueIx engine q) = { s.queue (queueIx engine q) with
      w := ((s.queue (queueIx engine q)).w + b.length / 32) % (2 * Config.queueDepth engine)
      entries := (s.queue (queueIx engine q)).entries ++
        [({ ctx := c, src := q, b := b, words := b.length / 32, ready := true, consumed := false } : QEntry)] } := by
  simp only [State.enqueue, State.queue_modCtx, State.queue_modQueue_same]

theorem State.queue_enqueue_of_ne (s : State) (c : CtxId) {q : SeqId} {engine j : Nat} (b : Bytes) (h : j ≠ queueIx engine q) :
    (s.enqueue c q engine b).queue j = s.queue j := by
  simp only [State.enqueue, State.queue_modCtx, State.queue_modQueue_of_ne s _ h]

theorem fillsQueue_enqueue (s : State) (c : CtxId) (q : SeqId) (engine : Byte) (b : Bytes) {n : Nat} (hb : b.length = 32 * n) {g : Seq → Seq} {was : Seq}
    (hg : g (((s.ctx c).seq q).issued engine.toNat) = { was with
      unfinished := (((s.ctx c).seq q).issued engine.toNat).unfinished, pos := ((s.ctx c).seq q).pos + 1, status := .running }) :
    fillsQueue s c q engine ((s.enqueue c q engine.toNat b).modSeq c q g) b n was := by
  have hn : b.length / 32 = n := by omega
  have hctx : ((s.enqueue c q engine.toNat b).modSeq c q g).ctx c = ((s.enqueue c q engine.toNat b).ctx c).modSeq q g := State.ctx_modCtx_same _ _ _
  have hseq : ∀ p, ((s.enqueue c q engine.toNat b).ctx c).seq p = ((s.ctx c).modSeq q (fun v => v.issued engine.toNat)).seq p :=
    fun p => by rw [State.ctx_enqueue]; rfl
  refine ⟨rfl, ?_, fun j hj => State.queue_enqueue_of_ne s c b hj, fun d hd => ?_, ?_, fun p hp => ?_, ?_⟩
  · rw [← hn]; exact State.queue_enqueue_same s c q engine.toNat b
  · exact (State.ctx_modCtx_of_ne _ _ hd).trans (State.ctx_modCtx_of_ne _ _ hd)
  · rw [hctx, Ctx.seq_modSeq_same, hseq, Ctx.seq_modSeq_same, hg]; rfl
  · rw [hctx, Ctx.seq_modSeq_of_ne _ _ hp, hseq, Ctx.seq_modSeq_of_ne _ _ hp]
  · rw [hctx, State.ctx_enqueue]; rfl

/-- Settles O15: a ready ISSUE, and a claim with room, write the block into the queue; without room the ISSUE records the block that it waits with. -/
theorem issueFillsQueue : Obligations.IssueFillsQueue := by
  intro s c q engine len b i v sub filled
  refine ⟨fun h hmay hwords hlen => ?_, fun hact hstatus hlen hroom => ?_⟩
  · have hguard : (!mayIssue engine.toNat q || decide (cmdWords engine.toNat (fld b 0 1) ≠ some len.toNat) || decide (b.length ≠ 32 * len.toNat)) = false := by
      simp [hmay, hwords, hlen]
    refine ⟨fun hroom => ⟨_, exec_of_seqReady rfl h, ?_⟩, fun hroom => ⟨_, exec_of_seqReady rfl h, ?_⟩⟩
    · simp only [hguard, show s.queueRoom (queueIx engine.toNat q) len.toNat = true from hroom, Bool.false_eq_true, if_false, if_true]
      exact fillsQueue_enqueue s c q engine sub (length_substitute hwords hlen v) rfl
    · simp only [hguard, show s.queueRoom (queueIx engine.toNat q) len.toNat = false from hroom, Bool.false_eq_true, if_false]
      exact waitsAt_waitSeq _
  · refine ⟨(s.enqueue c q engine.toNat b).modSeq c q (fun v => (v.waited 2 s.now).next), ?_, fillsQueue_enqueue s c q engine b hlen rfl⟩
    have hstatus' : ((s.ctx c).seq q).status = .queue engine len.toNat b := hstatus
    have hroom' : s.queueRoom (queueIx engine.toNat q) len.toNat = true := hroom
    simp [exec, execQueueClaim, hstatus', hact, hroom']

/-! ### The twelve sequencers of a context -/

theorem SeqId.mem_all (q : SeqId) : q ∈ SeqId.all := by cases q <;> decide

theorem SeqId.all_iff (P : SeqId → Bool) : SeqId.all.all P = true ↔ ∀ p, P p = true :=
  List.all_eq_true.trans ⟨fun h p => h p (SeqId.mem_all p), fun h p _ => h p⟩

theorem SeqId.any_iff (P : SeqId → Bool) : SeqId.all.any P = true ↔ ∃ p, P p = true :=
  List.any_eq_true.trans ⟨fun ⟨p, _, h⟩ => ⟨p, h⟩, fun ⟨p, h⟩ => ⟨p, SeqId.mem_all p, h⟩⟩

/-- A function applied to some sequencers, each once, reaches those and no other. -/
theorem Ctx.seq_foldl_modSeq (f : Seq → Seq) (q : SeqId) (l : List SeqId) (hl : l.Nodup) (x : Ctx) :
    (l.foldl (fun x p => x.modSeq p f) x).seq q = if q ∈ l then f (x.seq q) else x.seq q := by
  induction l generalizing x with
  | nil => simp
  | cons p l ih =>
    obtain ⟨hp, hl⟩ := List.nodup_cons.mp hl
    rw [List.foldl_cons, ih hl]
    by_cases hq : q = p
    · subst hq; simp [hp]
    · simp [hq, Ctx.seq_modSeq_of_ne _ _ hq]

@[simp] theorem Ctx.seq_modSeqs (x : Ctx) (f : Seq → Seq) (q : SeqId) : (x.modSeqs f).seq q = f (x.seq q) := by
  rw [Ctx.modSeqs, Ctx.seq_foldl_modSeq f q _ (by decide), if_pos (SeqId.mem_all q)]

/-- After one sequencer moved, all twelve have a property exactly when that one has it now and the others had it before. -/
theorem forall_seq_modSeq (P : Seq → Prop) (s : State) (c : CtxId) (q : SeqId) (f : Seq → Seq) :
    (∀ p, P (((s.modSeq c q f).ctx c).seq p)) ↔ P (f ((s.ctx c).seq q)) ∧ ∀ p, p ≠ q → P ((s.ctx c).seq p) := by
  have hother : ∀ p, p ≠ q → ((s.modSeq c q f).ctx c).seq p = (s.ctx c).seq p := (s.seqOnly_modSeq c q f).2.2
  refine ⟨fun h => ⟨State.seq_modSeq_same s c q f ▸ h q, fun p hp => hother p hp ▸ h p⟩, fun ⟨hq, h⟩ p => ?_⟩
  by_cases hp : p = q
  · subst hp; rwa [State.seq_modSeq_same]
  · rw [hother p hp]; exact h p hp

/-- The last of the twelve has come to a status when the others are in it and this one takes it. -/
theorem all_status_modSeq (P : SeqStatus → Bool) (s : State) (c : CtxId) (q : SeqId) {f : Seq → Seq} (hf : P (f ((s.ctx c).seq q)).status = true) :
    SeqId.all.all (fun p => P (((s.modSeq c q f).ctx c).seq p).status) = true ↔ ∀ p, p ≠ q → P ((s.ctx c).seq p).status = true := by
  rw [SeqId.all_iff]
  exact (forall_seq_modSeq (fun v => P v.status = true) s c q f).trans (and_iff_right hf)

/-! ### Saddles -/

/-- A sequencer waits at another plan entry than this one (R408). -/
def SeqStatus.atOther (entry : U16) : SeqStatus → Bool
  | .saddle n => decide (n ≠ entry)
  | _ => false

theorem SeqStatus.atOther_eq_false_iff {entry : U16} {st : SeqStatus} : st.atOther entry = false ↔ ∀ n, st = .saddle n → n = entry := by
  cases st <;> simp [SeqStatus.atOther]

/-- A sequencer arrives at a Saddle's entry (R408). -/
def Seq.arrive (v : Seq) (entry : U16) (now : U64) : Seq := { v.wait (.saddle entry) now with arrived := now }

section
variable {s : State} {c : CtxId} {q : SeqId} {entry : U16} {e : Bytes} (h : seqReady s c q (s.seqAt c q == State.seqWord 0x0E entry.toNat 0) = true)
  (he : s.planEntry? c entry.toNat = some e)
include h

/-- None waits at another entry, this sequencer being one that runs. -/
theorem atOther_any_iff : SeqId.all.any (fun p => ((s.ctx c).seq p).status.atOther entry) = false ↔
    ∀ p, p ≠ q → ∀ n, ((s.ctx c).seq p).status = .saddle n → n = entry := by
  obtain ⟨-, hrun, -⟩ := seqReady_active h
  rw [Bool.eq_false_iff, ne_eq, SeqId.any_iff, not_exists]
  refine ⟨fun hn p _ => SeqStatus.atOther_eq_false_iff.mp (Bool.eq_false_iff.mpr (hn p)), fun hn p => ?_⟩
  by_cases hp : p = q
  · subst hp; rw [hrun]; exact Bool.false_ne_true
  · exact Bool.eq_false_iff.mp (SeqStatus.atOther_eq_false_iff.mpr (hn p hp))

include he

/-- A ready SADDLE of an entry of the plan, by who waits where and who holds the counter (R408, R414). -/
theorem exec_saddle_of_ready : exec (.saddle c q entry) s = .next (
    let k := planCounter e
    let v := s.saddles.getD k (Saddle.open c entry)
    let here := s.modSeq c q (fun w => w.arrive entry s.now)
    if SeqId.all.any (fun p => ((s.ctx c).seq p).status.atOther entry) || decide (v.ctx ≠ c) then s.faultCtx c
    else if (s.ctx c).broken && s.inTree c then s.loseCtx c
    else if SeqId.all.all (fun p => decide (((here.ctx c).seq p).status = .saddle entry)) then
      ({ here with saddles := s.saddles.set k (State.startTimer { v with entry := entry, arrived := some s.now } e s.now) } : State).trySaddle k
    else { here with saddles := s.saddles.set k { v with entry := entry } }) := by
  refine (exec_of_seqReady rfl h).trans (congrArg _ ?_)
  simp only [he]
  rfl

variable (hctx : (s.saddles.getD (planCounter e) (Saddle.open c entry)).ctx = c)
  (hother : ∀ p, p ≠ q → ∀ n, ((s.ctx c).seq p).status = .saddle n → n = entry)
include hctx hother

/-- An arrival at an entry that nobody contests, in a context that no loss has broken (R408, R414). -/
theorem exec_saddle_of_alone (hlost : ¬ ((s.ctx c).broken = true ∧ s.inTree c = true)) : exec (.saddle c q entry) s = .next (
    let k := planCounter e
    let v := s.saddles.getD k (Saddle.open c entry)
    let here := s.modSeq c q (fun w => w.arrive entry s.now)
    if SeqId.all.all (fun p => decide (((here.ctx c).seq p).status = .saddle entry)) then
      ({ here with saddles := s.saddles.set k (State.startTimer { v with entry := entry, arrived := some s.now } e s.now) } : State).trySaddle k
    else { here with saddles := s.saddles.set k { v with entry := entry } }) := by
  have hcontest : (SeqId.all.any (fun p => ((s.ctx c).seq p).status.atOther entry) ||
      decide ((s.saddles.getD (planCounter e) (Saddle.open c entry)).ctx ≠ c)) = false := by
    rw [(atOther_any_iff h).mpr hother, hctx]; simp
  have hlost' : ((s.ctx c).broken && s.inTree c) = false := by simpa using hlost
  rw [exec_saddle_of_ready h he]
  simp only [hcontest, hlost', Bool.false_eq_true, if_false]
end

theorem State.startTimer_of_leaf {v : Saddle} {e : Bytes} (h : planChildren e = []) (now : U64) : State.startTimer v e now = v := by
  simp [State.startTimer, h]

/-- The lags of a Saddle move the histograms alone (R409). -/
theorem State.recordLags_eq (s : State) (v : Saddle) (first last : Nat × Nat) (top : Bool) :
    s.recordLags v first last top = { s with saddleLag := (s.recordLags v first last top).saddleLag } := by
  have hfold : v.arrives.foldl (fun t a => t.lagCount a.2.origin.toNat (a.2.own.toNat - first.1)) s =
      { s with saddleLag := (v.arrives.foldl (fun t a => t.lagCount a.2.origin.toNat (a.2.own.toNat - first.1)) s).saddleLag } :=
    foldl_frame (fun s t => t = { s with saddleLag := t.saddleLag }) (fun _ => rfl) (fun s t u ht hu => by rw [hu, ht]) _ (fun _ _ => rfl) _ _
  unfold State.recordLags
  dsimp only
  split
  · rw [State.lagCount, hfold]
  · exact hfold

section
variable (s : State) (v : Saddle) (first last : Nat × Nat) (top : Bool)

@[simp] theorem State.ctx_recordLags (c : CtxId) : (s.recordLags v first last top).ctx c = s.ctx c := by rw [State.recordLags_eq]; rfl

@[simp] theorem State.passes_recordLags : (s.recordLags v first last top).passes = s.passes := by rw [State.recordLags_eq]

@[simp] theorem State.saddles_recordLags : (s.recordLags v first last top).saddles = s.saddles := by rw [State.recordLags_eq]
end

section
variable {u : State} {k : Nat} {v : Saddle} {own : U64} {e : Bytes} (hk : u.saddles.get? k = some v) (hown : v.arrived = some own)
  (he : u.planEntry? v.ctx v.entry.toNat = some e) (hsent : v.sent = false) (hstate : (u.ctx v.ctx).state ≠ .suspended) (hleaf : planChildren e = [])
include hk hown he hsent hstate hleaf

/-- The device alone in its tree releases its Saddle at its own arrival (R408). -/
theorem State.trySaddle_top (hup : planUplink e = none) : ∃ first last, u.trySaddle k = (u.recordLags v first last true).releaseSaddle k v e := by
  simp only [State.trySaddle, hk, hown, he, hsent, hleaf, hup, List.all_nil, Bool.not_false, Bool.and_true, decide_eq_true hstate,
    Bool.not_true, Bool.false_eq_true, if_false]
  exact ⟨_, _, rfl⟩

/-- A device below its parent, with no child and no reduction, sends its ARRIVE at its own arrival (R408). -/
theorem State.trySaddle_below {n : SelynPort} (hup : planUplink e = some n) (hred : planReduces e = false) : ∃ first last fields,
    u.trySaddle k = { (u.recordLags v first last false).sendControl n 0x01 fields with
      saddles := ((u.recordLags v first last false).sendControl n 0x01 fields).saddles.set k { v with sent := true } } := by
  simp only [State.trySaddle, hk, hown, he, hsent, hleaf, hup, hred, List.all_nil, Bool.not_false, Bool.and_true, Bool.true_or, decide_eq_true hstate,
    Bool.not_true, Bool.false_eq_true, if_false]
  exact ⟨_, _, _, rfl⟩
end

/-- The sequencers that wait at a Saddle's entry go on when it is released; one of a leaf tells no child (R408). -/
theorem State.releaseSaddle_of_leaf (s : State) (k : Nat) {v : Saddle} {e : Bytes} (hleaf : planChildren e = []) :
    (s.releaseSaddle k v e).passes = s.passes.set k (s.passes.getD k 0 + 1) ∧ (s.releaseSaddle k v e).saddles = s.saddles.erase k ∧
      ∀ p, ((s.ctx v.ctx).seq p).status = .saddle v.entry →
        (((s.releaseSaddle k v e).ctx v.ctx).seq p).status = .running ∧ (((s.releaseSaddle k v e).ctx v.ctx).seq p).pos = ((s.ctx v.ctx).seq p).pos + 1 := by
  have hr : s.releaseSaddle k v e =
      (({ s with passes := s.passes.set k (s.passes.getD k 0 + 1), saddles := s.saddles.erase k } : State).noteReleased v.ctx).passSaddle v.ctx v.entry := by
    rw [State.releaseSaddle, hleaf]; rfl
  refine ⟨by rw [hr]; rfl, by rw [hr]; rfl, fun p hp => ?_⟩
  have hq : ((s.releaseSaddle k v e).ctx v.ctx).seq p = (((s.ctx v.ctx).seq p).waited 6 s.now).next := by
    rw [hr, State.passSaddle, State.ctx_modCtx_same, Ctx.seq_modSeqs, State.noteReleased, State.ctx_modCtx_same]
    exact if_pos hp
  rw [hq]
  exact ⟨rfl, rfl⟩

section
variable {s : State} {c : CtxId} {q : SeqId} {entry : U16} {e : Bytes} {v : Saddle}

/-- The state at a device's own arrival: a sequencer at the Saddle, the Saddle's record set. -/
def State.arrivedAt (s : State) (c : CtxId) (q : SeqId) (entry : U16) (k : Nat) (v : Saddle) : State :=
  { s.modSeq c q (fun w => w.arrive entry s.now) with saddles := s.saddles.set k v }

theorem State.ctx_arrivedAt (k : Nat) (d : CtxId) : (s.arrivedAt c q entry k v).ctx d = (s.modSeq c q (fun w => w.arrive entry s.now)).ctx d := rfl

theorem State.planEntry?_arrivedAt (k i : Nat) : (s.arrivedAt c q entry k v).planEntry? c i = s.planEntry? c i := by
  simp only [State.planEntry?, State.ctx_arrivedAt, State.modSeq, State.ctx_modCtx_same, Ctx.modSeq_eq]
  rfl

/-- A sequencer's arrival leaves what else its context holds, and every position. -/
theorem State.state_arrivedAt (k : Nat) : ((s.arrivedAt c q entry k v).ctx c).state = (s.ctx c).state := by
  simp only [State.ctx_arrivedAt, State.modSeq, State.ctx_modCtx_same, Ctx.modSeq_eq]

theorem State.pos_arrivedAt (k : Nat) (p : SeqId) : (((s.arrivedAt c q entry k v).ctx c).seq p).pos = ((s.ctx c).seq p).pos := by
  rw [State.ctx_arrivedAt]
  by_cases hp : p = q
  · subst hp; rw [State.seq_modSeq_same]; rfl
  · rw [(s.seqOnly_modSeq c q _).2.2 p hp]

/-- The device's own arrival at a Saddle without children or a reduction: alone in its tree it releases, below a parent it sends its ARRIVE (R408). -/
theorem State.trySaddle_arrivedAt {k : Nat} (hv : v.ctx = c) (hentry : v.entry = entry) (harrived : v.arrived = some s.now) (hsent : v.sent = false)
    (hact : (s.ctx c).active = true) (he : s.planEntry? c entry.toNat = some e) (hleaf : planChildren e = []) (hred : planReduces e = false)
    (hall : ∀ p, p ≠ q → ((s.ctx c).seq p).status = .saddle entry) :
    let t := (s.arrivedAt c q entry k v).trySaddle k
    (planUplink e = none → t.passes.getD k 0 = s.passes.getD k 0 + 1 ∧ t.saddles.get? k = none ∧
      ∀ p, ((t.ctx c).seq p).status = .running ∧ ((t.ctx c).seq p).pos = ((s.ctx c).seq p).pos + 1) ∧
    (∀ n, planUplink e = some n → t.saddles.get? k = some { v with sent := true } ∧ t.passes = s.passes ∧
      ∀ p, ((t.ctx c).seq p).status = .saddle entry) := by
  subst hv hentry
  intro t
  have hk : (s.arrivedAt v.ctx q v.entry k v).saddles.get? k = some v := by simp [State.arrivedAt, Tab.get?_set]
  have hplan := (State.planEntry?_arrivedAt (q := q) (entry := v.entry) (v := v) k v.entry.toNat).trans he
  have hstate : ((s.arrivedAt v.ctx q v.entry k v).ctx v.ctx).state ≠ .suspended := by
    simp only [Ctx.active, Bool.and_eq_true, decide_eq_true_eq] at hact
    obtain ⟨⟨hready, -⟩, -⟩ := hact
    rw [State.state_arrivedAt, hready]; decide
  have hwait : ∀ p, (((s.arrivedAt v.ctx q v.entry k v).ctx v.ctx).seq p).status = .saddle v.entry :=
    (forall_seq_modSeq (fun w => w.status = .saddle v.entry) s v.ctx q (fun w => w.arrive v.entry s.now)).mpr ⟨rfl, hall⟩
  refine ⟨fun hup => ?_, fun n hup => ?_⟩
  · obtain ⟨first, last, ht⟩ := State.trySaddle_top hk harrived hplan hsent hstate hleaf hup
    obtain ⟨hpasses, hsaddles, hseqs⟩ := ((s.arrivedAt v.ctx q v.entry k v).recordLags v first last true).releaseSaddle_of_leaf k (v := v) hleaf
    rw [← ht] at hpasses hsaddles hseqs
    refine ⟨?_, ?_, fun p => ?_⟩
    · rw [hpasses, Tab.getD_set_same, State.passes_recordLags]; rfl
    · rw [hsaddles, Tab.get?_erase, if_pos rfl]
    · obtain ⟨hrun, hnext⟩ := hseqs p (by rw [State.ctx_recordLags]; exact hwait p)
      rw [State.ctx_recordLags, State.pos_arrivedAt] at hnext
      exact ⟨hrun, hnext⟩
  · obtain ⟨first, last, fields, ht⟩ := State.trySaddle_below hk harrived hplan hsent hstate hleaf hup hred
    obtain ⟨hframe, hlags, -⟩ := ((s.arrivedAt v.ctx q v.entry k v).recordLags v first last false).sendControl_egressOnly n 0x01 fields
    refine ⟨?_, ?_, fun p => ?_⟩
    · rw [show t.saddles = _ from congrArg State.saddles ht, Tab.get?_set, if_pos rfl]
    · rw [show t.passes = _ from congrArg State.passes ht]
      exact (congrArg State.passes hframe).trans (State.passes_recordLags _ _ _ _ _)
    · rw [show t.ctx v.ctx = _ from congrArg (fun u => State.ctx u v.ctx) ht]
      refine (congrArg Seq.status ((hlags v.ctx).2 p)).trans ?_
      rw [State.ctx_recordLags]; exact hwait p
end

/-! ### Boundaries and ends -/

/-- Settles O16: each is one attempt of a ready sequencer, which the state of the other eleven turns into a wait or into the act of the last. -/
theorem boundariesAndEnds : Obligations.BoundariesAndEnds := by
  intro s c q holds others
  refine ⟨fun h => ?_, ?_, fun h => ?_, fun code h => exec_of_seqReady (f := fun s => s.faultCtx c) rfl h⟩
  · have hlast : SeqId.all.all (fun p => decide ((((s.waitSeq c q .boundary).ctx c).seq p).status = .boundary)) = true ↔
        ∀ p, p ≠ q → ((s.ctx c).seq p).status = .boundary :=
      (all_status_modSeq (fun st => decide (st = .boundary)) s c q (f := fun v => v.wait .boundary s.now) rfl).trans (by simp)
    refine ⟨fun hall => ?_, fun hall => ⟨s.waitSeq c q .boundary, ?_, waitsAt_waitSeq _⟩⟩ <;> refine (exec_of_seqReady rfl h).trans (congrArg _ ?_)
    · exact if_pos (hlast.mpr hall)
    · exact if_neg (fun h' => hall (hlast.mp h'))
  · intro entry e h he k v alone lost here v1
    have hlast : SeqId.all.all (fun p => decide ((((s.modSeq c q (fun w => w.arrive entry s.now)).ctx c).seq p).status = .saddle entry)) = true ↔
        ∀ p, p ≠ q → ((s.ctx c).seq p).status = .saddle entry :=
      (all_status_modSeq (fun st => decide (st = .saddle entry)) s c q (f := fun w => w.arrive entry s.now) (decide_eq_true rfl)).trans (by simp)
    refine ⟨fun halone => ?_, fun ⟨hctx, hother⟩ hlost => ?_, fun ⟨hctx, hother⟩ hlost hwait => ?_, fun ⟨hctx, hother⟩ hlost hall => ?_⟩
    · refine (exec_saddle_of_ready h he).trans (congrArg _ (if_pos ?_))
      by_contra hcontest
      rw [Bool.not_eq_true, Bool.or_eq_false_iff, decide_eq_false_iff_not, not_not] at hcontest
      exact halone ⟨hcontest.2, (atOther_any_iff h).mp hcontest.1⟩
    · refine (exec_saddle_of_ready h he).trans (congrArg _ ((if_neg ?_).trans (if_pos ?_)))
      · simp [(atOther_any_iff h).mpr hother, show (s.saddles.getD (planCounter e) (Saddle.open c entry)).ctx = c from hctx]
      · rw [hlost.1, hlost.2]; rfl
    · exact (exec_saddle_of_alone h he hctx hother hlost).trans (congrArg _ (if_neg (fun h' => hwait (hlast.mp h'))))
    · have hexec : exec (.saddle c q entry) s = .next ((s.arrivedAt c q entry k v1).trySaddle k) :=
        (exec_saddle_of_alone h he hctx hother hlost).trans (congrArg _ (if_pos (hlast.mpr hall)))
      refine ⟨hexec, fun hsent hleaf hred => ⟨_, hexec, ?_⟩⟩
      obtain ⟨hact, -, -⟩ := seqReady_active h
      have hv1 : v1 = { v with entry := entry, arrived := some s.now } := State.startTimer_of_leaf hleaf _
      exact State.trySaddle_arrivedAt (by rw [hv1]; exact hctx) (by rw [hv1]) (by rw [hv1]) (by rw [hv1]; exact hsent) hact he hleaf hred hall
  · intro stopped
    have hlast : (stopped.ctx c).allHalted = true ↔ ∀ p, p ≠ q → ((s.ctx c).seq p).status = .halted ∨ ((s.ctx c).seq p).status = .stopped :=
      (all_status_modSeq (fun st => decide (st = .halted) || decide (st = .stopped)) s c q (f := fun v => { v with status := .halted }) rfl).trans (by simp)
    refine ⟨fun hall => ⟨stopped, ?_, s.seqOnly_modSeq c q _, State.seq_modSeq_same s c q _⟩, fun run hrun hall => ?_⟩ <;>
      refine (exec_of_seqReady rfl h).trans (congrArg _ ?_)
    · exact if_neg (fun h' => hall (hlast.mp h'))
    · have hrun' : (stopped.ctx c).run = some run := (congrArg Ctx.run (State.ctx_modCtx_same s c _)).trans hrun
      refine (if_pos (hlast.mpr hall)).trans ?_
      rw [hrun']


end Sys2Proof.Machine
end

section
/-! PROOFS. Sharing the engines (12_sharing_and_preemption.md): whom an arbiter's round grants and what it records, the parcel that an egress sends, and the
command that an idle engine starts. -/

namespace Sys2Proof.Machine

/-! ### The order of requests -/

/-- The place of a request at an arbiter: urgency, then effective priority, then lost rounds (R339, R340). -/
def State.rank (s : State) (a : Nat) (r : ArbReq) : Bool ×ₗ Nat ×ₗ Nat :=
  toLex (r.urgent, toLex ((s.arb a r.who).eff (if r.urgent then 0 else r.base.toNat), (s.arb a r.who).lost))

theorem State.rank_le_iff {s : State} {a : Nat} {x y : ArbReq} : s.rank a x ≤ s.rank a y ↔ x.urgent < y.urgent ∨ x.urgent = y.urgent ∧
    ((s.arb a x.who).eff (if x.urgent then 0 else x.base.toNat) < (s.arb a y.who).eff (if y.urgent then 0 else y.base.toNat) ∨
      (s.arb a x.who).eff (if x.urgent then 0 else x.base.toNat) = (s.arb a y.who).eff (if y.urgent then 0 else y.base.toNat) ∧
        (s.arb a x.who).lost ≤ (s.arb a y.who).lost) := by
  simp only [State.rank, Prod.Lex.toLex_le_toLex]

theorem State.urgent_of_rank_le {s : State} {a : Nat} {x y : ArbReq} (h : s.rank a x ≤ s.rank a y) (hx : x.urgent = true) : y.urgent = true := by
  rcases State.rank_le_iff.mp h with hlt | ⟨heq, -⟩
  · exact (Bool.lt_iff.mp hlt).2
  · exact heq ▸ hx

/-- The arbiter puts a request before another exactly when its place is higher (R340). -/
theorem State.arbBefore_eq_false_iff {s : State} {a : Nat} {x y : ArbReq} : s.arbBefore a x y = false ↔ s.rank a x ≤ s.rank a y := by
  rw [State.rank_le_iff]
  unfold State.arbBefore
  dsimp only
  generalize (s.arb a x.who).eff _ = ex
  generalize (s.arb a y.who).eff _ = ey
  generalize (s.arb a x.who).lost = lx
  generalize (s.arb a y.who).lost = ly
  cases x.urgent <;> cases y.urgent
  case false.true | true.false => simp
  case false.false | true.true =>
    by_cases he : ex = ey
    · simp [he]
    · simp [he, le_iff_lt_or_eq]

section
variable {s : State} {a : Nat} {reqs : List ArbReq}

theorem State.mem_arbBest_iff {w : ArbReq} : w ∈ s.arbBest a reqs ↔ w ∈ reqs ∧ ∀ r ∈ reqs, s.rank a r ≤ s.rank a w := by
  simp [State.arbBest, State.arbBefore_eq_false_iff]

theorem State.arbBest_ne_nil (h : reqs ≠ []) : s.arbBest a reqs ≠ [] := by
  obtain ⟨w, hw, hmax⟩ := reqs.toFinset.exists_max_image (s.rank a) (by simpa [List.toFinset_nonempty_iff] using h)
  exact List.ne_nil_of_mem (State.mem_arbBest_iff.mpr ⟨by simpa using hw, fun r hr => hmax r (by simpa using hr)⟩)

/-! ### One round -/

/-- The records after a round that a request wins (R339, R344). -/
def State.recordRound (s : State) (a : Nat) (reqs : List ArbReq) (win : ArbReq) : State :=
  reqs.foldl (fun s r =>
    let rec_ := s.arb a r.who
    let rec' := if r.who = win.who then rec_.wins s.now else rec_.loses s.now
    { s with arbs := s.arbs.set (arbKey a r.who) rec' }) s

theorem State.arbitrate_nil (s : State) (a : Nat) : s.arbitrate a [] = (none, s) := rfl

/-- The choice among the best of a round, free when there are several (log 15). -/
def State.choice (s : State) (best : List ArbReq) : Nat × State := if best.tail.isEmpty then (0, s) else s.freePick best.length

theorem State.choice_frame (s : State) (best : List ArbReq) : (s.choice best).2 = { s with fresh := (s.choice best).2.fresh } := by
  unfold State.choice
  split <;> rfl

theorem getD_mem_of_mem {α : Type} {l : List α} {d : α} (h : d ∈ l) (i : Nat) : l.getD i d ∈ l := by
  by_cases hi : i < l.length
  · rw [List.getD_eq_getElem _ _ hi]; exact List.getElem_mem hi
  · rwa [List.getD_eq_default _ _ (Nat.not_lt.mp hi)]

/-- A round with requests has a winner that none comes before; the free choice and the records, if it does not withdraw, are what moves (R338, R343). -/
theorem State.arbitrate_of_ne_nil (h : reqs ≠ []) : ∃ w ∈ reqs, ∃ u : State, (∀ r ∈ reqs, s.rank a r ≤ s.rank a w) ∧ u = { s with fresh := u.fresh } ∧
    s.arbitrate a reqs = (some w, if w.leaves then u else u.recordRound a reqs w) := by
  have hbest : s.arbBest a reqs ≠ [] := State.arbBest_ne_nil h
  obtain ⟨b, rest, hb⟩ := List.exists_cons_of_ne_nil hbest
  have hwin : (s.arbBest a reqs).getD (s.choice (s.arbBest a reqs)).1 b ∈ s.arbBest a reqs :=
    getD_mem_of_mem (hb ▸ List.mem_cons_self) _
  obtain ⟨hin, hmax⟩ := State.mem_arbBest_iff.mp hwin
  refine ⟨_, hin, _, hmax, s.choice_frame (s.arbBest a reqs), ?_⟩
  unfold State.arbitrate
  simp only [hb]
  show (if ((b :: rest).getD (s.choice (b :: rest)).1 b).leaves then _ else _) = _
  split <;> rfl

theorem arbKey_injective {a x y : Nat} (h : arbKey a x = arbKey a y) : x = y := Nat.add_left_cancel h

/-- A record set at an arbiter is that requester's; the others' stay. -/
theorem State.arb_set (s : State) (a x y : Nat) (r : ArbRec) :
    ({ s with arbs := s.arbs.set (arbKey a x) r } : State).arb a y = if y = x then r else s.arb a y := by
  by_cases h : y = x
  · subst h; simp [State.arb]
  · rw [if_neg h]; exact Tab.getD_set_of_ne _ _ _ fun e => h (arbKey_injective e)

theorem State.arb_recordRound_of_not_mem (win : ArbReq) {who : Nat} (h : who ∉ reqs.map ArbReq.who) : (s.recordRound a reqs win).arb a who = s.arb a who := by
  induction reqs generalizing s with
  | nil => rfl
  | cons r reqs ih =>
    simp only [List.map_cons, List.mem_cons, not_or] at h
    obtain ⟨hr, hrest⟩ := h
    exact (ih hrest).trans ((s.arb_set a r.who who _).trans (if_neg hr))

/-- Of requesters each of which asks once, the winner's record wins and every other's loses (R339). -/
theorem State.arb_recordRound (win : ArbReq) (hnodup : (reqs.map ArbReq.who).Nodup) {r : ArbReq} (hr : r ∈ reqs) :
    (s.recordRound a reqs win).arb a r.who = if r.who = win.who then (s.arb a r.who).wins s.now else (s.arb a r.who).loses s.now := by
  induction reqs generalizing s with
  | nil => cases hr
  | cons q reqs ih =>
    obtain ⟨hq, hnodup⟩ := List.nodup_cons.mp hnodup
    rcases List.mem_cons.mp hr with rfl | hr
    · exact (State.arb_recordRound_of_not_mem win hq).trans ((s.arb_set a r.who r.who _).trans (if_pos rfl))
    · have hne : r.who ≠ q.who := fun e => hq (e ▸ List.mem_map_of_mem hr)
      refine (ih hnodup hr).trans ?_
      rw [State.arb_set, if_neg hne]
      rfl

/-- The waits that a round counts move contexts alone (R58). -/
theorem State.countRound_eq (s : State) (a : Nat) (reqs : List ArbReq) (win : Option ArbReq) :
    s.countRound a reqs win = { s with ctxs := (s.countRound a reqs win).ctxs } :=
  foldl_frame (fun s t => t = { s with ctxs := t.ctxs }) (fun _ => rfl) (fun s t u ht hu => by rw [hu, ht]) _ (fun s r => by cases r.work <;> rfl) _ _

/-- A state with an arbiter's records and the free choice replaced. -/
def State.withRound (arbs : Tab ArbRec) (fresh : Nat) (s : State) : State := { s with arbs := arbs, fresh := fresh }

/-- The waits that a round counts do not read the arbiters' records or the free choice. -/
theorem State.countRound_withRound (s : State) (a : Nat) (reqs : List ArbReq) (win : Option ArbReq) (x : Tab ArbRec) (y : Nat) :
    (s.withRound x y).countRound a reqs win = (s.countRound a reqs win).withRound x y := by
  unfold State.countRound
  exact List.foldl_hom (State.withRound x y) (fun s r => by cases r.work <;> rfl)

theorem exec_arbiterGrant_channel (h : a < 96) :
    exec (.arbiterGrant a reqs) s = .next ((s.arbitrate a reqs).2.countRound a reqs (s.arbitrate a reqs).1) :=
  congrArg Host.Outcome.next (if_pos h)

/-- One round of a channel's arbiter (R338 to R340, R343). -/
theorem exec_arbiterGrant_of_ne_nil (ha : a < 96) (hreqs : reqs ≠ []) (hnodup : (reqs.map ArbReq.who).Nodup) :
    ∃ t, ∃ w ∈ reqs, exec (.arbiterGrant a reqs) s = .next t ∧ (∀ r ∈ reqs, s.rank a r ≤ s.rank a w) ∧ (w.leaves = true → t.arbs = s.arbs) ∧
      (w.leaves = false → (t.arb a w.who).lost = 0 ∧ (t.arb a w.who).grants = (s.arb a w.who).grants + 1 ∧
        ∀ r ∈ reqs, r ≠ w → (t.arb a r.who).lost = (s.arb a r.who).lost + 1) ∧
      t = { s with arbs := t.arbs, fresh := t.fresh, ctxs := (s.countRound a reqs (some w)).ctxs } := by
  obtain ⟨w, hw, u, hmax, hu, harb⟩ := State.arbitrate_of_ne_nil (s := s) (a := a) hreqs
  have hframe := s.arbitrate_frame a reqs
  have hcount : (s.arbitrate a reqs).2.countRound a reqs (some w) =
      { s with arbs := (s.arbitrate a reqs).2.arbs, fresh := (s.arbitrate a reqs).2.fresh, ctxs := (s.countRound a reqs (some w)).ctxs } := by
    rw [show (s.arbitrate a reqs).2 = s.withRound _ _ from hframe, State.countRound_withRound, State.countRound_eq]; rfl
  have hwin : (s.arbitrate a reqs).1 = some w := congrArg Prod.fst harb
  refine ⟨_, w, hw, (exec_arbiterGrant_channel ha).trans (by rw [hwin, hcount]), hmax, fun hl => ?_, fun hl => ?_, rfl⟩
  · show (s.arbitrate a reqs).2.arbs = _
    rw [harb, hl, hu]; rfl
  · have hround : (s.arbitrate a reqs).2 = u.recordRound a reqs w := by rw [harb, hl]; rfl
    have hrecs : ∀ r ∈ reqs, (s.arbitrate a reqs).2.arb a r.who = if r.who = w.who then (s.arb a r.who).wins s.now else (s.arb a r.who).loses s.now :=
      fun r hr => by rw [hround, State.arb_recordRound w hnodup hr, hu]; rfl
    have hwho : ∀ r ∈ reqs, r ≠ w → r.who ≠ w.who := fun r hr hne e => hne (List.inj_on_of_nodup_map hnodup hr hw e)
    have hrec := hrecs w hw
    rw [if_pos rfl] at hrec
    refine ⟨congrArg ArbRec.lost hrec, congrArg ArbRec.grants hrec, fun r hr hne => ?_⟩
    have hlose := hrecs r hr
    rw [if_neg (hwho r hr hne)] at hlose
    exact congrArg ArbRec.lost hlose
end

/-! ### One round of a Selyn egress -/

/-- Only control parcels ask under the number of control parcels (R338, R387). -/
theorem Frame.who_eq_control_iff {f : Frame} : f.who = 0x10 ↔ f.data = false := by
  unfold Frame.who
  cases f.data
  · simp
  · by_cases hs : f.stream = 0xFFFF
    · simp [hs]
    · simp only [hs, Bool.not_true, Bool.false_eq_true, if_false, Bool.true_eq_false, iff_false]; omega

theorem Link.carry_eq (l : Link) : l.carry = { l with giveBack := l.carry.giveBack } := by
  unfold Link.carry
  split <;> rfl

section
variable (l : Link) (f : Frame)

@[simp] theorem Link.waitq_transmit : (l.transmit f).waitq = l.waitq := by
  rw [Link.transmit, Link.carry_eq]

@[simp] theorem Link.credit_transmit : (l.transmit f).credit f.vc = l.credit f.vc - 1 := Tab.getD_set_same _ _ _ _
end

@[simp] theorem State.links_sendsGone (s : State) (n : SelynPort) : (s.sendsGone n).links = s.links := by
  unfold State.sendsGone
  refine (foldl_frame (fun s t => t.links = s.links) (fun _ => rfl) (fun s t u ht hu => hu.trans ht) _ ?_ _ _).trans ?_
  · exact fun _ _ => rfl
  · rfl

section
variable {s : State} {n : SelynPort}

theorem State.egressRound_of_not_ready (h : (s.link n).ready = []) : s.egressRound n = s := by
  simp only [State.egressRound, h, List.map_nil, State.arbitrate_nil]

/-- A round with a parcel that can go sends one, a control parcel before data (R338, R339, R396). -/
theorem State.egressRound_of_ready (h : (s.link n).ready ≠ []) : ∃ f ∈ (s.link n).ready, ((∃ g ∈ (s.link n).ready, g.data = false) → f.data = false) ∧
    (s.egressRound n).links = (s.modLink n (fun l => ({ l with waitq := l.waitq.erase f } : Link).transmit f)).links := by
  obtain ⟨w, hw, u, hmax, -, harb⟩ := State.arbitrate_of_ne_nil (s := s) (a := 113 + n.val) (reqs := (s.link n).ready.map s.frameRequest) (by simpa using h)
  obtain ⟨f0, hf0, rfl⟩ := List.mem_map.mp hw
  obtain ⟨f, hfind⟩ : ∃ f, (s.link n).ready.find? (fun f => f.who == (s.frameRequest f0).who) = some f :=
    Option.isSome_iff_exists.mp (List.find?_isSome.mpr ⟨f0, hf0, by simp [State.frameRequest]⟩)
  have hwho : f.who = f0.who := by simpa [State.frameRequest] using List.find?_some hfind
  refine ⟨f, List.mem_of_find?_eq_some hfind, fun ⟨g, hg, hdata⟩ => ?_, ?_⟩
  · have hurgent : f0.data = false := by
      simpa [State.frameRequest] using State.urgent_of_rank_le (hmax _ (List.mem_map_of_mem hg)) (by simp [State.frameRequest, hdata])
    exact Frame.who_eq_control_iff.mp (hwho.trans (Frame.who_eq_control_iff.mpr hurgent))
  · have hframe := s.arbitrate_frame (113 + n.val) ((s.link n).ready.map s.frameRequest)
    generalize (if (s.frameRequest f0).leaves then u else _) = s1 at harb
    rw [harb] at hframe
    have hlinks : s1.links = s.links := by rw [show s1 = _ from hframe]
    simp only [State.egressRound, harb, hfind, State.links_sendsGone]
    simp only [State.modLink, State.link, hlinks]
end

theorem State.selynPorts_find (n : SelynPort) : State.selynPorts.find? (fun m => decide (113 + m.val = 113 + n.val)) = some n := by
  revert n; decide

theorem exec_arbiterGrant_egress (s : State) (n : SelynPort) (reqs : List ArbReq) : exec (.arbiterGrant (113 + n.val) reqs) s = .next (s.egressRound n) := by
  refine congrArg Host.Outcome.next ?_
  rw [if_neg (by omega), if_neg (by omega), if_neg (by omega), if_neg (by omega), if_neg (by omega), State.selynPorts_find]

/-- Settles O34: the winner of a round is a request of the highest place, and the round's records are those of its requesters; an egress round sends the
parcel of the winner. -/
theorem arbiterGrantsHighest : Obligations.ArbiterGrantsHighest := by
  refine ⟨fun s a reqs ha hreqs hnodup => ?_, fun s n reqs => ⟨fun hready => ?_, fun hready => ?_⟩⟩
  · intro lost eff
    obtain ⟨t, w, hw, hexec, hmax, hleaves, hstays, hframe⟩ := exec_arbiterGrant_of_ne_nil (s := s) ha hreqs hnodup
    refine ⟨t, w, hw, hexec, fun r hr => State.urgent_of_rank_le (hmax r hr), fun r hr hurgent => ?_, hleaves, hstays, hframe⟩
    rcases State.rank_le_iff.mp (hmax r hr) with hlt | ⟨-, hlt | ⟨heq, hlost⟩⟩
    · exact absurd hurgent hlt.ne
    · exact ⟨hlt.le, fun he => absurd he hlt.ne⟩
    · exact ⟨heq.le, fun _ => hlost⟩
  · rw [exec_arbiterGrant_egress, State.egressRound_of_not_ready hready]
  · obtain ⟨f, hf, hcontrol, hlinks⟩ := State.egressRound_of_ready hready
    have hlink : ∀ m, (s.egressRound n).link m = (s.modLink n (fun l => ({ l with waitq := l.waitq.erase f } : Link).transmit f)).link m :=
      fun m => congrArg (fun ls => Tab.getD ls m.val Link.init) hlinks
    have hsame := (hlink n).trans (State.link_modLink_same s n _)
    refine ⟨_, f, hf, exec_arbiterGrant_egress s n reqs, hcontrol, ?_, ?_, ?_, ?_, fun m hm => (hlink m).trans (State.link_modLink_of_ne s _ hm),
      s.egressRound_egressOnly n⟩ <;> rw [hsame]
    · exact Link.waitq_transmit _ _
    · rfl
    · rfl
    · exact Link.credit_transmit _ _

/-! ### The grant of an idle engine -/

/-- What is noted of commands that wait moves contexts alone (R58). -/
def notesOnly (s t : State) : Prop := t = { s with ctxs := t.ctxs }

/-- A grant moves queues, arbiters' records, the free choice and what is noted in contexts alone. -/
def grantOnly (s t : State) : Prop := t = { s with queues := t.queues, arbs := t.arbs, fresh := t.fresh, ctxs := t.ctxs }

theorem notesOnly_refl (s : State) : notesOnly s s := rfl
theorem notesOnly_trans (s t u : State) (h : notesOnly s t) (h' : notesOnly t u) : notesOnly s u := by
  unfold notesOnly at *; rw [h', h]
theorem grantOnly_trans {s t u : State} (h : grantOnly s t) (h' : grantOnly t u) : grantOnly s u := by
  unfold grantOnly at *; rw [h', h]
theorem notesOnly.grantOnly {s t : State} (h : notesOnly s t) : grantOnly s t := by
  unfold notesOnly at h; unfold Machine.grantOnly; rw [h]
theorem notesOnly.queue {s t : State} (h : notesOnly s t) (j : Nat) : t.queue j = s.queue j := by
  unfold notesOnly at h; rw [h]; rfl
theorem notesOnly.saving {s t : State} (h : notesOnly s t) : t.saving = s.saving := by
  unfold notesOnly at h; rw [h]

section
variable (s : State)

theorem notesOnly_foldl {α : Type} {g : State → α → State} (h : ∀ s a, notesOnly s (g s a)) (l : List α) : notesOnly s (l.foldl g s) :=
  foldl_frame notesOnly notesOnly_refl notesOnly_trans g h l s

theorem notesOnly_noteWait (c : CtxId) (on : State.Copies) (cause buf : Nat) : notesOnly s (s.noteWait c on cause buf) := rfl

theorem notesOnly_arbiterWait (i : Nat) (e : QEntry) : notesOnly s (s.arbiterWait i e) := rfl

theorem notesOnly_noteHeld (i : Nat) : notesOnly s (s.noteHeld i) := by
  unfold State.noteHeld
  refine notesOnly_foldl s (fun t e => ?_) _
  split
  · exact notesOnly_noteWait t _ _ _ _
  · split
    · exact notesOnly_noteWait t _ _ _ _
    · split
      · exact notesOnly_refl t
      · exact notesOnly_noteWait t _ _ _ _

theorem notesOnly_lonely (i j : Nat) : notesOnly s (s.lonely i j) :=
  notesOnly_foldl s (fun t (e : QEntry) => notesOnly_noteWait t e.ctx [(i, e.src, e.b)] 0 _) _

theorem notesOnly_arbiterHolds (i : Nat) (es : List QEntry) : notesOnly s (s.arbiterHolds i es) :=
  notesOnly_foldl s (fun t (e : QEntry) => notesOnly_noteWait t e.ctx [(i, e.src, e.b)] 3 0) _

theorem notesOnly_searchWait (i : Nat) (e : QEntry) : notesOnly s (s.searchWait i e) := by
  unfold State.searchWait
  dsimp only
  split
  · split
    · exact notesOnly_refl s
    · exact notesOnly_noteWait s _ _ _ _
  · exact notesOnly_refl s

/-- A started entry runs, consumed (R337). -/
theorem Queue.running_begin (u : Queue) (e : QEntry) (depth : Nat) : (u.begin e depth).running = some { e with consumed := true } := by
  unfold Queue.begin
  split <;> rfl

@[simp] theorem State.running_beginEntry (i : Nat) (e : QEntry) : ((s.beginEntry i e).queue i).running = some { e with consumed := true } := by
  rw [State.beginEntry, State.queue_modQueue_same, Queue.running_begin]

theorem grantOnly_beginEntry (i : Nat) (e : QEntry) : grantOnly s (s.beginEntry i e) := rfl

theorem State.queue_beginEntry_of_ne {i j : Nat} (e : QEntry) (h : j ≠ i) : (s.beginEntry i e).queue j = s.queue j := State.queue_modQueue_of_ne s _ h
end

section
variable {s : State} {a : Nat} {reqs : List ArbReq}

/-- A round grants one of the things that ask, the first of those that ask as its winner does, and moves no queue (R338). -/
theorem State.arbitrate_map_of_ne_nil {α : Type} {cs : List α} (hcs : cs ≠ []) (f : α → ArbReq) :
    ∃ r s1 c, s.arbitrate a (cs.map f) = (some r, s1) ∧ cs.find? (fun c => (f c).who == r.who) = some c ∧ c ∈ cs ∧
      s1 = { s with arbs := s1.arbs, fresh := s1.fresh } := by
  obtain ⟨w, hw, u, -, -, harb⟩ := State.arbitrate_of_ne_nil (s := s) (a := a) (reqs := cs.map f) (by simpa using hcs)
  obtain ⟨c0, hc0, rfl⟩ := List.mem_map.mp hw
  obtain ⟨c, hc⟩ : ∃ c, cs.find? (fun c => (f c).who == (f c0).who) = some c :=
    Option.isSome_iff_exists.mp (List.find?_isSome.mpr ⟨c0, hc0, by simp⟩)
  have hframe := s.arbitrate_frame a (cs.map f)
  generalize (if (f c0).leaves then u else _) = s1 at harb
  rw [harb] at hframe
  exact ⟨_, s1, c, harb, hc, List.mem_of_find?_eq_some hc, hframe⟩

/-- A round moves no queue (R338). -/
theorem State.queue_of_round {s1 : State} (h : s1 = { s with arbs := s1.arbs, fresh := s1.fresh }) (j : Nat) : s1.queue j = s.queue j := by
  rw [h]; rfl

theorem exec_arbiterGrant_queue (h1 : 97 ≤ a) (h2 : a ≤ 112) : exec (.arbiterGrant a reqs) s = .next (s.grantQueue a (a - 95)) := by
  refine congrArg Host.Outcome.next ?_
  rw [if_neg (by omega), if_neg (by omega)]
  by_cases h97 : a = 97
  · subst h97; rfl
  · by_cases h98 : a = 98
    · subst h98; rfl
    · rw [if_neg h97, if_neg h98, if_pos h2]

theorem exec_arbiterGrant_steppe : exec (.arbiterGrant 96 reqs) s = .next s.grantSteppe := by
  refine congrArg Host.Outcome.next ?_
  rw [if_neg (by decide), if_pos rfl]

theorem State.grantQueue_of_busy {i : Nat} (h : ((s.noteHeld i).queue i).running.isSome = true) : s.grantQueue a i =
    (((s.noteHeld i).holdAll a (((s.noteHeld i).candidates i).map (s.noteHeld i).request)).arbiterHolds i ((s.noteHeld i).candidates i)) := by
  simp only [State.grantQueue, h, if_true]

theorem State.grantQueue_of_idle {i : Nat} (h : ((s.noteHeld i).queue i).running = none) (hcs : (s.noteHeld i).candidates i = []) :
    s.grantQueue a i = s.noteHeld i := by
  simp [State.grantQueue, h, hcs, State.arbitrate_nil]

/-- An idle engine with candidates starts one of them (R336 to R338). -/
theorem State.grantQueue_starts {i : Nat} (h : ((s.noteHeld i).queue i).running = none) (hcs : (s.noteHeld i).candidates i ≠ []) :
    ∃ e ∈ (s.noteHeld i).candidates i, ((s.grantQueue a i).queue i).running = some { e with consumed := true } ∧
      (∀ j, j ≠ i → (s.grantQueue a i).queue j = s.queue j) ∧ grantOnly s (s.grantQueue a i) := by
  obtain ⟨r, s1, e, harb, hfind, he, hframe⟩ := State.arbitrate_map_of_ne_nil (s := s.noteHeld i) (a := a) hcs (s.noteHeld i).request
  have hfind' : ((s.noteHeld i).candidates i).find? (fun e => e.who == r.who) = some e := hfind
  have hgrant : s.grantQueue a i =
      (((s1.arbiterHolds i (((s.noteHeld i).candidates i).erase e)).arbiterWait i e).beginEntry i e).searchWait i e := by
    simp [State.grantQueue, h, harb, hfind']
  have hnotes : notesOnly s1 ((s1.arbiterHolds i (((s.noteHeld i).candidates i).erase e)).arbiterWait i e) :=
    notesOnly_trans _ _ _ (notesOnly_arbiterHolds _ _ _) (notesOnly_arbiterWait _ _ _)
  have hs1 : grantOnly s s1 := grantOnly_trans (notesOnly_noteHeld s i).grantOnly (by unfold grantOnly; rw [hframe])
  have hq1 : ∀ j, s1.queue j = s.queue j := fun j =>
    (State.queue_of_round hframe j).trans ((notesOnly_noteHeld s i).queue j)
  have hwait := notesOnly_searchWait ((((s1.arbiterHolds i (((s.noteHeld i).candidates i).erase e)).arbiterWait i e)).beginEntry i e) i e
  rw [hgrant]
  refine ⟨e, he, ?_, fun j hj => ?_, grantOnly_trans hs1 (grantOnly_trans hnotes.grantOnly (grantOnly_trans (grantOnly_beginEntry _ _ _) hwait.grantOnly))⟩
  · rw [hwait.queue, State.running_beginEntry]
  · rw [hwait.queue, State.queue_beginEntry_of_ne _ _ hj, hnotes.queue, hq1]
end

/-- What the Steppe issue port notes before its round (R93, R311, R327, R336). -/
def State.steppeNoted (s : State) : State := (((s.noteHeld 0).noteHeld 1).lonely 0 1).lonely 1 0

/-- The pairs that the issue port passes over wait for it in both queues (R58). -/
def State.steppeHolds (s : State) (ps : List (QEntry × QEntry)) : State :=
  (s.arbiterHolds 0 (ps.map (fun p => p.1))).arbiterHolds 1 (ps.map (fun p => p.2))

/-- The Steppe can take a command: neither queue's engine runs one, and no save is under way (R124, R342). -/
def State.steppeIdle (s : State) : Prop := (s.queue 0).running = none ∧ (s.queue 1).running = none ∧ s.saving = none

section
variable {s : State}

theorem State.steppeNoted_eq (s : State) : (((s.noteHeld 0).noteHeld 1).lonely 0 1).lonely 1 0 = s.steppeNoted := rfl

theorem notesOnly_steppeNoted (s : State) : notesOnly s s.steppeNoted :=
  notesOnly_trans _ _ _ (notesOnly_noteHeld s 0) (notesOnly_trans _ _ _ (notesOnly_noteHeld _ 1)
    (notesOnly_trans _ _ _ (notesOnly_lonely _ 0 1) (notesOnly_lonely _ 1 0)))

theorem notesOnly_steppeHolds (s : State) (ps : List (QEntry × QEntry)) : notesOnly s (s.steppeHolds ps) :=
  notesOnly_trans _ _ _ (notesOnly_arbiterHolds s 0 _) (notesOnly_arbiterHolds _ 1 _)

theorem State.steppeIdle_steppeNoted : s.steppeNoted.steppeIdle ↔ s.steppeIdle := by
  have h := notesOnly_steppeNoted s
  simp only [State.steppeIdle, h.queue, h.saving]

/-- The test that the issue port makes. -/
theorem State.steppeIdle_iff : ((s.queue 0).running.isSome || (s.queue 1).running.isSome || s.saving.isSome) = false ↔ s.steppeIdle := by
  simp [State.steppeIdle, and_assoc]

theorem State.grantSteppe_of_busy (h : ¬ s.steppeIdle) : s.grantSteppe =
    ((s.steppeNoted.holdAll 96 (s.steppeNoted.steppeCandidates.map (fun p => s.steppeNoted.request p.1))).arbiterHolds 0
      (s.steppeNoted.steppeCandidates.map (fun p => p.1))).arbiterHolds 1 (s.steppeNoted.steppeCandidates.map (fun p => p.2)) := by
  have hbusy := Bool.not_eq_false _ ▸ (State.steppeIdle_iff.trans State.steppeIdle_steppeNoted).not.mpr h
  unfold State.grantSteppe
  simp only [State.steppeNoted_eq, hbusy, if_true]

section
variable (h : s.steppeIdle)
include h

theorem State.grantSteppe_of_idle (hcs : s.steppeNoted.steppeCandidates = []) : s.grantSteppe = s.steppeNoted := by
  have hidle := State.steppeIdle_iff.mpr (State.steppeIdle_steppeNoted.mpr h)
  unfold State.grantSteppe
  simp only [State.steppeNoted_eq, hidle, hcs, List.map_nil, State.arbitrate_nil, Bool.false_eq_true, if_false]

/-- The idle Steppe with candidates starts one context's command in both of its queues (R93, R338). -/
theorem State.grantSteppe_starts (hcs : s.steppeNoted.steppeCandidates ≠ []) : ∃ p ∈ s.steppeNoted.steppeCandidates,
    (s.grantSteppe.queue 0).running = some { p.1 with consumed := true } ∧ (s.grantSteppe.queue 1).running = some { p.2 with consumed := true } ∧
      (∀ j, 2 ≤ j → s.grantSteppe.queue j = s.queue j) ∧ grantOnly s s.grantSteppe := by
  have hidle := State.steppeIdle_iff.mpr (State.steppeIdle_steppeNoted.mpr h)
  obtain ⟨r, s1, ⟨w, e⟩, harb, hfind, hp, hframe⟩ :=
    State.arbitrate_map_of_ne_nil (s := s.steppeNoted) (a := 96) hcs (fun p => s.steppeNoted.request p.1)
  have hfind' : s.steppeNoted.steppeCandidates.find? (fun p => p.1.who == r.who) = some (w, e) := hfind
  have hgrant : s.grantSteppe = ((((s1.steppeHolds (s.steppeNoted.steppeCandidates.erase (w, e))).arbiterWait 0 w).arbiterWait 1 e).beginEntry 0 w).beginEntry 1 e := by
    unfold State.grantSteppe
    simp only [State.steppeNoted_eq, hidle, harb, hfind', Bool.false_eq_true, if_false]
    rfl
  have hnotes : notesOnly s1 (((s1.steppeHolds (s.steppeNoted.steppeCandidates.erase (w, e))).arbiterWait 0 w).arbiterWait 1 e) :=
    notesOnly_trans _ _ _ (notesOnly_steppeHolds s1 _) (notesOnly_trans _ _ _ (notesOnly_arbiterWait _ 0 w) (notesOnly_arbiterWait _ 1 e))
  have hs1 : grantOnly s s1 := grantOnly_trans (notesOnly_steppeNoted s).grantOnly (by unfold grantOnly; rw [hframe])
  have hq1 : ∀ j, s1.queue j = s.queue j := fun j =>
    (State.queue_of_round hframe j).trans ((notesOnly_steppeNoted s).queue j)
  have hs : grantOnly s s.grantSteppe := by
    rw [hgrant]
    exact grantOnly_trans hs1 (grantOnly_trans hnotes.grantOnly (grantOnly_trans (grantOnly_beginEntry _ 0 w) (grantOnly_beginEntry _ 1 e)))
  refine ⟨(w, e), hp, ?_, ?_, fun j hj => ?_, hs⟩
  · rw [hgrant, State.queue_beginEntry_of_ne _ e (by decide), State.running_beginEntry]
  · rw [hgrant, State.running_beginEntry]
  · rw [hgrant, State.queue_beginEntry_of_ne _ e (by omega), State.queue_beginEntry_of_ne _ w (by omega), hnotes.queue, hq1]
end
end

/-- Settles O35: the notes of a round move contexts alone, so the engine is as idle after them as before, and its round grants one of its candidates. -/
theorem grantStartsCandidate : Obligations.GrantStartsCandidate := by
  intro s a reqs
  refine ⟨fun h1 h2 => ?_, fun ha => ?_⟩
  · intro i u
    have hexec := exec_arbiterGrant_queue (s := s) (reqs := reqs) h1 h2
    have hqueue : u.queue i = s.queue i := (notesOnly_noteHeld s i).queue i
    refine ⟨fun r hr => hexec.trans (congrArg _ (State.grantQueue_of_busy (by rw [show (s.noteHeld i).queue i = _ from hqueue, hr]; rfl))), fun hr => ?_⟩
    have hidle : (u.queue i).running = none := by rw [hqueue, hr]
    refine ⟨fun hcs => hexec.trans (congrArg _ (State.grantQueue_of_idle hidle hcs)), fun hcs => ?_⟩
    obtain ⟨e, he, hrun, hothers, hframe⟩ := State.grantQueue_starts (a := a) hidle hcs
    exact ⟨_, e, he, hexec, hrun, hothers, hframe⟩
  · subst ha
    intro u idle
    refine ⟨fun h => exec_arbiterGrant_steppe.trans (congrArg _ (State.grantSteppe_of_busy h)), fun h hcs => exec_arbiterGrant_steppe.trans (congrArg _ (State.grantSteppe_of_idle h hcs)), fun h hcs => ?_⟩
    obtain ⟨p, hp, h0, h1, hothers, hframe⟩ := State.grantSteppe_starts h hcs
    exact ⟨_, p, hp, exec_arbiterGrant_steppe, h0, h1, hothers, hframe⟩

end Sys2Proof.Machine
end

section
/-! PROOFS. What stops an engine command (R58, R96, R325, R326), and the step descriptors' place among their context's steps (R376, R377). -/

namespace Sys2Proof.Machine

/-! ### Engine commands that stop -/

theorem exec_topk (s : State) (c : CtxId) (q : SeqId) (b : Bytes) : exec (.topk c q b) s =
    .next (s.runCommand c (State.copyOf 6 q b) (mayIssue 6 q && s.topkOk c b (Topk.of b)) (State.topkAcc (Topk.of b)) State.noPoisonRule
      (fun t => t.topkEff c q (Topk.of b)) (fun t => t.engineDone c q 6)) := rfl

/-- Settles O17: TOPK's command is one of runCommand's form without a rule for poisoned parcels of its own. -/
theorem engineCommandStops : Obligations.EngineCommandStops := by
  intro s c q b x on acc runs allowed
  have hactive : runs → (s.ctx c).active = true ∧ s.started c on = true := fun h => (Bool.and_eq_true _ _).mp h
  rw [exec_topk]
  refine ⟨fun hr => ?_, fun hr ha => ?_, fun hr ha hres => ?_, fun a hr ha hres hp => ?_⟩
  · rw [State.runCommand_inactive (Bool.eq_false_iff.mpr hr)]
  · obtain ⟨hact, hstart⟩ := hactive hr
    rw [Bool.eq_false_iff.mpr ha, State.runCommand_refused hact hstart]
  · obtain ⟨hact, hstart⟩ := hactive hr
    rw [show _ = true from ha, State.runCommand_waits hact hstart hres]
  · obtain ⟨hact, hstart⟩ := hactive hr
    rw [show _ = true from ha, State.runCommand_poison hact hstart hres hp]
    rfl

/-! ### A descriptor that is expanded -/

theorem ctxOnly_modCtx (s : State) (c : CtxId) (f : Ctx → Ctx) : ctxOnly s (s.modCtx c f) c :=
  ⟨rfl, fun _ h => State.ctx_modCtx_of_ne s f h⟩

theorem ctxOnly_trans {s t u : State} {c : CtxId} (h : ctxOnly s t c) (h' : ctxOnly t u c) : ctxOnly s u c := by
  obtain ⟨ht, hctx⟩ := h
  obtain ⟨hu, hctx'⟩ := h'
  exact ⟨by rw [hu, ht], fun d hd => (hctx' d hd).trans (hctx d hd)⟩

/-- A descriptor that passes its admission at once takes its opcode's effect (R377). -/
theorem exec_of_expandsNow {i : Instr} {s : State} {d : Desc} (hi : carries i = some d) (h : expandsNow s d = true) :
    exec i s = .next ((expanded s d).descEffect d) := by
  obtain ⟨hadmitted, -⟩ := descriptorsAdmitted
  obtain ⟨-, -, -, -, hexpands, -⟩ := hadmitted i s d hi
  exact hexpands h

/-- An expanded descriptor is fetched, outstanding, and its completion entry reserved; its context moves in nothing else (R372, R373). -/
def Ctx.withDesc (x : Ctx) (d : Desc) : Ctx :=
  { x with outstanding := x.outstanding ++ [(d, false)], reserved := x.reserved + 1
           fetchedN := x.fetchedN.set d.ring.toNat (x.fetchedN.getD d.ring.toNat 0 + 1) }

@[simp] theorem State.ctx_expanded (s : State) (d : Desc) : (expanded s d).ctx d.ctx = (s.ctx d.ctx).withDesc d := by
  rw [expanded, State.take, State.ctx_modCtx_same, State.countFetch, State.ctx_modCtx_same]
  rfl

theorem ctxOnly_expanded (s : State) (d : Desc) : ctxOnly s (expanded s d) d.ctx := by
  unfold expanded State.take
  exact ctxOnly_trans (t := s.countFetch d) (ctxOnly_modCtx _ _ _) (ctxOnly_modCtx _ _ _)

/-! ### Step descriptors -/

/-- The ten opcodes of step descriptors (R378). -/
def stepOps : List Nat := [0x01, 0x02, 0x03, 0x04, 0x05, 0x09, 0x0A, 0x0B, 0x12, 0x13]

theorem State.descEffect_of_stepOps (s : State) {d : Desc} (h : descOp d ∈ stepOps) : s.descEffect d = s.stepDescriptor d := by
  simp only [stepOps, List.mem_cons, List.not_mem_nil, or_false] at h
  rcases h with h | h | h | h | h | h | h | h | h | h <;> simp only [State.descEffect, h]

theorem descOp_of_carries_step {d : Desc} : ∀ i ∈ [Instr.query d, .embed d, .search d, .rerank d, .generate d, .insert d, .delete d, .trainStep d,
    .tokenize d, .detokenize d], carries i = some d → descOp d ∈ stepOps := by
  simp +contextual [carries, stepOps]

/-- Whether a STEP waits among a context's steps (R376). -/
def Ctx.behindStep (x : Ctx) : Bool := x.steps.any (fun f => descOp f == 0x11)

/-- A step descriptor is lost with its context's tree: an image is bound and broken, and no STEP comes before it (R414). -/
def Ctx.stepLost (x : Ctx) : Prop := x.behindStep = false ∧ x.image.isSome = true ∧ x.broken = true

section
variable {s : State} {d : Desc}

theorem State.stepDescriptor_of_lost (h : (s.ctx d.ctx).stepLost) : s.stepDescriptor d = s.complete d (Done.of .linkLost 0) := by
  obtain ⟨hbehind, himage, hbroken⟩ := h
  rw [Ctx.behindStep] at hbehind
  simp [State.stepDescriptor, hbehind, himage, hbroken]

section
variable (h : ¬ (s.ctx d.ctx).stepLost)
include h

/-- The test for a broken context, as the dispatch unit makes it. -/
theorem Ctx.stepLost_test : ((s.ctx d.ctx).broken && (s.ctx d.ctx).image.isSome && !(s.ctx d.ctx).steps.any (fun e => descOp e == 0x11)) = false := by
  rw [Bool.eq_false_iff]
  simp only [ne_eq, Bool.and_eq_true, Bool.not_eq_true']
  exact fun ⟨⟨hbroken, himage⟩, hbehind⟩ => h ⟨hbehind, himage, hbroken⟩

theorem State.stepDescriptor_of_badArea (harea : s.stepAreasOk d = false) :
    s.stepDescriptor d = (s.hostCheckFailed d.ctx).complete d (Done.of .uncorrectable 0) := by
  simp only [State.stepDescriptor, Ctx.stepLost_test h, harea, Bool.false_eq_true, if_false, Bool.not_false, if_true]

section
variable (harea : s.stepAreasOk d = true)
include harea

theorem State.stepDescriptor_of_badOperands (hops : s.stepOperandsOk d = false) : s.stepDescriptor d = s.complete d (Done.of .protocol 0) := by
  simp only [State.stepDescriptor, Ctx.stepLost_test h, harea, hops, Bool.false_eq_true, if_false, Bool.not_true]

theorem State.stepDescriptor_of_sound (hops : s.stepOperandsOk d = true) : s.stepDescriptor d = s.stepEnter d := by
  simp only [State.stepDescriptor, Ctx.stepLost_test h, harea, hops, Bool.false_eq_true, if_false, if_true, Bool.not_true]
end

/-- A step descriptor with a STEP or an image before it takes the last place among its context's steps (R376). -/
theorem State.stepEnter_queues (hplace : (s.ctx d.ctx).behindStep = true ∨ (s.ctx d.ctx).image.isSome = true) :
    s.stepEnter d = s.modCtx d.ctx (fun x => { x with steps := x.steps ++ [d] }) := by
  rcases hbehind : (s.ctx d.ctx).behindStep with _ | _
  · have himage : (s.ctx d.ctx).image.isSome = true := by simpa [hbehind] using hplace
    have hbroken : (s.ctx d.ctx).broken = false := Bool.eq_false_iff.mpr fun hb => h ⟨hbehind, himage, hb⟩
    rw [Ctx.behindStep] at hbehind
    simp [State.stepEnter, hbehind, Option.isSome_iff_ne_none.mp himage, hbroken]
  · rw [Ctx.behindStep] at hbehind
    simp [State.stepEnter, hbehind]
end

theorem State.stepEnter_of_no_image (hbehind : (s.ctx d.ctx).behindStep = false) (himage : (s.ctx d.ctx).image = none) :
    s.stepEnter d = s.complete d (Done.of .protocol 0) := by
  rw [Ctx.behindStep] at hbehind
  simp [State.stepEnter, hbehind, himage]
end

/-- Settles O29: an expanded step descriptor has the effect of its opcode's class, whose checks read of its context what the expansion leaves as it was. -/
theorem stepDescriptorsQueue : Obligations.StepDescriptorsQueue := by
  intro s d i hmem hi hexpands x e behind broken sound
  have hexec : exec i s = .next (e.stepDescriptor d) := by
    rw [exec_of_expandsNow hi hexpands, State.descEffect_of_stepOps _ (descOp_of_carries_step i hmem hi)]
  have hctx : e.ctx d.ctx = x.withDesc d := State.ctx_expanded s d
  have hlost : (e.ctx d.ctx).stepLost ↔ broken := by rw [hctx]; exact Iff.rfl
  rw [hexec]
  refine ⟨fun hb => ?_, fun hb harea => ?_, fun ⟨hb, harea⟩ hops => ?_, fun ⟨hb, harea⟩ hops hbehind himage => ?_, fun ⟨hb, harea⟩ hops hplace => ?_⟩
  · rw [State.stepDescriptor_of_lost (hlost.mpr hb)]
  · rw [State.stepDescriptor_of_badArea (hlost.not.mpr hb) harea]
  · rw [State.stepDescriptor_of_badOperands (hlost.not.mpr hb) harea hops]
  · rw [State.stepDescriptor_of_sound (hlost.not.mpr hb) harea hops,
      State.stepEnter_of_no_image (by rw [hctx]; exact hbehind) (by rw [hctx]; exact himage)]
  · rw [State.stepDescriptor_of_sound (hlost.not.mpr hb) harea hops,
      State.stepEnter_queues (hlost.not.mpr hb) (by rw [hctx]; exact hplace)]
    refine ⟨_, rfl, ctxOnly_trans (ctxOnly_expanded s d) (ctxOnly_modCtx _ _ _), ?_⟩
    rw [State.ctx_modCtx_same, hctx]
    rfl

end Sys2Proof.Machine
end

section
/-! PROOFS. Saddle parcels on a Selyn link (R60, R408, R417). -/

namespace Sys2Proof.Machine

/-! ### Little-endian fields -/

theorem leNat_toLE (n v : Nat) : leNat (toLE n v) = v % 256 ^ n := by
  induction n generalizing v with
  | zero => simp [toLE, leNat, Nat.mod_one]
  | succ n ih => simp [toLE, leNat, ih, Nat.pow_succ', Nat.mod_mul]

theorem leNat_lt (b : Bytes) : leNat b < 256 ^ b.length := by
  induction b with
  | nil => simp [leNat]
  | cons x b ih =>
    have := x.isLt
    rw [leNat, List.length_cons, Nat.pow_succ']
    omega

theorem fld_lt (b : Bytes) (lo n : Nat) : fld b lo n < 256 ^ n :=
  (leNat_lt _).trans_le (Nat.pow_le_pow_right (by decide) (List.length_take_le _ _))

/-- A number stored little-endian after what comes before it reads back. -/
theorem fld_toLE {a : Bytes} {lo : Nat} (h : a.length = lo) (n v : Nat) (rest : Bytes) : fld (a ++ (toLE n v ++ rest)) lo n = v % 256 ^ n := by
  subst h
  rw [fld, List.drop_left, List.take_left' (length_toLE n v), leNat_toLE]

theorem fld_byte {a : Bytes} {lo : Nat} (h : a.length = lo) (x : Byte) (rest : Bytes) : fld (a ++ x :: rest) lo 1 = x.toNat := by
  subst h
  simp [fld, leNat]

/-! ### Control parcels -/

section
variable {s : State} {n : SelynPort} {h : FrameHdr}

/-- A parcel that its port accepts is handled with its slot free again (R397). -/
theorem State.control_of_accepts (ha : accepts s n h = true) (f : State → State) : s.control n h f = f (heard s n h) := by
  obtain ⟨hup, hseq⟩ : (s.link n).up = true ∧ h.seq = (s.link n).expected := by simpa [accepts] using ha
  simp [State.control, State.receive, hup, hseq, heard, accepted]

section
variable (ha : accepts s n h = true)
include ha

theorem exec_arrive_of_otherPass {a : ArriveRec} (hpass : a.pass ≠ (heard s n h).passes.getD a.counter.toNat 0) :
    exec (.arrive n h a) s = .next ((heard s n h).passMismatch n a.pass a.counter a.ctx) := by
  change execArrive n h a s = _
  rw [execArrive, State.control_of_accepts ha, if_pos hpass]

/-- An ARRIVE of the Saddle that its counter has open is held, the Saddle's timer started, and the Saddle tried (R408). -/
theorem exec_arrive_of_thisPass {a : ArriveRec} {v : Saddle} {e : Bytes} (hpass : a.pass = (heard s n h).passes.getD a.counter.toNat 0)
    (hv : (heard s n h).saddles.getD a.counter.toNat
      (Saddle.open a.ctx (u16 (((heard s n h).planIndex a.ctx a.counter.toNat).getD 0))) = v)
    (hctx : v.ctx = a.ctx) (he : (heard s n h).planEntry? a.ctx v.entry.toNat = some e) :
    let v' := State.startTimer { v with arrives := v.arrives.set n.val a } e (heard s n h).now
    exec (.arrive n h a) s = .next
      (({ (heard s n h) with saddles := (heard s n h).saddles.set a.counter.toNat v' } : State).trySaddle a.counter.toNat) := by
  intro v'
  change execArrive n h a s = _
  rw [execArrive, State.control_of_accepts ha, if_neg (not_not.mpr hpass)]
  dsimp only
  rw [hv, if_neg (not_not.mpr hctx), he]

theorem exec_releaseParcel_of_otherPass {pass : U32} {k : U16} (c : CtxId) (hpass : pass ≠ (heard s n h).passes.getD k.toNat 0) :
    exec (.releaseParcel n h pass k c) s = .next ((heard s n h).passMismatch n pass k c) := by
  change execReleaseParcel n h pass k c s = _
  rw [execReleaseParcel, State.control_of_accepts ha, if_pos hpass]

theorem exec_releaseParcel_of_open {pass : U32} {k : U16} {v : Saddle} {e : Bytes} (c : CtxId) (hpass : pass = (heard s n h).passes.getD k.toNat 0)
    (hv : (heard s n h).saddles.get? k.toNat = some v) (he : (heard s n h).planEntry? v.ctx v.entry.toNat = some e) :
    exec (.releaseParcel n h pass k c) s = .next ((heard s n h).releaseSaddle k.toNat v e) := by
  change execReleaseParcel n h pass k c s = _
  rw [execReleaseParcel, State.control_of_accepts ha, if_neg (not_not.mpr hpass), hv]
  dsimp only
  rw [he]

/-- A RELEASE of a counter with no Saddle open raises it and goes on to the children (R408). -/
theorem exec_releaseParcel_of_none {pass : U32} {k : U16} (c : CtxId) (hpass : pass = (heard s n h).passes.getD k.toNat 0)
    (hv : (heard s n h).saddles.get? k.toNat = none) :
    exec (.releaseParcel n h pass k c) s = .next (({ (heard s n h) with passes := (heard s n h).passes.set k.toNat (pass + 1) } : State).sendOn
      (heard s n h).childPorts 0x02 (toLE 4 pass.toNat ++ toLE 2 k.toNat ++ [c])) := by
  change execReleaseParcel n h pass k c s = _
  rw [execReleaseParcel, State.control_of_accepts ha, if_neg (not_not.mpr hpass), hv]

/-- An ABANDON goes on, and then breaks the context unless it is broken already or bound to no tree image (R417). -/
theorem exec_abandon_of_accepts (pass : U32) (k : U16) (c : CtxId) (device : U16) (why : Byte) :
    let u := heard s n h
    let fields := toLE 4 pass.toNat ++ toLE 2 k.toNat ++ [c] ++ toLE 2 device.toNat ++ [why]
    let w := if u.uplink? = some n ∨ u.isTop then u.sendOnOf u.childPorts device.toNat 0x03 fields else u.sendUpOf device.toNat 0x03 fields
    exec (.abandon n h pass k c device why) s = .next (if (w.ctx c).broken || !w.inTree c then w
      else (w.loseCtx c).linkEvent n.val 9 (w.widthOf n) device.toNat 0 pass.toNat (toLE 2 k.toNat ++ [c])) := by
  intro u fields w
  change execAbandon n h pass k c device why s = _
  rw [execAbandon, State.control_of_accepts ha]
end
end

/-! ### A Saddle that is late -/

/-- A late Saddle's report begins with its timeout's plan field, its counter and its context (R60). -/
theorem saddleDetail_fields (e : Bytes) (k : U16) (c : CtxId) (rest : Bytes) :
    let detail := toLE 4 (fld e 0 4) ++ (toLE 2 k.toNat ++ c :: rest)
    fld detail 0 4 = fld e 0 4 ∧ fld detail 4 2 = k.toNat ∧ fld detail 6 1 = c.toNat := by
  intro detail
  refine ⟨?_, ?_, ?_⟩
  · have hread : fld detail 0 4 = fld e 0 4 % 256 ^ 4 := fld_toLE (a := []) rfl 4 _ _
    rw [hread, Nat.mod_eq_of_lt (fld_lt e 0 4)]
  · have hread : fld detail 4 2 = k.toNat % 256 ^ 2 := fld_toLE (length_toLE 4 _) 2 _ _
    rw [hread, Nat.mod_eq_of_lt (k.isLt.trans_eq (by decide))]
  · have hassoc : detail = (toLE 4 (fld e 0 4) ++ toLE 2 k.toNat) ++ c :: rest := (List.append_assoc _ _ _).symm
    rw [hassoc, fld_byte (by simp)]

section
variable {s : State} {k : U16} {v : Saddle} {e : Bytes} (hv : s.saddles.get? k.toNat = some v) (he : s.planEntry? v.ctx v.entry.toNat = some e)
include hv he

theorem exec_saddleTimeout_of_idle (h : v.reported = true ∨ v.sent = true ∨ v.timer = none) : exec (.saddleTimeout k) s = .next s := by
  have hidle : (v.timer.isNone || v.reported || v.sent) = true := by
    simp only [Bool.or_eq_true, Option.isNone_iff_eq_none]
    tauto
  change execSaddleTimeout k s = _
  rw [execSaddleTimeout, hv]
  dsimp only
  rw [he]
  exact congrArg _ (if_pos hidle)

/-- A Saddle that waits past its timer is reported once (R60). -/
theorem exec_saddleTimeout_of_late (hreported : v.reported = false) (hsent : v.sent = false) (htimer : v.timer.isSome = true) : ∃ rest : Bytes,
    exec (.saddleTimeout k) s = .next (({ s with saddles := s.saddles.set k.toNat { v with reported := true } } : State).devEvent 0x06
      (toLE 4 (fld e 0 4) ++ (toLE 2 k.toNat ++ v.ctx :: rest))) := by
  have hlate : ¬ (v.timer.isNone || v.reported || v.sent) = true := by simp [hreported, hsent, Option.isSome_iff_ne_none.mp htimer]
  change ∃ rest : Bytes, execSaddleTimeout k s = _
  rw [execSaddleTimeout, hv]
  dsimp only
  rw [he]
  dsimp only
  rw [if_neg hlate]
  simp only [List.append_assoc, List.cons_append]
  exact ⟨_, rfl⟩
end

/-- Settles O57: an accepted parcel is handled with its slot free, by its pass and the Saddle its counter has open; a late Saddle's report reads back its fields. -/
theorem saddleParcelsComplete : Obligations.SaddleParcelsComplete := by
  intro s n h
  refine ⟨fun ha => ?_, fun k v e hv he => ⟨exec_saddleTimeout_of_idle hv he, fun hreported hsent htimer => ?_⟩⟩
  · intro u
    refine ⟨fun a hpass => exec_arrive_of_otherPass ha hpass, fun a e hpass => ?_, fun pass k c hpass => exec_releaseParcel_of_otherPass ha c hpass,
      fun pass k c v e hpass hv he => exec_releaseParcel_of_open ha c hpass hv he,
      fun pass k c hpass hv => exec_releaseParcel_of_none ha c hpass hv, fun pass k c device why => ?_⟩
    · intro v hctx he
      exact exec_arrive_of_thisPass ha hpass rfl hctx he
    · intro fields w
      have hskip : ((w.ctx c).broken || !w.inTree c) = true ↔ (w.ctx c).broken = true ∨ w.inTree c = false := by simp
      have hexec := exec_abandon_of_accepts ha pass k c device why
      exact hexec.trans (congrArg _ (if_congr hskip rfl rfl))
  · obtain ⟨rest, hexec⟩ := exec_saddleTimeout_of_late hv he hreported hsent htimer
    exact ⟨_, hexec, saddleDetail_fields e k v.ctx rest⟩

end Sys2Proof.Machine
end

section
/-! PROOFS. Binding an image, letting it go, and starting a step (R32, R33, R376). -/

namespace Sys2Proof.Machine

/-! ### A STEP that is expanded -/

theorem State.descEffect_of_step (s : State) {d : Desc} (h : descOp d = 0x11) : s.descEffect d = s.bindDesc d := by
  simp only [State.descEffect, h]

theorem carries_step {d : Desc} (h : carries (.step d) = some d) : descOp d = 0x11 ∧ bitAt d.bytes 20 0 = false := by
  simpa [carries] using h

theorem carries_stepUnbind {d : Desc} (h : carries (.stepUnbind d) = some d) : descOp d = 0x11 ∧ bitAt d.bytes 20 0 = true := by
  simpa [carries] using h

@[simp] theorem State.bindFree_expanded (s : State) (d : Desc) : (expanded s d).bindFree d.ctx = s.bindFree d.ctx := by
  rw [State.bindFree, State.ctx_expanded]; rfl

@[simp] theorem State.steps_expanded (s : State) (d : Desc) : ((expanded s d).ctx d.ctx).steps = (s.ctx d.ctx).steps := by
  rw [State.ctx_expanded]; rfl

@[simp] theorem State.image_expanded (s : State) (d : Desc) : ((expanded s d).ctx d.ctx).image = (s.ctx d.ctx).image := by
  rw [State.ctx_expanded]; rfl

/-- A STEP or UNBIND finds the device locked, nothing of its context before it, and the context not set aside (R33, R464). -/
def State.bindsFirst (s : State) (c : CtxId) : Prop := s.boot.locked = true ∧ s.bindFree c = true ∧ (s.ctx c).steps = []

theorem State.bindsFirst_expanded {s : State} {d : Desc} (h : s.bindsFirst d.ctx) : (expanded s d).bindsFirst d.ctx := by
  obtain ⟨hlocked, hfree, hsteps⟩ := h
  exact ⟨hlocked, by rw [State.bindFree_expanded, hfree], by rw [State.steps_expanded, hsteps]⟩

section
variable {s : State} {d : Desc}

theorem State.stepDesc_of_unlocked (h : s.boot.locked = false) : s.stepDesc d = s.complete d (Done.of .protocol 0) := by
  simp [State.stepDesc, h]

theorem State.stepDesc_of_first (h : s.bindsFirst d.ctx) : s.stepDesc d = s.stepEffect d := by
  obtain ⟨hlocked, hfree, hsteps⟩ := h
  simp [State.stepDesc, hlocked, hfree, hsteps]

/-- A STEP or UNBIND with something before it takes the last place among its context's steps (R33). -/
theorem State.stepDesc_waits (hlocked : s.boot.locked = true) (h : s.bindFree d.ctx = false ∨ (s.ctx d.ctx).steps ≠ []) :
    s.stepDesc d = s.modCtx d.ctx (fun x => { x with steps := x.steps ++ [d] }) := by
  have hlater : (s.bindFree d.ctx && (s.ctx d.ctx).steps.isEmpty) = false := by
    rcases h with hfree | hsteps
    · rw [hfree, Bool.false_and]
    · rw [List.isEmpty_eq_false_iff.mpr hsteps, Bool.and_false]
  simp [State.stepDesc, hlocked, hlater]

theorem State.bindDesc_eq_stepDesc (h : bitAt d.bytes 20 0 = true → descField d 16 4 = 0) : s.bindDesc d = s.stepDesc d := by
  rw [State.bindDesc, if_neg]
  rw [Bool.and_eq_true, bne_iff_ne]
  exact fun ⟨hbit, hid⟩ => hid (h hbit)

theorem State.stepEffect_of_bind (h : bitAt d.bytes 20 0 = false) : s.stepEffect d = s.bindNow d := if_neg (by simp [h])

theorem State.stepEffect_of_unbind (h : bitAt d.bytes 20 0 = true) : s.stepEffect d = s.unbindNow d := if_pos h
end

theorem exec_step_of_expandsNow {s : State} {d : Desc} (hi : carries (.step d) = some d) (h : expandsNow s d = true) :
    exec (.step d) s = .next ((expanded s d).stepDesc d) := by
  obtain ⟨hop, hbit⟩ := carries_step hi
  rw [exec_of_expandsNow hi h, State.descEffect_of_step _ hop, State.bindDesc_eq_stepDesc (by simp [hbit])]

theorem exec_step_of_first {s : State} {d : Desc} (hi : carries (.step d) = some d) (h : expandsNow s d = true) (hfirst : s.bindsFirst d.ctx) :
    exec (.step d) s = .next ((expanded s d).bindNow d) := by
  obtain ⟨-, hbit⟩ := carries_step hi
  rw [exec_step_of_expandsNow hi h, State.stepDesc_of_first (State.bindsFirst_expanded hfirst), State.stepEffect_of_bind hbit]

theorem exec_stepUnbind_of_first {s : State} {d : Desc} (hi : carries (.stepUnbind d) = some d) (h : expandsNow s d = true)
    (hid : descField d 16 4 = 0) (hfirst : s.bindsFirst d.ctx) : exec (.stepUnbind d) s = .next ((expanded s d).unbindNow d) := by
  obtain ⟨hop, hbit⟩ := carries_stepUnbind hi
  rw [exec_of_expandsNow hi h, State.descEffect_of_step _ hop, State.bindDesc_eq_stepDesc (fun _ => hid),
    State.stepDesc_of_first (State.bindsFirst_expanded hfirst), State.stepEffect_of_unbind hbit]

/-- Before the lock, or with an image ID, UNBIND completes PROTOCOL (R33, R464). -/
theorem exec_stepUnbind_refused {s : State} {d : Desc} (hi : carries (.stepUnbind d) = some d) (h : expandsNow s d = true)
    (hbad : s.boot.locked = false ∨ descField d 16 4 ≠ 0) : exec (.stepUnbind d) s = .next ((expanded s d).complete d (Done.of .protocol 0)) := by
  obtain ⟨hop, hbit⟩ := carries_stepUnbind hi
  rw [exec_of_expandsNow hi h, State.descEffect_of_step _ hop]
  by_cases hid : descField d 16 4 = 0
  · have hunlocked : (expanded s d).boot.locked = false := hbad.resolve_right (not_not.mpr hid)
    rw [State.bindDesc_eq_stepDesc (fun _ => hid), State.stepDesc_of_unlocked hunlocked]
  · rw [State.bindDesc, if_pos (by simp [hbit, hid])]

/-- One with something before it waits behind it, and moves its own context alone (R33). -/
theorem exec_step_waits {s : State} {d : Desc} {i : Instr} (hmem : i ∈ [Instr.step d, .stepUnbind d]) (hi : carries i = some d)
    (h : expandsNow s d = true) (hlocked : s.boot.locked = true) (hid : bitAt d.bytes 20 0 = true → descField d 16 4 = 0)
    (hlater : s.bindFree d.ctx = false ∨ (s.ctx d.ctx).steps ≠ []) :
    exec i s = .next ((expanded s d).modCtx d.ctx (fun x => { x with steps := x.steps ++ [d] })) := by
  have hop : descOp d = 0x11 := by
    simp only [List.mem_cons, List.not_mem_nil, or_false] at hmem
    rcases hmem with rfl | rfl
    · exact (carries_step hi).1
    · exact (carries_stepUnbind hi).1
  rw [exec_of_expandsNow hi h, State.descEffect_of_step _ hop, State.bindDesc_eq_stepDesc hid,
    State.stepDesc_waits (s := expanded s d) hlocked (by rwa [State.bindFree_expanded, State.steps_expanded])]

/-! ### The checks of a bind -/

/-- The image that a STEP names (R378). -/
def stepImage (d : Desc) : U32 := BitVec.ofNat 32 (descField d 16 4)

section
variable {s : State} {d : Desc}

theorem State.bindNow_of_no_image (h : s.images.get? (stepImage d).toNat = none) : s.bindNow d = s.complete d (Done.of .protocol 0) := by
  have h' : s.images.get? (BitVec.ofNat 32 (descField d 16 4) : U32).toNat = none := h
  simp only [State.bindNow, h']

variable {m : Image} (h : s.images.get? (stepImage d).toNat = some m)
include h

theorem State.bindNow_of_unusable (hbad : (m.loaded && s.saveOk d.ctx (stepImage d)) = false) :
    s.bindNow d = s.complete d (Done.of .protocol 0) := by
  have hbad' : (!m.loaded || !s.saveOk d.ctx (stepImage d)) = true := by rw [← Bool.not_and, hbad, Bool.not_false]
  have h' : s.images.get? (BitVec.ofNat 32 (descField d 16 4) : U32).toNat = some m := h
  simp only [State.bindNow, h']
  exact if_pos hbad'

variable (hgood : (m.loaded && s.saveOk d.ctx (stepImage d)) = true)
include hgood

/-- The image is loaded and the save area good: the digest and the other checks decide (R32). -/
theorem State.bindNow_of_usable : s.bindNow d =
    if !s.digestOk (stepImage d) m then
      (s.countLoc false { kind := 0xE, a := 0, b := 0, c := 0, row := stepImage d }).complete d (Done.of .integrity 0)
    else if !s.imageOk d.ctx (stepImage d) m.length then s.complete d (Done.of .protocol 0)
    else (s.bind d.ctx (stepImage d)).complete d (Done.of .ok (s.img (stepImage d) 0x10 8)) := by
  have hgood' : ¬ (!m.loaded || !s.saveOk d.ctx (stepImage d)) = true := by rw [← Bool.not_and, hgood]; decide
  have h' : s.images.get? (BitVec.ofNat 32 (descField d 16 4) : U32).toNat = some m := h
  simp only [State.bindNow, h']
  exact if_neg hgood'

theorem State.bindNow_of_badDigest (hdigest : s.digestOk (stepImage d) m = false) : s.bindNow d =
    (s.countLoc false { kind := 0xE, a := 0, b := 0, c := 0, row := stepImage d }).complete d (Done.of .integrity 0) := by
  rw [State.bindNow_of_usable h hgood, hdigest]
  rfl

section
variable (hdigest : s.digestOk (stepImage d) m = true)
include hdigest

theorem State.bindNow_of_badChecks (hchecks : s.imageOk d.ctx (stepImage d) m.length = false) :
    s.bindNow d = s.complete d (Done.of .protocol 0) := by
  rw [State.bindNow_of_usable h hgood, hdigest, hchecks]
  rfl

theorem State.bindNow_binds (hchecks : s.imageOk d.ctx (stepImage d) m.length = true) :
    s.bindNow d = (s.bind d.ctx (stepImage d)).complete d (Done.of .ok (s.img (stepImage d) 0x10 8)) := by
  rw [State.bindNow_of_usable h hgood, hdigest, hchecks]
  rfl
end
end

/-! ### What a bind and an unbind move -/

/-- Passes set to 0 for every entry of a plan are 0 (R407). -/
theorem getD_foldl_set_zero {p : Bytes} (l : List Bytes) (t : Tab U32) (h : p ∈ l ∨ t.getD (planCounter p) 0 = 0) :
    (l.foldl (fun t e => Tab.set t (planCounter e) 0) t).getD (planCounter p) 0 = 0 := by
  induction l generalizing t with
  | nil => exact h.resolve_left (by simp)
  | cons e l ih =>
    refine ih _ ?_
    by_cases hk : planCounter p = planCounter e
    · exact .inr (by rw [hk, Tab.getD_set_same])
    · rw [Tab.getD_set_of_ne _ _ _ hk]
      exact h.imp_left fun hp => (List.mem_cons.mp hp).resolve_left (fun he => hk (congrArg planCounter he))

/-- Every context stays as it is. -/
def ctxsKept (s t : State) : Prop := t.ctxs = s.ctxs

theorem ctxsKept_refl (s : State) : ctxsKept s s := rfl
theorem ctxsKept_trans (s t u : State) (h : ctxsKept s t) (h' : ctxsKept t u) : ctxsKept s u := h'.trans h
theorem ctxsKept.ctx {s t : State} (h : ctxsKept s t) (c : CtxId) : t.ctx c = s.ctx c := by rw [State.ctx, show t.ctxs = s.ctxs from h]; rfl

section
variable (s : State)

theorem ctxsKept_setObj (id : U32) (o : Obj) : ctxsKept s (s.setObj id o) := rfl

theorem ctxsKept_adopt (i : U32) : ctxsKept s (s.adopt i) := by
  refine foldl_frame ctxsKept ctxsKept_refl ctxsKept_trans _ (fun t e => ?_) _ s
  split
  · exact ctxsKept_refl t
  · exact ctxsKept_setObj t _ _

theorem ctxsKept_modObj (id : U32) (f : Obj → Obj) : ctxsKept s (s.modObj id f) := by
  unfold State.modObj
  split
  · exact ctxsKept_refl s
  · exact ctxsKept_setObj s _ _

theorem ctxsKept_emptyWindows (c : CtxId) : ctxsKept s (s.emptyWindows c) := by
  unfold State.emptyWindows
  split
  · exact ctxsKept_refl s
  · refine foldl_frame ctxsKept ctxsKept_refl ctxsKept_trans _ (fun t e => ?_) _ s
    split
    · exact ctxsKept_modObj t _ _
    · exact ctxsKept_refl t

theorem ctxsKept_makeAbsent (id : U32) : ctxsKept s (s.makeAbsent id) := by
  unfold State.makeAbsent
  split
  · exact ctxsKept_refl s
  · rfl

theorem ctxsKept_dropUnnamed : ctxsKept s s.dropUnnamed := by
  refine foldl_frame ctxsKept ctxsKept_refl ctxsKept_trans _ (fun t id => ?_) _ s
  exact ctxsKept_makeAbsent t id

/-- A context whose image leaves it has none, and is else as it was (R33). -/
theorem State.ctx_unbind (c : CtxId) : (s.unbind c).ctx c = { s.ctx c with image := none } := by
  rw [State.unbind, State.ctx_modCtx_same]
  have h : ctxsKept s ((s.emptyWindows c).releaseClaims c) := ctxsKept_emptyWindows s c
  rw [h.ctx]

/-- A context as a bind leaves it: ready at step 0, its marks cleared and its mode taken anew (R33, R51, R93, R414). -/
def Ctx.bound (x : Ctx) (i : U32) : Ctx :=
  { x with image := some i, broken := false, modeNow := x.mode, stepNo := 0, steppeW := 0, steppeE := 0, state := .ready,
           suspending := x.suspendReq && x.state == .idle }

/-- A context with an image adopted and bound, the old one let go (R33; log 77). -/
def State.rebound (s : State) (c : CtxId) (i : U32) : State := ((s.adopt i).unbind c).modCtx c (fun x => x.bound i)

/-- The end of a bind: the plan's counters at pass 0, the context's Saddles closed, a finished device Dusk over, the image measured (R33, R407, R453). -/
def State.bindEnd (s : State) (c : CtxId) (i : U32) (l : Nat) : State :=
  let s1 : State := { s with passes := (s.planEntries i).foldl (fun t e => Tab.set t (planCounter e) 0) s.passes
                             saddles := s.saddles.filter (fun e => decide (e.2.ctx ≠ c))
                             power := { s.power with duskState := if s.power.duskState = 2 then 0 else s.power.duskState } }
  s1.measure 3 c 0 (s1.img i 0x10 8) (s1.get (.image i) (l - 64) 64)

theorem State.bind_eq (c : CtxId) (i : U32) : ∃ l, s.bind c i = (s.rebound c i).dropUnnamed.bindEnd c i l := by
  unfold State.bind State.bindEnd State.rebound Ctx.bound
  exact ⟨_, rfl⟩

theorem ctxsKept_bindEnd (c : CtxId) (i : U32) (l : Nat) : ctxsKept s (s.bindEnd c i l) := rfl

/-- The counters of the plan start at pass 0 (R407). -/
theorem State.passes_bindEnd (c : CtxId) (i : U32) (l : Nat) :
    ∀ p ∈ (s.bindEnd c i l).planEntries i, (s.bindEnd c i l).passes.getD (planCounter p) 0 = 0 :=
  fun _ hp => getD_foldl_set_zero _ _ (.inl hp)

/-- What a bind does after its context is bound moves no context. -/
theorem ctxsKept_bind (c : CtxId) (i : U32) : ctxsKept (s.rebound c i) (s.bind c i) := by
  obtain ⟨l, hl⟩ := State.bind_eq s c i
  rw [hl]
  exact ctxsKept_trans _ _ _ (ctxsKept_dropUnnamed _) (ctxsKept_bindEnd _ c i l)

theorem State.passes_bind (c : CtxId) (i : U32) : ∀ p ∈ (s.bind c i).planEntries i, (s.bind c i).passes.getD (planCounter p) 0 = 0 := by
  obtain ⟨l, hl⟩ := State.bind_eq s c i
  rw [hl]
  exact State.passes_bindEnd _ c i l

theorem State.ctx_bind (c : CtxId) (i : U32) : (s.bind c i).ctx c = (s.ctx c).bound i := by
  rw [(ctxsKept_bind s c i).ctx, State.rebound, State.ctx_modCtx_same, State.ctx_unbind, (ctxsKept_adopt s i).ctx]
  rfl
end

/-! ### UNBIND -/

section
variable {s : State} {d : Desc}

theorem State.unbindNow_of_no_image (h : (s.ctx d.ctx).image = none) : s.unbindNow d = s.complete d (Done.of .ok 0) := by
  simp only [State.unbindNow, h]

variable {i : U32} (h : (s.ctx d.ctx).image = some i)
include h

theorem State.unbindNow_of_live (hlive : s.liveSlots d.ctx ≠ []) : s.unbindNow d = s.complete d (Done.of .protocol 0) := by
  simp [State.unbindNow, h, hlive]

/-- An UNBIND without live requests leaves its context IDLE with no image (R33). -/
theorem State.unbindNow_of_idle (hlive : s.liveSlots d.ctx = []) : ∃ t : State, s.unbindNow d = t.complete d (Done.of .ok 0) ∧
    (t.ctx d.ctx).image = none ∧ (t.ctx d.ctx).state = .idle := by
  refine ⟨((s.unbind d.ctx).dropUnnamed).modCtx d.ctx (fun x => { x with state := .idle }), ?_, ?_, ?_⟩
  · simp [State.unbindNow, h, hlive]
  · rw [State.ctx_modCtx_same, (ctxsKept_dropUnnamed _).ctx, State.ctx_unbind]
  · rw [State.ctx_modCtx_same]
end

/-! ### BIND_EFFECT and STEP_START -/

/-- A step of a descriptor as it starts (R37, R378). -/
def firstRun (d : Desc) (no : Nat) : StepRun := { (StepRun.start d no) with result := BitVec.ofNat 64 (firstResult d) }

/-- A context whose next step starts: its twelve programs run from word 0, and its number is one higher (R37, R376). -/
def Ctx.startStep (x : Ctx) (d : Desc) : Ctx :=
  { (x.modSeqs (fun v => { v with pos := 0, regs := [], status := .running })) with
    stepNo := x.stepNo + 1
    run := some (firstRun d (x.stepNo + 1)) }

@[simp] theorem Ctx.seq_startStep (x : Ctx) (d : Desc) (q : SeqId) :
    (x.startStep d).seq q = { x.seq q with pos := 0, regs := [], status := .running } := by
  rw [← Ctx.seq_modSeqs x (fun v => { v with pos := 0, regs := [], status := .running }) q]
  rfl

section
variable {s : State} {c : CtxId} {d : Desc} {rest : List Desc} (h : (s.ctx c).steps = d :: rest)
include h

theorem exec_bindEffect_of_free (hop : descOp d = 0x11) (hfree : s.bindFree c = true) :
    exec (.bindEffect c) s = .next ((s.modCtx c (fun x => { x with steps := rest })).stepEffect d) := by
  change execBindEffect c s = _
  rw [execBindEffect, h]
  exact congrArg _ (if_pos ⟨hop, hfree⟩)

variable (hop : descOp d ≠ 0x11) (hrun : (s.ctx c).run = none) (hdrain : (s.ctx c).draining = false)
include hop hrun hdrain

/-- The next step descriptor, of a context that runs none and does not drain, completes without an image or in a broken context, waits while
programs run, or starts (R37, R376, R414). -/
theorem exec_stepStart_of_next : exec (.stepStart c) s = .next (
    let u := s.modCtx c (fun x => { x with steps := rest })
    if (s.ctx c).image.isNone then u.complete d (Done.of .protocol 0)
    else if (s.ctx c).broken then u.complete d (Done.of .linkLost 0)
    else if !(s.ctx c).active || !(s.ctx c).allHalted then s
    else u.modCtx c (fun x => x.startStep d)) := by
  change execStepStart c s = _
  rw [execStepStart, h]
  exact congrArg _ (if_neg (by simp [hop, hrun, hdrain]))
end

theorem exec_stepStart_of_draining {s : State} {c : CtxId} (h : (s.ctx c).draining = true) : exec (.stepStart c) s = .next s := by
  change execStepStart c s = _
  rw [execStepStart]
  rcases (s.ctx c).steps with _ | ⟨d, rest⟩
  · rfl
  · exact congrArg _ (if_pos (.inr (.inr h)))

/-- Settles O30: an admitted STEP comes to the checks of R32 or waits; what a bind does besides its context's marks moves no context. -/
theorem bindsAndStarts : Obligations.BindsAndStarts := by
  intro s
  refine ⟨fun d hi hexpands => ?_, fun d hi hexpands => ?_, fun d i hmem hi hexpands hlocked hid hlater => ?_,
    fun c d rest h hop hfree => exec_bindEffect_of_free h hop hfree, fun c h => exec_stepStart_of_draining h, fun c d rest h hop hrun hdrain => ?_⟩
  · intro e first i ends
    refine ⟨fun hunlocked => ?_, fun hfirst himage => ?_, fun m hfirst himage => ⟨fun hbad => ?_, fun hgood => ⟨fun hdigest => ?_, fun hdigest hchecks => ?_,
      fun hdigest hchecks => ?_⟩⟩⟩
    · exact (exec_step_of_expandsNow hi hexpands).trans (congrArg _ (State.stepDesc_of_unlocked (s := e) hunlocked))
    · exact (exec_step_of_first hi hexpands hfirst).trans (congrArg _ (State.bindNow_of_no_image (s := e) himage))
    · exact (exec_step_of_first hi hexpands hfirst).trans (congrArg _ (State.bindNow_of_unusable (s := e) himage hbad))
    · exact (exec_step_of_first hi hexpands hfirst).trans (congrArg _ (State.bindNow_of_badDigest (s := e) himage hgood hdigest))
    · exact (exec_step_of_first hi hexpands hfirst).trans (congrArg _ (State.bindNow_of_badChecks (s := e) himage hgood hdigest hchecks))
    · have hbound : (e.bind d.ctx i).ctx d.ctx = ((s.ctx d.ctx).withDesc d).bound i := by rw [State.ctx_bind, State.ctx_expanded]
      refine ⟨e.bind d.ctx i, (exec_step_of_first hi hexpands hfirst).trans
        (congrArg _ (State.bindNow_binds (s := e) himage hgood hdigest hchecks)), ?_, ?_, ?_, ?_, ?_, State.passes_bind e d.ctx i⟩
      all_goals rw [hbound]; rfl
  · intro e ends
    refine ⟨fun hbad => exec_stepUnbind_refused hi hexpands hbad, fun hlocked hid hfree hsteps => ?_⟩
    have hexec := exec_stepUnbind_of_first hi hexpands hid ⟨hlocked, hfree, hsteps⟩
    have himage : (e.ctx d.ctx).image = (s.ctx d.ctx).image := State.image_expanded s d
    refine ⟨fun hnone => ?_, fun i hsome => ⟨fun hlive => ?_, fun hlive => ?_⟩⟩
    · exact hexec.trans (congrArg _ (State.unbindNow_of_no_image (himage.trans hnone)))
    · exact hexec.trans (congrArg _ (State.unbindNow_of_live (himage.trans hsome) hlive))
    · obtain ⟨t, hunbind, ht⟩ := State.unbindNow_of_idle (himage.trans hsome) hlive
      exact ⟨t, hexec.trans (congrArg _ hunbind), ht⟩
  · refine ⟨_, exec_step_waits hmem hi hexpands hlocked hid hlater, ctxOnly_trans (ctxOnly_expanded s d) (ctxOnly_modCtx _ _ _), ?_⟩
    rw [State.ctx_modCtx_same, State.ctx_expanded]
    exact ⟨rfl, rfl, rfl⟩
  · intro u
    rw [exec_stepStart_of_next h hop hrun hdrain]
    refine ⟨fun himage => ?_, fun himage hbroken => ?_, fun himage hbroken hactive hhalted => ?_⟩
    · rw [himage]; rfl
    · rw [if_neg (by simpa using Option.isSome_iff_ne_none.mp himage), if_pos hbroken]
    · rw [if_neg (by simpa using Option.isSome_iff_ne_none.mp himage), if_neg (by simp [hbroken]), if_neg (by simp [hactive, hhalted])]
      refine ⟨u.modCtx c (fun x => x.startStep d), firstRun d ((s.ctx c).stepNo + 1), rfl, ctxOnly_trans (ctxOnly_modCtx s c _) (ctxOnly_modCtx u c _), ?_⟩
      rw [State.ctx_modCtx_same, State.ctx_modCtx_same]
      exact ⟨rfl, rfl, rfl, rfl, rfl, rfl, fun q => Ctx.seq_startStep _ d q⟩

end Sys2Proof.Machine
end

section
/-! PROOFS. The link unit's commands (R58, R338, R396, R402, R403): a SEND's parcels keep their order at their egress, and a RECV is posted. -/

namespace Sys2Proof.Machine

/-! ### Parcels of one SEND at their egress -/

/-- A fold whose steps keep what they start from gives it back. -/
theorem foldl_eq_self {α β : Type} {g : β → α → β} {b : β} (l : List α) (h : ∀ a ∈ l, g b a = b) : l.foldl g b = b := by
  induction l with
  | nil => rfl
  | cons a l ih =>
    rw [List.foldl_cons, h a List.mem_cons_self]
    exact ih fun x hx => h x (List.mem_cons_of_mem a hx)

/-- The waiting parcels of a port are one requester's, on one virtual channel. -/
def Link.oneLine (l : Link) (w : Nat) (v : BitVec 2) : Prop := ∀ f ∈ l.waitq, f.who = w ∧ f.vc = v

/-- Where one requester waits on one channel, only its first parcel can go (R338, R396). -/
theorem Link.waitq_of_mem_ready {l : Link} {w : Nat} {v : BitVec 2} (hline : l.oneLine w v) {f : Frame} (hf : f ∈ l.ready) : ∃ rest, l.waitq = f :: rest := by
  unfold Link.ready at hf
  rcases hq : l.waitq with _ | ⟨g, rest⟩
  · simp [hq] at hf
  · have hline' : ∀ f ∈ rest, f.who = g.who ∧ f.vc = g.vc := fun f hmem => by
      obtain ⟨hgw, hgv⟩ := hline g (by simp [hq])
      obtain ⟨hfw, hfv⟩ := hline f (by simp [hq, hmem])
      exact ⟨hfw.trans hgw.symm, hfv.trans hgv.symm⟩
    rw [hq, List.foldl_cons] at hf
    rcases hopen : l.open g.vc with _ | _
    · rw [hopen, Bool.false_and, if_neg (by decide), foldl_eq_self] at hf
      · simp at hf
      · exact fun a ha => by simp [(hline' a ha).2, hopen]
    · rw [hopen, List.any_nil, Bool.not_false, Bool.and_true, if_pos rfl, List.nil_append, foldl_eq_self] at hf
      · exact ⟨rest, by rw [List.mem_singleton.mp hf]⟩
      · exact fun a ha => by simp [(hline' a ha).1]

/-- Since a port had an empty line, parcels with these payloads have been given to it, in order: the first of them sent, the others waiting in one line. -/
def Link.inOrder (l0 l : Link) (w : Nat) (v : BitVec 2) (ps : List Bytes) : Prop :=
  l.oneLine w v ∧ ∃ sent, l.replay = l0.replay ++ sent ∧ (sent ++ l.waitq).map Frame.payload = ps

section
variable {l0 l : Link} {w : Nat} {v : BitVec 2} {ps : List Bytes}

theorem Link.inOrder_start (h : l0.waitq = []) : Link.inOrder l0 l0 w v [] :=
  ⟨fun f hf => by simp [h] at hf, [], by simp, by simp [h]⟩

theorem Link.inOrder.drop (h : Link.inOrder l0 l w v ps) : (l.replay.drop l0.replay.length ++ l.waitq).map Frame.payload = ps := by
  obtain ⟨-, sent, hreplay, hps⟩ := h
  rw [hreplay, List.drop_left, hps]

theorem Link.keep_of_data {f : Frame} (hdata : f.data = true) : l.keep f = { l with waitq := l.waitq ++ [f] } := if_neg (by simp [hdata])

theorem Link.inOrder.keep (h : Link.inOrder l0 l w v ps) {f : Frame} (hdata : f.data = true) (hw : f.who = w) (hv : f.vc = v) :
    Link.inOrder l0 (l.keep f) w v (ps ++ [f.payload]) := by
  obtain ⟨hline, sent, hreplay, hps⟩ := h
  rw [Link.keep_of_data hdata]
  refine ⟨fun g hg => ?_, sent, hreplay, by rw [← hps]; simp⟩
  rcases List.mem_append.mp hg with hg | hg
  · exact hline g hg
  · rw [List.mem_singleton.mp hg]
    exact ⟨hw, hv⟩

/-- The first parcel of the line sent keeps the order. -/
theorem Link.inOrder.transmit (h : Link.inOrder l0 l w v ps) {f : Frame} {rest : List Frame} (hq : l.waitq = f :: rest) :
    Link.inOrder l0 (({ l with waitq := l.waitq.erase f } : Link).transmit f) w v ps := by
  obtain ⟨hline, sent, hreplay, hps⟩ := h
  have hq' : (({ l with waitq := l.waitq.erase f } : Link).transmit f).waitq = rest := by rw [Link.waitq_transmit, hq, List.erase_cons_head]
  refine ⟨fun g hg => hline g ?_, sent ++ [{ f with seq := l.nextSeq }], ?_, ?_⟩
  · rw [hq'] at hg
    rw [hq]
    exact List.mem_cons_of_mem f hg
  · rw [← List.append_assoc, ← hreplay]
    rfl
  · rw [hq', ← hps, hq]
    simp
end

section
variable {s : State} {n : SelynPort} {l0 : Link} {w : Nat} {v : BitVec 2} {ps : List Bytes}

theorem State.link_egressRound_of_ready (h : (s.link n).ready ≠ []) : ∃ f ∈ (s.link n).ready, ∀ m,
    (s.egressRound n).link m = (s.modLink n (fun l => ({ l with waitq := l.waitq.erase f } : Link).transmit f)).link m := by
  obtain ⟨f, hf, -, hlinks⟩ := State.egressRound_of_ready h
  exact ⟨f, hf, fun m => congrArg (fun ls => Tab.getD ls m.val Link.init) hlinks⟩

theorem State.egressRound_inOrder (h : Link.inOrder l0 (s.link n) w v ps) : Link.inOrder l0 ((s.egressRound n).link n) w v ps := by
  by_cases hready : (s.link n).ready = []
  · rwa [State.egressRound_of_not_ready hready]
  · obtain ⟨f, hf, hlink⟩ := State.link_egressRound_of_ready hready
    obtain ⟨rest, hq⟩ := Link.waitq_of_mem_ready h.1 hf
    rw [hlink, State.link_modLink_same]
    exact h.transmit hq

theorem State.pumpLink_inOrder (h : Link.inOrder l0 (s.link n) w v ps) : Link.inOrder l0 ((s.pumpLink n).link n) w v ps := by
  unfold State.pumpLink
  generalize (s.link n).waitq = q
  induction q generalizing s with
  | nil => exact h
  | cons f q ih => exact ih (State.egressRound_inOrder h)

theorem State.giveFrame_inOrder (h : Link.inOrder l0 (s.link n) w v ps) {f : Frame} (hdata : f.data = true) (hw : f.who = w) (hv : f.vc = v) :
    Link.inOrder l0 ((s.giveFrame n f).link n) w v (ps ++ [f.payload]) := by
  refine State.pumpLink_inOrder ?_
  rw [State.link_modLink_same]
  exact h.keep hdata hw hv

/-- Parcels of one requester and channel given to a port one after another stay in order (R396). -/
theorem State.giveFrames_inOrder {α : Type} {parcel : α → Frame} (hdata : ∀ i, (parcel i).data = true) (hw : ∀ i, (parcel i).who = w)
    (hv : ∀ i, (parcel i).vc = v) (l : List α) (h : Link.inOrder l0 (s.link n) w v ps) :
    Link.inOrder l0 ((l.foldl (fun u i => u.giveFrame n (parcel i)) s).link n) w v (ps ++ l.map (fun i => (parcel i).payload)) := by
  induction l generalizing s ps with
  | nil => simpa using h
  | cons i l ih =>
    have hnext := ih (State.giveFrame_inOrder h (hdata i) (hw i) (hv i))
    rwa [List.append_assoc, List.singleton_append] at hnext
end

/-! ### The other ports -/

/-- Every port but one is as it was. -/
def otherLinksKept (n : SelynPort) (s t : State) : Prop := ∀ m, m ≠ n → t.link m = s.link m

theorem otherLinksKept_refl (n : SelynPort) (s : State) : otherLinksKept n s s := fun _ _ => rfl
theorem otherLinksKept_trans (n : SelynPort) (s t u : State) (h : otherLinksKept n s t) (h' : otherLinksKept n t u) : otherLinksKept n s u :=
  fun m hm => (h' m hm).trans (h m hm)

section
variable (s : State) (n : SelynPort)

theorem otherLinksKept_modLink (f : Link → Link) : otherLinksKept n s (s.modLink n f) := fun _ hm => State.link_modLink_of_ne s f hm

theorem otherLinksKept_egressRound : otherLinksKept n s (s.egressRound n) := by
  by_cases hready : (s.link n).ready = []
  · rw [State.egressRound_of_not_ready hready]
    exact otherLinksKept_refl n s
  · obtain ⟨f, -, hlink⟩ := State.link_egressRound_of_ready hready
    exact fun m hm => (hlink m).trans (State.link_modLink_of_ne s _ hm)

theorem otherLinksKept_giveFrame (f : Frame) : otherLinksKept n s (s.giveFrame n f) :=
  otherLinksKept_trans n _ _ _ (otherLinksKept_modLink s n _)
    (foldl_frame (otherLinksKept n) (otherLinksKept_refl n) (otherLinksKept_trans n) _ (fun t _ => otherLinksKept_egressRound t n) _ _)
end

/-! ### SEND -/

/-- A SEND is allowed to its sequencer, and its block is well formed and of another device (R58, R96, R402). -/
def State.sendAllowed (s : State) (c : CtxId) (q : SeqId) (b : Bytes) : Bool :=
  mayIssue 0x0E q && blockOk 0x0E b && fld b 0 1 == 1 && zeroBits b 1 7 2 && (fld b 2 1 == 1 || fld b 2 1 == 2) && decide (fld b 4 2 ≤ 910) &&
    decide (fld b 6 2 ≤ 0xFFFE) && zeroBytes b 9 11 && decide (1 ≤ fld b 24 4) && decide (fld b 24 4 ≤ 2 ^ 26) && zeroBytes b 28 31 &&
    s.accOk c [0, 1] ⟨fldObj b 12, fld b 16 8, fld b 24 4, false⟩ && decide (fld b 4 2 ≠ s.regs.treeIndex.toNat)

/-- A SEND that starts, with every parcel still to be acknowledged (R402). -/
def sendRun (c : CtxId) (q : SeqId) (b : Bytes) (n : SelynPort) : SendRun :=
  { ctx := c, src := q, object := fldObj b 12, port := n, dest := BitVec.ofNat 10 (fld b 4 2), dctx := BitVec.ofNat 8 (fld b 8 1),
    stream := u16 (fld b 6 2), left := ceilDiv (fld b 24 4) 256, wait := none }

/-- Parcel i of a SEND's stream of bytes (R402). -/
def sendParcel (c : CtxId) (b data : Bytes) (i : Nat) : Frame :=
  { seq := 0, vc := BitVec.ofNat 2 (fld b 2 1), data := true, last := decide (i + 1 = ceilDiv (fld b 24 4) 256), dest := BitVec.ofNat 10 (fld b 4 2),
    ctx := BitVec.ofNat 8 (fld b 8 1), stream := u16 (fld b 6 2), payload := slice data (256 * i) 256, src := none, own := some c }

/-- A SEND off its queue and in progress (R402). -/
def State.sendBegun (s : State) (c : CtxId) (q : SeqId) (b : Bytes) (n : SelynPort) : State :=
  let t := s.clearRunning (queueIx 0x0E q) c
  { t with sends := t.sends ++ [sendRun c q b n] }

/-- The same with its parcels given to their port (R402). -/
def State.sendGiven (s : State) (c : CtxId) (q : SeqId) (b : Bytes) (n : SelynPort) : State :=
  (List.range (ceilDiv (fld b 24 4) 256)).foldl
    (fun u i => u.giveFrame n (sendParcel c b (s.rd (fldObj b 12) (fld b 16 8) (fld b 24 4)) i)) (s.sendBegun c q b n)

/-- A SEND with a parcel that waits for a credit notes since when (R58). -/
def State.sendNoted (s : State) (r : SendRun) : State :=
  if (s.link r.port).waitq.any (State.sendFrame r) then { s with sends := s.sends.map (fun x => if x = r then { x with wait := some s.now } else x) } else s

section
variable {s : State} {c : CtxId} {q : SeqId} {b : Bytes} {n : SelynPort}

/-- A SEND that its queue runs, to a device that a port leads to, gives its parcels to the port (R402). -/
theorem exec_send_of_routed (hallowed : s.sendAllowed c q b = true)
    (hready : engineReady s c (State.copyOf 0x0E q b) [⟨fldObj b 12, fld b 16 8, fld b 24 4, false⟩] = true) (hlost : s.isLost (fld b 4 2) = false)
    (hroute : s.route (fld b 4 2) = some n) (htop : (s.isTop && decide (s.regs.treeSize.toNat ≤ fld b 4 2)) = false) :
    exec (.send c q b) s = .next (((s.endWait c (State.copyOf 0x0E q b)).sendGiven c q b n).sendNoted (sendRun c q b n)) := by
  change execSend c q b s = _
  unfold State.sendAllowed at hallowed
  rw [execSend]
  dsimp only
  rw [hallowed, State.runCommand_of_ready hready]
  have hlost' : (s.endWait c (State.copyOf 0x0E q b)).isLost (fld b 4 2) = false := hlost
  have hroute' : (s.endWait c (State.copyOf 0x0E q b)).route (fld b 4 2) = some n := hroute
  have htop' : ((s.endWait c (State.copyOf 0x0E q b)).isTop && decide ((s.endWait c (State.copyOf 0x0E q b)).regs.treeSize.toNat ≤ fld b 4 2)) = false := htop
  simp only [hlost', hroute', htop', Bool.false_eq_true, if_false]
  rfl

theorem egressOnly_sendGiven : egressOnly (s.sendBegun c q b n) (s.sendGiven c q b n) :=
  foldl_frame egressOnly egressOnly_refl egressOnly_trans _ (fun _ _ => State.giveFrame_egressOnly _ _ _) _ _

theorem otherLinksKept_sendGiven : otherLinksKept n s (s.sendGiven c q b n) :=
  otherLinksKept_trans n s (s.sendBegun c q b n) _ (fun _ _ => rfl)
    (foldl_frame (otherLinksKept n) (otherLinksKept_refl n) (otherLinksKept_trans n) _ (fun t _ => otherLinksKept_giveFrame t n _) _ _)

/-- A SEND's parcels enter an empty line in order (R396, R402). -/
theorem State.sendGiven_payloads (h : (s.link n).waitq = []) :
    (((s.sendGiven c q b n).link n).replay.drop (s.link n).replay.length ++ ((s.sendGiven c q b n).link n).waitq).map Frame.payload =
      (List.range (ceilDiv (fld b 24 4) 256)).map (fun i => slice (s.rd (fldObj b 12) (fld b 16 8) (fld b 24 4)) (256 * i) 256) := by
  have hstart : Link.inOrder (s.link n) ((s.sendBegun c q b n).link n) (sendParcel c b [] 0).who (sendParcel c b [] 0).vc [] := Link.inOrder_start h
  have hgiven := State.giveFrames_inOrder (parcel := sendParcel c b (s.rd (fldObj b 12) (fld b 16 8) (fld b 24 4))) (fun _ => rfl) (fun _ => rfl)
    (fun _ => rfl) (List.range (ceilDiv (fld b 24 4) 256)) hstart
  exact hgiven.drop

theorem State.map_bareSend_sendNoted (s : State) (r : SendRun) : (s.sendNoted r).sends.map bareSend = s.sends.map bareSend := by
  unfold State.sendNoted
  split
  · rw [List.map_map]
    refine List.map_congr_left fun x _ => ?_
    by_cases hx : x = r <;> simp [Function.comp, bareSend, hx]
  · rfl

/-- The note of a SEND that waits moves the list of SENDs alone. -/
theorem State.sendNoted_eq (s : State) (r : SendRun) : s.sendNoted r = { s with sends := (s.sendNoted r).sends } := by
  unfold State.sendNoted
  split <;> rfl

@[simp] theorem State.link_sendNoted (s : State) (r : SendRun) (m : SelynPort) : (s.sendNoted r).link m = s.link m := by
  rw [State.sendNoted_eq]; rfl
end

/-! ### RECV -/

/-- A RECV is allowed to its sequencer, and its block is well formed (R58, R96, R402). -/
def State.recvAllowed (s : State) (c : CtxId) (q : SeqId) (b : Bytes) : Bool :=
  mayIssue 0x0E q && blockOk 0x0E b && fld b 0 1 == 2 && zeroBytes b 1 5 && decide (fld b 6 2 ≤ 0xFFFE) && zeroBytes b 8 11 &&
    s.accOk c [0, 1] ⟨fldObj b 12, fld b 16 8, fld b 24 4, true⟩ && s.accOk c [0] ⟨fldObj b 28, 0, 8, true⟩

/-- A RECV that is posted with nothing taken (R402). -/
def recvPosted (c : CtxId) (q : SeqId) (b : Bytes) (now : U64) : Recv :=
  { ctx := c, src := q, stream := u16 (fld b 6 2), object := fldObj b 12, offset := BitVec.ofNat 64 (fld b 16 8), capacity := BitVec.ofNat 32 (fld b 24 4),
    robj := fldObj b 28, since := now, taken := 0, received := 0, overflow := false }

/-- A RECV off its queue and posted, before it takes stored parcels (R402). -/
def State.recvBegun (s : State) (c : CtxId) (q : SeqId) (b : Bytes) : State :=
  ({ s with recvs := s.recvs ++ [recvPosted c q b s.now] } : State).clearRunning (queueIx 0x0E q) c

/-- With no parcel stored there is nothing to deliver (R353). -/
theorem State.deliverStored_of_nil {s : State} {c : CtxId} (h : (s.ctx c).inbound = []) :
    s.deliverStored c = s.modCtx c (fun x => { x with inbound := [] }) := by
  rw [State.deliverStored, h]
  rfl

section
variable {s : State} {c : CtxId} {q : SeqId} {b : Bytes} (hallowed : s.recvAllowed c q b = true)
  (hready : engineReady s c (State.copyOf 0x0E q b) [⟨fldObj b 12, 0, 0, true⟩, ⟨fldObj b 28, 0, 8, true⟩] = true)
include hallowed hready

theorem exec_recv_waits (hfull : 1024 ≤ s.recvs.length) : exec (.recv c q b) s = .next (s.noteWait c (State.copyOf 0x0E q b) 2 0x0E) := by
  change execRecv c q b s = _
  obtain ⟨hactive, hstarted, hresident, -⟩ := engineReady_iff.mp hready
  unfold State.recvAllowed at hallowed
  rw [execRecv]
  dsimp only
  rw [hallowed, if_pos hfull]
  simp [State.runCommand, hactive, hstarted, hresident]

theorem exec_recv_of_room (hroom : s.recvs.length < 1024) :
    exec (.recv c q b) s = .next (((s.endWait c (State.copyOf 0x0E q b)).recvBegun c q b).deliverStored c) := by
  change execRecv c q b s = _
  unfold State.recvAllowed at hallowed
  rw [execRecv]
  dsimp only
  rw [hallowed, if_neg (by omega), State.runCommand_of_ready hready]
  rfl
end

/-- Settles O26: a SEND's parcels are given to their port in order, which moves what an egress moves; a RECV is posted, or noted as waiting. -/
theorem linkCommandsComplete : Obligations.LinkCommandsComplete := by
  intro s c q b hissue hblock on obj off len
  refine ⟨fun n hop hz hvc hdest hstream hz1 hlen1 hlen2 hz2 hacc hself hready hlost hroute htop => ?_, fun hop hz hstream hz1 hacc hacc' hready => ?_⟩
  · have hallowed : s.sendAllowed c q b = true := by
      simp only [State.sendAllowed, Bool.and_eq_true, Bool.or_eq_true, beq_iff_eq, decide_eq_true_eq]
      exact ⟨⟨⟨⟨⟨⟨⟨⟨⟨⟨⟨⟨hissue, hblock⟩, hop⟩, hz⟩, hvc⟩, hdest⟩, hstream⟩, hz1⟩, hlen1⟩, hlen2⟩, hz2⟩, hacc⟩, hself⟩
    have hgiven : egressOnly ((s.endWait c on).sendBegun c q b n) ((s.endWait c on).sendGiven c q b n) := egressOnly_sendGiven
    obtain ⟨hframe, hlags, hsends⟩ := hgiven
    have hnoted := State.sendNoted_eq ((s.endWait c on).sendGiven c q b n) (sendRun c q b n)
    refine ⟨_, exec_send_of_routed hallowed hready hlost hroute htop, ?_, ?_, ?_, ?_, ?_, ?_⟩
    · rw [hnoted, hframe]; rfl
    · rw [hnoted]; exact hlags
    · rw [State.map_bareSend_sendNoted, hsends]; exact List.map_append
    · rw [hnoted, hframe]; rfl
    · intro m hm
      rw [State.link_sendNoted]
      exact otherLinksKept_sendGiven m hm
    · intro hempty
      rw [State.link_sendNoted]
      exact State.sendGiven_payloads (s := s.endWait c on) hempty
  · have hallowed : s.recvAllowed c q b = true := by
      simp only [State.recvAllowed, Bool.and_eq_true, beq_iff_eq, decide_eq_true_eq]
      exact ⟨⟨⟨⟨⟨⟨⟨hissue, hblock⟩, hop⟩, hz⟩, hstream⟩, hz1⟩, hacc⟩, hacc'⟩
    refine ⟨exec_recv_waits hallowed hready, fun hroom hinbound => ?_⟩
    have hnone : (((s.endWait c on).recvBegun c q b).ctx c).inbound = [] := by
      change ((s.endWait c on).ctx c).inbound = []
      rw [State.ctx_endWait]
      exact hinbound
    exact ⟨_, (exec_recv_of_room hallowed hready hroom).trans (congrArg _ (State.deliverStored_of_nil hnone)), rfl, rfl, rfl⟩

end Sys2Proof.Machine
end

section
/-! PROOFS. The element codes of the block formats (R62, R64, R66): the value of each kind of code. -/

namespace Sys2Proof.Machine

/-! ### JB8 codes (R62) -/

theorem jb8Val_of_nan {c : Nat} (hnan : c % 256 = 0x80) : jb8Val c = .nan := if_pos hnan

/-- An exponent field of 0 leaves only +0, but for the NaN code. -/
theorem jb8Val_of_exponent_zero {c : Nat} (hnan : c % 256 ≠ 0x80) (hexp : c / 8 % 16 = 0) : jb8Val c = .fin false Dy.zero := by
  rw [jb8Val, if_neg hnan, if_pos hexp]

/-- Any other exponent field is read with the hidden 8 before the mantissa: the NaN code is not among these codes. -/
theorem jb8Val_of_exponent_pos {c : Nat} (hexp : c / 8 % 16 ≠ 0) :
    jb8Val c = .fin (decide (c / 128 % 2 = 1))
      { m := if c / 128 % 2 = 1 then -((8 + c % 8 : Nat) : Int) else ((8 + c % 8 : Nat) : Int), e := ((c / 8 % 16 : Nat) : Int) - 10 } := by
  have hnan : c % 256 ≠ 0x80 := by omega
  rw [jb8Val, if_neg hnan, if_neg hexp]
  rfl

/-- The three fields of a JB8 code put together from them. -/
theorem jb8_fields (sign : Bool) {e m : Nat} (he : e ≤ 15) (hm : m ≤ 7) :
    let c := (if sign then 128 else 0) + 8 * e + m
    c / 128 % 2 = sign.toNat ∧ c / 8 % 16 = e ∧ c % 8 = m := by
  cases sign <;> simp only [Bool.toNat, cond, if_true, Bool.false_eq_true, if_false] <;> omega

theorem jb8Val_of_fields (sign : Bool) {e m : Nat} (he1 : 1 ≤ e) (he : e ≤ 15) (hm : m ≤ 7) :
    jb8Val ((if sign then 128 else 0) + 8 * e + m) =
      .fin sign { m := if sign then -((8 + m : Nat) : Int) else ((8 + m : Nat) : Int), e := (e : Int) - 10 } := by
  obtain ⟨hsign, hexp, hman⟩ := jb8_fields sign he hm
  rw [jb8Val_of_exponent_pos (by omega), hsign, hexp, hman]
  cases sign <;> rfl

/-! ### JB4 codes (R64) -/

theorem jb4Twice_eq_getD {c : Nat} (hc : c ≤ 7) : jb4Twice c = [0, 1, 2, 3, 4, 6, 8, 12].getD c 0 := by
  interval_cases c <;> rfl

/-- The sign bit takes no part in the magnitude. -/
theorem jb4Twice_add_sign (c : Nat) : jb4Twice (8 + c) = jb4Twice c := by
  rw [jb4Twice, Nat.add_mod_left]
  rfl

theorem jb4Val_of_plus {c : Nat} (hpos : ¬ (c / 8 % 2 = 1 ∧ c % 8 ≠ 0)) : jb4Val c = .fin false { m := jb4Twice c, e := -1 } := by
  simp only [jb4Val, hpos, decide_false, if_false]

theorem jb4Val_of_minus {c : Nat} (hneg : c / 8 % 2 = 1 ∧ c % 8 ≠ 0) : jb4Val c = .fin true { m := -(jb4Twice c : Int), e := -1 } := by
  simp [jb4Val, hneg]

/-- 0x8 is the one code whose sign bit is dropped: it is the +0 of 0x0. -/
theorem jb4Val_minus_zero : jb4Val 8 = jb4Val 0 := by
  rw [jb4Val_of_plus (by decide), jb4Val_of_plus (by decide), jb4Twice_add_sign 0]

/-! ### JB2 blocks (R66) -/

/-- The model shifts the byte by whole codes (a power of 4), the rule by bits (a power of 2). -/
theorem getElem?_decodeBlock_jb2 (b : Bytes) {i : Nat} (hi : i < 64) :
    (decodeBlock 5 b)[i]? = some ((jb2Val (fld b (2 + i / 4) 1 / 2 ^ (2 * (i % 4)))).mul (fmt16.decode (fld b 0 2))) := by
  have hcodes : decodeBlock 5 b = (List.range 64).map fun i =>
      (jb2Val (fld b (2 + i / 4) 1 / 4 ^ (i % 4))).mul (fmt16.decode (fld b 0 2)) := rfl
  rw [hcodes, List.getElem?_map, List.getElem?_range hi, pow_mul]
  rfl

/-- Settles O60: a code's fields say which row of its format's table it is, and each row has its own equation. -/
theorem blockFormatsDecode : Obligations.BlockFormatsDecode := by
  refine ⟨fun sign e m he1 he hm => jb8Val_of_fields sign he1 he hm, fun m hm => ⟨?_, fun hm0 => ?_⟩, jb8Val_of_nan rfl,
    fun c hc => ?_, fun c hc1 hc => ?_, jb4Val_minus_zero, fun b i hi => getElem?_decodeBlock_jb2 b hi⟩
  case refine_1 => exact jb8Val_of_exponent_zero (by omega) (by omega)
  case refine_2 => exact jb8Val_of_exponent_zero (by omega) (by omega)
  case refine_3 => rw [jb4Val_of_plus (by omega), jb4Twice_eq_getD hc]
  case refine_4 => rw [jb4Val_of_minus (by omega), jb4Twice_add_sign, jb4Twice_eq_getD hc]

end Sys2Proof.Machine
end

section
/-! PROOFS. The Steppe array and its rim units (04_steppe_array.md): a command that both Steppe queues run, the rows that each RIM operation stores and the
bytes that it leaves, and what pre-emption and suspension set aside and bring back. -/

namespace Sys2Proof.Machine

/-! ### A command that both Steppe queues run (R93) -/

section
variable {s : State} {c : CtxId} {w : Bytes}

section
variable {cmd : Nat} {allowed : Bool} {acc : List Access} (hblock : blockOk 0 w = true) (hcmd : fld w 0 1 = cmd) (hallowed : allowed = true)
  (hready : engineReady s c (State.steppeCopies w w) acc = true)
include hblock hcmd hallowed hready

/-- An allowed command whose two copies are one block has its effect, once both queues run it and its objects are there. -/
theorem State.runCommand_of_sameCopies (p : Access → Option (State → State)) (eff finish : State → State) :
    s.runCommand c (State.steppeCopies w w) (decide (w = w) && blockOk 0 w && fld w 0 1 == cmd && allowed) acc p eff finish =
      finish (eff (s.endWait c (State.steppeCopies w w))) := by
  subst hcmd hallowed
  simp only [hblock, decide_true, beq_self_eq_true, Bool.and_self, State.runCommand_of_ready hready]

theorem State.runSteppe_of_ready (p : Access → Option (State → State)) (eff : State → State) :
    s.runSteppe c w w cmd allowed acc p eff = (eff (s.endWait c (State.steppeCopies w w))).steppeDone c :=
  State.runCommand_of_sameCopies hblock hcmd hallowed hready p eff _
end

/-! ### The rows of a RIM operation (R112 to R116, R261) -/

theorem rimReady_iff {u : RimUse} {op : Nat} : rimReady s c w u op = true ↔
    blockOk 0 w = true ∧ fld w 0 1 = 4 ∧ s.rimOk c w (Rim.of w) u op = true ∧
      engineReady s c (State.steppeCopies w w) (if (Rim.of w).rows = 0 then [] else (Rim.of w).acc u) = true := by
  simp [rimReady, and_assoc]

section
variable {u : RimUse} {op : Nat} (h : rimReady s c w u op = true)
include h

/-- A RIM command that reaches its rows' objects has its effect and ends in both queues. -/
theorem State.runSteppe_of_rimReady {allowed : Bool} (hallowed : s.rimOk c w (Rim.of w) u op = true → allowed = true) (eff : State → State) :
    s.runSteppe c w w 0x04 allowed (if (Rim.of w).rows = 0 then [] else (Rim.of w).acc u) State.noPoisonRule eff =
      (eff (s.endWait c (State.steppeCopies w w))).steppeDone c := by
  obtain ⟨hblock, hcmd, hok, hready⟩ := rimReady_iff.mp h
  exact State.runSteppe_of_ready hblock hcmd (hallowed hok) hready _ _

/-- An operation by rows stores what it makes of each row of a and of that row's number. -/
theorem State.rimRows_of_ready {extra : Bool} (hextra : extra = true) (row : State → Nat → List F32 → List F32) :
    s.rimRows c w w op extra u row = rimDone (s.endWait c (State.steppeCopies w w)) c w u
      ((rimIn (s.endWait c (State.steppeCopies w w)) w u).zipIdx.map (fun p => row (s.endWait c (State.steppeCopies w w)) p.2 p.1)) := by
  refine (State.runSteppe_of_rimReady h (fun hok => by rw [hok, hextra, Bool.and_self]) _).trans (congrArg (rimDone _ c w u) ?_)
  refine List.ext_getElem (by simp [rimIn]) fun r _ _ => ?_
  simp [rimIn]

/-- An operation that treats every row alike. -/
theorem State.rimRows_of_ready_alike (row : State → List F32 → List F32) :
    s.rimRows c w w op true u (fun t _ a => row t a) = rimDone (s.endWait c (State.steppeCopies w w)) c w u
      ((rimIn (s.endWait c (State.steppeCopies w w)) w u).map (row (s.endWait c (State.steppeCopies w w)))) :=
  (State.runSteppe_of_rimReady h (fun hok => by rw [hok, Bool.and_self]) _).trans (congrArg (rimDone _ c w u) (by rw [rimIn, List.map_map]; rfl))
end
end

/-- Settles O18: each operation is one function of a row, of the rows' numbers where b has a row for each. -/
theorem rimElementwise : Obligations.RimElementwise := by
  intro s c w x b2 bc a1 t pair rowB
  refine ⟨?add, ?mul, ?scaleBias, ?convert, ?gelu, ?geluTanh, ?silu, ?siluMul⟩ <;> intro h <;> refine congrArg Host.Outcome.next ?_
  case add | mul => exact State.rimRows_of_ready h rfl _
  case convert => exact (State.rimRows_of_ready_alike h fun _ a => a).trans (by rw [List.map_id'])
  case scaleBias | gelu | geluTanh | silu | siluMul => exact State.rimRows_of_ready_alike h _

/-- Settles O19: MEANPOOL reaches its one output row even with no input rows; ROUTE and SAMPLE write records instead of rows. -/
theorem rimRowwise : Obligations.RimRowwise := by
  intro s c w x a1 t sm ln rn rp mp rt
  refine ⟨?softmax, ?layernorm, ?rmsnorm, ?l2norm, ?meanpool, ?rope, ?route, ?sample⟩
  case softmax => exact fun h => congrArg Host.Outcome.next (State.rimRows_of_ready h rfl _)
  case layernorm | rmsnorm | l2norm => exact fun h => congrArg Host.Outcome.next (State.rimRows_of_ready_alike h _)
  case meanpool =>
    intro h hreach
    obtain ⟨hblock, hcmd, hok, -⟩ := rimReady_iff.mp h
    exact congrArg Host.Outcome.next (State.runSteppe_of_ready hblock hcmd hok hreach _ _)
  case rope =>
    intro h heven
    exact congrArg Host.Outcome.next (State.rimRows_of_ready h (beq_iff_eq.mpr heven) _)
  case route =>
    intro h hlo hhi hrows
    have hlisted : (List.range x.rows).all (fun p => State.routeRowOk x.param (s.routeRow x rt p)) = true := by simpa using hrows
    refine congrArg Host.Outcome.next (State.runSteppe_of_rimReady h (fun hok => ?_) _)
    simp only [Bool.and_eq_true, Bool.or_eq_true, decide_eq_true_eq]
    exact ⟨⟨⟨hok, hlo⟩, hhi⟩, .inr hlisted⟩
  case sample =>
    intro masked sp h hfmt hrows
    have hparams : (List.range x.rows).all (fun r => sampleParamsOk (s.rd x.bobj (32 * r) 32)) = true := by simpa using hrows
    refine congrArg Host.Outcome.next (State.runSteppe_of_rimReady h (fun hok => ?_) _)
    simp only [Bool.and_eq_true, Bool.or_eq_true, beq_iff_eq]
    exact ⟨⟨hok, hfmt⟩, .inr hparams⟩

/-! ### What a RIM command stores (R112) -/

/-- Stores to one object: its bytes and its record. -/
def storesTo (id : U32) (s t : State) : Prop := t = { s with mem := t.mem, objs := t.objs } ∧ ∀ j, j ≠ id → t.obj? j = s.obj? j

theorem storesTo_refl (id : U32) (s : State) : storesTo id s s := ⟨rfl, fun _ _ => rfl⟩
theorem storesTo_trans (id : U32) (s t u : State) (h : storesTo id s t) (h' : storesTo id t u) : storesTo id s u := by
  obtain ⟨ht, hobj⟩ := h
  obtain ⟨hu, hobj'⟩ := h'
  exact ⟨by rw [hu, ht], fun j hj => (hobj' j hj).trans (hobj j hj)⟩

theorem State.obj?_modObj (s : State) (id : U32) (f : Obj → Obj) (j : U32) : (s.modObj id f).obj? j = if j = id then (s.obj? j).map f else s.obj? j := by
  unfold State.modObj
  split <;> rename_i ho <;> split_ifs with hj
  · simp [hj, ho]
  · rfl
  · simp [hj, ho]
  · exact State.obj?_setObj_of_ne s _ hj

theorem State.modObj_eq (s : State) (id : U32) (f : Obj → Obj) : s.modObj id f = { s with objs := (s.modObj id f).objs } := by
  unfold State.modObj
  split <;> rfl

theorem State.mem_modObj (s : State) (id : U32) (f : Obj → Obj) : (s.modObj id f).mem = s.mem := by rw [State.modObj_eq]

theorem storesTo_wr (s : State) (id : U32) (off : Nat) (bs : Bytes) : storesTo id s (s.wr id off bs) := by
  refine ⟨?_, fun j hj => ?_⟩
  · unfold State.wr
    rw [State.modObj_eq]
    rfl
  · rw [State.wr, State.obj?_modObj, if_neg hj]
    rfl

/-- A store leaves the bytes beside its own. -/
theorem State.get_wr_of_not (s : State) (id : U32) (off : Nat) (bs : Bytes) {a : Nat}
    (h : a < (Space.obj id).key off ∨ (Space.obj id).key off + bs.length ≤ a) : (s.wr id off bs).mem.get a = s.mem.get a := by
  rw [State.wr, State.mem_modObj]
  exact Memory.get_write_of_not _ _ _ _ h

/-- Stores in turn leave the bytes that are beside them all. -/
theorem State.get_foldl_wr_of_not {α : Type} (id : U32) (off : α → Nat) (bs : α → Bytes) {a : Nat} (l : List α)
    (h : ∀ p ∈ l, a < (Space.obj id).key (off p) ∨ (Space.obj id).key (off p) + (bs p).length ≤ a) (s : State) :
    (l.foldl (fun t p => t.wr id (off p) (bs p)) s).mem.get a = s.mem.get a := by
  induction l generalizing s with
  | nil => rfl
  | cons p l ih =>
    rw [List.forall_mem_cons] at h
    rw [List.foldl_cons, ih h.2, State.get_wr_of_not _ _ _ _ h.1]

/-- The output rows stored, each row by its number. -/
theorem State.rimWrite_eq (s : State) (c : CtxId) (x : Rim) (u : RimUse) (rows : List (List F32)) :
    s.rimWrite c x u rows = rows.zipIdx.foldl (fun t p =>
      t.wr x.oobj (x.ooff + p.2 * x.ostride u) (encodeRow x.ofmt (s.srFor c x.oobj x.ofmt (x.ooff + p.2 * x.ostride u)) p.1)) s := rfl

theorem storesTo_rimWrite (s : State) (c : CtxId) (x : Rim) (u : RimUse) (rows : List (List F32)) : storesTo x.oobj s (s.rimWrite c x u rows) := by
  rw [State.rimWrite_eq]
  exact foldl_frame _ (storesTo_refl _) (storesTo_trans _) _ (fun t p => storesTo_wr t _ _ _) _ s

/-- A command's end moves its context and queues alone. -/
def endsIn (c : CtxId) (s t : State) : Prop := t = { s with queues := t.queues, ctxs := t.ctxs } ∧ ∀ d, d ≠ c → t.ctx d = s.ctx d

theorem endsIn_trans {c : CtxId} {s t u : State} (h : endsIn c s t) (h' : endsIn c t u) : endsIn c s u := by
  obtain ⟨ht, hctx⟩ := h
  obtain ⟨hu, hctx'⟩ := h'
  exact ⟨by rw [hu, ht], fun d hd => (hctx' d hd).trans (hctx d hd)⟩

section
variable {s : State} {c : CtxId} (h : (s.ctx c).finishing = [])
include h

theorem endsIn_engineDone (q : SeqId) (engine : Nat) : endsIn c s (s.engineDone c q engine) := by
  rw [State.engineDone_eq h]
  exact ⟨rfl, fun d hd => State.ctx_modCtx_of_ne (s.clearRunning _ c) _ hd⟩

theorem State.finishing_engineDone (q : SeqId) (engine : Nat) : ((s.engineDone c q engine).ctx c).finishing = [] := by
  rw [State.engineDone_eq h, State.ctx_modCtx_same]

theorem endsIn_steppeDone : endsIn c s (s.steppeDone c) :=
  endsIn_trans (endsIn_engineDone h .steppeW 0) (endsIn_engineDone (State.finishing_engineDone h .steppeW 0) .steppeE 0)
end

/-- Settles O20: the rows are stored to the output object, and what ends the command moves no byte and no object. -/
theorem rimStoresOnlyOutputRows : Obligations.RimStoresOnlyOutputRows := by
  intro s c w u rows hfinishing x t
  obtain ⟨hstored, hobjs⟩ := storesTo_rimWrite s c x u rows
  have hctx : ∀ d, (s.rimWrite c x u rows).ctx d = s.ctx d := fun d => by rw [hstored]; rfl
  obtain ⟨hended, hothers⟩ := endsIn_steppeDone (s := s.rimWrite c x u rows) (c := c) (by rw [hctx, hfinishing])
  have ht : t = (s.rimWrite c x u rows).steppeDone c := rfl
  rw [← ht] at hended hothers
  refine ⟨fun a ha => ?_, ?_, fun d hd => (hothers d hd).trans (hctx d), fun id hid => ?_⟩
  · rw [hended, State.rimWrite_eq]
    exact State.get_foldl_wr_of_not x.oobj _ _ _ ha s
  · rw [hended, hstored]
  · rw [← hobjs id hid, hended]
    rfl

/-! ### LOADR, MATMUL, GROUPED and DROPR (R98 to R111, R120, R121, R318) -/

/-- Settles O21: the four are Steppe commands of one block; where operands stream through a window, the command ends itself after its last group or expert. -/
theorem arrayCommandsComplete : Obligations.ArrayCommandsComplete := by
  intro s c w hblock on t
  refine ⟨?loadr, ?matmul, ?grouped, ?dropr⟩
  case loadr =>
    intro x hcmd hok hready
    exact congrArg Host.Outcome.next (State.runSteppe_of_ready hblock hcmd hok hready _ _)
  case matmul =>
    intro x hcmd hok hready
    refine ⟨fun hwindow => ?_, fun hwindow hrows => ?_⟩ <;> refine congrArg Host.Outcome.next ?_
    · exact (if_neg (Bool.eq_false_iff.mp hwindow)).trans (State.runCommand_of_sameCopies hblock hcmd hok hready _ _ _)
    · refine (if_pos hwindow).trans ?_
      rw [hrows]
      exact State.runCommand_of_sameCopies hblock hcmd hok hready _ _ id
  case grouped =>
    intro x hcmd hok hrows hready
    refine congrArg Host.Outcome.next ?_
    rw [hrows]
    exact State.runCommand_of_sameCopies hblock hcmd hok hready _ _ id
  case dropr =>
    intro x hcmd hok hready
    exact congrArg Host.Outcome.next (State.runSteppe_of_ready hblock hcmd hok hready _ _)

/-! ### Pre-emption (R124, R332, R349, R350) -/

/-- The running command of a queue set aside, the oldest of its stream. -/
def Queue.setAside (u : Queue) : Queue := match u.running with | none => u | some e => { u with running := none, saved := e :: u.saved }

theorem State.queue_setAside_same (s : State) (i : Nat) : (s.setAside i).queue i = (s.queue i).setAside := State.queue_modQueue_same s i _

theorem State.queue_setAside_of_ne (s : State) {i j : Nat} (h : j ≠ i) : (s.setAside i).queue j = s.queue j := State.queue_modQueue_of_ne s _ h

theorem State.noteSaved_eq (s : State) (c : CtxId) : s.noteSaved c = { s with objs := (s.noteSaved c).objs, fresh := s.fresh + 1 } := by
  rw [State.noteSaved, State.modObj_eq]

theorem State.queue_noteSaved (s : State) (c : CtxId) (j : Nat) : (s.noteSaved c).queue j = s.queue j := by
  rw [State.noteSaved_eq]
  rfl

/-- A save marks the context's save area alone. -/
theorem State.obj?_noteSaved (s : State) (c : CtxId) (id : U32) :
    (s.noteSaved c).obj? id = if id = (s.ctx c).save then (s.obj? id).map (fun o => { o with saved := some s.fresh }) else s.obj? id :=
  State.obj?_modObj _ _ _ _

/-- A command may be set aside for a candidate: one of higher base, at a pre-emption point, with a delay that is not disabled (R349, R350). -/
def State.outranked (s : State) (i : Nat) (e : QEntry) : Prop :=
  s.regs.preempt ≠ 0xFFFFFFFF ∧ preemptible (queueEngine i) = true ∧ (s.ctx e.ctx).base < s.rivalBase i

/-- The model's own test (R349, R350). -/
theorem State.outranked_iff {s : State} {i : Nat} {e : QEntry} : s.outranked i e ↔
    (s.regs.preempt = 0xFFFFFFFF || !preemptible (queueEngine i) || decide (s.rivalBase i ≤ (s.ctx e.ctx).base)) = false := by
  simp [State.outranked, and_assoc]

section
variable {s : State} {i : Nat} {e : QEntry} (he : (s.queue i).running = some e)
include he

theorem exec_enginePreemption_of_outranked (h : s.outranked i e) : exec (.enginePreemption i) s = .next (
    if i < 2 then { ((s.setAside 0).setAside 1) with saving := some e.ctx } else if !s.saveHere e.ctx then s else (s.setAside i).noteSaved e.ctx) := by
  refine congrArg Host.Outcome.next ?_
  rw [he]
  exact if_neg (Bool.eq_false_iff.mp (State.outranked_iff.mp h))

theorem exec_enginePreemption_of_not_outranked (h : ¬ s.outranked i e) : exec (.enginePreemption i) s = .next s := by
  refine congrArg Host.Outcome.next ?_
  rw [he]
  exact if_pos (Bool.not_eq_false _ ▸ State.outranked_iff.not.mp h)
end

/-- Settles O36: only an outranked command is set aside, at a Steppe queue with its partner copy and elsewhere where the save area is RESIDENT. -/
theorem preemptionSetsAside : Obligations.PreemptionSetsAside := by
  intro s i e he may aside
  have haside : ∀ u, aside u = u.setAside := fun _ => rfl
  have houtranked : may → s.outranked i e := fun ⟨hdelay, hpoint, hbase, _⟩ => ⟨hdelay, hpoint, hbase⟩
  refine ⟨?stays, ?steppe, ?other⟩
  case stays =>
    intro hstays
    by_cases h : s.outranked i e
    · have ⟨hdelay, hpoint, hbase⟩ := h
      obtain ⟨hother, haway⟩ := Classical.not_imp.mp fun hsave => hstays ⟨hdelay, hpoint, hbase, hsave⟩
      rw [exec_enginePreemption_of_outranked he h, if_neg (by omega), if_pos (by simpa using haway)]
    · exact exec_enginePreemption_of_not_outranked he h
  case steppe =>
    intro hmay hsteppe
    refine ⟨_, (exec_enginePreemption_of_outranked he (houtranked hmay)).trans (congrArg _ (if_pos hsteppe)), rfl, ?_, ?_, fun j hj => ?_⟩
    · exact (State.queue_setAside_of_ne _ (by decide)).trans (State.queue_setAside_same s 0)
    · exact (State.queue_setAside_same _ 1).trans (congrArg Queue.setAside (State.queue_setAside_of_ne s (by decide)))
    · exact (State.queue_setAside_of_ne _ (by omega)).trans (State.queue_setAside_of_ne s (by omega))
  case other =>
    intro hmay hother
    have h := houtranked hmay
    obtain ⟨-, -, -, hsave⟩ := hmay
    refine ⟨(s.setAside i).noteSaved e.ctx, ?_, ?_, ?_, fun j hj => ?_, fun id => State.obj?_noteSaved (s.setAside i) e.ctx id⟩
    · rw [exec_enginePreemption_of_outranked he h, if_neg (by omega), if_neg (by simp [hsave hother])]
    · rw [State.noteSaved_eq]
      rfl
    · rw [State.queue_noteSaved, State.queue_setAside_same, haside]
    · rw [State.queue_noteSaved, State.queue_setAside_of_ne s hj]

/-! ### Suspension and resume (R351, R352) -/

/-- A suspension asked of a READY context that no episode runs begins at once (R343, R351, R353). -/
theorem State.askSuspend_of_ready {s : State} {c : CtxId} (hreq : (s.ctx c).suspendReq = false) (hstate : (s.ctx c).state = .ready)
    (hepisode : (s.ctx c).episode = none) : s.askSuspend c = ((((s.modCtx c (fun x => { x with suspendReq := true })).withdrawReqs c).withdrawFrames c).modCtx c
      (fun x => { x with suspending := true, resuming := false, episode := none })).inherit := by
  have hready : ((s.modCtx c (fun x => { x with suspendReq := true })).ctx c).state = .ready := by rw [State.ctx_modCtx_same]; exact hstate
  unfold State.askSuspend State.beginSuspend
  simp only [hreq, hepisode, Bool.false_eq_true, if_false, Option.isNone_none, if_true, hready]

/-- The restore of a suspended context begins when its host's request was the last suspension that stood (R352). -/
theorem State.withdraw_of_suspended {s : State} {c : CtxId} (hstate : (s.ctx c).state = .suspended) (hdraining : (s.ctx c).draining = false)
    (hport : (s.port (s.ctx c).port).lost = false) :
    s.withdraw c = (s.modCtx c (fun x => { x with suspendReq := false })).modCtx c (fun x => { x with resuming := true }) := by
  refine if_pos ⟨by rw [State.ctx_modCtx_same]; exact hstate, ?_⟩
  have hstanding : (s.modCtx c (fun x => { x with suspendReq := false })).standing c =
      (false || (s.ctx c).draining || (s.port (s.ctx c).port).lost) := by
    rw [State.standing, State.ctx_modCtx_same]
    rfl
  rw [hstanding, hdraining, hport]
  rfl

/-- Settles O37: each command's conditions are the tests that it makes. -/
theorem suspensionCommandsComplete : Obligations.SuspensionCommandsComplete := by
  intro s p c
  refine ⟨?steppeSave, ?contextSave, ?restore, ?budget, ?suspend, ?withdraw⟩
  case steppeSave =>
    intro hsaving hsave
    refine congrArg Host.Outcome.next ?_
    rw [hsaving]
    exact if_neg (by simp [hsave])
  case contextSave =>
    intro hsuspending hstate hsave
    exact congrArg Host.Outcome.next (if_neg (by simp [hsuspending, hstate, hsave]))
  case restore =>
    intro hresuming hstate hsave bad
    have hgoes : ¬ (!(s.ctx c).resuming || decide ((s.ctx c).state ≠ .suspended) || !s.saveHere c) = true := by simp [hresuming, hstate, hsave]
    exact ⟨fun hsound => congrArg Host.Outcome.next ((if_neg hgoes).trans (if_neg (Bool.eq_false_iff.mp hsound))),
      fun hbad => congrArg Host.Outcome.next ((if_neg hgoes).trans (if_pos hbad))⟩
  case budget =>
    intro ep hep
    refine congrArg Host.Outcome.next ?_
    rw [hep]
  case suspend =>
    intro hmay hreq hstate hepisode
    exact congrArg Host.Outcome.next ((if_pos hmay).trans (State.askSuspend_of_ready hreq hstate hepisode))
  case withdraw =>
    intro hmay hstate hdraining hport
    refine ⟨_, congrArg Host.Outcome.next ((if_pos hmay).trans (State.withdraw_of_suspended hstate hdraining hport)),
      ctxOnly_trans (ctxOnly_modCtx s c _) (ctxOnly_modCtx _ c _), ?_⟩
    rw [State.ctx_modCtx_same, State.ctx_modCtx_same]

end Sys2Proof.Machine
end

section
/-! PROOFS. The Gorge's table commands (06_gorge_embedding_engine.md) and Glen's shard commands (07_glen_search.md): what lets each of them complete where its
queues run it. -/

namespace Sys2Proof.Machine

section
variable {s : State} {c : CtxId} {q : SeqId} {b : Bytes}

/-! ### UPDATE and its contributors' end markers (R181, R187) -/

/-- An UPDATE does not wait for end markers before it has sent its own contributions, nor with every marker in, nor with a missing contributor lost. -/
theorem State.not_waits_for_ends {x : Update}
    (hends : s.progressOf (State.progKey c q 1) b = 0 ∨ s.missingEnds c x = [] ∨ ∃ d ∈ s.missingEnds c x, s.isLost d = true) :
    ¬ (decide (0 < s.progressOf (State.progKey c q 1) b) && !(s.missingEnds c x).isEmpty && !(s.missingEnds c x).any (fun d => s.isLost d)) = true := by
  rcases hends with hunsent | hall | hlost
  · simp [hunsent]
  · simp [hall]
  · simp [List.any_eq_true.mpr hlost]

/-! ### Glen's commands (R203, R219, R222) -/

/-- A Glen command that meets no poisoned parcel runs as every engine command does. -/
theorem State.runGlen_of_ready {on : State.Copies} {acc : List Access} (hready : engineReady s c on acc = true) (eff finish : State → State) :
    s.runGlen c on true acc eff finish = finish (eff (s.endWait c on)) := by
  obtain ⟨-, -, -, hsound⟩ := engineReady_iff.mp hready
  rw [State.runGlen, hsound]
  exact State.runCommand_of_ready hready _ eff finish

theorem State.searchIssuers_ne_nil (graph : Bool) : State.searchIssuers graph ≠ [] := by
  cases graph <;> exact List.cons_ne_nil _ _

/-- The block that a SEARCH reads is the one that each of its issuers gave. -/
theorem State.headD_searchCopies (graph : Bool) (b : Bytes) : ((State.searchIssuers graph).map (fun _ => b)).headD [] = b := by
  obtain ⟨p, ps, h⟩ := List.exists_cons_of_ne_nil (State.searchIssuers_ne_nil graph)
  rw [h]
  rfl

/-- A SEARCH with the copies its mode needs, whose shards no install holds, has its effect and ends in each of its queues. -/
theorem exec_searchCommand_of_ready {copies : List Bytes} (hblock : copies.headD [] = b)
    (hlength : copies.length = (State.searchIssuers (Search.of b).graph).length)
    (hheld : s.held c (State.searchCopies (Search.of b).graph copies) (maskShards (Search.of b).mask) = false)
    (hok : s.searchOk c copies b (Search.of b) = true)
    (hready : engineReady s c (State.searchCopies (Search.of b).graph copies) (s.searchAcc (Search.of b) ++ s.searchStore c (Search.of b)) = true) :
    exec (.searchCommand c copies) s = .next ((State.searchIssuers (Search.of b).graph).foldl (fun u p => u.engineDone c p.1 p.2)
      ((s.endWait c (State.searchCopies (Search.of b).graph copies)).searchEff c (Search.of b))) := by
  subst hblock
  refine congrArg Host.Outcome.next ?_
  rw [if_neg (not_not.mpr hlength), if_neg (Bool.eq_false_iff.mp hheld), hok]
  exact State.runGlen_of_ready hready _ _

/-- A WRITE of an op to a bound shard that no install holds has its op's effect on the shard's object. -/
theorem State.runWrite_of_ready {id : U32} (hshard : s.shards.get? (Write.of b).shard = some id)
    (hheld : s.held c (State.copyOf 5 q b) [(Write.of b).shard] = false) (hissue : mayIssue 5 q = true) (hok : s.writeOk c b (Write.of b) = true)
    (hready : engineReady s c (State.copyOf 5 q b) (s.writeAcc (Write.of b)) = true) {op : Nat} (hop : (Write.of b).op = op)
    (eff : State → Write → U32 → State) :
    s.runWrite c q b op eff = (eff (s.endWait c (State.copyOf 5 q b)) (Write.of b) id).engineDone c q 5 := by
  have hallowed : (mayIssue 5 q && s.writeOk c b (Write.of b) && (Write.of b).op == op) = true := by simp [hissue, hok, hop]
  refine (if_neg (Bool.eq_false_iff.mp hheld)).trans ?_
  rw [hallowed, State.runGlen_of_ready hready, show (s.endWait c (State.copyOf 5 q b)).shards = s.shards from rfl, hshard]

end

/-! ### The table and shard commands -/

/-- Settles O22: an UPDATE waits only once its contributions are sent, and only for contributors that are not lost; Glen's commands wait only for an install. -/
theorem tableAndShardCommandsComplete : Obligations.TableAndShardCommandsComplete := by
  refine ⟨fun s c q b hissue => ⟨?lookup, ?update⟩, fun s c q b => ⟨?search, ?writes⟩⟩
  case lookup =>
    intro x head hok hready
    refine congrArg Host.Outcome.next ?_
    rw [hissue, hok]
    exact State.runCommand_of_ready hready _ _ _
  case update =>
    intro x head hok hends hready
    refine congrArg Host.Outcome.next ?_
    unfold State.runUpdate
    dsimp only
    rw [hissue, hok, if_neg (State.not_waits_for_ends hends)]
    exact State.runCommand_of_ready hready _ _ id
  case search =>
    intro x who copies on hheld hok hready
    exact exec_searchCommand_of_ready (State.headD_searchCopies x.graph b) (List.length_map _) hheld hok hready
  case writes =>
    intro x on t id hshard hheld hissue hok hready
    exact ⟨fun hop => congrArg Host.Outcome.next (State.runWrite_of_ready hshard hheld hissue hok hready hop _),
      fun hop => congrArg Host.Outcome.next (State.runWrite_of_ready hshard hheld hissue hok hready hop _)⟩

end Sys2Proof.Machine
end

section
/-! PROOFS. The maintenance lane (07_glen_search.md): what a MAINT or CHECKPOINT hands it, when an install proceeds, and how a begun activity ends. -/

namespace Sys2Proof.Machine

section
variable {s : State} {d : Desc}

/-! ### What a descriptor hands the lane (R356, R359, R378) -/

theorem State.descEffect_of_checkpoint (s : State) (h : descOp d = 0x16) : s.descEffect d = s.checkpointDesc d := by
  simp only [State.descEffect, h]

theorem State.descEffect_of_maint (s : State) (h : descOp d = 0x0E) : s.descEffect d = s.maintDesc d := by
  simp only [State.descEffect, h]

theorem carries_checkpoint (h : carries (.checkpoint d) = some d) : descOp d = 0x16 := by
  simpa [carries] using h

theorem descOp_of_carries_maint :
    ∀ i ∈ [Instr.mergeBuild d, .mergeInstall d, .mergeAbort d, .hotRowRefresh d], carries i = some d → descOp d = 0x0E := by
  simp +contextual [carries]

/-- A checkpoint conflicts with nothing in the lane: it takes the last place and is requested (R359). -/
theorem State.actReceive_of_checkpoint (s : State) {a : Activity} (h : a.code = 5) :
    s.actReceive a = ({ s with acts := s.acts ++ [a] } : State).requestCkpt := by
  rw [State.actReceive, h]
  rfl

theorem exec_checkpoint_of_expandsNow (hi : carries (.checkpoint d) = some d) (h : expandsNow s d = true) :
    exec (.checkpoint d) s = .next (({ expanded s d with acts := s.acts ++ [State.actOf (5 :: List.replicate 43 0) (some d) none] } : State).requestCkpt) := by
  rw [exec_of_expandsNow hi h, State.descEffect_of_checkpoint _ (carries_checkpoint hi)]
  exact congrArg Host.Outcome.next (State.actReceive_of_checkpoint _ rfl)

/-- The operands of a MAINT that the lane receives: in range, and of no checkpoint, which has a descriptor of its own (R356, R378). -/
theorem maintOperands_iff {args : Bytes} :
    (State.actArgsOk args && fld args 0 1 != 5) = true ↔ State.actArgsOk args = true ∧ fld args 0 1 ≠ 5 := by
  rw [Bool.and_eq_true, bne_iff_ne]

theorem State.maintDesc_of_ok (h : State.actArgsOk (slice d.bytes 16 44) = true ∧ fld (slice d.bytes 16 44) 0 1 ≠ 5) :
    s.maintDesc d = s.actReceive (State.actOf (slice d.bytes 16 44) (some d) none) :=
  if_pos (maintOperands_iff.mpr h)

theorem State.maintDesc_of_not_ok (h : ¬ (State.actArgsOk (slice d.bytes 16 44) = true ∧ fld (slice d.bytes 16 44) 0 1 ≠ 5)) :
    s.maintDesc d = s.complete d (Done.of .protocol 0) :=
  if_neg (maintOperands_iff.not.mpr h)

end

/-! ### An install that proceeds (R219, R325, R326) -/

/-- What the install of an activity reads and writes, with the shard's own object as its source and the activity's operand as its target (R219). -/
def State.installReads (s : State) (a : Activity) (id : U32) : List Access :=
  s.installAcc (s.shard id) (s.shard (BitVec.ofNat 32 (a.arg 24 4))) (s.snapshots.getD a.shard 0)

section
variable {s : State} {shard : BitVec 6} {a : Activity} {id : U32}

/-- With its shard's new commands held and none of the earlier ones in progress, an install is not kept from going on (R219 step 1). -/
theorem State.install_goes (hheld : s.installing.contains shard = true) (hover : ¬ s.installWaits shard.toNat = true) :
    ¬ (!s.installing.contains shard || s.installWaits shard.toNat) = true := by
  rw [hheld]
  exact hover

variable (hact : s.actOn? 2 (shard.setWidth 32) = some a) (hshard : s.shards.get? shard.toNat = some id)
include hact hshard

theorem exec_installProceed_of_waits (hwaits : s.installWaits shard.toNat = true) : exec (.installProceed shard) s = .next s := by
  refine congrArg Host.Outcome.next ?_
  rw [hact, hshard]
  exact if_pos (by simp [hwaits])

section
variable (hheld : s.installing.contains shard = true) (hover : ¬ s.installWaits shard.toNat = true)
include hheld hover

theorem exec_installProceed_of_sound (hsound : s.poisonedAccess (s.installReads a id) = none) :
    exec (.installProceed shard) s = .next (if s.tailFits a (s.shard id) = true then s.installEff a id else s.installFails a .protocol) := by
  refine congrArg Host.Outcome.next ?_
  rw [State.installReads] at hsound
  simp only [hact, hshard, if_neg (State.install_goes hheld hover), hsound]

theorem exec_installProceed_of_poisoned {x : Access} (hbad : s.poisonedAccess (s.installReads a id) = some x) :
    exec (.installProceed shard) s = .next (if s.stalls x.id = true then s.noteStall (.maint a.code a.target) x else s.installFails a .uncorrectable) := by
  refine congrArg Host.Outcome.next ?_
  rw [State.installReads] at hbad
  simp only [hact, hshard, if_neg (State.install_goes hheld hover), hbad]
end
end

/-! ### A begun activity that ends (R217, R359, R360) -/

/-- How the lane ends a begun activity: a build and a refresh with their effect, an install that no longer holds its shard's commands and an abort with code
OK; then whatever may begin does.  An install that still holds them goes on. -/
def State.actOver (s : State) (activity : Byte) (a : Activity) : State :=
  match activity.toNat with
  | 1 => (s.buildEnd a).laneNext
  | 2 => if s.installing.any (fun n => n.toNat == a.shard) then s else (s.actFinish a .ok 0).laneNext
  | 3 => (s.actFinish a .ok 0).laneNext
  | 4 => (s.refreshEnd a).laneNext
  | _ => s

section
variable {s : State} {target : U32} {a : Activity}

theorem exec_maintActivityComplete_of_begun {activity : Byte} (h : s.laneNext.actOn? activity target = some a) :
    exec (.maintActivityComplete activity target) s = .next (s.laneNext.actOver activity a) := by
  refine congrArg Host.Outcome.next ?_
  dsimp only
  rw [h]
  rfl

theorem State.actOver_install_of_proceeded (h : s.installing.any (fun n => n.toNat == a.shard) = false) :
    s.actOver 2 a = (s.actFinish a .ok 0).laneNext :=
  if_neg (Bool.eq_false_iff.mp h)

end

/-! ### The lane's commands -/

/-- Settles O33: a MAINT's operands decide whether the lane receives it; an install that waits for no command is decided by what it reads, and an activity's end by its
code. -/
theorem laneCommandsComplete : Obligations.LaneCommandsComplete := by
  intro s
  refine ⟨fun d hexpands => ⟨?checkpoint, ?maint⟩, ?install, fun target a => ?ends⟩
  case checkpoint =>
    exact fun hi => exec_checkpoint_of_expandsNow hi hexpands
  case maint =>
    intro i hmem hi ok
    rw [exec_of_expandsNow hi hexpands, State.descEffect_of_maint _ (descOp_of_carries_maint i hmem hi)]
    exact ⟨fun h => congrArg _ (State.maintDesc_of_ok h), fun h => congrArg _ (State.maintDesc_of_not_ok h)⟩
  case install =>
    intro shard a id hact hshard hheld reads waits
    exact ⟨exec_installProceed_of_waits hact hshard, exec_installProceed_of_sound hact hshard hheld,
      fun x hover => exec_installProceed_of_poisoned hact hshard hheld hover⟩
  case ends =>
    intro u
    refine ⟨exec_maintActivityComplete_of_begun, fun h hproceeded => ?_, exec_maintActivityComplete_of_begun, exec_maintActivityComplete_of_begun⟩
    rw [exec_maintActivityComplete_of_begun h, State.actOver_install_of_proceeded hproceeded]

end Sys2Proof.Machine
end

section
/-! PROOFS. The selection engine (08_selection_and_merge.md), the packer and the text engine (05_text_engine.md): what lets each of their commands complete
where its queue runs it. -/

namespace Sys2Proof.Machine

section
variable {s : State} {c : CtxId} {q : SeqId} {b : Bytes}

/-! ### Commands of one queue -/

/-- A command whose issuer may issue it and whose own checks it passes has its effect and ends, on an engine that is ready for it (R93, R96). -/
theorem State.runCommand_of_issued {engine : Nat} {ok : Bool} {on : State.Copies} {acc : List Access} (hissue : mayIssue engine q = true) (hok : ok = true)
    (hready : engineReady s c on acc = true) (p : Access → Option (State → State)) (eff finish : State → State) :
    s.runCommand c on (mayIssue engine q && ok) acc p eff finish = finish (eff (s.endWait c on)) := by
  rw [hissue, hok]
  exact State.runCommand_of_ready hready p eff finish

/-- A MERGE with none of its inputs still to come is held up by nothing (R238). -/
theorem exec_merge_of_not_waits (hwaits : s.mergeWaits c (Merge.of b) = none) : exec (.merge c q b) s =
    .next (s.runCommand c (State.copyOf 6 q b) (mayIssue 6 q && s.mergeOk c b (Merge.of b)) (State.mergeAcc (Merge.of b) ++ s.mergeStore c q (Merge.of b))
      State.noPoisonRule (fun t => t.mergeEff c q (Merge.of b)) (fun t => t.engineDone c q 6)) := by
  refine congrArg Host.Outcome.next ?_
  rw [hwaits]

/-! ### The grammar commands (R153, R155) -/

/-- The grammar that a command's checks found is the one that its effect uses: no table moves when the command's wait is counted. -/
theorem State.grammar?_endWait (s : State) (c : CtxId) (on : State.Copies) (id : U32) : (s.endWait c on).grammar? id = s.grammar? id :=
  rfl

end

/-! ### The selection, packing and text commands -/

/-- Settles O23: each command passes its checks and runs; a MERGE is not held up, and a grammar command's table and tokens are those its checks saw. -/
theorem selectionAndTextCommandsComplete : Obligations.SelectionAndTextCommandsComplete := by
  refine ⟨fun s c q b => ⟨?topk, ?merge, ?pack⟩, fun s c q b => ⟨?tokenize, ?detokenize, fun g hg => ⟨?reset, ?mask, ?advance⟩⟩⟩
  case topk | pack | tokenize | detokenize =>
    exact fun hissue hok hready => congrArg Host.Outcome.next (State.runCommand_of_issued hissue hok hready _ _ _)
  case merge =>
    intro x on hissue hok hwaits hready
    rw [exec_merge_of_not_waits hwaits, State.runCommand_of_issued hissue hok hready]
  case reset =>
    intro hok hready
    refine congrArg Host.Outcome.next ?_
    rw [hok, State.runCommand_of_ready hready, State.grammar?_endWait, hg]
  case mask =>
    intro acc m hok hcount hready
    refine congrArg Host.Outcome.next ?_
    rw [hok, decide_eq_true hcount, Bool.and_self, State.runCommand_of_ready hready, State.grammar?_endWait, hg]
  case advance =>
    intro acc g' hafter hok hcount hready
    refine congrArg Host.Outcome.next ?_
    simp only [hg, hafter]
    rw [hok, decide_eq_true hcount, Option.isSome_some, Bool.or_true, Bool.and_self, Bool.and_self]
    exact State.runCommand_of_ready hready _ _ _

end Sys2Proof.Machine
end

section
/-! PROOFS. Serving (09_serving.md): the serving unit's commands on the entry at the cursor, and the descriptors PAUSE, RESUME and CANCEL on the slot they name. -/

namespace Sys2Proof.Machine

section
variable {s : State} {c : CtxId} {q : SeqId} {b : Bytes}

/-! ### The serving unit's commands (R257) -/

/-- The end of a command's wait leaves the step in progress, and with it the GENERATE that started it. -/
@[simp] theorem State.generateOf_endWait (s : State) (c : CtxId) (on : State.Copies) : (s.endWait c on).generateOf c = s.generateOf c := by
  rw [State.generateOf, State.ctx_endWait]
  rfl

theorem State.commitSkip_of_going {d : Desc} {e : SlotStep} (h : e.ending = none) :
    s.commitSkip c d e = s.resultEntry c d e (e.code.getD .ok) e.terminal 0 s.now.toNat := by
  rw [State.commitSkip, h]

theorem State.commitSkip_of_ending {d : Desc} {e : SlotStep} {code : Code} (h : e.ending = some code) :
    s.commitSkip c d e = (s.endSlot c e.slot.toNat code 0 true).resultEntry c d e code true 0 s.now.toNat := by
  rw [State.commitSkip, h]

section
variable (hform : (mayIssue 0x0B q && blockOk 0x0B b && zeroBytes b 1 3) = true)
include hform

theorem exec_list_of_generate {d : Desc} (hgen : s.generateOf c = some d) (hzero : zeroBytes b 8 63 = true)
    (hacc : ([⟨fldObj b 4, 0, 32 * descField d 16 8, true⟩] : List Access).all (s.accOk c [0]) = true)
    (hready : engineReady s c (State.copyOf 0x0B q b) [⟨fldObj b 4, 0, 32 * descField d 16 8, true⟩] = true) :
    exec (.list c q b) s = .next (((s.endWait c (State.copyOf 0x0B q b)).listEff c (fldObj b 4) d).engineDone c q 0x0B) := by
  refine congrArg Host.Outcome.next ?_
  simp only [hgen, hform, hzero, hacc, Option.isSome_some, Bool.and_self]
  rw [State.runCommand_of_ready hready, State.generateOf_endWait, hgen]

section
variable {e : SlotStep} (hentry : s.entryAt c = some e)
include hentry

theorem exec_accept_of_skip (hskip : e.skip = true)
    (hacc : (State.acceptNames (AcceptCmd.of b (s.ctx c).serving.cursor)).all (s.accOk c [0]) = true)
    (hready : engineReady s c (State.copyOf 0x0B q b) [] = true) :
    exec (.accept c q b) s = .next ((s.endWait c (State.copyOf 0x0B q b)).engineDone c q 0x0B) := by
  refine congrArg Host.Outcome.next ?_
  simp only [hentry, hform, hacc, if_pos hskip, Bool.and_self]
  exact State.runCommand_of_ready hready _ _ _

theorem exec_accept_of_model {m : Model} (hskip : e.skip = false) (hmodel : s.model? (s.inForce e.slot.toNat) = some m)
    (hacc : (s.acceptAcc (AcceptCmd.of b (s.ctx c).serving.cursor) e m.v).all (s.accOk c [0]) = true)
    (hready : engineReady s c (State.copyOf 0x0B q b) (s.acceptAcc (AcceptCmd.of b (s.ctx c).serving.cursor) e m.v) = true) :
    exec (.accept c q b) s =
      .next (((s.endWait c (State.copyOf 0x0B q b)).acceptEff c (AcceptCmd.of b (s.ctx c).serving.cursor) e m).engineDone c q 0x0B) := by
  refine congrArg Host.Outcome.next ?_
  simp only [hentry, hform, hacc, if_neg (Bool.eq_false_iff.mp hskip), hmodel, Bool.and_self]
  exact State.runCommand_of_ready hready _ _ _

/-! COMMIT reads what ACCEPT and the DETOKENIZE wrote for the entry: its token list and its text record (R265, R268). -/

/-- The token list and the text record of the entry at the cursor, as a COMMIT's block names them (R257). -/
def State.commitAcc (s : State) (c : CtxId) (b : Bytes) : List Access :=
  [⟨fldObj b 4, fld b 12 4 + (s.ctx c).serving.cursor * fld b 16 4, 40, false⟩,
   ⟨fldObj b 8, fld b 20 4 + (s.ctx c).serving.cursor * fld b 24 4, 16, false⟩]

section
variable {d : Desc} (hgen : s.generateOf c = some d) (hzero : zeroBytes b 28 63 = true) (hacc : (s.commitAcc c b).all (s.accOk c [0]) = true)
include hgen hzero hacc

theorem exec_commit_of_skip (hskip : e.skip = true) (hready : engineReady s c (State.copyOf 0x0B q b) [] = true) :
    exec (.commit c q b) s = .next (((s.endWait c (State.copyOf 0x0B q b)).commitSkip c d e).engineDone c q 0x0B) := by
  refine congrArg Host.Outcome.next ?_
  rw [State.commitAcc] at hacc
  simp only [hentry, hgen, hform, hzero, hacc, if_pos hskip, Bool.and_self]
  exact State.runCommand_of_ready hready _ _ _

theorem exec_commit_of_accepted (hskip : e.skip = false) (haccepted : e.ready = true)
    (hready : engineReady s c (State.copyOf 0x0B q b) (s.commitAcc c b) = true)
    (hcount : s.rdNat (fldObj b 4) (fld b 12 4 + (s.ctx c).serving.cursor * fld b 16 4) 4 ≤ 9) :
    let r := s.rd (fldObj b 8) (fld b 20 4 + (s.ctx c).serving.cursor * fld b 24 4) 16
    exec (.commit c q b) s = .next (((s.endWait c (State.copyOf 0x0B q b)).commitEff c d e
      (s.rdNat (fldObj b 4) (fld b 12 4 + (s.ctx c).serving.cursor * fld b 16 4) 4) (fld r 4 1) (fld r 0 4) (fld r 5 1 == 1)).engineDone c q 0x0B) := by
  refine congrArg Host.Outcome.next ?_
  rw [State.commitAcc] at hacc hready
  simp only [hentry, hgen, hform, hzero, hacc, if_neg (Bool.eq_false_iff.mp hskip), haccepted, decide_eq_true hcount, Bool.or_true, Bool.and_self]
  exact State.runCommand_of_ready hready _ _ _

end

/-! SUMMARY's staging object is checked whatever the slot does; its pages are read or written only where the slot pauses or resumes (R275 to R277). -/

section
variable (hzero : zeroBytes b 8 63 = true) (hacc : s.accOk c [0] ⟨fldObj b 4, 0, 0x100000, true⟩ = true)
include hzero hacc

theorem exec_summary_of_pausing (hstate : s.slotState e.slot.toNat = .pausing)
    (hready : engineReady s c (State.copyOf 0x0B q b) (⟨fldObj b 4, 0, 0x100000, true⟩ :: s.slotPages e.slot.toNat false) = true) :
    exec (.summary c q b) s =
      .next (((s.endWait c (State.copyOf 0x0B q b)).buildSummary c e.slot.toNat (fldObj b 4)).engineDone c q 0x0B) := by
  refine congrArg Host.Outcome.next ?_
  simp only [hentry, hstate, hform, hzero, hacc, Bool.and_self]
  exact State.runCommand_of_ready hready _ _ _

theorem exec_summary_of_resuming (hstate : s.slotState e.slot.toNat = .resuming)
    (hready : engineReady s c (State.copyOf 0x0B q b) (⟨fldObj b 4, 0, 0x100000, true⟩ :: s.resumeRows c e.slot.toNat) = true) :
    exec (.summary c q b) s =
      .next (((s.endWait c (State.copyOf 0x0B q b)).loadSummary c e.slot.toNat (fldObj b 4)).engineDone c q 0x0B) := by
  refine congrArg Host.Outcome.next ?_
  simp only [hentry, hstate, hform, hzero, hacc, Bool.and_self]
  exact State.runCommand_of_ready hready _ _ _

theorem exec_summary_of_staying (hpausing : s.slotState e.slot.toNat ≠ .pausing) (hresuming : s.slotState e.slot.toNat ≠ .resuming)
    (hready : engineReady s c (State.copyOf 0x0B q b) [] = true) :
    exec (.summary c q b) s = .next ((s.endWait c (State.copyOf 0x0B q b)).engineDone c q 0x0B) := by
  refine congrArg Host.Outcome.next ?_
  simp only [hentry, hform, hzero, hacc, Bool.and_self]
  exact State.runCommand_of_ready hready _ _ _

end
end
end
end

/-- Settles O24: each command's block has its form and its checks pass, so it runs; what an entry takes part in decides which effect it has. -/
theorem servingCommandsComplete : Obligations.ServingCommandsComplete := by
  intro s c q b hissue hblock hhead
  have hform : (mayIssue 0x0B q && blockOk 0x0B b && zeroBytes b 1 3) = true := by rw [hissue, hblock, hhead]; rfl
  refine ⟨fun d hgen hzero hacc hready => exec_list_of_generate hform hgen hzero hacc hready, fun e hentry => ⟨?skips, ?accepts, ?commits, ?summary⟩⟩
  case skips => exact exec_accept_of_skip hform hentry
  case accepts => exact fun m => exec_accept_of_model hform hentry
  case commits =>
    intro d hgen hzero i loff doff acc r hacc
    refine ⟨fun hskip hgoing hready => ?_, fun code hskip hending hready => ?_, exec_commit_of_accepted hform hentry hgen hzero hacc⟩
    · rw [exec_commit_of_skip hform hentry hgen hzero hacc hskip hready, State.commitSkip_of_going hgoing]
      rfl
    · rw [exec_commit_of_skip hform hentry hgen hzero hacc hskip hready, State.commitSkip_of_ending hending]
      rfl
  case summary =>
    exact fun hzero hacc => ⟨exec_summary_of_pausing hform hentry hzero hacc, exec_summary_of_resuming hform hentry hzero hacc,
      exec_summary_of_staying hform hentry hzero hacc⟩

/-! ### PAUSE, RESUME and CANCEL (R268, R269, R274, R277) -/

section
variable {s : State} {d : Desc}

theorem exec_pause_of_expandsNow (hi : carries (.pause d) = some d) (h : expandsNow s d = true) :
    exec (.pause d) s = .next ((expanded s d).pauseDesc d) := by
  have hop : descOp d = 0x06 := by simpa [carries] using hi
  rw [exec_of_expandsNow hi h]
  simp only [State.descEffect, hop]

theorem exec_resume_of_expandsNow (hi : carries (.resume d) = some d) (h : expandsNow s d = true) :
    exec (.resume d) s = .next ((expanded s d).resumeDesc d) := by
  have hop : descOp d = 0x07 := by simpa [carries] using hi
  rw [exec_of_expandsNow hi h]
  simp only [State.descEffect, hop]

theorem exec_cancel_of_expandsNow (hi : carries (.cancel d) = some d) (h : expandsNow s d = true) :
    exec (.cancel d) s = .next ((expanded s d).cancelDesc d) := by
  have hop : descOp d = 0x08 := by simpa [carries] using hi
  rw [exec_of_expandsNow hi h]
  simp only [State.descEffect, hop]

/-! Expanding a descriptor moves nothing that its effect asks about: the context's range, the request table, the step in progress. -/

@[simp] theorem State.ownsSlot_expanded (s : State) (d : Desc) (k : Nat) : (expanded s d).ownsSlot d.ctx k = s.ownsSlot d.ctx k := by
  rw [State.ownsSlot, State.ctx_expanded]
  rfl

@[simp] theorem State.stepping_expanded (s : State) (d : Desc) (k : Nat) : (expanded s d).stepping d.ctx k = s.stepping d.ctx k := by
  rw [State.stepping, State.ctx_expanded]
  rfl

@[simp] theorem State.slotNat_expanded (s : State) (d : Desc) (k lo n : Nat) : (expanded s d).slotNat k lo n = s.slotNat k lo n := rfl

@[simp] theorem State.slotState_expanded (s : State) (d : Desc) (k : Nat) : (expanded s d).slotState k = s.slotState k := rfl

/-! What each does, by the slot it names. -/

section
variable (hout : s.ownsSlot d.ctx (State.descSlot d) = false)
include hout

theorem State.pauseDesc_of_outside : s.pauseDesc d = s.complete d (Done.of .protocol 0) := by
  simp [State.pauseDesc, hout]

theorem State.resumeDesc_of_outside : s.resumeDesc d = s.complete d (Done.of .protocol 0) := by
  simp [State.resumeDesc, hout]

theorem State.cancelDesc_of_outside : s.cancelDesc d = s.complete d (Done.of .protocol 0) := by
  simp [State.cancelDesc, hout]

end

section
variable (hown : s.ownsSlot d.ctx (State.descSlot d) = true)

theorem State.pauseDesc_of_not_named (h : ¬ s.slotNat (State.descSlot d) 8 4 = descField d 20 4 ∨ s.slotState (State.descSlot d) = .free) :
    s.pauseDesc d = s.complete d (Done.of .protocol 0) := by
  refine if_pos ?_
  rcases h with hother | hfree
  · rw [bne_iff_ne.mpr hother, Bool.or_true]
  · rw [beq_iff_eq.mpr hfree, Bool.or_true, Bool.true_or]

include hown

theorem State.resumeDesc_of_owns :
    s.resumeDesc d = s.modServing d.ctx (fun v => { v with resumes := v.resumes ++ [{ d := d, granted := false, loaded := false }] }) := by
  simp [State.resumeDesc, hown]

theorem State.cancelDesc_of_late (h : s.slotState (State.descSlot d) = .free ∨ s.slotState (State.descSlot d) = .ended ∨
      ¬ s.slotNat (State.descSlot d) 8 4 = descField d 20 4) :
    s.cancelDesc d = s.complete d (Done.of .lateCancel 0) := by
  simp only [State.cancelDesc, hown, Bool.not_true, Bool.false_eq_true, if_false]
  exact if_pos h

section
variable (hmine : s.slotNat (State.descSlot d) 8 4 = descField d 20 4)
include hmine

theorem State.pauseDesc_of_ended (hended : s.slotState (State.descSlot d) = .ended) :
    s.pauseDesc d = s.complete d (Done.of (Code.ofNum (s.slotNat (State.descSlot d) 5 1)) 0) := by
  simp [State.pauseDesc, hown, hmine, hended]

variable (hfree : s.slotState (State.descSlot d) ≠ .free) (hended : s.slotState (State.descSlot d) ≠ .ended)
include hfree hended

theorem State.pauseDesc_of_live :
    s.pauseDesc d = s.modServing d.ctx (fun v => { v with pauses := v.pauses ++ [{ d := d, taken := false, written := none }] }) := by
  simp [State.pauseDesc, hown, hmine, hfree, hended]

theorem State.cancelDesc_of_live : s.cancelDesc d =
    if s.stepping d.ctx (State.descSlot d) = true then
      (s.setSlotFlag (State.descSlot d) 4 true).modServing d.ctx (fun v => { v with cancels := v.cancels ++ [d] })
    else (s.setSlotFlag (State.descSlot d) 4 true).complete d (Done.of .cancelled 0) := by
  simp [State.cancelDesc, hown, hmine, hfree, hended]

end
end
end

/-- Settles O31: an expanded descriptor finds its slot, its request and its step as they stood, and these decide its effect. -/
theorem servingControlsComplete : Obligations.ServingControlsComplete := by
  intro s d hexpands c e k st mine
  have howns : e.ownsSlot d.ctx (State.descSlot d) = s.ownsSlot c k := State.ownsSlot_expanded s d _
  refine ⟨fun i hmem hi hout => ?outside, fun hown => ⟨fun hi => ?pause, fun hi => ?resume, fun hi => ?cancel⟩⟩
  case outside =>
    rw [← howns] at hout
    simp only [List.mem_cons, List.not_mem_nil, or_false] at hmem
    rcases hmem with rfl | rfl | rfl
    · rw [exec_pause_of_expandsNow hi hexpands, State.pauseDesc_of_outside hout]
    · rw [exec_resume_of_expandsNow hi hexpands, State.resumeDesc_of_outside hout]
    · rw [exec_cancel_of_expandsNow hi hexpands, State.cancelDesc_of_outside hout]
  case pause =>
    rw [← howns] at hown
    rw [exec_pause_of_expandsNow hi hexpands]
    exact ⟨fun h => congrArg _ (State.pauseDesc_of_not_named h), fun hmine hended => congrArg _ (State.pauseDesc_of_ended hown hmine hended),
      fun hmine hfree hended => congrArg _ (State.pauseDesc_of_live hown hmine hfree hended)⟩
  case resume =>
    rw [← howns] at hown
    rw [exec_resume_of_expandsNow hi hexpands, State.resumeDesc_of_owns hown]
  case cancel =>
    rw [← howns] at hown
    rw [exec_cancel_of_expandsNow hi hexpands]
    refine ⟨fun h => congrArg _ (State.cancelDesc_of_late hown h), fun hfree hended hmine => ?_⟩
    rw [State.cancelDesc_of_live hown hmine hfree hended, State.stepping_expanded]

end Sys2Proof.Machine
end

section
/-! PROOFS. The memory's canonical form (11_memory_tiers.md, R304): the command that a step runs keeps it, and so does the passing of time. -/

namespace Sys2Proof.Machine

/-- A command that goes on with a canonical memory leaves one. -/
theorem canon_of_next {o : Host.Outcome State Fault Refusal} {t : State} (h : ∃ u, o = .next u ∧ u.canon) (ho : o = .next t) : t.canon := by
  obtain ⟨u, hu, hcanon⟩ := h
  cases hu.symm.trans ho
  exact hcanon

/-- A report of readings stops the machine or goes on; where it goes on, it leaves a canonical memory (R512). -/
theorem canon_of_report {o : Host.Outcome State Fault Refusal} {t : State} (h : o = .fault .outsideRatings ∨ ∃ u, o = .next u ∧ u.canon)
    (ho : o = .next t) : t.canon := by
  rcases h with hfault | hnext
  · cases hfault.symm.trans ho
  · exact canon_of_next hnext ho

/-- Every command that goes on keeps the memory canonical. -/
theorem exec_canon (i : Instr) {s t : State} (hs : s.canon) (hx : exec i s = .next t) : t.canon := by
  revert hx
  cases i with
  | nop c q => exact canon_of_next (execNop_canon c q s hs)
  | issue c q engine len b => exact canon_of_next (execIssue_canon c q engine len b s hs)
  | queueClaim c q => exact canon_of_next (execQueueClaim_canon c q s hs)
  | waitdone c q engine most => exact canon_of_next (execWaitdone_canon c q engine most s hs)
  | signal c q counter inc => exact canon_of_next (execSignal_canon c q counter inc s hs)
  | wait c q counter threshold => exact canon_of_next (execWait_canon c q counter threshold s hs)
  | acquire c q counter => exact canon_of_next (execAcquire_canon c q counter s hs)
  | release c q counter => exact canon_of_next (execRelease_canon c q counter s hs)
  | setp c q r imm => exact canon_of_next (execSetp_canon c q r imm s hs)
  | ldp c q r word => exact canon_of_next (execLdp_canon c q r word s hs)
  | addi c q r imm => exact canon_of_next (execAddi_canon c q r imm s hs)
  | brz c q r target => exact canon_of_next (execBrz_canon c q r target s hs)
  | brnz c q r target => exact canon_of_next (execBrnz_canon c q r target s hs)
  | jmp c q target => exact canon_of_next (execJmp_canon c q target s hs)
  | stepend c q => exact canon_of_next (execStepend_canon c q s hs)
  | saddle c q entry => exact canon_of_next (execSaddle_canon c q entry s hs)
  | halt c q => exact canon_of_next (execHalt_canon c q s hs)
  | trap c q code => exact canon_of_next (execTrap_canon c q code s hs)
  | loadr c w e => exact canon_of_next (execLoadr_canon c w e s hs)
  | matmul c w e => exact canon_of_next (execMatmul_canon c w e s hs)
  | grouped c w e => exact canon_of_next (execGrouped_canon c w e s hs)
  | rimAdd c w e => exact canon_of_next (execRimAdd_canon c w e s hs)
  | rimMul c w e => exact canon_of_next (execRimMul_canon c w e s hs)
  | scaleBias c w e => exact canon_of_next (execScaleBias_canon c w e s hs)
  | convert c w e => exact canon_of_next (execConvert_canon c w e s hs)
  | gelu c w e => exact canon_of_next (execGelu_canon c w e s hs)
  | geluTanh c w e => exact canon_of_next (execGeluTanh_canon c w e s hs)
  | silu c w e => exact canon_of_next (execSilu_canon c w e s hs)
  | softmax c w e => exact canon_of_next (execSoftmax_canon c w e s hs)
  | layernorm c w e => exact canon_of_next (execLayernorm_canon c w e s hs)
  | rmsnorm c w e => exact canon_of_next (execRmsnorm_canon c w e s hs)
  | l2norm c w e => exact canon_of_next (execL2norm_canon c w e s hs)
  | meanpool c w e => exact canon_of_next (execMeanpool_canon c w e s hs)
  | rope c w e => exact canon_of_next (execRope_canon c w e s hs)
  | siluMul c w e => exact canon_of_next (execSiluMul_canon c w e s hs)
  | route c w e => exact canon_of_next (execRoute_canon c w e s hs)
  | sample c w e => exact canon_of_next (execSample_canon c w e s hs)
  | dropr c w e => exact canon_of_next (execDropr_canon c w e s hs)
  | lookup c q b => exact canon_of_next (execLookup_canon c q b s hs)
  | update c q b => exact canon_of_next (execUpdate_canon c q b s hs)
  | searchCommand c copies => exact canon_of_next (execSearchCommand_canon c copies s hs)
  | writeInsert c q b => exact canon_of_next (execWriteInsert_canon c q b s hs)
  | writeDelete c q b => exact canon_of_next (execWriteDelete_canon c q b s hs)
  | topk c q b => exact canon_of_next (execTopk_canon c q b s hs)
  | merge c q b => exact canon_of_next (execMerge_canon c q b s hs)
  | tokenizeCommand c q b => exact canon_of_next (execTokenizeCommand_canon c q b s hs)
  | detokenizeCommand c q b => exact canon_of_next (execDetokenizeCommand_canon c q b s hs)
  | grammarReset c q b => exact canon_of_next (execGrammarReset_canon c q b s hs)
  | grammarMask c q b => exact canon_of_next (execGrammarMask_canon c q b s hs)
  | grammarAdvance c q b => exact canon_of_next (execGrammarAdvance_canon c q b s hs)
  | pack c q b => exact canon_of_next (execPack_canon c q b s hs)
  | list c q b => exact canon_of_next (execList_canon c q b s hs)
  | accept c q b => exact canon_of_next (execAccept_canon c q b s hs)
  | commit c q b => exact canon_of_next (execCommit_canon c q b s hs)
  | summary c q b => exact canon_of_next (execSummary_canon c q b s hs)
  | copy c q b => exact canon_of_next (execCopy_canon c q b s hs)
  | wfill c q b => exact canon_of_next (execWfill_canon c q b s hs)
  | start c q b => exact canon_of_next (execStart_canon c q b s hs)
  | send c q b => exact canon_of_next (execSend_canon c q b s hs)
  | recv c q b => exact canon_of_next (execRecv_canon c q b s hs)
  | query d => exact canon_of_next (execQuery_canon d s hs)
  | embed d => exact canon_of_next (execEmbed_canon d s hs)
  | search d => exact canon_of_next (execSearch_canon d s hs)
  | rerank d => exact canon_of_next (execRerank_canon d s hs)
  | generate d => exact canon_of_next (execGenerate_canon d s hs)
  | pause d => exact canon_of_next (execPause_canon d s hs)
  | resume d => exact canon_of_next (execResume_canon d s hs)
  | cancel d => exact canon_of_next (execCancel_canon d s hs)
  | insert d => exact canon_of_next (execInsert_canon d s hs)
  | delete d => exact canon_of_next (execDelete_canon d s hs)
  | trainStep d => exact canon_of_next (execTrainStep_canon d s hs)
  | load d => exact canon_of_next (execLoad_canon d s hs)
  | loadImage d => exact canon_of_next (execLoadImage_canon d s hs)
  | loadComplete isImage object => exact canon_of_next (execLoadComplete_canon isImage object s hs)
  | relocationProceed object => exact canon_of_next (execRelocationProceed_canon object s hs)
  | evict d => exact canon_of_next (execEvict_canon d s hs)
  | evictFree object => exact canon_of_next (execEvictFree_canon object s hs)
  | evictImage d => exact canon_of_next (execEvictImage_canon d s hs)
  | mergeBuild d => exact canon_of_next (execMergeBuild_canon d s hs)
  | mergeInstall d => exact canon_of_next (execMergeInstall_canon d s hs)
  | installProceed shard => exact canon_of_next (execInstallProceed_canon shard s hs)
  | mergeAbort d => exact canon_of_next (execMergeAbort_canon d s hs)
  | hotRowRefresh d => exact canon_of_next (execHotRowRefresh_canon d s hs)
  | maintActivityComplete activity target => exact canon_of_next (execMaintActivityComplete_canon activity target s hs)
  | syncAdd d => exact canon_of_next (execSyncAdd_canon d s hs)
  | syncSet d => exact canon_of_next (execSyncSet_canon d s hs)
  | syncRead d => exact canon_of_next (execSyncRead_canon d s hs)
  | stats d => exact canon_of_next (execStats_canon d s hs)
  | step d => exact canon_of_next (execStep_canon d s hs)
  | stepUnbind d => exact canon_of_next (execStepUnbind_canon d s hs)
  | bindEffect c => exact canon_of_next (execBindEffect_canon c s hs)
  | stepStart c => exact canon_of_next (execStepStart_canon c s hs)
  | tokenize d => exact canon_of_next (execTokenize_canon d s hs)
  | detokenize d => exact canon_of_next (execDetokenize_canon d s hs)
  | fence d => exact canon_of_next (execFence_canon d s hs)
  | attest d => exact canon_of_next (execAttest_canon d s hs)
  | checkpoint d => exact canon_of_next (execCheckpoint_canon d s hs)
  | testSetpend d => exact canon_of_next (execTestSetpend_canon d s hs)
  | testEcho d => exact canon_of_next (execTestEcho_canon d s hs)
  | unknownOpcode d => exact canon_of_next (execUnknownOpcode_canon d s hs)
  | descriptorPlaced c r => exact canon_of_next (execDescriptorPlaced_canon c r s hs)
  | arbiterGrant arbiter reqs => exact canon_of_next (execArbiterGrant_canon arbiter reqs s hs)
  | enginePreemption queue => exact canon_of_next (execEnginePreemption_canon queue s hs)
  | steppeSaveComplete => exact canon_of_next (execSteppeSaveComplete_canon s hs)
  | contextSaveComplete c => exact canon_of_next (execContextSaveComplete_canon c s hs)
  | contextRestoreComplete c => exact canon_of_next (execContextRestoreComplete_canon c s hs)
  | inheritanceBudgetExpiry c => exact canon_of_next (execInheritanceBudgetExpiry_canon c s hs)
  | replayOutcome ep => exact canon_of_next (execReplayOutcome_canon ep s hs)
  | scrubRead tier object isImage offset found loc => exact canon_of_next (execScrubRead_canon tier object isImage offset found loc s hs)
  | checkpointTimer => exact canon_of_next (execCheckpointTimer_canon s hs)
  | checkpointWritten ok bad => exact canon_of_next (execCheckpointWritten_canon ok bad s hs)
  | portPoll p => exact canon_of_next (execPortPoll_canon p s hs)
  | portIdle p => exact canon_of_next (execPortIdle_canon p s hs)
  | ptmExchange p master roundTrip => exact canon_of_next (execPtmExchange_canon p master roundTrip s hs)
  | msixModerationTime p v => exact canon_of_next (execMsixModerationTime_canon p v s hs)
  | msixResend p v => exact canon_of_next (execMsixResend_canon p v s hs)
  | msixUnmask p v => exact canon_of_next (execMsixUnmask_canon p v s hs)
  | msixEnable p => exact canon_of_next (execMsixEnable_canon p s hs)
  | pcieDlDown p => exact canon_of_next (execPcieDlDown_canon p s hs)
  | pcieCompletionTimeout p => exact canon_of_next (execPcieCompletionTimeout_canon p s hs)
  | functionLevelReset p => exact canon_of_next (execFunctionLevelReset_canon p s hs)
  | d3hotEntry p => exact canon_of_next (execD3hotEntry_canon p s hs)
  | perst p => exact canon_of_next (execPerst_canon p s hs)
  | portLinkTrained p => exact canon_of_next (execPortLinkTrained_canon p s hs)
  | ownerClaim p => exact canon_of_next (execOwnerClaim_canon p s hs)
  | ownerRelease p => exact canon_of_next (execOwnerRelease_canon p s hs)
  | ctxSuspend p c => exact canon_of_next (execCtxSuspend_canon p c s hs)
  | suspendWithdraw p c => exact canon_of_next (execSuspendWithdraw_canon p c s hs)
  | ctxClear p c => exact canon_of_next (execCtxClear_canon p c s hs)
  | ringReset p c r => exact canon_of_next (execRingReset_canon p c r s hs)
  | ctxDusk p c => exact canon_of_next (execCtxDusk_canon p c s hs)
  | graceExpiry c => exact canon_of_next (execGraceExpiry_canon c s hs)
  | cqWrite p c value => exact canon_of_next (execCqWrite_canon p c value s hs)
  | swset p bits => exact canon_of_next (execSwset_canon p bits s hs)
  | swpendClear p bits => exact canon_of_next (execSwpendClear_canon p bits s hs)
  | dmahaltRelease p bits => exact canon_of_next (execDmahaltRelease_canon p bits s hs)
  | attnRingWrite p value => exact canon_of_next (execAttnRingWrite_canon p value s hs)
  | integThreshWrite p kind value => exact canon_of_next (execIntegThreshWrite_canon p kind value s hs)
  | integClear p value => exact canon_of_next (execIntegClear_canon p value s hs)
  | syncClear p base count => exact canon_of_next (execSyncClear_canon p base count s hs)
  | linkPortWrite p n value => exact canon_of_next (execLinkPortWrite_canon p n value s hs)
  | levelWrite p level => exact canon_of_next (execLevelWrite_canon p level s hs)
  | rampEnd => exact canon_of_next (execRampEnd_canon s hs)
  | trimWrite p dom value => exact canon_of_next (execTrimWrite_canon p dom value s hs)
  | autotrim dom => exact canon_of_next (execAutotrim_canon dom s hs)
  | duskStart p => exact canon_of_next (execDuskStart_canon p s hs)
  | deviceDuskDone => exact canon_of_next (execDeviceDuskDone_canon s hs)
  | bootWindowWrite p offset data => exact canon_of_next (execBootWindowWrite_canon p offset data s hs)
  | bootGo p => exact canon_of_next (execBootGo_canon p s hs)
  | imageVerified => exact canon_of_next (execImageVerified_canon s hs)
  | bootLock p => exact canon_of_next (execBootLock_canon p s hs)
  | certload p => exact canon_of_next (execCertload_canon p s hs)
  | cardWipe p => exact canon_of_next (execCardWipe_canon p s hs)
  | registerWrite p offset size value => exact canon_of_next (execRegisterWrite_canon p offset size value s hs)
  | vinRise => exact canon_of_next (execVinRise_canon s hs)
  | railsInRegulation => exact canon_of_next (execRailsInRegulation_canon s hs)
  | resetRelease failed => exact canon_of_next (execResetRelease_canon failed s hs)
  | dawnBringup hbm => exact canon_of_next (execDawnBringup_canon hbm s hs)
  | retainedStateRestore trained dimms socket => exact canon_of_next (execRetainedStateRestore_canon trained dimms socket s hs)
  | resetAssert => exact canon_of_next (execResetAssert_canon s hs)
  | vinLow => exact canon_of_next (execVinLow_canon s hs)
  | vinReturn => exact canon_of_next (execVinReturn_canon s hs)
  | powerSample milliwatts vinMv sensors => exact canon_of_report (execPowerSample_canon milliwatts vinMv sensors s hs)
  | powerControlTick => exact canon_of_next (execPowerControlTick_canon s hs)
  | junctionCritical die reading => exact canon_of_report (execJunctionCritical_canon die reading s hs)
  | thermalTrip => exact canon_of_next (execThermalTrip_canon s hs)
  | thermtripLatchClear => exact canon_of_next (execThermtripLatchClear_canon s hs)
  | mgmtIndexWrite index => exact canon_of_next (execMgmtIndexWrite_canon index s hs)
  | mgmtRead count => exact canon_of_next (execMgmtRead_canon count s hs)
  | lanesLocked n good => exact canon_of_next (execLanesLocked_canon n good s hs)
  | trainingRecord n tr => exact canon_of_next (execTrainingRecord_canon n tr s hs)
  | laneLockLoss n => exact canon_of_next (execLaneLockLoss_canon n s hs)
  | retrainTimeout n => exact canon_of_next (execRetrainTimeout_canon n s hs)
  | linkRetryTimer n => exact canon_of_next (execLinkRetryTimer_canon n s hs)
  | dataFrame n h payload => exact canon_of_next (execDataFrame_canon n h payload s hs)
  | replayRequest n ack => exact canon_of_next (execReplayRequest_canon n ack s hs)
  | idleFrame n ack cvc credits => exact canon_of_next (execIdleFrame_canon n ack cvc credits s hs)
  | arrive n h a => exact canon_of_next (execArrive_canon n h a s hs)
  | releaseParcel n h pass counter c => exact canon_of_next (execReleaseParcel_canon n h pass counter c s hs)
  | abandon n h pass counter c device why => exact canon_of_next (execAbandon_canon n h pass counter c device why s hs)
  | timeReq n h t1 => exact canon_of_next (execTimeReq_canon n h t1 s hs)
  | timeResp n h t1 t2 t3 => exact canon_of_next (execTimeResp_canon n h t1 t2 t3 s hs)
  | timeExchange => exact canon_of_next (execTimeExchange_canon s hs)
  | rollcall n h low high depth treeId size => exact canon_of_next (execRollcall_canon n h low high depth treeId size s hs)
  | formed n h treeId size => exact canon_of_next (execFormed_canon n h treeId size s hs)
  | lost n h low high why => exact canon_of_next (execLost_canon n h low high why s hs)
  | rejoin n h low high => exact canon_of_next (execRejoin_canon n h low high s hs)
  | relay n h origin code seq detail => exact canon_of_next (execRelay_canon n h origin code seq detail s hs)
  | saddleTimeout counter => exact canon_of_next (execSaddleTimeout_canon counter s hs)
  | failedFrame n => exact canon_of_next (execFailedFrame_canon n s hs)
  | pwrgdResetDelay => exact canon_of_next (execPwrgdResetDelay_canon s hs)
/-- Settles O5: with no command waiting, time passes; else the front command runs on the state with the queue's rest, whose memory is the same. -/
theorem memoryStaysCanonical : Obligations.MemoryStaysCanonical := by
  intro s t hs hstep
  cases hq : s.pending with
  | nil =>
    rw [step, hq] at hstep
    cases hstep
    exact State.idle_canon s hs
  | cons i rest =>
    rw [step, hq] at hstep
    exact exec_canon i (s := { s with pending := rest }) hs hstep

end Sys2Proof.Machine
end

section
/-! PROOFS. The owner's register commands (R327, R434, R496): what each does to its registers. -/

namespace Sys2Proof

/-! ### Tables with a range of keys taken out -/

/-- A lookup in a table of which a test has kept some keys. -/
theorem Tab.get?_filterKeys {α : Type} (t : Tab α) (p : Nat → Bool) (k : Nat) :
    Tab.get? (t.filter (fun e => p e.1)) k = if p k = true then t.get? k else none := by
  induction t with
  | nil => simp [Tab.get?]
  | cons e t ih =>
    obtain ⟨j, v⟩ := e
    by_cases hj : j = k
    · subst hj
      cases hp : p j <;> simp [Tab.get?, hp, ih]
    · cases hp : p j <;> simp [Tab.get?, hp, hj, ih]

/-! ### The next trigger of a counter (R434) -/

/-- One doubling of a trigger that is not above the count yet. -/
def triggerStep (count n : U32) : U32 := if count.toNat < n.toNat then n else nextTrigger n

theorem toNat_nextTrigger (n : U32) : (nextTrigger n).toNat = min 0xFFFFFFFF (2 * n.toNat) := by
  rw [nextTrigger, BitVec.toNat_ofNat]
  omega

/-- After k doublings of a trigger that is not 0, it is above the count, or it is 2^k at least, or the greatest. -/
theorem triggerStep_iterate (count : U32) {t : U32} (ht : t ≠ 0) (k : Nat) :
    count.toNat < ((triggerStep count)^[k] t).toNat ∨ min 0xFFFFFFFF (2 ^ k) ≤ ((triggerStep count)^[k] t).toNat := by
  induction k with
  | zero =>
    have hpos : t.toNat ≠ 0 := fun h => ht (BitVec.eq_of_toNat_eq h)
    right
    simp only [Function.iterate_zero, id_eq, pow_zero]
    omega
  | succ k ih =>
    rw [Function.iterate_succ_apply']
    generalize (triggerStep count)^[k] t = n at ih ⊢
    unfold triggerStep
    split
    · exact .inl ‹_›
    · right
      rw [toNat_nextTrigger, pow_succ]
      omega

/-- The next trigger of a threshold that is not 0 is above the count, or the greatest there is. -/
theorem nextAbove_above {t : U32} (ht : t ≠ 0) (count : U32) : count.toNat < (nextAbove t count).toNat ∨ nextAbove t count = 0xFFFFFFFF := by
  have hiter : nextAbove t count = (triggerStep count)^[33] t :=
    (if_neg ht).trans (List.foldl_const (triggerStep count) t (List.range 33))
  rw [hiter]
  refine (triggerStep_iterate count ht 33).imp id fun h => BitVec.eq_of_toNat_eq ?_
  have hlt : ((triggerStep count)^[33] t).toNat < 2 ^ 32 := BitVec.isLt _
  have hmax : (0xFFFFFFFF : U32).toNat = 0xFFFFFFFF := rfl
  generalize ((triggerStep count)^[33] t).toNat = n at h hlt ⊢
  omega

namespace Machine

/-! ### INTEG.THRESH (R434) -/

/-- The entries of a kind with their next triggers taken afresh from a threshold. -/
def retriggered (k : Nat) (t : U16) (l : List Counter) : List Counter :=
  l.map (fun x => if x.loc.kind.toNat = k then { x with next := nextAbove (t.setWidth 32) x.count } else x)

theorem count_retriggered (k : Nat) (t : U16) (l : List Counter) : (retriggered k t l).map Counter.count = l.map Counter.count := by
  rw [retriggered, List.map_map]
  refine List.map_congr_left fun x _ => ?_
  by_cases h : x.loc.kind.toNat = k <;> simp [h]

/-- An entry of the kind has no next trigger where the threshold is 0, and else one above its count or the greatest. -/
theorem next_of_mem_retriggered {k : BitVec 4} {t : U16} {l : List Counter} {x : Counter} (hx : x ∈ retriggered k.toNat t l) (hk : x.loc.kind = k) :
    if t = 0 then x.next = 0 else (x.count.toNat < x.next.toNat ∨ x.next = 0xFFFFFFFF) := by
  obtain ⟨y, -, rfl⟩ := List.mem_map.mp hx
  have hy : y.loc.kind.toNat = k.toNat := by
    split at hk <;> rw [← hk]
  simp only [hy, if_true]
  split
  case isTrue ht => subst ht; rfl
  case isFalse ht => exact nextAbove_above (fun h => ht (by bv_omega)) _

theorem exec_integThreshWrite {s : State} {p : HostPort} (hown : s.ownerMay p = true) {k : BitVec 4} (h0 : k ≠ 0) (h15 : k ≠ 15) (v : U32) :
    exec (.integThreshWrite p k v) s = .next (s.writeThresh k.toNat v.toNat) :=
  congrArg Host.Outcome.next (if_pos (by rw [hown, bne_iff_ne.mpr h0, bne_iff_ne.mpr h15]; rfl))

/-- The thresholds that a write of INTEG.THRESH carries. -/
def threshOf (v : U32) : Thresh := { detected := v.setWidth 16, correctable := (v >>> 16).setWidth 16 }

/-- A write of INTEG.THRESH[k] sets the threshold and takes the next triggers of its kind afresh in each class whose threshold changes. -/
theorem State.writeThresh_eq (s : State) (k : Nat) (v : U32) :
    s.writeThresh k v.toNat = { s with
      regs := { s.regs with thresh := s.regs.thresh.set k (threshOf v) }
      integ := { s.integ with
        detected := if (threshOf v).detected = (s.regs.thresh.getD k Thresh.init).detected then s.integ.detected
          else retriggered k (threshOf v).detected s.integ.detected
        correctable := if (threshOf v).correctable = (s.regs.thresh.getD k Thresh.init).correctable then s.integ.correctable
          else retriggered k (threshOf v).correctable s.integ.correctable } } := by
  have hlow : BitVec.ofNat 16 v.toNat = v.setWidth 16 := rfl
  have hhigh : BitVec.ofNat 16 (v.toNat / 65536) = (v >>> 16).setWidth 16 := by
    apply BitVec.eq_of_toNat_eq
    simp [Nat.shiftRight_eq_div_pow]
  unfold State.writeThresh
  rw [hlow, hhigh]
  rfl

/-! ### INTEG.CLEAR (R434) -/

section
variable (s : State) {v : Nat}

theorem State.clearInteg_all (h : v.testBit 4 = true) : (s.clearInteg v).integ.detected = [] ∧ (s.clearInteg v).integ.correctable = [] := by
  simp [State.clearInteg, h]

theorem State.clearInteg_detected (h : v.testBit 4 = false) (hclass : v.testBit 5 = false) :
    (s.clearInteg v).integ.correctable = s.integ.correctable ∧
      (s.clearInteg v).integ.detected = s.integ.detected.filter (fun x => x.loc.kind.toNat != v % 16) := by
  simp [State.clearInteg, h, hclass]

theorem State.clearInteg_correctable (h : v.testBit 4 = false) (hclass : v.testBit 5 = true) :
    (s.clearInteg v).integ.detected = s.integ.detected ∧
      (s.clearInteg v).integ.correctable = s.integ.correctable.filter (fun x => x.loc.kind.toNat != v % 16) := by
  simp [State.clearInteg, h, hclass]
end

/-! ### SYNC.CLEAR (R496) -/

/-- Clearing a range of general counters sets SYNC.STATUS, and the range to 0 unless a running context's window meets it. -/
theorem State.clearSync_of_general (s : State) {base count : Nat} (hcount : count ≠ 0) (hrange : base + count ≤ Config.generalCounters) :
    s.clearSync base count = { s with
      regs := { s.regs with syncDiscarded := s.windowMeets base count }
      sync := if s.windowMeets base count = true then s.sync else s.sync.filter (fun e => decide (e.1 < base) || decide (base + count ≤ e.1)) } := by
  rw [State.clearSync, if_neg (by omega)]
  cases s.windowMeets base count <;> rfl

theorem State.counter_clearSync (s : State) {base count : Nat} (hcount : count ≠ 0) (hrange : base + count ≤ Config.generalCounters) (j : Nat) :
    (s.clearSync base count).counter j =
      if s.windowMeets base count = false ∧ base ≤ j ∧ j < base + count then 0 else s.counter j := by
  rw [s.clearSync_of_general hcount hrange]
  cases hmeets : s.windowMeets base count with
  | true => simp [State.counter]
  | false =>
    simp only [State.counter, Tab.getD, Bool.false_eq_true, if_false, true_and]
    rw [Tab.get?_filterKeys s.sync (fun i => decide (i < base) || decide (base + count ≤ i))]
    by_cases hj : base ≤ j ∧ j < base + count
    · rw [if_pos hj, if_neg (by simp; omega)]
      rfl
    · rw [if_neg hj, if_pos (by simp; omega)]

/-! ### The owner's commands -/

/-- Settles O47: each command of the owner is the write of its register, whose effect on it has its equation. -/
theorem ownerRegisterCommands : Obligations.OwnerRegisterCommands := by
  intro s p hown
  refine ⟨fun bits => ?halt, fun k v h0 h15 => ?thresh, fun v => ?clear, fun base count hcount hrange => ?sync⟩
  case halt => exact congrArg Host.Outcome.next (if_pos hown)
  case thresh =>
    refine ⟨_, exec_integThreshWrite hown h0 h15 v, ?_⟩
    rw [s.writeThresh_eq]
    refine ⟨rfl, rfl, ?_, fun j hj => ?_, ?_, fun x hx hk hchanged => ?_⟩
    · simp [Tab.get?_set, threshOf]
    · simp [Tab.get?_set, hj]
    · dsimp only
      split
      · rfl
      · exact count_retriggered _ _ _
    · exact next_of_mem_retriggered (by simpa [threshOf, hchanged] using hx) hk
  case clear =>
    exact ⟨_, congrArg Host.Outcome.next (if_pos hown), rfl, s.clearInteg_all, s.clearInteg_detected, s.clearInteg_correctable⟩
  case sync =>
    have hne : count.toNat ≠ 0 := fun h => hcount (BitVec.eq_of_toNat_eq h)
    refine ⟨_, congrArg Host.Outcome.next (if_pos hown), ?_, ?_, s.counter_clearSync hne hrange⟩ <;> rw [s.clearSync_of_general hne hrange]

end Machine
end Sys2Proof
end

section
/-! PROOFS. The DMA engine's COPY and WFILL (R316, R317, R327) and the maintenance lane's START (R357, R358): what lets each complete. -/

namespace Sys2Proof.Machine

/-! ### COPY and WFILL (R316, R317) -/

section
variable {s : State} {c : CtxId} {q : SeqId} {b : Bytes} {acc src : List Access} {eff : State → DmaEnd × State}

/-- A DMA command that has ended: what it kept of its progress is gone, and its engine is done with it. -/
def State.dmaDone (t : State) (c : CtxId) (q : SeqId) : State :=
  ({ t with progress := t.progress.erase (State.progKey c q 0x0C) } : State).engineDone c q 0x0C

/-- An allowed DMA command on an open channel, with its objects there, a sound source and room, completes when its effect is done. -/
theorem State.runDma_of_done (hactive : (s.ctx c).active = true) (hstart : s.started c (State.copyOf 0x0C q b) = true) (hopen : s.channelOpen c = true)
    (hhere : s.resident (src ++ acc) = true) (hsound : s.poisonedAccess src = none) {t : State}
    (heff : eff (s.endWait c (State.copyOf 0x0C q b)) = (.done, t)) :
    s.runDma c q b true acc src eff none = t.dmaDone c q := by
  simp only [State.runDma, hactive, hstart, hopen, hhere, hsound, heff, Bool.not_true, Bool.or_self, Bool.false_eq_true, if_false]
  rfl
end

theorem exec_copy (s : State) (c : CtxId) (q : SeqId) (b : Bytes) : exec (.copy c q b) s =
    .next (s.runDma c q b (s.copyOk c b (Copy.of b)) (State.copyDst (Copy.of b)) (s.copySrc (Copy.of b)) (fun t => t.copyEff c (Copy.of b))) := rfl

theorem exec_wfill (s : State) (c : CtxId) (q : SeqId) (b : Bytes) : exec (.wfill c q b) s =
    .next (s.runDma c q b (s.wfillOk c b (Wfill.of b)) [⟨(Wfill.of b).wobj, 0, 0, false⟩, ⟨(Wfill.of b).sobj, 0, 0, false⟩]
      ((if (Wfill.of b).routed then [⟨(Wfill.of b).robj, 0, 8 * (Wfill.of b).e, false⟩] else []) ++
        (s.wfillNow c q b (Wfill.of b)).map (fun r => (⟨(Wfill.of b).sobj, r.1, r.2, false⟩ : Access)))
      (fun t => t.wfillEff c q b (Wfill.of b)) (s.wfillFull c q b (Wfill.of b))) := rfl

/-! ### START (R357, R358) -/

/-- The operands of the activity that a START hands the lane: its block's, or those of the descriptor whose step it belongs to (R357). -/
def State.startArgs (s : State) (c : CtxId) (q : SeqId) (b : Bytes) : Bytes :=
  if bitAt b 1 1 then (match (s.ctx c).runOf q 0x0D with | none => [] | some r => slice r.d.bytes 16 44) else slice b 16 44

/-- The checks of R96 on a START. -/
def State.startOk (s : State) (c : CtxId) (q : SeqId) (b : Bytes) : Bool :=
  mayIssue 0x0D q && blockOk 0x0D b && zeroBits b 1 7 2 && zeroBytes b 2 15 && s.accOk c [0] ⟨fldObj b 60, 0, 16, true⟩

/-- A START whose activity the lane does not have yet is an engine command that reads no object. -/
theorem exec_start_of_not_pends {s : State} {c : CtxId} {q : SeqId} (b : Bytes) (h : s.startPends c q = false) : exec (.start c q b) s =
    .next (s.runCommand c (State.copyOf 0x0D q b) (s.startOk c q b) [] State.noPoisonRule
      (fun t => t.startReceive (s.startArgs c q b) (State.actOf (s.startArgs c q b) none (some (c, q, fldObj b 60, bitAt b 1 0))))
      (fun t => if bitAt b 1 0 = true then t else t.engineDone c q 0x0D)) :=
  congrArg Host.Outcome.next (if_neg (by simp [h]))

/-! ### The three commands -/

/-- Settles O25: COPY and WFILL are DMA commands whose channel, objects and sources do not hold them up; a START is an engine command without objects. -/
theorem dmaAndLaneCommandsComplete : Obligations.DmaAndLaneCommandsComplete := by
  intro s c q b hactive done
  refine ⟨?copy, ?wfill, ?start⟩
  case copy =>
    intro x on t hstart hok hopen hhere hsound heff
    rw [exec_copy, show s.copyOk c b (Copy.of b) = true from hok, State.runDma_of_done hactive hstart hopen hhere hsound heff]
    rfl
  case wfill =>
    intro x on src t hstart hok hopen hhere hsound hfull heff
    rw [exec_wfill, show s.wfillOk c b (Wfill.of b) = true from hok, show s.wfillFull c q b (Wfill.of b) = none from hfull,
      State.runDma_of_done hactive hstart hopen hhere hsound heff]
    rfl
  case start =>
    intro robj on t args hpends hstart hissue hblock hbits hbytes hrecord got
    have hok : s.startOk c q b = true := by simp [State.startOk, hissue, hblock, hbits, hbytes, show s.accOk c [0] ⟨fldObj b 60, 0, 16, true⟩ = true from hrecord]
    have hready : engineReady s c on [] = true := engineReady_iff.mpr ⟨hactive, hstart, rfl, rfl⟩
    rw [exec_start_of_not_pends b hpends, hok, State.runCommand_of_ready hready]
    rfl

end Sys2Proof.Machine
end

section
/-! PROOFS. LOAD, EVICT and the commands that end them (R309 to R313, R516): an object's line, what begins, what is refused, and what ends. -/

namespace Sys2Proof

/-- A value found at a key, or the default where the test fails it, is a value of the table. -/
theorem Tab.any_of_getD {α : Type} {t : Tab α} {p : α → Bool} {k : Nat} {d : α} (hd : p d = false) (h : p (t.getD k d) = true) :
    t.any (fun e => p e.2) = true := by
  induction t with
  | nil => exact absurd (hd.symm.trans h) Bool.false_ne_true
  | cons e t ih =>
    obtain ⟨j, v⟩ := e
    by_cases hj : j = k
    · simp [show p v = true by simpa [Tab.getD, Tab.get?, hj] using h]
    · simp [ih (by simpa [Tab.getD, Tab.get?, hj] using h)]

/-- A test that fails the default finds as much in a table after a set that keeps the test's answer at the key. -/
theorem Tab.any_set {α : Type} (t : Tab α) {p : α → Bool} {k : Nat} {v d : α} (hd : p d = false) (hv : p v = p (t.getD k d)) :
    (t.set k v).any (fun e => p e.2) = t.any (fun e => p e.2) := by
  induction t with
  | nil => simpa [Tab.set, Tab.getD, Tab.get?, hd] using hv
  | cons e t ih =>
    obtain ⟨j, w⟩ := e
    rw [Tab.set]
    split_ifs with hlt heq
    · rw [List.any_cons, hv]
      cases hfound : p (Tab.getD ((j, w) :: t) k d) with
      | false => rfl
      | true => rw [Tab.any_of_getD hd hfound]; rfl
    · rw [List.any_cons, List.any_cons, hv]
      simp [Tab.getD, Tab.get?, heq]
    · rw [List.any_cons, List.any_cons, ih (by simpa [Tab.getD, Tab.get?, Ne.symm heq] using hv)]

namespace Machine

/-! ### What an expanded descriptor finds

Expanding a descriptor moves its context alone, and not the context's image. -/

section
variable (s : State) (d : Desc)

theorem State.imageBound_modCtx (c : CtxId) {f : Ctx → Ctx} (h : (f (s.ctx c)).image = (s.ctx c).image) (i : U32) :
    (s.modCtx c f).imageBound i = s.imageBound i :=
  Tab.any_set s.ctxs (p := fun x => decide (x.image = some i)) (d := Ctx.init) rfl (by rw [h]; rfl)

@[simp] theorem State.imageBound_expanded (i : U32) : (expanded s d).imageBound i = s.imageBound i := by
  rw [expanded, State.take, State.imageBound_modCtx _ _ rfl, State.countFetch, State.imageBound_modCtx _ _ rfl]
end

/-! ### The line of an object or image (R313) -/

/-- No LOAD or EVICT of an object or image is under way or waits. -/
def State.lineFree (s : State) (img : Bool) (id : U32) : Prop :=
  s.lineBusy img id = false ∧ s.objLine.any (State.lineOf img id) = false

theorem State.lineFree_iff {s : State} {img : Bool} {id : U32} :
    s.lineFree img id ↔ ¬ (s.lineBusy img id || s.objLine.any (State.lineOf img id)) = true := by
  simp [State.lineFree]

section
variable {s : State} {d : Desc}

theorem State.lineEnter_of_free (h : s.lineFree (bitAt d.bytes 20 1) (LoadOps.of d).id) : s.lineEnter d = s.lineBegin d :=
  if_neg (State.lineFree_iff.mp h)

theorem State.lineEnter_of_not_free (h : ¬ s.lineFree (bitAt d.bytes 20 1) (LoadOps.of d).id) :
    s.lineEnter d = { s with objLine := s.objLine ++ [d] } :=
  if_pos (not_not.mp (State.lineFree_iff.not.mp h))

theorem carries_load (h : carries (.load d) = some d) : descOp d = 0x0C ∧ bitAt d.bytes 20 1 = false := by simpa [carries] using h
theorem carries_loadImage (h : carries (.loadImage d) = some d) : descOp d = 0x0C ∧ bitAt d.bytes 20 1 = true := by simpa [carries] using h
theorem carries_evict (h : carries (.evict d) = some d) : descOp d = 0x0D ∧ bitAt d.bytes 20 1 = false := by simpa [carries] using h
theorem carries_evictImage (h : carries (.evictImage d) = some d) : descOp d = 0x0D ∧ bitAt d.bytes 20 1 = true := by simpa [carries] using h

theorem descOp_of_carries_transfer :
    ∀ i ∈ [Instr.load d, .loadImage d, .evict d, .evictImage d], carries i = some d → descOp d = 0x0C ∨ descOp d = 0x0D := by
  simp +contextual [carries]

theorem State.descEffect_of_transfer (s : State) (h : descOp d = 0x0C ∨ descOp d = 0x0D) : s.descEffect d = s.lineEnter d := by
  rcases h with h | h <;> simp only [State.descEffect, h]

/-- A LOAD or EVICT that is expanded enters the line of its object or image. -/
theorem exec_transfer_of_expandsNow {i : Instr} (hmem : i ∈ [Instr.load d, .loadImage d, .evict d, .evictImage d]) (hi : carries i = some d)
    (h : expandsNow s d = true) : exec i s = .next ((expanded s d).lineEnter d) := by
  rw [exec_of_expandsNow hi h, State.descEffect_of_transfer _ (descOp_of_carries_transfer i hmem hi)]

theorem exec_load_of_free (hi : carries (.load d) = some d) (h : expandsNow s d = true) (hfree : s.lineFree false (LoadOps.of d).id) :
    exec (.load d) s = .next ((expanded s d).loadBegin d) := by
  obtain ⟨hop, himg⟩ := carries_load hi
  rw [exec_transfer_of_expandsNow (by simp) hi h, State.lineEnter_of_free (by rw [himg]; exact hfree)]
  simp only [State.lineBegin, hop, himg]

theorem exec_loadImage_of_free (hi : carries (.loadImage d) = some d) (h : expandsNow s d = true) (hfree : s.lineFree true (LoadOps.of d).id) :
    exec (.loadImage d) s = .next ((expanded s d).loadImageBegin d) := by
  obtain ⟨hop, himg⟩ := carries_loadImage hi
  rw [exec_transfer_of_expandsNow (by simp) hi h, State.lineEnter_of_free (by rw [himg]; exact hfree)]
  simp only [State.lineBegin, hop, himg]

theorem exec_evict_of_free (hi : carries (.evict d) = some d) (h : expandsNow s d = true) (hfree : s.lineFree false (LoadOps.of d).id) :
    exec (.evict d) s = .next ((expanded s d).evictBegin d) := by
  obtain ⟨hop, himg⟩ := carries_evict hi
  rw [exec_transfer_of_expandsNow (by simp) hi h, State.lineEnter_of_free (by rw [himg]; exact hfree)]
  simp only [State.lineBegin, hop, himg]

theorem exec_evictImage_of_free (hi : carries (.evictImage d) = some d) (h : expandsNow s d = true) (hfree : s.lineFree true (LoadOps.of d).id) :
    exec (.evictImage d) s = .next ((expanded s d).evictImageBegin d) := by
  obtain ⟨hop, himg⟩ := carries_evictImage hi
  rw [exec_transfer_of_expandsNow (by simp) hi h, State.lineEnter_of_free (by rw [himg]; exact hfree)]
  simp only [State.lineBegin, hop, himg]
end

/-! ### LOAD of an object (R309, R310) -/

section
variable (x : LoadOps) (o : Obj)

/-- What a LOAD leaves where it lies: a RESIDENT object that it does not move, or a range (log 99). -/
def LoadOps.stays : Bool := decide (o.state = .resident) && (x.range || !x.moves o)
/-- The base that a LOAD puts in force. -/
def LoadOps.baseFor : U64 := if x.base ≠ openBase then x.base else if x.stays o && o.entryBase != openBase then o.base else o.entryBase
/-- The mask that a LOAD puts in force. -/
def LoadOps.maskFor : U32 := if x.mask ≠ 0 then x.mask else if x.stays o && o.entryMask != 0 then o.mask else o.entryMask
/-- The LOAD under way. -/
def LoadOps.runOf (d : Desc) (base : U64) (mask : U32) : LoadRun :=
  { d := d, isImage := false, object := x.id, offset := if x.range = true then x.off else 0, length := if x.range = true then x.len else o.size,
    whole := !x.range, moveTo := if (!x.range && decide (o.state = .resident) && x.moves o) = true then some (base, mask) else none, moved := false }
/-- The object while its LOAD is under way: RESIDENT as it is, or LOADING at its place. -/
def LoadOps.objOf (base : U64) (mask : U32) : Obj :=
  if x.range = true ∨ o.state = .resident then o else { o with state := .loading, base := base, mask := mask }

theorem LoadOps.moves_iff : x.moves o = true ↔ (x.base ≠ openBase ∧ x.base ≠ o.base) ∨ (x.mask ≠ 0 ∧ x.mask ≠ o.mask) := by
  simp [LoadOps.moves]

theorem LoadOps.stays_iff : x.stays o = true ↔ o.state = .resident ∧
    (x.range = true ∨ ¬ ((x.base ≠ openBase ∧ x.base ≠ o.base) ∨ (x.mask ≠ 0 ∧ x.mask ≠ o.mask))) := by
  rw [← LoadOps.moves_iff]
  simp [LoadOps.stays]

theorem LoadOps.baseFor_eq : x.baseFor o = if x.base ≠ openBase then x.base
    else if (o.state = .resident ∧ (x.range = true ∨ ¬ ((x.base ≠ openBase ∧ x.base ≠ o.base) ∨ (x.mask ≠ 0 ∧ x.mask ≠ o.mask)))) ∧ o.entryBase ≠ openBase
    then o.base else o.entryBase := by
  simp only [LoadOps.baseFor, Bool.and_eq_true, LoadOps.stays_iff, bne_iff_ne]

theorem LoadOps.maskFor_eq : x.maskFor o = if x.mask ≠ 0 then x.mask
    else if (o.state = .resident ∧ (x.range = true ∨ ¬ ((x.base ≠ openBase ∧ x.base ≠ o.base) ∨ (x.mask ≠ 0 ∧ x.mask ≠ o.mask)))) ∧ o.entryMask ≠ 0
    then o.mask else o.entryMask := by
  simp only [LoadOps.maskFor, Bool.and_eq_true, LoadOps.stays_iff, bne_iff_ne]

theorem LoadOps.moveTo_runOf (d : Desc) (base : U64) (mask : U32) : (x.runOf o d base mask).moveTo =
    if x.range = false ∧ o.state = .resident ∧ ((x.base ≠ openBase ∧ x.base ≠ o.base) ∨ (x.mask ≠ 0 ∧ x.mask ≠ o.mask)) then some (base, mask) else none := by
  simp only [LoadOps.runOf, Bool.and_eq_true, Bool.not_eq_true', decide_eq_true_eq, LoadOps.moves_iff, and_assoc]
end

section
variable {s : State} {d : Desc} {o : Obj}

theorem State.loadBegin_of_none (h : s.obj? (LoadOps.of d).id = none) : s.loadBegin d = s.complete d (Done.of .protocol 0) := by
  simp only [State.loadBegin, h]

variable (h : s.obj? (LoadOps.of d).id = some o)
include h

theorem State.loadBegin_of_refused {code : Code}
    (href : s.loadRefusal d (LoadOps.of d) o ((LoadOps.of d).baseFor o) ((LoadOps.of d).maskFor o) = some code) :
    s.loadBegin d = s.complete d (Done.of code 0) := by
  rw [LoadOps.baseFor, LoadOps.maskFor, LoadOps.stays] at href
  simp only [State.loadBegin, h, href]

theorem State.loadBegin_of_accepted
    (hacc : s.loadRefusal d (LoadOps.of d) o ((LoadOps.of d).baseFor o) ((LoadOps.of d).maskFor o) = none) :
    s.loadBegin d = s.loadStart d (LoadOps.of d) o ((LoadOps.of d).baseFor o) ((LoadOps.of d).maskFor o) := by
  rw [LoadOps.baseFor, LoadOps.maskFor, LoadOps.stays] at hacc ⊢
  simp only [State.loadBegin, h, hacc]
end

/-- A LOAD that begins joins the LOADs under way, and of the objects moves its own alone. -/
theorem State.loadStart_eq (s : State) (d : Desc) (x : LoadOps) (o : Obj) (base : U64) (mask : U32) :
    s.loadStart d x o base mask = { (if x.range = true then s else s.setObj x.id (x.objOf o base mask)) with
      loads := s.loads ++ [x.runOf o d base mask] } := by
  cases hr : x.range with
  | true => simp [State.loadStart, LoadOps.runOf, hr]
  | false =>
    by_cases hs : o.state = .resident
    · simp [State.loadStart, LoadOps.runOf, LoadOps.objOf, hr, hs]
    · simp [State.loadStart, LoadOps.runOf, LoadOps.objOf, hr, hs]

theorem State.obj?_loadStart_same {s : State} {d : Desc} {x : LoadOps} {o : Obj} (h : s.obj? x.id = some o) (base : U64) (mask : U32) :
    (s.loadStart d x o base mask).obj? x.id = some (x.objOf o base mask) := by
  rw [s.loadStart_eq]
  split
  case isTrue hr => rw [LoadOps.objOf, if_pos (.inl hr)]; exact h
  case isFalse hr => exact s.obj?_setObj_same _ _

theorem State.obj?_loadStart_of_ne (s : State) (d : Desc) {x : LoadOps} {id : U32} (hid : id ≠ x.id) (o : Obj) (base : U64) (mask : U32) :
    (s.loadStart d x o base mask).obj? id = s.obj? id := by
  rw [s.loadStart_eq]
  split
  · rfl
  · exact s.obj?_setObj_of_ne _ hid

theorem State.loadStart_frame (s : State) (d : Desc) (x : LoadOps) (o : Obj) (base : U64) (mask : U32) :
    s.loadStart d x o base mask = { s with objs := (s.loadStart d x o base mask).objs, loads := s.loads ++ [x.runOf o d base mask] } := by
  rw [s.loadStart_eq]
  split <;> rfl

/-! ### LOAD of a step image (R516) -/

/-- A whole LOAD of an image keeps to R516: no base, mask or offset, whole parcels, and a length in range. -/
def LoadOps.imageOk (x : LoadOps) : Prop :=
  x.base = openBase ∧ x.mask = 0 ∧ x.range = false ∧ x.off = 0 ∧ x.len % 256 = 0 ∧ 512 ≤ x.len ∧ x.len ≤ 1024 * mib

/-- After the lock, a whole LOAD of an image that no context is bound to and step memory has room for begins. -/
theorem State.loadImageBegin_of_fits {s : State} {d : Desc} (hlock : s.boot.locked = true) (hok : (LoadOps.of d).imageOk)
    (hunbound : s.imageBound (LoadOps.of d).id = false)
    (hroom : (LoadOps.of d).len + ((s.images.filter (fun e => e.1 != (LoadOps.of d).id.toNat)).map (fun e => e.2.length)).sum ≤ s.stepRoom) :
    s.loadImageBegin d = { s with
      images := s.images.set (LoadOps.of d).id.toNat { length := (LoadOps.of d).len, poisoned := [], loaded := false }
      loads := s.loads ++ [{ d := d, isImage := true, object := (LoadOps.of d).id, offset := 0, length := (LoadOps.of d).len, whole := true,
                             moveTo := none, moved := false }] } := by
  obtain ⟨hbase, hmask, hrange, hoff, hparcels, hmin, hmax⟩ := hok
  have hfits : ¬ ((LoadOps.of d).off ≠ 0 ∨ (LoadOps.of d).len % 256 ≠ 0 ∨ (LoadOps.of d).len < 512 ∨ 1024 * mib < (LoadOps.of d).len ∨
      s.imageBound (LoadOps.of d).id = true) := by
    simp [hoff, hparcels, hunbound, hmin, hmax]
  simp only [State.loadImageBegin, hlock, hbase, hmask, hrange, if_neg hfits, if_neg (Nat.not_lt.mpr hroom)]
  rfl

/-! ### EVICT (R312, R516) -/

section
variable {s : State} {d : Desc}

theorem State.evictBegin_of_none (h : s.obj? (LoadOps.of d).id = none) : s.evictBegin d = s.complete d (Done.of .protocol 0) := by
  simp only [State.evictBegin, h]

section
variable {o : Obj} (h : s.obj? (LoadOps.of d).id = some o)
include h

theorem State.evictBegin_of_stalled (hstalled : o.stalled ≠ []) : s.evictBegin d = s.complete d (Done.of .busy 0) := by
  simp [State.evictBegin, h, hstalled]

variable (hclear : o.stalled = [])
include hclear

theorem State.evictBegin_of_absent (habsent : o.state = .absent) : s.evictBegin d = s.complete d (Done.of .ok 0) := by
  simp [State.evictBegin, h, hclear, habsent]

theorem State.evictBegin_of_there (hthere : o.state ≠ .absent) :
    s.evictBegin d = { (s.setObj (LoadOps.of d).id { o with state := .evicting }) with evicts := s.evicts ++ [d] } := by
  simp [State.evictBegin, h, hclear, hthere]
end

theorem State.evictImageBegin_of_none (h : s.images.get? (LoadOps.of d).id.toNat = none) :
    s.evictImageBegin d = s.complete d (Done.of .protocol 0) := by
  simp only [State.evictImageBegin, h]

section
variable {m : Image} (h : s.images.get? (LoadOps.of d).id.toNat = some m)
include h

theorem State.evictImageBegin_of_bound (hbound : s.imageBound (LoadOps.of d).id = true) : s.evictImageBegin d = s.complete d (Done.of .busy 0) := by
  simp only [State.evictImageBegin, h, hbound, if_true]

theorem State.evictImageBegin_of_unbound (hunbound : s.imageBound (LoadOps.of d).id = false) : s.evictImageBegin d =
    ({ (s.wipe (.image (LoadOps.of d).id) 0 m.length) with images := s.images.erase (LoadOps.of d).id.toNat } : State).complete d (Done.of .ok 0) := by
  simp only [State.evictImageBegin, h, hunbound, Bool.false_eq_true, if_false]
end
end

/-! ### What ends a transfer (R310, R312, R327, R367) -/

section
variable {s : State} {isImage : Bool} {object : U32} {r : LoadRun}

section
variable (hrun : s.loadOf? isImage object = some r)
include hrun

theorem exec_loadComplete_of_lost (hlost : (s.port (s.ctx r.d.ctx).port).lost = true) :
    exec (.loadComplete isImage object) s = .next (s.loadHalted r) := by
  refine congrArg Host.Outcome.next ?_
  rw [hrun]
  exact if_pos hlost

theorem exec_loadComplete_of_written (hlost : (s.port (s.ctx r.d.ctx).port).lost = false) (hopen : s.channelOpen r.d.ctx = true)
    (hswitched : r.moveTo.isSome = true → r.moved = true) :
    exec (.loadComplete isImage object) s = .next (if isImage = true then s.loadImageDone r else (s.loadObjDone r).woken r.object) := by
  have hgoes : (!s.channelOpen r.d.ctx || (r.moveTo.isSome && !r.moved)) = false := by
    cases hm : r.moveTo.isSome with
    | false => simp [hopen]
    | true => simp [hopen, hswitched hm]
  refine congrArg Host.Outcome.next ?_
  simp only [hrun, hlost, hgoes, Bool.false_eq_true, if_false]
end

section
variable {base : U64} {mask : U32} (hrun : s.loadOf? false object = some r) (hmove : r.moveTo = some (base, mask)) (hmoved : r.moved = false)
  (hopen : s.channelOpen r.d.ctx = true)
include hrun hmove hmoved hopen

theorem exec_relocationProceed_of_inUse (huse : s.inUse object false = true) : exec (.relocationProceed object) s = .next s := by
  refine congrArg Host.Outcome.next ?_
  simp only [hrun, hmove, hmoved, hopen, huse, Bool.or_true, if_true]

/-- With nothing in progress on its object, a relocation makes it LOADING and goes on to write it. -/
theorem exec_relocationProceed_of_unused {o : Obj} (ho : s.obj? object = some o) (huse : s.inUse object false = false) :
    exec (.relocationProceed object) s = .next { (s.setObj object { o with state := .loading }) with
      loads := s.loads.map (fun x => if x = r then { x with moved := true } else x) } := by
  refine congrArg Host.Outcome.next ?_
  simp only [hrun, hmove, hmoved, hopen, huse, State.modObj, ho, Bool.not_true, Bool.or_false, Bool.false_eq_true, if_false]
  rfl
end

section
variable {d : Desc} (hrun : s.evicts.find? (fun d => decide ((LoadOps.of d).id = object)) = some d)
include hrun

theorem exec_evictFree_of_inUse (huse : s.inUse object true = true) : exec (.evictFree object) s = .next s := by
  refine congrArg Host.Outcome.next ?_
  simp only [hrun, huse, if_true]

/-- An EVICT as it ends: the object ABSENT, the descriptor completed, and the object's line not yet tried. -/
def State.evicted (s : State) (object : U32) (d : Desc) : State :=
  ({ (s.makeAbsent object) with evicts := (s.makeAbsent object).evicts.eraseP (fun e => decide (e = d)) } : State).complete d (Done.of .ok 0)

theorem exec_evictFree_of_unused (huse : s.inUse object true = false) :
    exec (.evictFree object) s = .next (State.lineNext false object (s.evicted object d).objLine.length (s.evicted object d)) := by
  refine congrArg Host.Outcome.next ?_
  simp only [hrun, huse, Bool.false_eq_true, if_false]
  rfl
end
end

/-! ### The transfer commands -/

/-- Settles O32: an expanded LOAD or EVICT finds its object, image and line as they stood; LOAD_COMPLETE, RELOCATION_PROCEED and EVICT_FREE act on the
transfer under way. -/
theorem transferCommandsComplete : Obligations.TransferCommandsComplete := by
  intro s
  refine ⟨fun d hexpands => ⟨?waits, ?load, ?loadImage, ?evict, ?evictImage⟩, ?loadEnds, ?relocation, ?evictEnds⟩
  case waits =>
    intro i hmem hi hbusy
    rw [exec_transfer_of_expandsNow hmem hi hexpands, State.lineEnter_of_not_free (s := expanded s d) hbusy]
    rfl
  case load =>
    intro hi hfree
    have hexec := exec_load_of_free hi hexpands hfree
    refine ⟨fun h => hexec.trans (congrArg Host.Outcome.next (State.loadBegin_of_none h)), fun o ho => ?_⟩
    dsimp only
    rw [← LoadOps.baseFor_eq, ← LoadOps.maskFor_eq, hexec]
    refine ⟨fun c href => congrArg Host.Outcome.next (State.loadBegin_of_refused (s := expanded s d) ho href), fun hacc => ?_⟩
    rw [State.loadBegin_of_accepted (s := expanded s d) ho hacc]
    exact ⟨_, (LoadOps.of d).runOf o d _ _, rfl, State.loadStart_frame _ _ _ _ _ _, rfl, rfl, rfl, rfl, rfl, rfl, rfl, LoadOps.moveTo_runOf _ _ _ _ _,
      State.obj?_loadStart_same (s := expanded s d) ho _ _, fun id hid => State.obj?_loadStart_of_ne _ _ hid _ _ _⟩
  case loadImage =>
    intro hi hfree
    have hexec := exec_loadImage_of_free hi hexpands hfree
    refine ⟨hexec, fun hlock hbase hmask hrange hoff hparcels hmin hmax hunbound hroom => hexec.trans (congrArg Host.Outcome.next ?_)⟩
    have hunbound' : (expanded s d).imageBound (LoadOps.of d).id = false := (State.imageBound_expanded s d _).trans hunbound
    exact State.loadImageBegin_of_fits (s := expanded s d) hlock ⟨hbase, hmask, hrange, hoff, hparcels, hmin, hmax⟩ hunbound' hroom
  case evict =>
    intro hi hfree
    have hexec := exec_evict_of_free hi hexpands hfree
    refine ⟨fun h => hexec.trans (congrArg Host.Outcome.next (State.evictBegin_of_none h)),
      fun o ho => ⟨fun hstalled => ?_, fun hclear habsent => ?_, fun hclear hthere => ?_⟩⟩
    · exact hexec.trans (congrArg Host.Outcome.next (State.evictBegin_of_stalled ho hstalled))
    · exact hexec.trans (congrArg Host.Outcome.next (State.evictBegin_of_absent ho hclear habsent))
    · exact hexec.trans (congrArg Host.Outcome.next (State.evictBegin_of_there ho hclear hthere))
  case evictImage =>
    intro hi hfree
    have hexec := exec_evictImage_of_free hi hexpands hfree
    refine ⟨fun h => hexec.trans (congrArg Host.Outcome.next (State.evictImageBegin_of_none h)), fun m hm => ⟨fun hbound => ?_, fun hunbound => ?_⟩⟩
    · exact hexec.trans (congrArg Host.Outcome.next (State.evictImageBegin_of_bound hm (by rw [State.imageBound_expanded]; exact hbound)))
    · exact hexec.trans (congrArg Host.Outcome.next (State.evictImageBegin_of_unbound hm (by rw [State.imageBound_expanded]; exact hunbound)))
  case loadEnds =>
    intro isImage object r hrun
    exact ⟨exec_loadComplete_of_lost hrun, exec_loadComplete_of_written hrun⟩
  case relocation =>
    intro object r base mask o hrun hmove hmoved hopen ho
    refine ⟨exec_relocationProceed_of_inUse hrun hmove hmoved hopen, fun huse =>
      ⟨_, exec_relocationProceed_of_unused hrun hmove hmoved hopen ho huse, ?_, rfl, rfl, fun id hid => ?_⟩⟩
    · exact s.obj?_setObj_same object _
    · exact s.obj?_setObj_of_ne _ hid
  case evictEnds =>
    intro object d hrun u
    exact ⟨exec_evictFree_of_inUse hrun, exec_evictFree_of_unused hrun⟩

end Machine
end Sys2Proof
end

section
/-! PROOFS. Error episodes, scrub and location counters (15_integrity.md), and the Vesper card's commands (17_dawn_security_vesper.md). -/

namespace Sys2Proof

@[simp] theorem Counter.loc_bump (k : Counter) (now : U64) : (k.bump now).1.loc = k.loc := rfl

/-- A counter stays at its greatest value (R434). -/
theorem Counter.count_bump (k : Counter) (now : U64) : (k.bump now).1.count.toNat = min 0xFFFFFFFF (k.count.toNat + 1) := by
  simp only [Counter.bump, BitVec.toNat_ofNat]
  omega

namespace Machine

/-! ### What reporting an event moves (R382 to R384, R411) -/

/-- An event reported moves the hosts' memories and the host ports, and what an egress moves: the device's counters, registers, card and boot block stay. -/
def reportOnly (s t : State) : Prop :=
  t = { s with mem := t.mem, ports := t.ports, links := t.links, arbs := t.arbs, fresh := t.fresh, ctxs := t.ctxs, sends := t.sends }

theorem reportOnly_trans {s t u : State} (h : reportOnly s t) (h' : reportOnly t u) : reportOnly s u := by
  unfold reportOnly at *
  rw [h', h]

theorem reportOnly_of_egressOnly {s t : State} (h : egressOnly s t) : reportOnly s t := by
  obtain ⟨hmoved, -⟩ := h
  unfold reportOnly
  rw [hmoved]

section
variable (s : State) (p : HostPort)

theorem State.modPort_reportOnly (f : Port → Port) : reportOnly s (s.modPort p f) := rfl

theorem State.hostWr_reportOnly (a : Nat) (bs : Bytes) : reportOnly s (s.hostWr p a bs) := by
  unfold State.hostWr
  split_ifs <;> rfl

theorem State.sendMsi_reportOnly (v : BitVec 6) : reportOnly s (s.sendMsi p v) := by
  rw [State.sendMsi]
  exact reportOnly_trans (s.hostWr_reportOnly p _ _) (State.modPort_reportOnly _ p _)

theorem State.tryMsi_reportOnly (v : BitVec 6) : reportOnly s (s.tryMsi p v) := by
  unfold State.tryMsi
  dsimp only
  split_ifs
  · rfl
  · rfl
  · exact s.sendMsi_reportOnly p v
  · rfl

theorem State.noteVec_reportOnly (v : BitVec 6) (k : Nat) : reportOnly s (s.noteVec p v k) :=
  reportOnly_trans (s.modPort_reportOnly p _) (State.tryMsi_reportOnly _ p v)

theorem State.attnOn_reportOnly (code : Byte) (detail : Bytes) : reportOnly s (s.attnOn p code detail) := by
  unfold State.attnOn
  dsimp only
  split_ifs
  · rfl
  · exact reportOnly_trans (s.hostWr_reportOnly p _ _) (reportOnly_trans (State.modPort_reportOnly _ p _) (State.noteVec_reportOnly _ p _ 1))

theorem State.devEvent_reportOnly (code : Byte) (detail : Bytes) : reportOnly s (s.devEvent code detail) := by
  have hports : reportOnly s ((s.attnOn 0 code detail).attnOn 1 code detail) :=
    reportOnly_trans (s.attnOn_reportOnly 0 code detail) (State.attnOn_reportOnly _ 1 code detail)
  unfold State.devEvent
  dsimp only
  split_ifs
  · exact reportOnly_trans hports (reportOnly_of_egressOnly (State.sendUpOf_egressOnly _ _ _ _))
  · exact hports
end

theorem State.counters_of_reportOnly {s t : State} (h : reportOnly s t) (correctable : Bool) : t.counters correctable = s.counters correctable := by
  rw [h]
  rfl

/-! ### A count at a location (R430, R432, R434) -/

/-- The entry at a location in a class's entries. -/
def locEntry (ks : List Counter) (l : Location) : Option Counter := ks.find? (fun k => k.loc == l)

theorem countAt_eq (s : State) (correctable : Bool) (l : Location) :
    countAt s correctable l = ((locEntry (s.counters correctable) l).map (fun k => k.count.toNat)).getD 0 := by
  unfold countAt locEntry
  cases (s.counters correctable).find? (fun k => k.loc == l) <;> rfl

theorem locEntry_isSome_iff (ks : List Counter) (l : Location) : (locEntry ks l).isSome = ks.any (fun k => k.loc == l) :=
  List.isSome_find?

theorem locEntry_append_same (ks : List Counter) (k : Counter) {l : Location} (h : locEntry ks l = none) (hk : k.loc = l) :
    locEntry (ks ++ [k]) l = some k := by
  rw [locEntry, List.find?_append, show ks.find? _ = none from h]
  simp [hk]

theorem locEntry_append_of_ne (ks : List Counter) (k : Counter) {l : Location} (hk : k.loc ≠ l) : locEntry (ks ++ [k]) l = locEntry ks l := by
  rw [locEntry, List.find?_append]
  simp [hk, locEntry]

section
variable (l : Location) (t : U32) (now : U64) (ks : List Counter)

/-- A class counts at the entry of the location, where it has one. -/
theorem bumpIn_snd : (bumpIn l t now ks).2 = (locEntry ks l).map (fun k => (k, (k.bump now).2)) := by
  induction ks with
  | nil => rfl
  | cons k ks ih =>
    by_cases hk : k.loc = l
    · simp [bumpIn, locEntry, hk]
    · simpa [bumpIn, locEntry, hk] using ih

theorem locEntry_bumpIn_same : locEntry (bumpIn l t now ks).1 l = (locEntry ks l).map (fun k => (k.bump now).1) := by
  induction ks with
  | nil => rfl
  | cons k ks ih =>
    by_cases hk : k.loc = l
    · simp [bumpIn, locEntry, hk]
    · simpa [bumpIn, locEntry, hk] using ih

theorem locEntry_bumpIn_of_ne {j : Location} (hj : j ≠ l) : locEntry (bumpIn l t now ks).1 j = locEntry ks j := by
  induction ks with
  | nil => rfl
  | cons k ks ih =>
    by_cases hk : k.loc = l
    · simp [bumpIn, locEntry, hk, Ne.symm hj]
    · simp only [locEntry] at ih
      simp [bumpIn, locEntry, hk, List.find?_cons, ih]
end

section
variable (s : State) (correctable : Bool) (l : Location)

@[simp] theorem State.counters_setCounters (ks : List Counter) : (s.setCounters correctable ks).counters correctable = ks := by
  cases correctable <;> rfl

theorem State.counters_thresholdEvent (k : Counter) (b : Bool) : (s.thresholdEvent correctable k).counters b = s.counters b :=
  State.counters_of_reportOnly (s.devEvent_reportOnly _ _) b

/-- A class that holds the location counts there. -/
theorem State.counters_countLoc_of_held (h : (s.counters correctable).any (fun k => k.loc == l) = true) :
    (s.countLoc correctable l).counters correctable = (bumpIn l 0 s.now (s.counters correctable)).1 := by
  obtain ⟨k, hk⟩ := Option.isSome_iff_exists.mp ((locEntry_isSome_iff _ l).trans h)
  have hb : bumpIn l 0 s.now (s.counters correctable) = ((bumpIn l 0 s.now (s.counters correctable)).1, some (k, (k.bump s.now).2)) :=
    Prod.ext rfl (by rw [bumpIn_snd, hk]; rfl)
  unfold State.countLoc
  dsimp only
  rw [hb]
  dsimp only
  split_ifs
  · rw [State.counters_thresholdEvent, State.counters_setCounters]
  · rw [State.counters_setCounters]

/-- A class that does not hold the location, and has room, takes an entry for it, counted once. -/
theorem State.counters_countLoc_of_room (h : (s.counters correctable).any (fun k => k.loc == l) = false)
    (hroom : (s.counters correctable).length < Config.counterRoom) :
    (s.countLoc correctable l).counters correctable =
      s.counters correctable ++ [((Counter.blank l (s.threshold l.kind correctable)).bump s.now).1] := by
  have hnone : locEntry (s.counters correctable) l = none := by
    rw [← Option.not_isSome_iff_eq_none, locEntry_isSome_iff, h]
    exact Bool.false_ne_true
  have hb : bumpIn l 0 s.now (s.counters correctable) = ((bumpIn l 0 s.now (s.counters correctable)).1, none) :=
    Prod.ext rfl (by rw [bumpIn_snd, hnone]; rfl)
  unfold State.countLoc
  dsimp only
  rw [hb]
  dsimp only
  rw [if_pos hroom]
  split_ifs
  · rw [State.counters_thresholdEvent, State.counters_setCounters]
  · rw [State.counters_setCounters]

/-- A count raises the location's counter by one, up to the greatest, and no other (R434). -/
theorem countAt_countLoc (h : (s.counters correctable).any (fun k => k.loc == l) = true ∨ (s.counters correctable).length < Config.counterRoom) :
    countAt (s.countLoc correctable l) correctable l = min 0xFFFFFFFF (countAt s correctable l + 1) ∧
      ∀ j, j ≠ l → countAt (s.countLoc correctable l) correctable j = countAt s correctable j := by
  simp only [countAt_eq]
  cases hheld : (s.counters correctable).any (fun k => k.loc == l) with
  | true =>
    obtain ⟨k, hk⟩ := Option.isSome_iff_exists.mp ((locEntry_isSome_iff _ l).trans hheld)
    rw [s.counters_countLoc_of_held correctable l hheld]
    refine ⟨?_, fun j hj => by rw [locEntry_bumpIn_of_ne _ _ _ _ hj]⟩
    rw [locEntry_bumpIn_same, hk]
    exact k.count_bump s.now
  | false =>
    have hnone : locEntry (s.counters correctable) l = none := by
      rw [← Option.not_isSome_iff_eq_none, locEntry_isSome_iff, hheld]
      exact Bool.false_ne_true
    rw [s.counters_countLoc_of_room correctable l hheld (h.resolve_left (by simp [hheld]))]
    refine ⟨?_, fun j hj => ?_⟩
    · rw [locEntry_append_same _ _ hnone rfl, hnone]
      exact Counter.count_bump _ s.now
    · rw [locEntry_append_of_ne _ _ (Ne.symm hj)]
end

/-! ### REPLAY_OUTCOME (R320 to R325, R428 to R431) -/

section
variable {s : State} {ep : Episode}

theorem exec_replayOutcome_of_corrected (h : ep.what = .corrected) : exec (.replayOutcome ep) s = .next (s.countLoc true ep.loc) :=
  congrArg Host.Outcome.next (if_pos h)

theorem State.what_of_alreadyPoisoned (h : s.alreadyPoisoned ep = true) : ep.what = .uncorrectableRead := by
  rw [State.alreadyPoisoned, Bool.and_eq_true, decide_eq_true_eq] at h
  obtain ⟨hwhat, -⟩ := h
  exact hwhat

theorem exec_replayOutcome_of_alreadyPoisoned (h : s.alreadyPoisoned ep = true) : exec (.replayOutcome ep) s = .next (s.readFails ep).2 := by
  have hwhat : ep.what ≠ .corrected := by rw [State.what_of_alreadyPoisoned h]; decide
  exact congrArg Host.Outcome.next ((if_neg hwhat).trans (if_pos h))

section
variable (hwhat : ep.what ≠ .corrected) (hfirst : s.alreadyPoisoned ep = false)
include hwhat hfirst

theorem exec_replayOutcome_of_passed (hpass : ep.passed = true) (hone : ep.loc2 = none) :
    exec (.replayOutcome ep) s = .next ((s.replayPasses ep).countLoc false ep.loc) :=
  congrArg Host.Outcome.next (((if_neg hwhat).trans (if_neg (by simp [hfirst]))).trans (if_pos (by simp [hpass, hone])))

/-- The state that a failed episode is counted in: the parcels of an uncorrectable read are poisoned first (R324). -/
def State.struck (s : State) (ep : Episode) : State :=
  if ep.what = .uncorrectableRead then s.poison ep.isImage ep.object ep.offset.toNat ep.length.toNat else s

theorem exec_replayOutcome_of_failed (hfail : (ep.passed && ep.loc2.isNone) = false) : exec (.replayOutcome ep) s = .next (
    (match ep.loc2 with
      | none => ((s.struck ep).replayFails ep).countLoc false ep.loc
      | some l => (((s.struck ep).replayFails ep).countLoc false ep.loc).countLoc false l).episodeEvent ep ((s.struck ep).readFails ep).1) :=
  congrArg Host.Outcome.next (((if_neg hwhat).trans (if_neg (by simp [hfirst]))).trans (if_neg (by simp [hfail])))
end
end

/-! ### SCRUB_READ (R320, R322, R323, R359) -/

/-- Scrub runs: on a device with its registers set, not at device Dusk, in a tier whose interval is not 0, and not in an object of a merge (R322, R359). -/
def State.scrubRuns (s : State) (tier : BitVec 2) (object : Option U32) (isImage : Bool) : Prop :=
  3 ≤ s.boot.state.toNat ∧ s.power.duskState = 0 ∧ tier ≠ 3 ∧ s.scrubOff tier = false ∧ (isImage = false → ∀ id, object = some id → s.scrubSkips id = false)

section
variable {s : State} {tier : BitVec 2} {object : Option U32} {isImage : Bool}

theorem State.scrubRuns_iff : s.scrubRuns tier object isImage ↔
    (decide (s.boot.state.toNat < 3) || s.power.duskState != 0 || tier == 3 || s.scrubOff tier ||
      (!isImage && (match object with | none => false | some id => s.scrubSkips id))) = false := by
  cases isImage <;> cases object <;> simp [State.scrubRuns, and_assoc]

theorem exec_scrubRead_of_not_runs (h : ¬ s.scrubRuns tier object isImage) (off : U64) (found : ScrubFind) (l : Location) :
    exec (.scrubRead tier object isImage off found l) s = .next s := by
  rw [State.scrubRuns_iff, Bool.not_eq_false] at h
  exact congrArg Host.Outcome.next (if_pos h)

theorem exec_scrubRead_of_runs (h : s.scrubRuns tier object isImage) (off : U64) (found : ScrubFind) (l : Location) :
    exec (.scrubRead tier object isImage off found l) s = .next (match found with
      | .clean => s.scrubOn tier
      | .corrected => (s.scrubOn tier).countLoc true l
      | .uncorrectable => (s.scrubOn tier).scrubFinds tier object isImage off.toNat l) := by
  rw [State.scrubRuns_iff] at h
  exact congrArg Host.Outcome.next (if_neg (Bool.eq_false_iff.mp h))
end

/-- Scrub moves on by one code word, and from a tier's end to its start (log 93). -/
theorem State.scrubPos_scrubOn (s : State) (tier : BitVec 2) : (((s.scrubOn tier).scrubPos).getD tier.toNat 0).toNat =
    ((s.scrubPos.getD tier.toNat 0).toNat + State.scrubWord tier) % State.tierBytes tier := by
  obtain ⟨hpos, hmax⟩ : 0 < State.tierBytes tier ∧ State.tierBytes tier ≤ 2 ^ 64 := by
    unfold State.tierBytes mib
    split_ifs <;> decide
  simp only [State.scrubOn, Tab.getD_set_same, BitVec.toNat_ofNat]
  exact Nat.mod_eq_of_lt ((Nat.mod_lt _ hpos).trans_le hmax)

/-! ### Retention checkpoints (R356, R471, R475) -/

section
variable {s : State}

theorem State.requestCkpt_of_idle (h : s.vesper.running = none) : s.requestCkpt = s.startCkpt := by
  simp only [State.requestCkpt, h]

theorem State.requestCkpt_of_running (h : s.vesper.running.isSome = true) :
    s.requestCkpt = { s with vesper := { s.vesper with next := true } } := by
  obtain ⟨k, hk⟩ := Option.isSome_iff_exists.mp h
  simp only [State.requestCkpt, hk]

theorem exec_checkpointTimer_of_on (hstate : 3 ≤ s.boot.state.toNat) (hint : s.vesper.interval ≠ 0) : exec .checkpointTimer s = .next s.requestCkpt :=
  congrArg Host.Outcome.next (if_neg (not_or.mpr ⟨Nat.not_lt.mpr hstate, hint⟩))

theorem exec_checkpointTimer_of_off (h : s.boot.state.toNat < 3 ∨ s.vesper.interval = 0) : exec .checkpointTimer s = .next s :=
  congrArg Host.Outcome.next (if_pos h)

theorem exec_checkpointWritten_of_idle (h : s.vesper.running = none) (ok : Bool) (bad : List Nat) : exec (.checkpointWritten ok bad) s = .next s := by
  refine congrArg Host.Outcome.next ?_
  rw [h]

theorem exec_checkpointWritten_of_running {k : Ckpt} (h : s.vesper.running = some k) (ok : Bool) (bad : List Nat) :
    exec (.checkpointWritten ok bad) s =
      .next (if ok = true then (s.retire bad k.seq.toNat).ckptWritten k bad else (s.retire bad k.seq.toNat).ckptFailed k 6) := by
  refine congrArg Host.Outcome.next ?_
  rw [h]
end

/-! ### The card's wipe (R470, R476) -/

/-- The card's status, sequence and contents, the boot block and the registers stay. -/
def cardKept (s t : State) : Prop :=
  t.vesper.card = s.vesper.card ∧ t.vesper.seq = s.vesper.seq ∧ t.vesper.socket = s.vesper.socket ∧ t.boot = s.boot ∧ t.regs = s.regs

theorem cardKept_trans {s t u : State} (h : cardKept s t) (h' : cardKept t u) : cardKept s u := by
  obtain ⟨hcard, hseq, hsocket, hboot, hregs⟩ := h
  obtain ⟨hcard', hseq', hsocket', hboot', hregs'⟩ := h'
  exact ⟨hcard'.trans hcard, hseq'.trans hseq, hsocket'.trans hsocket, hboot'.trans hboot, hregs'.trans hregs⟩

theorem cardKept_of_reportOnly {s t : State} (h : reportOnly s t) : cardKept s t := by
  rw [h]
  exact ⟨rfl, rfl, rfl, rfl, rfl⟩

theorem State.eraseBlocks_cardKept (s : State) (ks : List Nat) : cardKept s (s.eraseBlocks ks) := ⟨rfl, rfl, rfl, rfl, rfl⟩

theorem State.refreshLife_cardKept (s : State) : cardKept s s.refreshLife := by
  unfold State.refreshLife
  dsimp only
  split_ifs <;> exact ⟨rfl, rfl, rfl, rfl, rfl⟩

theorem State.warnLife_cardKept (s : State) : cardKept s s.warnLife := by
  unfold State.warnLife
  dsimp only
  split_ifs
  · exact cardKept_trans (t := { s with vesper := { s.vesper with lastWarn := s.vesper.remaining.toNat / 100 + 1 } }) ⟨rfl, rfl, rfl, rfl, rfl⟩
      (cardKept_of_reportOnly (State.devEvent_reportOnly _ _ _))
  · exact ⟨rfl, rfl, rfl, rfl, rfl⟩

theorem exec_cardWipe_of_owner {s : State} {p : HostPort} (h : s.ownerMay p = true) : exec (.cardWipe p) s = .next s.wipeCard :=
  congrArg Host.Outcome.next (if_pos h)

/-- A card with no checkpoint on it, before its blocks are erased (log 49). -/
def State.blankCard (s : State) : State :=
  { s with vesper := { s.vesper with card := 2, seq := 0, wear := if s.tableInForce then s.vesper.wear else [],
                                     socket := { s.vesper.socket with ckpts := [] } } }

theorem State.wipeCard_of_genuine {s : State} (habsent : s.vesper.card ≠ 0) (hforeign : s.vesper.card ≠ 1) :
    s.wipeCard = ((s.blankCard.eraseBlocks s.blankCard.goodBlocks).refreshLife).warnLife :=
  if_neg (not_or.mpr ⟨habsent, hforeign⟩)

/-- Erasing the blank card's blocks leaves it blank. -/
theorem State.wipeCard_cardKept {s : State} (habsent : s.vesper.card ≠ 0) (hforeign : s.vesper.card ≠ 1) : cardKept s.blankCard s.wipeCard := by
  rw [State.wipeCard_of_genuine habsent hforeign]
  exact cardKept_trans (cardKept_trans (s.blankCard.eraseBlocks_cardKept _) (State.refreshLife_cardKept _)) (State.warnLife_cardKept _)

/-! ### Certificates (R468) -/

section
variable {s : State} {p : HostPort} (hown : s.ownerMay p = true)
include hown

theorem exec_certload_of_bad (h : bundleOk s.boot.idKey (s.hostRd p s.vesper.certAddr.toNat s.vesper.certLen.toNat) = false) :
    exec (.certload p) s = .next { s with vesper := { s.vesper with cert := 2 } } :=
  congrArg Host.Outcome.next ((if_pos hown).trans (if_neg (Bool.eq_false_iff.mp h)))

theorem exec_certload_of_good (h : bundleOk s.boot.idKey (s.hostRd p s.vesper.certAddr.toNat s.vesper.certLen.toNat) = true) :
    exec (.certload p) s = .next ((({ s with vesper := { s.vesper with
      bundle := s.hostRd p s.vesper.certAddr.toNat s.vesper.certLen.toNat, cert := 1 } } : State).measure 4 0 0 0
        (shake256 (s.hostRd p s.vesper.certAddr.toNat s.vesper.certLen.toNat) 64)).requestCkpt) :=
  congrArg Host.Outcome.next ((if_pos hown).trans (if_pos h))
end

/-! ### The commands -/

/-- Settles O38: a count has its equation; an episode is corrected, poisoned already, passed or failed; the other commands make one test of the state each. -/
theorem integrityAndCardCommandsComplete : Obligations.IntegrityAndCardCommandsComplete := by
  refine ⟨fun s => ⟨fun b l => countAt_countLoc s b l, fun ep => exec_replayOutcome_of_corrected, fun ep => exec_replayOutcome_of_alreadyPoisoned,
    fun ep hwhat hfirst => ⟨exec_replayOutcome_of_passed hwhat hfirst, ?failed⟩, ?scrub⟩, fun s p => ⟨?timer, exec_checkpointTimer_of_off, ?idle, ?written,
    ?notOwner, ?owner⟩⟩
  case failed =>
    intro u counted
    refine ⟨fun hfail hone => ?_, fun l htwo => ?_⟩
    · rw [exec_replayOutcome_of_failed hwhat hfirst (by simp [hfail]), hone]
      rfl
    · rw [exec_replayOutcome_of_failed hwhat hfirst (by simp [htwo]), htwo]
      rfl
  case scrub =>
    intro tier object isImage off found l runs u
    exact ⟨fun h => exec_scrubRead_of_not_runs h off found l, fun h => ⟨exec_scrubRead_of_runs h off .clean l, exec_scrubRead_of_runs h off .corrected l,
      exec_scrubRead_of_runs h off .uncorrectable l, s.scrubPos_scrubOn tier⟩⟩
  case timer =>
    intro hstate hint
    rw [exec_checkpointTimer_of_on hstate hint]
    exact ⟨fun h => congrArg Host.Outcome.next (State.requestCkpt_of_idle h), fun h => congrArg Host.Outcome.next (State.requestCkpt_of_running h)⟩
  case idle => exact fun ok bad h => exec_checkpointWritten_of_idle h ok bad
  case written =>
    intro k bad h
    exact ⟨by rw [exec_checkpointWritten_of_running h, if_pos rfl], by rw [exec_checkpointWritten_of_running h, if_neg Bool.false_ne_true]⟩
  case notOwner =>
    exact fun h => ⟨congrArg Host.Outcome.next (if_neg (Bool.eq_false_iff.mp h)), congrArg Host.Outcome.next (if_neg (Bool.eq_false_iff.mp h))⟩
  case owner =>
    intro hown b
    refine ⟨exec_certload_of_bad hown, exec_certload_of_good hown, fun hcard => ?_, fun habsent hforeign => ?_⟩
    · exact (exec_cardWipe_of_owner hown).trans (congrArg Host.Outcome.next (if_pos hcard))
    · obtain ⟨hcard, hseq, hsocket, hboot, hregs⟩ := State.wipeCard_cardKept habsent hforeign
      exact ⟨_, exec_cardWipe_of_owner hown, hcard, hseq, congrArg Socket.ckpts hsocket, hboot, hregs⟩

end Machine
end Sys2Proof
end

section
/-! PROOFS. Sync counters and locks (12_sharing_and_preemption.md): what SIGNAL, ACQUIRE and RELEASE do to a counter's word and to the contexts that wait on it. -/

namespace Sys2Proof.Machine

/-! ### Waiters tested again (R347) -/

/-- A context whose sequencers' WAITs on a counter are tested again, if it runs (R347). -/
def Ctx.retested (x : Ctx) (k : Nat) (w : U32) (now : U64) : Ctx := if x.active then x.modSeqs (fun v => v.retest k w now) else x

theorem Seq.retest_of_running {v : Seq} (h : v.status = .running) (k : Nat) (w : U32) (now : U64) : v.retest k w now = v := by
  simp [Seq.retest, h]

theorem Ctx.seq_retested_of_running {x : Ctx} {q : SeqId} (h : (x.seq q).status = .running) (k : Nat) (w : U32) (now : U64) :
    (x.retested k w now).seq q = x.seq q := by
  unfold Ctx.retested
  split
  · rw [Ctx.seq_modSeqs, Seq.retest_of_running h]
  · rfl

theorem State.ctx_retest (s : State) (k : Nat) (c : CtxId) : (s.retest k).ctx c = (s.ctx c).retested k (s.counter k) s.now := by
  have hmap : (s.retest k).ctxs = s.ctxs.map (fun e => (e.1, e.2.retested k (s.counter k) s.now)) := by
    refine List.map_congr_left fun e _ => ?_
    by_cases ha : e.2.active <;> simp [Ctx.retested, ha]
  rw [State.ctx, State.ctx, Tab.getD, Tab.getD, hmap, Tab.get?_mapVal s.ctxs (fun _ x => x.retested k (s.counter k) s.now)]
  cases s.ctxs.get? c.toNat with
  | none => rfl
  | some x => rfl

@[simp] theorem State.counter_retest (s : State) (k j : Nat) : (s.retest k).counter j = s.counter j := rfl

@[simp] theorem State.counter_inherit (s : State) (j : Nat) : s.inherit.counter j = s.counter j := by
  rw [State.counter, State.sync_inherit, State.counter]

@[simp] theorem State.seq_inherit (s : State) (c : CtxId) (q : SeqId) : (s.inherit.ctx c).seq q = (s.ctx c).seq q := by
  obtain ⟨r, b, e, h⟩ := s.ctx_inherit c
  rw [h]
  rfl

/-- A sequencer that goes on at the next word, its counter written and the WAITs on it tested again, has gone on by one word. -/
theorem State.pos_retest_nextSeq (s : State) (c : CtxId) (q : SeqId) (k : Nat) (w : U32) :
    (((((s.nextSeq c q).setCounter k w).retest k).ctx c).seq q).pos = ((s.ctx c).seq q).pos + 1 := by
  have hseq : (((s.nextSeq c q).setCounter k w).ctx c).seq q = ((s.ctx c).seq q).next := s.seq_modSeq_same c q Seq.next
  rw [State.ctx_retest, Ctx.seq_retested_of_running (by rw [hseq]; rfl), hseq]
  rfl

/-! ### SIGNAL (R346) -/

theorem satAdd_ne_zero (w : U32) {n : Nat} (h : n ≠ 0) : satAdd w n ≠ 0 := by
  intro hzero
  have hnat : min 0x7FFFFFFF (w.toNat + n) % 2 ^ 32 = 0 := (BitVec.toNat_ofNat _ _).symm.trans (congrArg BitVec.toNat hzero)
  omega

section
variable {s : State} {c : CtxId} {q : SeqId} {k : U16}

section
variable {inc : U32} (h : seqReady s c q (s.seqAt c q == State.seqWord 0x03 k.toNat inc.toNat) = true) (hwin : (s.ctx c).inWindow k.toNat = true)
  (hinc : inc ≠ 0)
include h hwin hinc

theorem exec_signal_of_lock (hlock : isLock (s.counter k.toNat) = true) : exec (.signal c q k inc) s = .next (s.faultCtx c) := by
  rw [exec_of_seqReady (f := _) rfl h]
  exact congrArg _ ((if_neg (by simpa [hwin] using hinc)).trans (if_pos hlock))

theorem exec_signal_of_count (hlock : isLock (s.counter k.toNat) = false) : exec (.signal c q k inc) s =
    .next (((s.nextSeq c q).setCounter k.toNat (satAdd (s.counter k.toNat) inc.toNat)).retest k.toNat) := by
  have hpos : inc.toNat ≠ 0 := fun e => hinc (BitVec.eq_of_toNat_eq e)
  rw [exec_of_seqReady (f := _) rfl h]
  exact congrArg _ ((if_neg (by simpa [hwin] using hinc)).trans ((if_neg (by simp [hlock])).trans (State.store_eq (satAdd_ne_zero _ hpos))))
end

/-! ### ACQUIRE (R346, R355) -/

theorem lockWord_ne_zero (c : CtxId) (q : SeqId) : lockWord c q ≠ 0 := by
  intro hzero
  have hnat : (0x80000000 + 16 * c.toNat + q.num) % 2 ^ 32 = 0 := (BitVec.toNat_ofNat _ _).symm.trans (congrArg BitVec.toNat hzero)
  have hq : q.num < 16 := by cases q <;> decide
  omega

/-- The holder of a lock word is FAULTED or DRAINED (R355). -/
def State.holderGone (s : State) (w : U32) : Prop := (s.ctx (lockCtx w)).state = .faulted ∨ (s.ctx (lockCtx w)).state = .drained

section
variable (h : seqReady s c q (s.seqAt c q == State.seqWord 0x05 k.toNat 0) = true) (hwin : (s.ctx c).inWindow k.toNat = true)
include h hwin

theorem exec_acquire_of_free (hfree : s.counter k.toNat = 0) :
    exec (.acquire c q k) s = .next ((s.nextSeq c q).setCounter k.toNat (lockWord c q)) := by
  rw [exec_of_seqReady (f := _) rfl h]
  exact congrArg _ ((if_neg (by simp [hwin])).trans (if_pos hfree))

theorem exec_acquire_of_own (hown : s.counter k.toNat = lockWord c q) : exec (.acquire c q k) s = .next (s.faultCtx c) := by
  rw [exec_of_seqReady (f := _) rfl h]
  exact congrArg _ ((if_neg (by simp [hwin])).trans ((if_neg (hown ▸ lockWord_ne_zero c q)).trans (if_pos hown)))

variable (hfree : s.counter k.toNat ≠ 0) (hown : s.counter k.toNat ≠ lockWord c q)
include hfree hown

theorem exec_acquire_of_gone (hlock : isLock (s.counter k.toNat) = true) (hgone : s.holderGone (s.counter k.toNat)) :
    exec (.acquire c q k) s = .next (s.stopStep c .inheritTimeout) := by
  rw [exec_of_seqReady (f := _) rfl h]
  exact congrArg _ ((if_neg (by simp [hwin])).trans ((if_neg hfree).trans ((if_neg hown).trans (if_pos (by simpa [hlock, State.holderGone] using hgone)))))

theorem exec_acquire_of_held (hheld : ¬ (isLock (s.counter k.toNat) = true ∧ s.holderGone (s.counter k.toNat))) :
    exec (.acquire c q k) s = .next (s.waitSeq c q (.lock k)).inherit := by
  rw [exec_of_seqReady (f := _) rfl h]
  exact congrArg _ ((if_neg (by simp [hwin])).trans ((if_neg hfree).trans ((if_neg hown).trans (if_neg (by simpa [State.holderGone] using hheld)))))
end

/-! ### RELEASE (R346, R347, R355) -/

/-- A lock that nobody waits for becomes 0 when it is given up (R347). -/
theorem State.handOver_of_no_waiters {k : Nat} (h : s.lockWaiters k = []) : s.handOver k = ((s.setCounter k 0).retest k).inherit := by
  simp only [State.handOver, h, List.map_nil, State.arbitrate_nil]

section
variable (h : seqReady s c q (s.seqAt c q == State.seqWord 0x06 k.toNat 0) = true) (hwin : (s.ctx c).inWindow k.toNat = true)
include h hwin

theorem exec_release_of_other (hother : ¬ (isLock (s.counter k.toNat) = true ∧ lockCtx (s.counter k.toNat) = c)) :
    exec (.release c q k) s = .next (s.faultCtx c) := by
  rw [exec_of_seqReady (f := _) rfl h]
  simp [hwin, hother]

/-- A lock of the caller's context is handed over; what its context's episode changes then moves no sequencer. -/
theorem exec_release_of_mine (hlock : isLock (s.counter k.toNat) = true) (hmine : lockCtx (s.counter k.toNat) = c) :
    ∃ f : Ctx → Ctx, (∀ x, (f x).seqs = x.seqs) ∧
      exec (.release c q k) s = .next (((s.nextSeq c q).handOver k.toNat).modCtx c f) := by
  have hexec := exec_of_seqReady (i := .release c q k) (f := _) rfl h
  simp only [hwin, hlock, hmine, Bool.not_true, Bool.false_eq_true, if_false, decide_true, Bool.and_self, if_true] at hexec
  refine ⟨_, fun x => ?_, hexec⟩
  split
  · rfl
  · split <;> rfl
end
end

/-! ### The instructions on counters -/

/-- Settles O13: the sum is not 0, so that storing it only tests the waiters of its counter again. -/
theorem signalAddsToCount : Obligations.SignalAddsToCount := by
  intro s c q k inc h hwin hinc
  refine ⟨exec_signal_of_lock h hwin hinc, fun hlock => ⟨_, exec_signal_of_count h hwin hinc hlock, ?_, fun j hj => ?_, rfl, State.pos_retest_nextSeq ..⟩⟩
  · rw [State.counter_retest, State.counter_setCounter_same]
    rfl
  · rw [State.counter_retest, State.counter_setCounter_of_ne _ _ hj]
    rfl

/-- Settles O14: an ACQUIRE writes the counter or waits, and inheritance moves no sequencer; a RELEASE without waiters writes 0 and tests the WAITs on it. -/
theorem locksTakenAndReleased : Obligations.LocksTakenAndReleased := by
  intro s c q k hwin w
  refine ⟨fun h => ⟨fun hfree => ?_, exec_acquire_of_own h hwin, exec_acquire_of_gone h hwin, fun hfree hown hheld => ?_⟩,
    fun h => ⟨fun hlock hmine hnone => ?_, exec_release_of_other h hwin⟩⟩
  · exact ⟨_, exec_acquire_of_free h hwin hfree, State.counter_setCounter_same .., fun j hj => State.counter_setCounter_of_ne _ _ hj,
      goesTo_nextSeq (s := { s with sync := ((s.nextSeq c q).setCounter k.toNat (lockWord c q)).sync })⟩
  · refine ⟨_, exec_acquire_of_held h hwin hfree hown hheld, ?_, State.sync_inherit _⟩
    rw [State.seq_inherit]
    exact congrArg Seq.status (s.seq_modSeq_same c q _)
  · obtain ⟨f, hf, hexec⟩ := exec_release_of_mine h hwin hlock hmine
    rw [State.handOver_of_no_waiters hnone] at hexec
    refine ⟨_, hexec, ?_, fun j hj => ?_, ?_, State.mem_inherit _⟩
    · exact (State.counter_inherit _ _).trans (State.counter_setCounter_same (s.nextSeq c q) k.toNat 0)
    · exact (State.counter_inherit _ _).trans (State.counter_setCounter_of_ne (s.nextSeq c q) 0 hj)
    · have hseq : ∀ x, (f x).seq q = x.seq q := fun x => by rw [Ctx.seq, hf]; rfl
      rw [State.ctx_modCtx_same, hseq, State.seq_inherit, State.pos_retest_nextSeq]

end Sys2Proof.Machine
end

section
/-! PROOFS. A context's registers (12_sharing_and_preemption.md): CTX.CONTROL's clear and dusk, the grace that a Dusk gives a step, and CTX.CQ. -/

namespace Sys2Proof.Machine

/-! ### GRACE_EXPIRY (R452) -/

section
variable {s : State} {c : CtxId}

theorem exec_graceExpiry_of_run {r : StepRun} (hdrain : (s.ctx c).draining = true) (hready : (s.ctx c).state = .ready)
    (hsusp : (s.ctx c).suspending = false) (hrun : (s.ctx c).run = some r) :
    exec (.graceExpiry c) s = .next (if r.passed = true then s else s.beginSuspend c) := by
  have hguard : (!(s.ctx c).draining || (s.ctx c).state != .ready || (s.ctx c).suspending) = false := by simp [hdrain, hready, hsusp]
  simp only [exec, execGraceExpiry, hguard, hrun, Bool.false_eq_true, if_false]

/-! ### Clear (R331, R492) -/

theorem State.drainOn_of_not_draining (h : (s.ctx c).draining = false) : s.drainOn c = s := if_neg (Bool.eq_false_iff.mp h)

theorem State.clearFault_of_faulted (hfault : (s.ctx c).state = .faulted) (hdrain : (s.ctx c).draining = false) :
    s.clearFault c = s.modCtx c (fun x => { x with state := .ready, suspending := x.suspendReq }) :=
  (if_pos hfault).trans (State.drainOn_of_not_draining (by rw [State.ctx_modCtx_same]; exact hdrain))

/-! ### CTX.CQ (R371, R491) -/

/-- A context whose completion ring is set up: its counts start afresh (R371). -/
def Ctx.withCq (x : Ctx) (v : Nat) : Ctx :=
  { x with cq := State.ringOf v, fetchedN := [], tail := [], writtenT := 0, cqHead := 0, irqLast := none }

/-- A context re-initialized from DRAINED: IDLE, and nothing of it outstanding (R331, R491). -/
def Ctx.reinit (x : Ctx) : Ctx := { x with state := .idle, waiting := [], outstanding := [], reserved := 0, steps := [] }

theorem State.ringsMay_iff : s.ringsMay c = true ↔ (s.ctx c).state = .idle ∨ ((s.ctx c).state = .drained ∧ s.power.duskState ≠ 1) := by
  simp [State.ringsMay]

theorem State.not_ringsMay (h : (s.ctx c).state = .ready ∨ (s.ctx c).state = .suspended ∨ (s.ctx c).state = .faulted) : s.ringsMay c = false := by
  rcases h with h | h | h <;> simp [State.ringsMay, h]

variable {v : Nat}

theorem State.writeCq_of_not_may (h : s.ringsMay c = false) : s.writeCq c v = s := if_pos (by simp [h])

theorem State.writeCq_of_idle (hring : State.ringOk v false = true) (hidle : (s.ctx c).state = .idle) :
    s.writeCq c v = s.modCtx c (fun x => x.withCq v) := by
  have hmay : s.ringsMay c = true := State.ringsMay_iff.mpr (.inl hidle)
  exact (if_neg (by simp [hmay, hring])).trans (if_neg (by simp [hidle]))

theorem State.writeCq_of_drained (hring : State.ringOk v false = true) (hdrained : (s.ctx c).state = .drained) (hdusk : s.power.duskState ≠ 1) :
    s.writeCq c v = (((s.modCtx c (fun x => x.withCq v)).unbind c).modCtx c Ctx.reinit).dropUnnamed := by
  have hmay : s.ringsMay c = true := State.ringsMay_iff.mpr (.inr ⟨hdrained, hdusk⟩)
  exact (if_neg (by simp [hmay, hring])).trans (if_pos hdrained)
end

/-! ### The context register commands -/

/-- Settles O46: each command makes one test of the context's state; what lets an image go moves of its context the image alone. -/
theorem contextRegisterCommands : Obligations.ContextRegisterCommands := by
  intro s p c x
  refine ⟨fun hdrain hready hsusp r hrun => exec_graceExpiry_of_run hdrain hready hsusp hrun, fun hmay => ?_⟩
  have hclear : exec (.ctxClear p c) s = .next (s.clearFault c) := congrArg Host.Outcome.next (if_pos hmay)
  have hdusk : exec (.ctxDusk p c) s = .next (s.beginDusk c) := congrArg Host.Outcome.next (if_pos hmay)
  have hcq : ∀ v, exec (.cqWrite p c v) s = .next (s.writeCq c v.toNat) := fun v => congrArg Host.Outcome.next (if_pos hmay)
  refine ⟨fun hfault hdrain => ?_, fun hfault => hclear.trans (congrArg _ (if_neg hfault)), fun hstate hdrain => ?_, fun hstate => ?_,
    fun v hring => ⟨fun hidle => ?_, fun hdrained hdev => ?_, fun hstate => ?_⟩⟩
  · rw [hclear, State.clearFault_of_faulted hfault hdrain]
    exact ⟨_, rfl, ctxOnly_modCtx _ _ _, State.ctx_modCtx_same _ _ _⟩
  · exact hdusk.trans (congrArg _ (if_pos ⟨hstate, by simp [show (s.ctx c).draining = false from hdrain]⟩))
  · exact hdusk.trans (congrArg _ (if_neg fun ⟨hgoes, _⟩ => by rcases hstate with h | h <;> simp [show (s.ctx c).state = _ from h] at hgoes))
  · rw [hcq, State.writeCq_of_idle hring hidle]
    exact ⟨_, rfl, ctxOnly_modCtx _ _ _, State.ctx_modCtx_same _ _ _⟩
  · rw [hcq, State.writeCq_of_drained hring hdrained hdev]
    refine ⟨_, rfl, ?_⟩
    rw [(ctxsKept_dropUnnamed _).ctx, State.ctx_modCtx_same, State.ctx_unbind, State.ctx_modCtx_same]
    rfl
  · rw [hcq, State.writeCq_of_not_may (State.not_ringsMay hstate)]

end Sys2Proof.Machine
end

section
/-! PROOFS. The direct descriptors (01_architecture.md, 12_sharing_and_preemption.md): SYNC, FENCE, TEST, STATS and ATTEST, and the opcodes that R378 does not list. -/

namespace Sys2Proof.Machine

/-! ### What an expanded descriptor leaves as it was -/

section
variable (s : State) (d : Desc)

@[simp] theorem State.counter_expanded (k : Nat) : (expanded s d).counter k = s.counter k := rfl
@[simp] theorem State.owner?_expanded : (expanded s d).owner? = s.owner? := rfl
@[simp] theorem State.reportSize_expanded : (expanded s d).reportSize = s.reportSize := rfl

@[simp] theorem State.inWindow_expanded (k : Nat) : ((expanded s d).ctx d.ctx).inWindow k = (s.ctx d.ctx).inWindow k := by
  rw [State.ctx_expanded]
  rfl

@[simp] theorem State.port_expanded : ((expanded s d).ctx d.ctx).port = (s.ctx d.ctx).port := by
  rw [State.ctx_expanded]
  rfl

@[simp] theorem State.ctxState_expanded (c : CtxId) : ((expanded s d).ctx c).state = (s.ctx c).state := by
  by_cases hc : c = d.ctx
  · rw [hc, State.ctx_expanded]
    rfl
  · obtain ⟨-, hctx⟩ := ctxOnly_expanded s d
    rw [hctx c hc]
end

/-! ### An opcode that R378 does not list -/

section
variable {s : State} {d : Desc}

theorem headerOk_of_unlisted (h : descOp d = 0 ∨ 0x18 ≤ descOp d) : headerOk d = false := by
  rw [Bool.eq_false_iff]
  intro hok
  simp only [headerOk, Bool.and_eq_true, decide_eq_true_eq] at hok
  omega

theorem exec_unknownOpcode_of_admits (hi : carries (.unknownOpcode d) = some d) (h : admits s d = true) (hcrc : descCrcOk d.bytes = true) :
    exec (.unknownOpcode d) s = .next ((expanded s d).completeUnsignalled d (Done.of .protocol 0)) := by
  have hop : descOp d = 0 ∨ 0x18 ≤ descOp d := by simpa [carries, or_iff_not_imp_left] using hi
  rw [exec_of_carries hi, State.arrive_badHeader h hcrc (by rw [headerOk_of_unlisted hop, Bool.false_and])]

/-! ### The opcodes' effects -/

theorem State.descEffect_of_fence (s : State) (h : descOp d = 0x14) : s.descEffect d = s.fenceDone d.ctx := by
  simp only [State.descEffect, h]

theorem State.descEffect_of_sync (s : State) (h : descOp d = 0x0F) : s.descEffect d = s.syncDesc d := by
  simp only [State.descEffect, h]

theorem State.descEffect_of_test (s : State) (h : descOp d = 0x17) : s.descEffect d = s.testDesc d := by
  simp only [State.descEffect, h]

theorem State.descEffect_of_stats (s : State) (h : descOp d = 0x10) : s.descEffect d = s.stats d := by
  simp only [State.descEffect, h]

theorem State.descEffect_of_attest (s : State) (h : descOp d = 0x15) : s.descEffect d = s.attest d := by
  simp only [State.descEffect, h]

/-! ### FENCE (R348) -/

theorem no_fence_of_expandsNow (h : expandsNow s d = true) : (s.ctx d.ctx).outstanding.any (fun e => isFence e.1) = false := by
  simp only [expandsNow, Bool.and_eq_true] at h
  obtain ⟨⟨⟨⟨⟨hadmits, -⟩, -⟩, -⟩, -⟩, -⟩ := h
  obtain ⟨-, -, hmay⟩ := admits_iff.mp hadmits
  obtain ⟨-, hfence, -⟩ := Ctx.mayExpand_iff.mp hmay
  exact hfence

/-- An expanded FENCE completes at once when nothing was outstanding before it; else what is at the head is no FENCE, and holds it up. -/
theorem State.fenceDone_expanded (hop : descOp d = 0x14) (hnone : (s.ctx d.ctx).outstanding.any (fun e => isFence e.1) = false) :
    (expanded s d).fenceDone d.ctx =
      if (s.ctx d.ctx).outstanding.isEmpty then (expanded s d).completeOne d (Done.of .ok 0) true else expanded s d := by
  have hout : ((expanded s d).ctx d.ctx).outstanding = (s.ctx d.ctx).outstanding ++ [(d, false)] := by rw [State.ctx_expanded]; rfl
  rw [State.fenceDone, hout]
  cases hold : (s.ctx d.ctx).outstanding with
  | nil => simp [isFence, hop]
  | cons f rest =>
    rw [hold, List.any_cons, Bool.or_eq_false_iff] at hnone
    obtain ⟨hf, -⟩ := hnone
    simp [hf]

/-! ### SYNC (R346) -/

/-- The counter that a SYNC names (R378). -/
def syncCounter (d : Desc) : Nat := descField d 18 2
/-- The value that a SYNC carries (R378). -/
def syncValue (d : Desc) : Nat := descField d 20 4

theorem State.syncAddDesc_eq (s : State) (d : Desc) : s.syncAddDesc d =
    if (s.ctx d.ctx).inWindow (syncCounter d) = true ∧ 1 ≤ syncValue d ∧ syncValue d ≤ Config.maxCount ∧ isLock (s.counter (syncCounter d)) = false
    then (s.store (syncCounter d) (satAdd (s.counter (syncCounter d)) (syncValue d))).complete d
      (Done.of .ok (satAdd (s.counter (syncCounter d)) (syncValue d)).toNat)
    else s.complete d (Done.of .protocol 0) := by
  rw [← ite_not]
  refine if_congr ?_ rfl rfl
  simp only [Bool.or_eq_true, Bool.not_eq_true', beq_iff_eq, decide_eq_true_eq, syncCounter, syncValue, Nat.succ_le_iff,
    Nat.pos_iff_ne_zero, ← Nat.not_lt, ← Bool.not_eq_true]
  tauto

theorem State.syncSetDesc_eq (s : State) (d : Desc) : s.syncSetDesc d =
    if (s.ctx d.ctx).inWindow (syncCounter d) = true ∧ syncValue d ≤ Config.maxCount ∧
      (isLock (s.counter (syncCounter d)) = true →
        (s.ctx (lockCtx (s.counter (syncCounter d)))).state = .faulted ∨ (s.ctx (lockCtx (s.counter (syncCounter d)))).state = .drained)
    then (s.store (syncCounter d) (BitVec.ofNat 32 (syncValue d))).complete d (Done.of .ok (syncValue d))
    else s.complete d (Done.of .protocol 0) := by
  rw [← ite_not]
  refine if_congr ?_ rfl rfl
  simp only [Bool.or_eq_true, Bool.and_eq_true, Bool.not_eq_true', bne_iff_ne, decide_eq_true_eq, syncCounter, syncValue, ← Nat.not_lt, ← Bool.not_eq_true]
  tauto

theorem State.syncReadDesc_eq (s : State) (d : Desc) : s.syncReadDesc d =
    if (s.ctx d.ctx).inWindow (syncCounter d) = true then s.complete d (Done.of .ok (s.counter (syncCounter d)).toNat)
    else s.complete d (Done.of .protocol 0) := by
  rw [← ite_not]
  exact if_congr (by simp [syncCounter]) rfl rfl

theorem State.syncDesc_of_add (h : descField d 16 1 = 0) : s.syncDesc d = s.syncAddDesc d := by
  simp only [State.syncDesc, h]

theorem State.syncDesc_of_set (h : descField d 16 1 = 1) : s.syncDesc d = s.syncSetDesc d := by
  simp only [State.syncDesc, h]

theorem State.syncDesc_of_read (h : descField d 16 1 = 2) : s.syncDesc d = s.syncReadDesc d := by
  simp only [State.syncDesc, h]

theorem State.syncDesc_of_unlisted (h : 3 ≤ descField d 16 1) : s.syncDesc d = s.complete d (Done.of .protocol 0) := by
  unfold State.syncDesc
  split
  · omega
  · omega
  · omega
  · rfl

/-! ### TEST (R378) -/

theorem State.testDesc_of_setpend (h : descField d 16 1 = 0) :
    s.testDesc d = (s.setSwpend (s.ctx d.ctx).port (BitVec.ofNat 64 (descField d 24 8))).complete d (Done.of .ok 0) := by
  simp only [State.testDesc, h]

theorem State.testDesc_of_echo (h : descField d 16 1 = 1) : s.testDesc d = s.complete d (Done.of .ok (descField d 24 8)) := by
  simp only [State.testDesc, h]

theorem State.testDesc_of_unlisted (h : 2 ≤ descField d 16 1) : s.testDesc d = s.complete d (Done.of .protocol 0) := by
  unfold State.testDesc
  split
  · omega
  · omega
  · rfl

/-! ### STATS (R386, R388) -/

/-- The first 64 bytes of a snapshot (R386). -/
def State.snapshotHead (s : State) (d : Desc) : Bytes :=
  toLE 4 0x53544154 ++ toLE 2 1 ++ [BitVec.ofNat 8 (descField d 36 1), d.ctx] ++ toLE 8 (statsMask d) ++ toLE 8 s.now.toNat ++
    toLE 8 s.now.toNat ++ toLE 4 (State.statsSize (s.statsSections d)) ++ List.replicate 28 0

/-- The bytes of a snapshot: its head and its sections (R386). -/
def State.snapshot (s : State) (d : Desc) : Bytes := s.snapshotHead d ++ ((s.statsSections d).map Sect.bytes).flatten

theorem State.fld_snapshot (s : State) (d : Desc) : fld (s.snapshot d) 0 4 = 0x53544154 := by
  simp only [State.snapshot, State.snapshotHead, List.append_assoc]
  exact fld_toLE (a := []) rfl 4 0x53544154 _

theorem State.drop_snapshot (s : State) (d : Desc) : (s.snapshot d).drop 64 = ((s.statsSections d).map Sect.bytes).flatten :=
  List.drop_left' (by simp [State.snapshotHead])

/-- The state with a snapshot written to the host's area. -/
def State.withSnapshot (s : State) (d : Desc) : State := s.hostArea (s.ctx d.ctx).port (descFlag d 3) (descField d 24 8) (s.snapshot d)

/-- A STATS names a scope and classes of R387, and asks for the device's from the owner's port alone (R386). -/
def State.statsAsked (s : State) (d : Desc) : Prop :=
  descField d 36 1 ≤ 1 ∧ statsMask d < 2 ^ 9 ∧ (statsDevice d = true → s.owner? = some (s.ctx d.ctx).port)

theorem State.stats_of_not_asked (h : ¬ s.statsAsked d) : s.stats d = s.complete d (Done.of .protocol 0) := by
  by_cases hout : 1 < descField d 36 1 ∨ 2 ^ 9 ≤ statsMask d
  · exact if_pos hout
  · refine (if_neg hout).trans (if_pos ?_)
    by_contra hdev
    exact h ⟨by omega, by omega, by simpa using hdev⟩

section
variable (h : s.statsAsked d)
include h

theorem State.stats_of_short (hsize : descField d 32 4 < State.statsSize (s.statsSections d)) :
    s.stats d = s.complete d (Done.of .protocol (State.statsSize (s.statsSections d))) := by
  obtain ⟨hscope, hmask, hdev⟩ := h
  exact (if_neg (by omega)).trans ((if_neg (by simpa using hdev)).trans (if_pos hsize))

theorem State.stats_of_fits (hsize : State.statsSize (s.statsSections d) ≤ descField d 32 4) :
    s.stats d = ({ s.withSnapshot d with fresh := (s.withSnapshot d).fresh + 1 } : State).complete d (Done.of .ok (State.statsSize (s.statsSections d))) := by
  obtain ⟨hscope, hmask, hdev⟩ := h
  exact (if_neg (by omega)).trans ((if_neg (by simpa using hdev)).trans (if_neg (Nat.not_lt.mpr hsize)))
end

/-! ### ATTEST (R466) -/

theorem State.attest_of_short (h : descField d 56 4 < s.reportSize) : s.attest d = s.complete d (Done.of .protocol s.reportSize) := if_pos h

theorem State.attest_of_fits (h : s.reportSize ≤ descField d 56 4) : ∃ sig : Bytes, sig.length = 17088 ∧
    s.attest d = (s.hostArea (s.ctx d.ctx).port (descFlag d 3) (descField d 48 8) (s.reportBody (slice d.bytes 16 32) ++ sig)).complete d
      (Done.of .ok s.reportSize) :=
  ⟨_, by rw [List.length_map, List.length_range], if_neg (Nat.not_lt.mpr h)⟩
end

/-! ### The commands -/

/-- Settles O28: an expanded descriptor takes its opcode's effect, which reads of its context and of the counters what the expansion leaves as it was. -/
theorem directDescriptorsComplete : Obligations.DirectDescriptorsComplete := by
  intro s d x e k v holder refused
  refine ⟨exec_unknownOpcode_of_admits, fun hexp => ⟨fun hi => ?fence, fun hi => ?syncAdd, fun hi => ?syncSet, fun hi => ?syncRead, fun hi => ?setpend,
    fun hi => ?echo, fun hi => ?stats, fun hi => ?attest⟩⟩
  case fence =>
    have hop : descOp d = 0x14 := by simpa [carries] using hi
    rw [exec_of_expandsNow hi hexp, State.descEffect_of_fence _ hop, State.fenceDone_expanded hop (no_fence_of_expandsNow hexp)]
  case syncAdd =>
    obtain ⟨hop, hkind⟩ : descOp d = 0x0F ∧ descField d 16 1 = 0 := by simpa [carries] using hi
    have hexec := exec_of_expandsNow hi hexp
    rw [State.descEffect_of_sync _ hop, State.syncDesc_of_add hkind, State.syncAddDesc_eq, State.inWindow_expanded, State.counter_expanded] at hexec
    exact ⟨fun hok => hexec.trans (congrArg _ (if_pos hok)), fun hok => hexec.trans (congrArg _ (if_neg hok))⟩
  case syncSet =>
    obtain ⟨hop, hkind⟩ : descOp d = 0x0F ∧ descField d 16 1 = 1 := by simpa [carries] using hi
    have hexec := exec_of_expandsNow hi hexp
    rw [State.descEffect_of_sync _ hop, State.syncDesc_of_set hkind, State.syncSetDesc_eq, State.inWindow_expanded, State.counter_expanded,
      State.ctxState_expanded] at hexec
    exact ⟨fun hok => hexec.trans (congrArg _ (if_pos hok)), fun hok => hexec.trans (congrArg _ (if_neg hok))⟩
  case syncRead =>
    obtain ⟨hop, hkind⟩ : descOp d = 0x0F ∧ 1 < descField d 16 1 := by simpa [carries] using hi
    have hexec := exec_of_expandsNow hi hexp
    rw [State.descEffect_of_sync _ hop] at hexec
    by_cases hread : descField d 16 1 = 2
    · rw [State.syncDesc_of_read hread, State.syncReadDesc_eq, State.inWindow_expanded, State.counter_expanded] at hexec
      exact ⟨fun ⟨_, hwin⟩ => hexec.trans (congrArg _ (if_pos hwin)), fun hok => hexec.trans (congrArg _ (if_neg fun hwin => hok ⟨hread, hwin⟩))⟩
    · rw [State.syncDesc_of_unlisted (by omega)] at hexec
      exact ⟨fun ⟨hread', _⟩ => absurd hread' hread, fun _ => hexec⟩
  case setpend =>
    obtain ⟨hop, hkind⟩ : descOp d = 0x17 ∧ descField d 16 1 = 0 := by simpa [carries] using hi
    rw [exec_of_expandsNow hi hexp, State.descEffect_of_test _ hop, State.testDesc_of_setpend hkind, State.port_expanded]
  case echo =>
    obtain ⟨hop, hkind⟩ : descOp d = 0x17 ∧ descField d 16 1 ≠ 0 := by simpa [carries] using hi
    have hexec := exec_of_expandsNow hi hexp
    rw [State.descEffect_of_test _ hop] at hexec
    exact ⟨fun hecho => hexec.trans (congrArg _ (State.testDesc_of_echo hecho)),
      fun hecho => hexec.trans (congrArg _ (State.testDesc_of_unlisted (by omega)))⟩
  case stats =>
    have hop : descOp d = 0x10 := by simpa [carries] using hi
    have hexec := exec_of_expandsNow hi hexp
    rw [State.descEffect_of_stats _ hop] at hexec
    have hasked : e.statsAsked d ↔ s.statsAsked d := by
      rw [State.statsAsked, State.owner?_expanded, State.port_expanded, State.statsAsked]
    refine ⟨fun hno => hexec.trans (congrArg _ (State.stats_of_not_asked (hasked.not.mpr hno))),
      fun hyes hsize => hexec.trans (congrArg _ (State.stats_of_short (hasked.mpr hyes) hsize)),
      fun hyes hsize => ⟨e.snapshot d, e.fld_snapshot d, e.drop_snapshot d, ?_⟩⟩
    rw [hexec, State.stats_of_fits (hasked.mpr hyes) hsize, State.withSnapshot, State.port_expanded]
  case attest =>
    have hop : descOp d = 0x15 := by simpa [carries] using hi
    have hexec := exec_of_expandsNow hi hexp
    rw [State.descEffect_of_attest _ hop] at hexec
    refine ⟨fun hshort => hexec.trans (congrArg _ (State.attest_of_short hshort)), fun hfits => ?_⟩
    obtain ⟨sig, hlen, hattest⟩ := State.attest_of_fits (s := e) hfits
    rw [State.port_expanded, State.reportSize_expanded] at hattest
    exact ⟨sig, hlen, hexec.trans (congrArg _ hattest)⟩

end Sys2Proof.Machine
end

section
/-! PROOFS. The machine and the phases of Dawn (17_dawn_security_vesper.md): what each command may make of them, and from this that they stay in order, that
the queue of waiting commands is left alone, that fuses are only burnt, and that only stress beyond the absolute ratings stops the machine. -/

namespace Sys2Proof.Machine

/-! ### The phases of Dawn -/

/-- What the order of Dawn and the fuse store speak of, and the queue of waiting commands. -/
def State.phases (s : State) :=
  (s.pending, s.boot.state, s.boot.locked, s.boot.bars, s.boot.firmware, s.boot.selftested, s.boot.fuses)

theorem State.phases_of_spine {s t : State} (h : t.spine = s.spine) : t.phases = s.phases := by
  obtain ⟨hpending, -, hstate, hlocked, hbars, hfirmware, hselftested, hfuses, -⟩ := State.of_spine h
  simp only [State.phases, hpending, hstate, hlocked, hbars, hfirmware, hselftested, hfuses]

/-- What a command may make of the phases, the fuses and the queue: nothing, a loss of the device's state, the self-test, or one phase of Dawn (R459 to R464, R479). -/
inductive DawnMove (i : Instr) (s t : State) : Prop
  | stays (h : t.phases = s.phases)
  | loses (h : t.phases = (s.pending, 0, false, false, false, false, s.boot.fuses))
  | selfTests (h : t.phases = (s.pending, 0, false, false, false, true, s.boot.fuses))
  | bringsUp (hself : s.boot.selftested = true) (hbars : s.boot.bars = false)
      (h : t.phases = (s.pending, 1, s.boot.locked, true, s.boot.firmware, s.boot.selftested, s.boot.fuses))
  | goes (hstate : s.boot.state = 1) (h : t.phases = (s.pending, 2, s.boot.locked, s.boot.bars, s.boot.firmware, s.boot.selftested, s.boot.fuses))
  | refuses (hstate : s.boot.state = 2) (hfw : s.boot.firmware = false)
      (h : t.phases = (s.pending, 1, s.boot.locked, s.boot.bars, s.boot.firmware, s.boot.selftested, s.boot.fuses))
  | accepts (hi : i = .imageVerified) (himage : s.imageStatus = 0) (hstate : s.boot.state = 2)
      (h : t.phases = (s.pending, 2, s.boot.locked, s.boot.bars, true, s.boot.selftested, s.burntFuses))
  | restores (hstate : s.boot.state = 2) (hfw : s.boot.firmware = true)
      (h : t.phases = (s.pending, 3, s.boot.locked, s.boot.bars, s.boot.firmware, s.boot.selftested, s.boot.fuses))
  | locks (hstate : s.boot.state = 3) (h : t.phases = (s.pending, 4, true, s.boot.bars, s.boot.firmware, s.boot.selftested, s.boot.fuses))

/-! ### The commands that move the phases -/

theorem State.go_dawnMove (i : Instr) (s : State) (p : HostPort) : DawnMove i s (s.go p) := by
  have hsp := s.go_spine p
  split at hsp
  case isTrue h => exact .goes h.2 (State.phases_of_spine hsp)
  case isFalse => exact .stays (State.phases_of_spine hsp)

theorem State.lock_dawnMove (i : Instr) (s : State) (p : HostPort) : DawnMove i s (s.lock p) := by
  have hsp := s.lock_spine p
  split at hsp
  case isTrue h => exact .locks h.2 (State.phases_of_spine hsp)
  case isFalse => exact .stays (State.phases_of_spine hsp)

/-- BOOT.CTRL written with go and lock both set: the lock finds the state that go leaves, so one of them has an effect at most (R460, R464). -/
theorem State.go_lock_dawnMove (i : Instr) (s : State) (p : HostPort) : DawnMove i s ((s.go p).lock p) := by
  by_cases h : s.owner? = some p ∧ s.boot.state = 1
  · have hgo : (s.go p).boot.state = 2 := by simp [State.go, h]
    rw [State.lock_of_state_ne _ p (by rw [hgo]; decide)]
    exact s.go_dawnMove i p
  · rw [show s.go p = s from if_neg h]
    exact s.lock_dawnMove i p

theorem State.writeBoot_dawnMove (i : Instr) (s : State) (p : HostPort) (off v : Nat) : DawnMove i s (s.writeBoot p off v) := by
  unfold State.writeBoot
  split
  · exact .stays rfl
  split
  · split
    · exact .stays rfl
    · exact .stays rfl
  split
  · dsimp only
    split <;> split
    · exact s.go_lock_dawnMove i p
    · exact s.lock_dawnMove i p
    · exact s.go_dawnMove i p
    · exact .stays rfl
  · exact .stays rfl

theorem State.writeMem_phases (s : State) (off v : Nat) : (s.writeMem off v).phases = s.phases := by
  have hsp := s.writeMem_spine off v
  split at hsp
  · exact (State.phases_of_spine hsp).trans rfl
  · exact State.phases_of_spine hsp

theorem State.writeLinkEngine_phases (s : State) (off v : Nat) : (s.writeLinkEngine off v).phases = s.phases := by
  by_cases h : off = 0x80000
  · obtain ⟨hboot, hpending, -⟩ := s.writeTree_boot v
    rw [show s.writeLinkEngine off v = s.writeTree v from if_pos h, State.phases, hboot, hpending, State.phases]
  · exact State.phases_of_spine (s.writeLinkEngine_spine_of_ne off v h)

/-- A register write moves the phases in the BOOT block alone. -/
theorem State.writeReg_dawnMove (i : Instr) (s : State) (p : HostPort) (off v : Nat) : DawnMove i s (s.writeReg p off v) := by
  unfold State.writeReg
  split
  · exact .stays rfl
  split
  · exact .stays (State.phases_of_spine (by simp))
  split
  · exact s.writeBoot_dawnMove i p off v
  refine .stays ?_
  split
  · exact State.phases_of_spine (by simp)
  split
  · exact State.phases_of_spine (by simp)
  split
  · rfl
  split
  · exact State.phases_of_spine (by simp)
  split
  · exact s.writeMem_phases off v
  split
  · exact s.writeLinkEngine_phases off v
  · exact State.phases_of_spine (by simp)

theorem exec_registerWrite_dawnMove {p : HostPort} {off : BitVec 21} {size : Byte} {v : U64} {s t : State}
    (hx : exec (.registerWrite p off size v) s = .next t) : DawnMove (.registerWrite p off size v) s t := by
  rcases execRegisterWrite_discards_or_writes p off size v s with h | ⟨w, h⟩
  · cases h.symm.trans hx
    exact .stays rfl
  · cases h.symm.trans hx
    exact s.writeReg_dawnMove _ p _ w

theorem exec_resets_dawnMove {i : Instr} {s t : State} (hi : resets i = true) (hx : exec i s = .next t) : DawnMove i s t := by
  obtain ⟨u, hu, hsp⟩ := exec_reset_spine i s hi
  cases hu.symm.trans hx
  rcases hsp with hsp | hsp | hsp
  · exact .stays (State.phases_of_spine hsp)
  · exact .loses (State.phases_of_spine hsp)
  · exact .selfTests (State.phases_of_spine (hsp.trans (State.selfTest_spine s [])))

/-- A report of junction readings leaves the phases, or trips the device (R450). -/
theorem exec_readings_dawnMove {i : Instr} {s t r : State} (htrip : r.trip.phases = (s.pending, 0, false, false, false, false, s.boot.fuses)) (hx : exec i s = .next t)
    (h : exec i s = .fault .outsideRatings ∨ ∃ u, exec i s = .next u ∧ (u.spine = s.spine ∨ (460 ≤ r.hottest ∧ u = r.trip))) : DawnMove i s t := by
  rcases h with hfault | ⟨u, hu, hsp⟩
  · cases hfault.symm.trans hx
  · cases hu.symm.trans hx
    rcases hsp with hsp | ⟨-, rfl⟩
    · exact .stays (State.phases_of_spine hsp)
    · exact .loses htrip

theorem exec_dawnBringup_dawnMove {hbm : BitVec 20} {s t : State} (hx : exec (.dawnBringup hbm) s = .next t) : DawnMove (.dawnBringup hbm) s t := by
  obtain ⟨u, hu, hsp⟩ := execDawnBringup_spine hbm s
  cases hu.symm.trans hx
  split at hsp
  case isTrue h =>
    obtain ⟨-, -, hself, hbars⟩ := h
    exact .bringsUp hself hbars (State.phases_of_spine hsp)
  case isFalse => exact .stays (State.phases_of_spine hsp)

theorem exec_imageVerified_dawnMove {s t : State} (hx : exec .imageVerified s = .next t) : DawnMove .imageVerified s t := by
  have hx' : execImageVerified s = .next t := hx
  unfold execImageVerified at hx'
  cases hx'
  split
  · exact .stays rfl
  case isFalse hrun =>
    have hstate : s.boot.state = 2 := by_contra fun h => hrun (.inl h)
    split
    case isTrue himage =>
      refine .accepts rfl himage hstate ((State.phases_of_spine s.acceptImage_spine).trans ?_)
      rw [State.phases, hstate]
    case isFalse =>
      exact .refuses hstate (by simpa using fun h => hrun (.inr h)) rfl

theorem exec_retainedStateRestore_dawnMove {trained : U16} {dimms : U32} {socket : Socket} {s t : State}
    (hx : exec (.retainedStateRestore trained dimms socket) s = .next t) : DawnMove (.retainedStateRestore trained dimms socket) s t := by
  obtain ⟨u, hu, hsp⟩ := execRetainedStateRestore_spine trained dimms socket s
  cases hu.symm.trans hx
  split at hsp
  case isTrue h => exact .restores h.1 h.2 (State.phases_of_spine hsp)
  case isFalse => exact .stays (State.phases_of_spine hsp)

/-- Every command that goes on makes one of these of the phases. -/
theorem exec_dawnMove (i : Instr) (s t : State) (hx : exec i s = .next t) : DawnMove i s t := by
  cases hm : movesSpine i with
  | false =>
    obtain ⟨u, hu, hsp⟩ := exec_spine i s hm
    cases hu.symm.trans hx
    exact .stays (State.phases_of_spine hsp)
  | true =>
    cases i with
    | resetAssert | resetRelease | pwrgdResetDelay | vinLow | thermalTrip | thermtripLatchClear => exact exec_resets_dawnMove rfl hx
    | powerSample mw vin sensors => exact exec_readings_dawnMove (r := s.sampled mw vin sensors) rfl hx (execPowerSample_spine mw vin sensors s)
    | junctionCritical die reading => exact exec_readings_dawnMove (r := s.readAt die reading) rfl hx (execJunctionCritical_spine die reading s)
    | dawnBringup hbm => exact exec_dawnBringup_dawnMove hx
    | bootGo p => cases hx; exact s.go_dawnMove _ p
    | bootLock p => cases hx; exact s.lock_dawnMove _ p
    | imageVerified => exact exec_imageVerified_dawnMove hx
    | retainedStateRestore trained dimms socket => exact exec_retainedStateRestore_dawnMove hx
    | registerWrite p off size v => exact exec_registerWrite_dawnMove hx
    | _ => cases hm

/-! ### What follows of the phases -/

/-- What equal phases say, field by field. -/
theorem State.of_phases {t : State} {pending : List Instr} {state : BitVec 3} {locked bars firmware selftested : Bool} {fuses : Fuses}
    (h : t.phases = (pending, state, locked, bars, firmware, selftested, fuses)) :
    t.pending = pending ∧ t.boot.state = state ∧ t.boot.locked = locked ∧ t.boot.bars = bars ∧ t.boot.firmware = firmware ∧
      t.boot.selftested = selftested ∧ t.boot.fuses = fuses := by
  simpa [State.phases] using h

/-- No move leaves the order of Dawn: each state that a phase brings goes with the flags that it leaves. -/
theorem DawnMove.dawnOrdered {i : Instr} {s t : State} (h : DawnMove i s t) (ho : dawnOrdered s) : dawnOrdered t := by
  obtain ⟨hle, hlock, hbars, hself, hfw, hrun⟩ := ho
  cases h with
  | stays h | loses h | selfTests h | bringsUp hselftested hclosed h | goes hstate h | refuses hstate hrunning h | accepts hi himage hstate h
  | restores hstate hrunning h | locks hstate h =>
    obtain ⟨-, hs, hl, hb, hf, ht, -⟩ := State.of_phases h
    unfold Machine.dawnOrdered
    rw [hs, hl, hb, hf, ht]
    simp_all

/-- Settles O6: time leaves the phases of Dawn, and each move that a command may make of them keeps their order. -/
theorem dawnStaysOrdered : Obligations.DawnStaysOrdered := by
  intro s t ho hx
  unfold step at hx
  split at hx
  · cases hx
    exact (DawnMove.stays (i := .vinRise) (State.phases_of_spine s.idle_spine)).dawnOrdered ho
  case _ c rest _ => exact (exec_dawnMove c _ t hx).dawnOrdered ho

/-- Settles O7: at reset the memory is empty, the phase is 0 and every flag of Dawn is clear. -/
theorem resetMeetsInvariants : Obligations.ResetMeetsInvariants := ⟨Memory.wf_nil, by unfold dawnOrdered; decide⟩

/-- Settles O1: the queue's form selects the step's branch. -/
theorem stepRunsFrontCommand : Obligations.StepRunsFrontCommand := by
  intro s c rest hqueue
  unfold step
  rw [hqueue]

/-- Settles O4: no move of the phases touches the queue. -/
theorem commandsLeaveQueue : Obligations.CommandsLeaveQueue := by
  intro i s t hx
  cases exec_dawnMove i s t hx with
  | stays h | loses h | selfTests h | bringsUp _ _ h | goes _ h | refuses _ _ h | accepts _ _ _ h | restores _ _ h | locks _ h =>
    obtain ⟨hpending, -⟩ := State.of_phases h
    exact hpending

/-! ### Fuses (R457, R463) -/

/-- A fuse store in which bits were set: the floor's and the revocations', and nothing else. -/
def Fuses.burntFrom (f g : Fuses) : Prop :=
  g = { f with floor := g.floor, revoked := g.revoked } ∧ (∀ k, f.floor.getLsbD k = true → g.floor.getLsbD k = true) ∧
    ∀ k, f.revoked.getLsbD k = true → g.revoked.getLsbD k = true

theorem Fuses.burntFrom_self (f : Fuses) : f.burntFrom f := ⟨rfl, fun _ h => h, fun _ h => h⟩

theorem Fuses.burntFrom_or (f : Fuses) (floor : U64) (revoked : BitVec 2) :
    f.burntFrom { f with floor := f.floor ||| floor, revoked := f.revoked ||| revoked } :=
  ⟨rfl, fun k h => by rw [BitVec.getLsbD_or, h, Bool.true_or], fun k h => by rw [BitVec.getLsbD_or, h, Bool.true_or]⟩

/-- An accepted image only burns: RAISE joins a mark to the floor, and REVOKE0 a bit to the revocations (R463). -/
theorem State.burntFuses_burntFrom (s : State) : s.boot.fuses.burntFrom s.burntFuses := by
  have hor := Fuses.burntFrom_or s.boot.fuses
  unfold State.burntFuses
  dsimp only
  split <;> split
  · exact hor _ 1
  · simpa using hor 0 1
  · simpa using hor _ 0
  · exact s.boot.fuses.burntFrom_self

/-- Settles O8: every move keeps the fuses but an accepted image's, which burns them. -/
theorem fusesOnlyBurn : Obligations.FusesOnlyBurn := by
  intro i s t hx
  cases exec_dawnMove i s t hx with
  | stays h | loses h | selfTests h | bringsUp _ _ h | goes _ h | refuses _ _ h | restores _ _ h | locks _ h =>
    obtain ⟨-, -, -, -, -, -, hfuses⟩ := State.of_phases h
    rw [hfuses]
    exact ⟨.inl rfl, s.boot.fuses.burntFrom_self⟩
  | accepts hi himage _ h =>
    obtain ⟨-, -, -, -, -, -, hfuses⟩ := State.of_phases h
    rw [hfuses]
    exact ⟨.inr ⟨hi, himage⟩, s.burntFuses_burntFrom⟩

/-! ### What stops the machine (R512) -/

theorem State.beyondRatings_iff (vin : U32) (sensors : List U16) :
    State.beyondRatings vin sensors = true ↔ 14000 < vin.toNat ∨ ∃ r ∈ sensors, 500 < r.toNat := by
  simp [State.beyondRatings]

theorem exec_powerSample_beyond {mw : Nat} {vin : U32} {sensors : List U16} {s : State} (h : State.beyondRatings vin sensors = true) :
    exec (.powerSample mw vin sensors) s = .fault .outsideRatings := if_pos h

theorem exec_powerSample_within {mw : Nat} {vin : U32} {sensors : List U16} {s : State} (h : State.beyondRatings vin sensors = false) :
    exec (.powerSample mw vin sensors) s = .next (if !s.power.rails then s else (s.sampled mw vin sensors).junctions) := if_neg (by rw [h]; decide)

theorem exec_junctionCritical_beyond {die : BitVec 2} {r : U16} {s : State} (h : 500 < r.toNat) :
    exec (.junctionCritical die r) s = .fault .outsideRatings :=
  if_pos ((State.beyondRatings_iff 0 [r]).mpr (.inr ⟨r, List.mem_singleton_self r, h⟩))

theorem exec_junctionCritical_within {die : BitVec 2} {r : U16} {s : State} (h : r.toNat ≤ 500) :
    exec (.junctionCritical die r) s = .next (if r.toNat < 420 || !s.power.rails || !s.power.resetN then s else (s.readAt die r).junctions) :=
  if_neg fun e => by simpa [Nat.not_lt.mpr h] using (State.beyondRatings_iff 0 [r]).mp e

/-- Settles O3: every command goes on but the two reports of readings, which stop where a reading is beyond the ratings. -/
theorem onlyStressStops : Obligations.OnlyStressStops := by
  intro i s
  cases hm : movesSpine i with
  | false =>
    obtain ⟨t, ht, -⟩ := exec_spine i s hm
    exact .inl ⟨t, ht⟩
  | true =>
    cases i with
    | resetAssert | resetRelease | pwrgdResetDelay | vinLow | thermalTrip | thermtripLatchClear | dawnBringup | bootGo | bootLock | imageVerified
    | retainedStateRestore | registerWrite => exact .inl ⟨_, rfl⟩
    | powerSample mw vin sensors =>
      cases hr : State.beyondRatings vin sensors with
      | false => exact .inl ⟨_, exec_powerSample_within hr⟩
      | true => exact .inr ⟨exec_powerSample_beyond hr, .inl ⟨mw, vin, sensors, rfl, (State.beyondRatings_iff vin sensors).mp hr⟩⟩
    | junctionCritical die r =>
      rcases Nat.lt_or_ge 500 r.toNat with hr | hr
      · exact .inr ⟨exec_junctionCritical_beyond hr, .inr ⟨die, r, rfl, hr⟩⟩
      · exact .inl ⟨_, exec_junctionCritical_within hr⟩
    | _ => cases hm

end Sys2Proof.Machine
end

section
/-! PROOFS. Setup registers and ownership (13_host_interface.md, 18_setup_registers.md): which writes are discarded, and who owns the device. -/

namespace Sys2Proof.Machine

/-! ### Writes that a port may not make (R366, R484) -/

/-- A register write is discarded where the register's write changes nothing, whatever the value. -/
theorem execRegisterWrite_of_writeReg {s : State} {p : HostPort} {off : BitVec 21} (h : ∀ w, s.writeReg p (off.toNat / 8 * 8) w = s) (size : Byte)
    (v : U64) : exec (.registerWrite p off size v) s = .next s := by
  rcases execRegisterWrite_discards_or_writes p off size v s with hx | ⟨w, hx⟩
  · exact hx
  · rw [h w] at hx
    exact hx

section
variable {s : State} {p : HostPort} {off : Nat}

/-- From MODE to VESPER every register is the owner's, from W6 on. -/
theorem State.writeReg_of_not_ownerMay (h : s.ownerMay p = false) (hlo : 0x50000 ≤ off) (hhi : off < 0xF0000) (v : Nat) : s.writeReg p off v = s := by
  unfold State.writeReg
  rw [if_neg (by omega), if_neg (by omega), if_neg (by omega), if_neg (by omega), if_neg (by omega), if_pos (by rw [h]; rfl)]

/-- A context's record, but for CTX.HOST, is its port's. -/
theorem State.writeReg_of_not_ctxMay {c : CtxId} (h : s.ctxMay p c = false) (hc : (off - 0x20000) / 256 = c.toNat) (hlo : 0x20000 ≤ off)
    (hhi : off < 0x30000) (hhost : off % 256 ≠ 0x10) (v : Nat) : s.writeReg p off v = s := by
  have hctx : BitVec.ofNat 8 ((off - 0x20000) / 256) = c := by rw [hc, BitVec.ofNat_toNat, BitVec.setWidth_eq]
  unfold State.writeReg
  rw [if_neg (by omega), if_neg (by omega), if_neg (by omega), if_pos hhi, State.writeCtx, if_neg hhost, hctx, if_neg (by rw [h]; decide)]

/-- A write into a context's record is one to a register of that record. -/
theorem ctxOf_aligned {n : Nat} (hlo : 0x20000 ≤ n) : (n / 8 * 8 - 0x20000) / 256 = (n - 0x20000) / 256 := by
  have haligned : n / 8 * 8 - 0x20000 = (n - 0x20000) / 8 * 8 := by omega
  rw [haligned]
  omega

/-- The BOOT block is the owner's (R459). -/
theorem State.writeReg_of_not_owner (h : s.owner? ≠ some p) (hlo : 0xF0000 ≤ off) (v : Nat) : s.writeReg p off v = s := by
  unfold State.writeReg
  rw [if_neg (by omega), if_neg (by omega), if_pos hlo]
  exact if_pos (.inl h)

/-- What is not the owner's port starts no verification, and writes nothing into the boot window (R460). -/
theorem exec_bootGo_of_not_owner (h : s.owner? ≠ some p) : exec (.bootGo p) s = .next s := congrArg _ (if_neg fun e => h e.1)

theorem exec_bootWindowWrite_of_not_owner (h : s.owner? ≠ some p) (o : BitVec 26) (data : Bytes) : exec (.bootWindowWrite p o data) s = .next s :=
  congrArg _ (if_neg fun e => h e.1)
end

/-- Settles O44: each write tests the port before anything else. -/
theorem onlyPermittedWrites : Obligations.OnlyPermittedWrites := by
  intro s p
  refine ⟨fun hown => ⟨fun off size v hlo hhi => ?_, fun i hi => ?_⟩, fun c hctx => ⟨fun i hi => ?_, fun r => ?_, fun v => ?_, fun off size v hc hlo hhi hhost => ?_⟩,
    fun hnot => ⟨fun off size v hlo => ?_, congrArg _ (if_neg fun e => hnot e.1), exec_bootGo_of_not_owner hnot, exec_bootWindowWrite_of_not_owner hnot⟩⟩
  · exact execRegisterWrite_of_writeReg (State.writeReg_of_not_ownerMay hown (by omega) (by omega)) size v
  · have hdiscards : ∀ t : State, (if s.ownerMay p = true then t else s) = s := fun t => if_neg (by rw [hown]; decide)
    rcases hi with ⟨l, rfl⟩ | ⟨d, v, rfl⟩ | rfl | ⟨b, rfl⟩ | ⟨k, v, rfl⟩ | ⟨v, rfl⟩ | ⟨b, n, rfl⟩ | ⟨n, v, rfl⟩ | rfl | rfl
    case inl => exact congrArg Host.Outcome.next (if_pos (by simp [hown]))
    case inr.inr.inr.inr.inl => exact congrArg Host.Outcome.next (if_neg (by simp [hown]))
    all_goals exact congrArg Host.Outcome.next (hdiscards _)
  · have hdiscards : ∀ t : State, (if s.ctxMay p c = true then t else s) = s := fun t => if_neg (by rw [hctx]; decide)
    simp only [List.mem_cons, List.not_mem_nil, or_false] at hi
    rcases hi with rfl | rfl | rfl | rfl <;> exact congrArg _ (hdiscards _)
  · exact congrArg _ (if_neg (by rw [hctx]; decide))
  · exact congrArg _ (if_neg (by rw [hctx]; decide))
  · exact execRegisterWrite_of_writeReg (State.writeReg_of_not_ctxMay hctx ((ctxOf_aligned hlo).trans hc) (by omega) (by omega) (by omega)) size v
  · exact execRegisterWrite_of_writeReg (State.writeReg_of_not_owner hnot (by omega)) size v

/-! ### HOST.OWNER (R365, R389) -/

/-- The state with HOST.OWNER set. -/
def State.withOwner (s : State) (o : BitVec 2) : State := { s with regs := { s.regs with owner := o } }

/-- A claim finds no owner, or one whose port is lost (R365). -/
def State.ownerFree (s : State) : Prop := s.owner? = none ∨ ∃ o, s.owner? = some o ∧ (s.port o).lost = true

section
variable {s : State} {p : HostPort}

theorem State.owner?_withOwner_port (s : State) (p : HostPort) : (s.withOwner (p.setWidth 2)).owner? = some p := by
  have hports : p = 0 ∨ p = 1 := by
    rcases Nat.lt_or_ge p.toNat 1 with h | h
    · exact .inl (BitVec.eq_of_toNat_eq (by simpa using h))
    · exact .inr (BitVec.eq_of_toNat_eq (by have := p.isLt; simp; omega))
  rcases hports with rfl | rfl <;> rfl

/-- A claim is taken where the owner is free (R365). -/
theorem State.takeOwner_of_free (hbars : s.boot.bars = true) (h : s.ownerFree) : s.takeOwner p = s.withOwner (p.setWidth 2) := by
  unfold State.takeOwner
  rcases h with h | ⟨o, h, hlost⟩
  · simp [State.bankMay, hbars, h, State.withOwner]
  · simp [State.bankMay, hbars, h, hlost, State.withOwner]

theorem State.takeOwner_of_not_free (h : ¬ s.ownerFree) : s.takeOwner p = s := by
  unfold State.takeOwner
  cases ho : s.owner? with
  | none => exact absurd (.inl ho) h
  | some o =>
    have hlive : (s.port o).lost = false := Bool.eq_false_iff.mpr fun hlost => h (.inr ⟨o, ho, hlost⟩)
    simp [hlive]

theorem State.dropOwner_of_owner (hbars : s.boot.bars = true) (h : s.owner? = some p) : s.dropOwner p = (s.withOwner 3).unowned :=
  if_pos (by rw [State.bankMay, hbars, h]; simp)

theorem State.dropOwner_of_other (h : s.owner? ≠ some p) : s.dropOwner p = s := if_neg (by simp [h])

/-- Without an owner device time slews only where a formed tree gives it a source (R389, R410). -/
theorem State.unowned_withOwner (s : State) : (s.withOwner 3).unowned = { s with regs := { s.regs with owner := 3 }, clock := { s.clock with
    slew := if s.regs.treeFormed = true ∧ s.uplink?.isSome = true then s.clock.slew else 0 } } := by
  have huplink : (s.withOwner 3).uplink? = s.uplink? := rfl
  unfold State.unowned
  rw [huplink]
  by_cases h : s.regs.treeFormed = true ∧ s.uplink?.isSome = true
  · simp [State.withOwner, h]
  · rw [if_neg h, if_neg (by simpa [State.withOwner] using h)]
    rfl
end

/-- A write of HOST.OWNER is a claim, a release, or with both bits nothing (R365). -/
theorem exec_registerWrite_owner (s : State) (p : HostPort) (v : U64) : exec (.registerWrite p 0x10000 8 v) s =
    .next (if v.getLsbD 8 = true ∧ v.getLsbD 9 = true then s else if v.getLsbD 8 = true then s.takeOwner p
      else if v.getLsbD 9 = true then s.dropOwner p else s) := by
  exact (execRegisterWrite_eight p 0x10000 v s (by decide) (by decide)).trans rfl

/-- Settles O43: a claim, a release and a write of the register each come to the owner that the state names. -/
theorem ownerRule : Obligations.OwnerRule := by
  refine ⟨rfl, fun s p hbars => ?_⟩
  intro free _ gone
  refine ⟨fun hfree => ⟨congrArg _ (State.takeOwner_of_free hbars hfree), s.owner?_withOwner_port p⟩, fun hfree => congrArg _ (State.takeOwner_of_not_free hfree),
    fun howner => ⟨?_, rfl⟩, fun hother => congrArg _ (State.dropOwner_of_other hother), fun v hclaim => ?_, fun v hclaim => ?_, fun q => rfl,
    fun hother => ⟨exec_bootWindowWrite_of_not_owner hother, exec_bootGo_of_not_owner hother⟩⟩
  · exact congrArg _ ((State.dropOwner_of_owner hbars howner).trans s.unowned_withOwner)
  · cases hrelease : v.getLsbD 9 <;> rw [exec_registerWrite_owner, hclaim, hrelease] <;> rfl
  · cases hrelease : v.getLsbD 9 <;> rw [exec_registerWrite_owner, hclaim, hrelease] <;> rfl

end Sys2Proof.Machine
end

section
/-! PROOFS. The host ports (13_host_interface.md): polling and pace, how a submission ring is fetched, the MSI-X vectors and the attention ring. -/

namespace Sys2Proof

/-! ### Two updates at one place -/

theorem Tab.set_set {α : Type} (t : Tab α) (k : Nat) (v w : α) : (t.set k v).set k w = t.set k w := by
  induction t with
  | nil => simp [Tab.set]
  | cons e t ih =>
    obtain ⟨j, x⟩ := e
    by_cases hlt : k < j
    · simp [Tab.set, hlt]
    · by_cases heq : k = j
      · simp [Tab.set, heq]
      · simp [Tab.set, hlt, heq, ih]

namespace Machine

theorem State.modCtx_modCtx (s : State) (c : CtxId) (f g : Ctx → Ctx) : (s.modCtx c f).modCtx c g = s.modCtx c (fun x => g (f x)) := by
  unfold State.modCtx
  rw [State.ctx_setCtx_same]
  simp only [State.setCtx, Tab.set_set]

theorem State.modLink_modLink (s : State) (n : SelynPort) (f g : Link → Link) : (s.modLink n f).modLink n g = s.modLink n (fun x => g (f x)) := by
  rw [State.modLink, State.link_modLink_same]
  simp only [State.modLink, Tab.set_set]

@[simp] theorem Port.vec_modVec_same (t : Port) (v : BitVec 6) (f : Vector383 → Vector383) : (t.modVec v f).vec v = f (t.vec v) := by
  simp [Port.vec, Port.modVec]

theorem Ctx.waits_setWaits_of_ne (x : Ctx) {r k : BitVec 2} (l : List (Desc × Bool)) (h : k ≠ r) : (x.setWaits r l).waits k = x.waits k := by
  have h' : k.toNat ≠ r.toNat := fun e => h (BitVec.eq_of_toNat_eq e)
  cases l with
  | nil => simp [Ctx.waits, Ctx.setWaits, Tab.getD_erase, h']
  | cons e es => simp [Ctx.waits, Ctx.setWaits, Tab.getD_set_of_ne _ _ _ h']

/-! ### What a record in an attention ring moves (R384) -/

/-- Only the hosts' memories and the host ports differ. -/
def hostOnly (s t : State) : Prop := t = { s with mem := t.mem, ports := t.ports }

theorem hostOnly_trans (s t u : State) (h : hostOnly s t) (h' : hostOnly t u) : hostOnly s u := by
  unfold hostOnly at *
  rw [h', h]

theorem hostOnly.ctx {s t : State} (h : hostOnly s t) (c : CtxId) : t.ctx c = s.ctx c := by
  rw [h]
  rfl

section
variable (s : State) (p : HostPort)

theorem State.sendMsi_hostOnly (v : BitVec 6) : hostOnly s (s.sendMsi p v) := by
  rw [State.sendMsi, State.hostWr]
  split_ifs <;> rfl

theorem State.tryMsi_hostOnly (v : BitVec 6) : hostOnly s (s.tryMsi p v) := by
  unfold State.tryMsi
  dsimp only
  split_ifs
  · rfl
  · rfl
  · exact s.sendMsi_hostOnly p v
  · rfl

theorem State.noteVec_hostOnly (v : BitVec 6) (k : Nat) : hostOnly s (s.noteVec p v k) :=
  hostOnly_trans s (s.modPort p _) _ rfl (State.tryMsi_hostOnly _ p v)

theorem State.attnOn_hostOnly (code : Byte) (detail : Bytes) : hostOnly s (s.attnOn p code detail) := by
  unfold State.attnOn
  dsimp only
  split_ifs
  · rfl
  · refine hostOnly_trans s (State.modPort (State.hostWr s p _ _) p _) _ ?_ (State.noteVec_hostOnly _ p _ 1)
    rw [State.hostWr]
    split_ifs <;> rfl
end

/-! ### Polling (R370) -/

/-- Settles O40: a poll and the idle timer each make one test, and then act. -/
theorem portsPolled : Obligations.PortsPolled := by
  intro s p
  refine ⟨fun h => congrArg Host.Outcome.next (if_pos (by simpa using h)), fun hlive hfirmware => ?_, fun hlive hactive hrest => ?_⟩
  · have hpolls : ¬ ((s.port p).lost || decide (s.boot.state.toNat < 3)) = true := by simpa [hlive] using hfirmware
    change execPortPoll p s = _
    rw [execPortPoll, if_neg hpolls]
  · have hidles : ¬ ((s.port p).lost || (s.port p).idle || s.portBusy p) = true := by simp [hlive, hactive, hrest]
    exact ⟨_, congrArg Host.Outcome.next (if_neg hidles), State.port_modPort_same _ _ _, rfl⟩

/-! ### A submission ring (R372) -/

section
variable {s t u : State} {c : CtxId} {r : BitVec 2}

/-- Context c's ring r has fetched the descriptors `ds`: counted, and waiting in their order; nothing else differs. -/
def ringFetched (s t : State) (c : CtxId) (r : BitVec 2) (ds : List Desc) : Prop :=
  ctxOnly s t c ∧ t.mem = s.mem ∧ t.ctx c = { s.ctx c with fetchedN := (t.ctx c).fetchedN, waiting := (t.ctx c).waiting } ∧
    (t.ctx c).fetchedN.getD r.toNat 0 = (s.ctx c).fetchedN.getD r.toNat 0 + BitVec.ofNat 32 ds.length ∧
    (t.ctx c).waits r = (s.ctx c).waits r ++ ds.map (fun d => (d, false)) ∧
    ∀ k : BitVec 2, k ≠ r → (t.ctx c).waits k = (s.ctx c).waits k ∧ (t.ctx c).fetchedN.getD k.toNat 0 = (s.ctx c).fetchedN.getD k.toNat 0

/-- One descriptor of the ring fetched. -/
def State.fetchOne (s : State) (c : CtxId) (r : BitVec 2) (d : Desc) : State :=
  (s.countFetch d).modCtx c (fun x => x.setWaits r (x.waits r ++ [(d, false)]))

theorem State.fetchOne_ringFetched {d : Desc} (hc : d.ctx = c) (hr : d.ring = r) : ringFetched s (s.fetchOne c r d) c r [d] := by
  subst hc hr
  have hone : s.fetchOne d.ctx d.ring d = s.modCtx d.ctx (fun x =>
      let y := { x with fetchedN := x.fetchedN.set d.ring.toNat (x.fetchedN.getD d.ring.toNat 0 + 1) }
      y.setWaits d.ring (y.waits d.ring ++ [(d, false)])) := State.modCtx_modCtx _ _ _ _
  rw [hone]
  refine ⟨ctxOnly_modCtx _ _ _, rfl, ?_⟩
  rw [State.ctx_modCtx_same]
  refine ⟨rfl, Tab.getD_set_same _ _ _ _, Ctx.waits_setWaits_same _ _ _, fun k hk => ⟨Ctx.waits_setWaits_of_ne _ _ hk, ?_⟩⟩
  exact Tab.getD_set_of_ne _ _ _ fun e => hk (BitVec.eq_of_toNat_eq e)

theorem ringFetched_refl (s : State) (c : CtxId) (r : BitVec 2) : ringFetched s s c r [] :=
  ⟨⟨rfl, fun _ _ => rfl⟩, rfl, rfl, by simp, by simp, fun _ _ => ⟨rfl, rfl⟩⟩

theorem ringFetched_trans {ds es : List Desc} (h : ringFetched s t c r ds) (h' : ringFetched t u c r es) : ringFetched s u c r (ds ++ es) := by
  obtain ⟨honly, hmem, hctx, hcount, hwaits, hothers⟩ := h
  obtain ⟨honly', hmem', hctx', hcount', hwaits', hothers'⟩ := h'
  refine ⟨ctxOnly_trans honly honly', hmem'.trans hmem, ?_, ?_, ?_, fun k hk => ?_⟩
  · rw [hctx', hctx]
  · rw [hcount', hcount, List.length_append, BitVec.add_assoc, BitVec.ofNat_add]
  · rw [hwaits', hwaits, List.map_append, List.append_assoc]
  · obtain ⟨hw, hn⟩ := hothers k hk
    obtain ⟨hw', hn'⟩ := hothers' k hk
    exact ⟨hw'.trans hw, hn'.trans hn⟩

theorem foldl_fetchOne_ringFetched (ds : List Desc) (h : ∀ d ∈ ds, d.ctx = c ∧ d.ring = r) (s : State) :
    ringFetched s (ds.foldl (fun t d => t.fetchOne c r d) s) c r ds := by
  induction ds generalizing s with
  | nil => exact ringFetched_refl s c r
  | cons d ds ih =>
    obtain ⟨hc, hr⟩ := h d List.mem_cons_self
    exact ringFetched_trans (State.fetchOne_ringFetched hc hr) (ih (fun e he => h e (List.mem_cons_of_mem d he)) _)

/-- Descriptor i of a ring lies at entry i mod size of it, in the memory of the context's port (R372). -/
def State.ringDesc (s : State) (c : CtxId) (r : BitVec 2) (i : Nat) : Desc :=
  let ring := (s.ctx c).sq.getD r.toNat RingReg.init
  let k := (((s.ctx c).fetchedN.getD r.toNat 0).toNat + i) % 2 ^ 32 % 2 ^ ring.log2size.toNat
  { ctx := c, ring := r, index := BitVec.ofNat 16 k, bytes := s.hostRd (s.ctx c).port (ring.base.toNat + 64 * k) 64 }

theorem State.fetchSome_ringFetched (s : State) (c : CtxId) (r : BitVec 2) (n : Nat) :
    ringFetched s (s.fetchSome c r n) c r ((List.range (min 8 n)).map (s.ringDesc c r)) := by
  refine foldl_fetchOne_ringFetched _ (fun d hd => ?_) s
  obtain ⟨i, -, rfl⟩ := List.mem_map.mp hd
  exact ⟨rfl, rfl⟩

/-- The tail that a poll of a ring reads on its port's doorbell page (R370). -/
def State.tailRead (s : State) (c : CtxId) (r : BitVec 2) : U32 :=
  BitVec.ofNat 32 (leNat (s.hostRd (s.ctx c).port ((s.port (s.ctx c).port).dbpage.toNat + 4 * (4 * c.toNat + r.toNat)) 4))

/-- The state after a poll has read a ring's tail. -/
def State.withTail (s : State) (c : CtxId) (r : BitVec 2) : State := s.modCtx c (fun x => { x with tail := x.tail.set r.toNat (s.tailRead c r) })

/-- The state after a poll has read a tail too far ahead, and marked the ring stopped. -/
def State.withStop (s : State) (c : CtxId) (r : BitVec 2) : State :=
  s.modCtx c (fun x => { x with tail := x.tail.set r.toNat (s.tailRead c r), stopped := x.stopped ||| (1#4 <<< r.toNat) })

theorem State.withStop_eq (s : State) (c : CtxId) (r : BitVec 2) :
    s.withStop c r = (s.withTail c r).modCtx c (fun x => { x with stopped := x.stopped ||| (1#4 <<< r.toNat) }) := by
  rw [State.withTail, State.modCtx_modCtx]
  rfl

/-- A ring's pending count: its tail less its fetched count (R372). -/
def State.pendingCount (s : State) (c : CtxId) (r : BitVec 2) : Nat := (s.tailRead c r - (s.ctx c).fetchedN.getD r.toNat 0).toNat

section
variable (hset : ((s.ctx c).sq.getD r.toNat RingReg.init).log2size ≠ 0)
include hset

theorem State.pollRing_eq : (s.pollRing c r).1 =
    if (s.ctx c).stopped.getLsbD r.toNat = true then s.withTail c r
    else if 2 ^ ((s.ctx c).sq.getD r.toNat RingReg.init).log2size.toNat < s.pendingCount c r then
      (s.withStop c r).ringEvent c r 1 (s.tailRead c r) ((s.ctx c).fetchedN.getD r.toNat 0) 0
    else (s.withTail c r).fetchSome c r (s.pendingCount c r) := by
  by_cases hstopped : (s.ctx c).stopped.getLsbD r.toNat = true
  · rw [if_pos hstopped]
    exact congrArg Prod.fst ((if_neg hset).trans (if_pos hstopped))
  rw [if_neg hstopped]
  by_cases hover : 2 ^ ((s.ctx c).sq.getD r.toNat RingReg.init).log2size.toNat < s.pendingCount c r
  · rw [if_pos hover, State.withStop_eq]
    exact congrArg Prod.fst ((if_neg hset).trans ((if_neg hstopped).trans (if_pos hover)))
  · rw [if_neg hover]
    exact congrArg Prod.fst ((if_neg hset).trans ((if_neg hstopped).trans (if_neg hover)))
end

/-- The rings of a context stand as before, but for ring r's tail. -/
theorem State.ctx_withTail (s : State) (c : CtxId) (r : BitVec 2) :
    (s.withTail c r).ctx c = { s.ctx c with tail := (s.ctx c).tail.set r.toNat (s.tailRead c r) } := State.ctx_modCtx_same _ _ _

theorem State.ctx_withStop (s : State) (c : CtxId) (r : BitVec 2) : (s.withStop c r).ctx c =
    { s.ctx c with tail := (s.ctx c).tail.set r.toNat (s.tailRead c r), stopped := (s.ctx c).stopped ||| (1#4 <<< r.toNat) } := State.ctx_modCtx_same _ _ _

/-- A tail read moves nothing that a fetch reads. -/
theorem State.ringDesc_withTail (s : State) (c : CtxId) (r : BitVec 2) (i : Nat) : (s.withTail c r).ringDesc c r i = s.ringDesc c r i := by
  unfold State.ringDesc
  rw [State.ctx_withTail]
  rfl

/-- Bit r of a ring mask set: it is set, and no other moves. -/
theorem getLsbD_setRing (m : BitVec 4) (r : BitVec 2) : (m ||| (1#4 <<< r.toNat)).getLsbD r.toNat = true := by
  have hr := r.isLt
  simp [BitVec.getLsbD_or, BitVec.getLsbD_shiftLeft]
  omega

theorem getLsbD_setRing_of_ne (m : BitVec 4) {r k : BitVec 2} (h : k ≠ r) : (m ||| (1#4 <<< r.toNat)).getLsbD k.toNat = m.getLsbD k.toNat := by
  have hne : k.toNat ≠ r.toNat := fun e => h (BitVec.eq_of_toNat_eq e)
  simp [BitVec.getLsbD_or, BitVec.getLsbD_shiftLeft]
  omega

/-- Bit r of a ring mask cleared. -/
theorem getLsbD_clearRing (m : BitVec 4) (r : BitVec 2) : (m &&& ~~~(1#4 <<< r.toNat)).getLsbD r.toNat = false := by
  have hr := r.isLt
  simp [BitVec.getLsbD_and, BitVec.getLsbD_shiftLeft]

theorem getLsbD_clearRing_of_ne (m : BitVec 4) {r : BitVec 2} {k : Nat} (h : k ≠ r.toNat) : (m &&& ~~~(1#4 <<< r.toNat)).getLsbD k = m.getLsbD k := by
  by_cases hk : k < 4
  · have hbit : (1#4 <<< r.toNat).getLsbD k = false := by
      simp [BitVec.getLsbD_shiftLeft]
      omega
    rw [BitVec.getLsbD_and, BitVec.getLsbD_not, hbit]
    simp [hk]
  · rw [BitVec.getLsbD_of_ge _ _ (Nat.not_lt.mp hk), BitVec.getLsbD_of_ge _ _ (Nat.not_lt.mp hk)]

/-- Settles O41: a poll reads the tail, and then by the ring's mark and its pending count does nothing more, stops the ring, or fetches; a ring reset goes on
from the tail last read. -/
theorem ringsFetched : Obligations.RingsFetched := by
  intro s p c r x ring size tail f t y stopped
  refine ⟨fun hset => ?_, fun hmay hstop => ?_⟩
  · have hpoll : t = _ := State.pollRing_eq hset
    by_cases hstop : stopped = true
    · have ht : t = s.withTail c r := hpoll.trans (if_pos hstop)
      have hy : y = { x with tail := x.tail.set r.toNat tail } := (congrArg (State.ctx · c) ht).trans (s.ctx_withTail c r)
      rw [hy, ht]
      exact ⟨Tab.getD_set_same _ _ _ _, fun _ => ⟨rfl, rfl, rfl, rfl⟩, fun h => absurd (h.symm.trans hstop) (by decide),
        fun h => absurd (h.symm.trans hstop) (by decide), fun k _ => ⟨rfl, rfl, rfl⟩⟩
    have hrun : stopped = false := Bool.eq_false_iff.mpr hstop
    replace hpoll := hpoll.trans (if_neg hstop)
    by_cases hover : size < (tail - f).toNat
    · have ht := hpoll.trans (if_pos hover)
      have hy : y = { x with tail := x.tail.set r.toNat tail, stopped := x.stopped ||| (1#4 <<< r.toNat) } :=
        (congrArg (State.ctx · c) ht).trans (((State.attnOn_hostOnly _ _ _ _).ctx c).trans (s.ctx_withStop c r))
      rw [hy]
      exact ⟨Tab.getD_set_same _ _ _ _, fun h => absurd h hstop, fun _ _ => ⟨ht, getLsbD_setRing _ r, rfl, rfl⟩,
        fun _ hwithin => absurd hwithin (Nat.not_le.mpr hover), fun k hk => ⟨rfl, rfl, getLsbD_setRing_of_ne _ hk⟩⟩
    · have hfetched := State.fetchSome_ringFetched (s.withTail c r) c r (s.pendingCount c r)
      rw [← hpoll.trans (if_neg hover), funext (State.ringDesc_withTail s c r)] at hfetched
      obtain ⟨honly, hmem, hctx, hcount, hwaits, hothers⟩ := hfetched
      rw [State.ctx_withTail] at hctx hcount hwaits hothers
      have hstops : y.stopped = x.stopped := by rw [show y = _ from hctx]
      have htail : y.tail = x.tail.set r.toNat tail := by rw [show y = _ from hctx]; rfl
      refine ⟨by rw [htail]; exact Tab.getD_set_same _ _ _ _, fun h => absurd h hstop,
        fun _ h => absurd h hover, fun _ _ => ⟨hmem, ctxOnly_trans (ctxOnly_modCtx _ _ _) honly, hstops, ?_, ?_⟩, fun k hk => ?_⟩
      · rw [hcount, List.length_map, List.length_range]
        rfl
      · rw [hwaits, List.map_map]
        rfl
      · obtain ⟨hw, hn⟩ := hothers k hk
        exact ⟨hw, hn, by rw [hstops]⟩
  · have hreset : s.resetRing c r = _ := if_pos hstop
    refine ⟨_, congrArg Host.Outcome.next ((if_pos hmay).trans hreset), ctxOnly_modCtx _ _ _, ?_⟩
    rw [State.ctx_modCtx_same]
    exact ⟨Tab.getD_set_same _ _ _ _, getLsbD_clearRing _ r, fun k hk => ⟨getLsbD_clearRing_of_ne _ hk, Tab.getD_set_of_ne _ _ _ hk⟩⟩
end

/-! ### MSI-X vectors (R382, R383) -/

/-- The other host port. -/
theorem HostPort.other_ne (p : HostPort) : 1 - p ≠ p := by revert p; decide

section
variable {s t u : State} {p : HostPort} {v : BitVec 6}

/-- Only the vectors of port p and the hosts' memories differ. -/
def vecsOnly (p : HostPort) (s t : State) : Prop :=
  hostOnly s t ∧ (∀ q, q ≠ p → t.port q = s.port q) ∧ t.port p = { s.port p with vectors := (t.port p).vectors }

theorem vecsOnly_refl (p : HostPort) (s : State) : vecsOnly p s s := ⟨rfl, fun _ _ => rfl, rfl⟩

theorem vecsOnly_trans (p : HostPort) (s t u : State) (h : vecsOnly p s t) (h' : vecsOnly p t u) : vecsOnly p s u := by
  obtain ⟨hhost, hothers, hport⟩ := h
  obtain ⟨hhost', hothers', hport'⟩ := h'
  exact ⟨hostOnly_trans s t u hhost hhost', fun q hq => (hothers' q hq).trans (hothers q hq), by rw [hport', hport]⟩

theorem State.modVec_vecsOnly (s : State) (p : HostPort) (v : BitVec 6) (f : Vector383 → Vector383) : vecsOnly p s (s.modPort p (fun t => t.modVec v f)) :=
  ⟨rfl, fun _ hq => State.port_modPort_of_ne s _ hq, by rw [State.port_modPort_same]; rfl⟩

theorem State.hostWr_vecsOnly (s : State) (p q : HostPort) (a : Nat) (bs : Bytes) : vecsOnly p s (s.hostWr q a bs) := by
  unfold State.hostWr
  split_ifs
  · exact vecsOnly_refl p s
  · exact ⟨rfl, fun _ _ => rfl, rfl⟩

theorem State.sendMsi_vecsOnly (s : State) (p : HostPort) (v : BitVec 6) : vecsOnly p s (s.sendMsi p v) :=
  vecsOnly_trans p _ _ _ (s.hostWr_vecsOnly p p _ _) (State.modVec_vecsOnly _ p v _)

theorem State.tryMsi_vecsOnly (s : State) (p : HostPort) (v : BitVec 6) : vecsOnly p s (s.tryMsi p v) := by
  unfold State.tryMsi
  dsimp only
  split_ifs
  · exact vecsOnly_refl p s
  · exact s.modVec_vecsOnly p v _
  · exact s.sendMsi_vecsOnly p v
  · exact vecsOnly_refl p s

theorem State.noteVec_vecsOnly (s : State) (p : HostPort) (v : BitVec 6) (k : Nat) : vecsOnly p s (s.noteVec p v k) :=
  vecsOnly_trans p _ _ _ (s.modVec_vecsOnly p v _) (State.tryMsi_vecsOnly _ p v)

/-- Software bits set move the port's bits, its vectors, and the hosts' memories (R382). -/
theorem State.setSwpend_vecsOnly (s : State) (p : HostPort) (bits : U64) :
    vecsOnly p (s.modPort p (fun t => { t with swpend := t.swpend ||| bits })) (s.setSwpend p bits) :=
  foldl_frame (vecsOnly p) (vecsOnly_refl p) (vecsOnly_trans p) _ (fun t v => t.noteVec_vecsOnly p v 1) _ _

/-- A vector's mask and pending bit are no source of it, and move nothing that its message tests besides. -/
theorem State.vecAsserted_modVec (s : State) (p : HostPort) (v w : BitVec 6) (f : Vector383 → Vector383) :
    (s.modPort p (fun t => t.modVec v f)).vecAsserted p w = s.vecAsserted p w := by
  unfold State.vecAsserted
  rw [State.port_modPort_same]
  rfl

theorem State.vecMasked_modVec (s : State) (p : HostPort) (v : BitVec 6) (f : Vector383 → Vector383) :
    (s.modPort p (fun t => t.modVec v f)).vecMasked p v = ((f ((s.port p).vec v)).masked || (s.port p).funcMask) := by
  unfold State.vecMasked
  rw [State.port_modPort_same, Port.vec_modVec_same]
  rfl

/-- A message that is due is sent where nothing masks its vector, and sets its pending bit where something does (R383). -/
theorem State.fire_of_due (hasserted : s.vecAsserted p v = true) (hon : (s.port p).msixEnable = true) (hlive : (s.port p).lost = false) :
    s.fire p v = if s.vecMasked p v then s.modPort p (fun t => t.modVec v (fun e => { e with pending := true })) else s.sendMsi p v :=
  if_neg (by simp [hasserted, hon, hlive])

/-- The state with a vector's entry unmasked. -/
def State.unmasked (s : State) (p : HostPort) (v : BitVec 6) : State := s.modPort p (fun t => t.modVec v (fun e => { e with masked := false }))

theorem State.vec_unmasked (s : State) (p : HostPort) (v : BitVec 6) : ((s.unmasked p v).port p).vec v = { (s.port p).vec v with masked := false } := by
  rw [State.unmasked, State.port_modPort_same, Port.vec_modVec_same]

section
variable (hbars : s.boot.bars = true)
include hbars

theorem exec_msixUnmask : exec (.msixUnmask p v) s = .next ((s.unmasked p v).fireOrClear p v) := congrArg Host.Outcome.next (if_neg (by rw [hbars]; decide))

theorem exec_msixUnmask_of_asserted (hasserted : s.vecAsserted p v = true) (hon : (s.port p).msixEnable = true) (hlive : (s.port p).lost = false)
    (hfunc : (s.port p).funcMask = false) : exec (.msixUnmask p v) s = .next ((s.unmasked p v).sendMsi p v) := by
  have hasserted' : (s.unmasked p v).vecAsserted p v = true := (s.vecAsserted_modVec p v v _).trans hasserted
  have hmasked : (s.unmasked p v).vecMasked p v = false := by rw [State.unmasked, State.vecMasked_modVec, hfunc]; rfl
  have hport : (s.unmasked p v).port p = (s.port p).modVec v (fun e => { e with masked := false }) := State.port_modPort_same _ _ _
  rw [exec_msixUnmask hbars, State.fireOrClear, if_pos (by rw [hasserted']; rfl),
    State.fire_of_due hasserted' (by rw [hport]; exact hon) (by rw [hport]; exact hlive), if_neg (by rw [hmasked]; decide)]

theorem exec_msixUnmask_of_not_asserted (hasserted : s.vecAsserted p v = false) (hfunc : (s.port p).funcMask = false) :
    exec (.msixUnmask p v) s = .next ((s.unmasked p v).modPort p (fun t => t.modVec v (fun e => { e with pending := false }))) := by
  have hasserted' : (s.unmasked p v).vecAsserted p v = false := (s.vecAsserted_modVec p v v _).trans hasserted
  have hmasked : (s.unmasked p v).vecMasked p v = false := by rw [State.unmasked, State.vecMasked_modVec, hfunc]; rfl
  rw [exec_msixUnmask hbars, State.fireOrClear, if_neg (by rw [hasserted', hmasked]; decide)]

/-- MSI-X Enable set, or Function Mask cleared under it, tries every vector (R383). -/
theorem exec_msixEnable (on mask : Bool) : exec (.msixEnable { port := p, on := on, mask := mask }) s =
    let u := s.modPort p (fun t => { t with msixEnable := on, funcMask := mask })
    .next (if on = true ∧ ((s.port p).msixEnable = false ∨ ((s.port p).funcMask = true ∧ mask = false)) then allVectors.foldl (fun t v => t.fireOrClear p v) u
      else u) := by
  have htries : (on && (!(s.port p).msixEnable || ((s.port p).funcMask && !mask))) = true ↔
      on = true ∧ ((s.port p).msixEnable = false ∨ ((s.port p).funcMask = true ∧ mask = false)) := by simp
  exact congrArg Host.Outcome.next ((if_neg (by rw [hbars]; decide)).trans (if_congr htries rfl rfl))
end

/-! ### The attention ring (R384, R493) -/

/-- The port after a write of INTC.ATTN: a new base or size starts its ring afresh. -/
def Port.withAttn (t : Port) (v : Nat) : Port :=
  let fresh := t.attnBase.toNat ≠ v / 4096 * 4096 ∨ t.attnLog.toNat ≠ v % 16
  { t with attnLog := BitVec.ofNat 4 (v % 16), attnVector := BitVec.ofNat 6 (v / 16), attnBase := BitVec.ofNat 64 (v / 4096 * 4096)
           attnT := if fresh then 0 else t.attnT, attnHead := if fresh then 0 else t.attnHead }

/-- A register of a width differs from a number of that width exactly where its value does. -/
theorem bne_ofNat_iff {w n : Nat} (x : BitVec w) (h : n < 2 ^ w) : (x != BitVec.ofNat w n) = true ↔ x.toNat ≠ n := by
  rw [bne_iff_ne, not_iff_not]
  exact ⟨fun e => by rw [e, BitVec.toNat_ofNat, Nat.mod_eq_of_lt h], fun e => BitVec.eq_of_toNat_eq (by rw [e, BitVec.toNat_ofNat, Nat.mod_eq_of_lt h])⟩

/-- A ring of a size in range takes the write; once set up, no event waits for it (R439). -/
theorem State.writeAttn_of_seen (hbars : s.boot.bars = true) (hseen : s.integ.attnSeen.getD p.toNat false = true) {n : U64}
    (hsize : n.toNat % 16 = 0 ∨ (4 ≤ n.toNat % 16 ∧ n.toNat % 16 ≤ 12)) : s.writeAttn p n.toNat = s.modPort p (fun t => t.withAttn n.toNat) := by
  have htakes : ¬ (!s.bankMay || !(n.toNat % 16 == 0 || (decide (4 ≤ n.toNat % 16) && decide (n.toNat % 16 ≤ 12)))) = true := by
    simp only [State.bankMay, hbars]
    rcases hsize with hzero | ⟨hlo, hhi⟩
    · simp [hzero]
    · simp [hlo, hhi]
  have hfresh : ((s.port p).attnBase != BitVec.ofNat 64 (n.toNat / 4096 * 4096) || (s.port p).attnLog != BitVec.ofNat 4 (n.toNat % 16)) = true ↔
      (s.port p).attnBase.toNat ≠ n.toNat / 4096 * 4096 ∨ (s.port p).attnLog.toNat ≠ n.toNat % 16 := by
    have hn := n.isLt
    rw [Bool.or_eq_true, bne_ofNat_iff _ (by omega), bne_ofNat_iff _ (by omega)]
  refine (if_neg htakes).trans ((if_pos (.inr hseen)).trans ?_)
  simp only [hfresh]
  rfl
end

/-- Settles O42: each command of a vector makes the tests of R383 once; software bits and the attention ring are the port's own. -/
theorem interruptCommandsComplete : Obligations.InterruptCommandsComplete := by
  intro s p v e pend
  have hother := HostPort.other_ne p
  refine ⟨fun hasserted hon hlive => ⟨fun htime hn => ⟨fun hmask => ?_, fun hmask => ?_⟩, fun hsent hmask => ?_, fun hfunc hbars => ?_⟩,
    fun hasserted hfunc hbars => ?_, fun hbars on mask => ?_, fun hbars => ⟨?_, fun on mask => ?_⟩, fun hbars bits => ⟨?_, ?_⟩,
    fun value hbars hseen => ?_⟩
  · exact congrArg Host.Outcome.next ((if_neg (not_or.mpr ⟨htime, hn⟩)).trans ((State.fire_of_due hasserted hon hlive).trans (if_neg (by rw [hmask]; decide))))
  · refine ⟨_, congrArg Host.Outcome.next ((if_neg (not_or.mpr ⟨htime, hn⟩)).trans ((State.fire_of_due hasserted hon hlive).trans (if_pos hmask))), ?_, rfl⟩
    change ((State.modPort _ p _).port p).vec v = _
    rw [State.port_modPort_same, Port.vec_modVec_same]
  · exact congrArg Host.Outcome.next ((if_neg fun hnone => Option.isSome_iff_ne_none.mp hsent (Option.isNone_iff_eq_none.mp hnone)).trans ((State.fire_of_due hasserted hon hlive).trans (if_neg (by rw [hmask]; decide))))
  · exact ⟨s.unmasked p v, s.vec_unmasked p v, rfl, exec_msixUnmask_of_asserted hbars hasserted hon hlive hfunc⟩
  · refine ⟨_, exec_msixUnmask_of_not_asserted hbars hasserted hfunc, ?_, rfl⟩
    change ((State.modPort _ p _).port p).vec v = _
    rw [State.port_modPort_same, Port.vec_modVec_same, State.vec_unmasked]
  · exact ⟨s.modPort p (fun t => { t with msixEnable := on, funcMask := mask }), State.port_modPort_same _ _ _, State.port_modPort_of_ne s _ hother, rfl,
      exec_msixEnable hbars on mask⟩
  · exact congrArg Host.Outcome.next (if_pos (by rw [hbars]; rfl))
  · exact congrArg Host.Outcome.next (if_pos (by rw [hbars]; rfl))
  · obtain ⟨hhost, hothers, hport⟩ := s.setSwpend_vecsOnly p bits
    refine ⟨_, congrArg Host.Outcome.next (if_pos hbars), ?_, (hothers _ hother).trans (State.port_modPort_of_ne s _ hother), ?_, ?_⟩
    · rw [hport, State.port_modPort_same]
    · rw [hhost]; rfl
    · rw [hhost]; rfl
  · exact ⟨_, congrArg Host.Outcome.next (if_pos hbars), State.port_modPort_same _ _ _, rfl⟩
  · intro n fresh hsize
    refine ⟨_, congrArg Host.Outcome.next (State.writeAttn_of_seen hbars hseen hsize), rfl, State.port_modPort_of_ne s _ hother, ?_⟩
    rw [State.port_modPort_same]
    rfl

end Machine
end Sys2Proof
end

section
/-! PROOFS. Device time (13_host_interface.md, 14_selyn_trees.md): how it follows its source, and the exchanges of a tree. -/

namespace Sys2Proof.Machine

/-! ### The clock (R389, R410) -/

theorem steps_iff (offset : Int) (first : Bool) : steps offset first = true ↔ 0 < offset ∧ (first = true ∨ 1000000 < offset) := by
  simp [steps]

/-- The clock that follows an offset: one step forward, or a slew. -/
def Clock.followed (k : Clock) (offset : Int) (first : Bool) : Clock :=
  { k with now := if steps offset first = true then k.now + BitVec.ofInt 64 offset else k.now, slew := if steps offset first = true then 0 else offset }

/-- The clock with a source's exchange recorded. -/
def Clock.withSource (k : Clock) (i : Nat) (offset : Int) (trip : U32) : Clock :=
  { k with sources := k.sources.set i { exchanged := true, last := k.now, offset := offset, roundTrip := trip } }

theorem Clock.source_withSource (k : Clock) (i : Nat) (offset : Int) (trip : U32) :
    (k.withSource i offset trip).sources.get? i = some { exchanged := true, last := k.now, offset := offset, roundTrip := trip } := by
  simp [Clock.withSource, Tab.get?_set]

theorem State.follow_eq (s : State) (offset : Int) (first : Bool) : s.follow offset first = { s with clock := s.clock.followed offset first } := by
  unfold State.follow Clock.followed
  by_cases h : steps offset first = true
  · rw [if_pos ((steps_iff offset first).mp h), if_pos h, if_pos h]
  · rw [if_neg (mt (steps_iff offset first).mpr h), if_neg h, if_neg h]

/-- A step by the difference from device time leads to the source's time. -/
theorem add_ofInt_sub (master now : U64) : now + BitVec.ofInt 64 ((master.toNat : Int) - now.toNat) = master := by
  apply BitVec.eq_of_toInt_eq
  rw [BitVec.toInt_add, BitVec.toInt_ofInt, BitVec.toInt_eq_toNat_bmod, BitVec.toInt_eq_toNat_bmod, Int.bmod_add_bmod, Int.add_bmod_bmod]
  congr 1
  omega

/-! ### PTM_EXCHANGE (R389) -/

section
variable {s : State} {p : HostPort}

/-- The owner's port is the source, but where a tree formed above gives one. -/
def State.followsPort (s : State) (p : HostPort) : Prop := s.owner? = some p ∧ ¬ (s.regs.treeFormed = true ∧ s.uplink?.isSome = true)

variable (hlive : (s.port p).lost = false) (master : U64) (trip : U32)
include hlive

theorem exec_ptmExchange_of_source (hsource : s.followsPort p) :
    let offset : Int := (master.toNat : Int) - s.clock.now.toNat
    exec (.ptmExchange p master trip) s =
      .next { s with clock := { (s.clock.withSource p.toNat offset trip).followed offset (!s.clock.synced) with synced := true } } := by
  obtain ⟨howner, hfree⟩ := hsource
  intro offset
  change execPtmExchange p master trip s = _
  rw [execPtmExchange, if_neg (by rw [hlive]; decide)]
  dsimp only
  rw [if_neg (not_or.mpr ⟨not_not.mpr howner, hfree⟩), State.follow_eq]
  rfl

theorem exec_ptmExchange_of_other (hother : ¬ s.followsPort p) :
    exec (.ptmExchange p master trip) s = .next { s with clock := s.clock.withSource p.toNat ((master.toNat : Int) - s.clock.now.toNat) trip } := by
  have hrecords : s.owner? ≠ some p ∨ (s.regs.treeFormed = true ∧ s.uplink?.isSome = true) := by
    unfold State.followsPort at hother
    tauto
  change execPtmExchange p master trip s = _
  rw [execPtmExchange, if_neg (by rw [hlive]; decide)]
  dsimp only
  rw [if_pos hrecords]
  rfl
end

/-! ### Exchanges in a tree (R410) -/

/-- Half of what t1 to t4 say of the parent's time, rounded down (log 61). -/
def timeOffset (t1 t2 t3 t4 : U64) : Int := (((t2.toNat : Int) - t1.toNat) + ((t3.toNat : Int) - t4.toNat)) / 2

/-- The round trip that t1 to t4 give. -/
def timeTrip (t1 t2 t3 t4 : U64) : U32 := BitVec.ofInt 32 (((t4.toNat : Int) - t1.toNat) - ((t3.toNat : Int) - t2.toNat))

/-- The clock after a parent's answer: its offset recorded, and no request outstanding. -/
def Clock.answered (k : Clock) (offset : Int) (trip : U32) : Clock := { k.withSource 2 offset trip with sentT1 := none }

/-- What an accepted TIME_RESP brings: nothing but to the request that is outstanding on the uplink; a formed tree whose uplink is not lost is followed. -/
def State.hearAnswer (u : State) (n : SelynPort) (t1 t2 t3 : U64) : State :=
  let offset := timeOffset t1 t2 t3 u.clock.now
  let k := u.clock.answered offset (timeTrip t1 t2 t3 u.clock.now)
  if u.uplink? ≠ some n ∨ u.clock.sentT1 ≠ some t1 then u
  else if (u.regs.treeFormed && !u.uplinkLost) = true then { u with clock := { k.followed offset (!u.clock.treeSet) with treeSet := true } }
  else { u with clock := k }

theorem exec_timeResp {s : State} {n : SelynPort} {h : FrameHdr} (ha : accepts s n h = true) (t1 t2 t3 : U64) :
    exec (.timeResp n h t1 t2 t3) s = .next ((heard s n h).hearAnswer n t1 t2 t3) := by
  change execTimeResp n h t1 t2 t3 s = _
  rw [execTimeResp, State.control_of_accepts ha]
  generalize heard s n h = u
  unfold State.hearAnswer
  simp only [State.follow_eq]
  rfl

theorem exec_timeReq {s : State} {n : SelynPort} {h : FrameHdr} (ha : accepts s n h = true) (t1 : U64) :
    exec (.timeReq n h t1) s = .next ((heard s n h).sendControl n 0x05
      (toLE 8 t1.toNat ++ toLE 8 (heard s n h).clock.now.toNat ++ toLE 8 (heard s n h).clock.now.toNat)) := by
  change execTimeReq n h t1 s = _
  rw [execTimeReq, State.control_of_accepts ha]
  rfl

section
variable {u : State} {n : SelynPort} {t1 t2 t3 : U64} (huplink : u.uplink? = some n) (hsent : u.clock.sentT1 = some t1)
include huplink hsent

theorem State.hearAnswer_of_followed (hformed : u.regs.treeFormed = true) (hlost : u.uplinkLost = false) :
    let offset := timeOffset t1 t2 t3 u.clock.now
    u.hearAnswer n t1 t2 t3 = { u with clock :=
      { (u.clock.answered offset (timeTrip t1 t2 t3 u.clock.now)).followed offset (!u.clock.treeSet) with treeSet := true } } :=
  (if_neg (by simp [huplink, hsent])).trans (if_pos (by simp [hformed, hlost]))

theorem State.hearAnswer_of_free (hfree : u.regs.treeFormed = false ∨ u.uplinkLost = true) :
    u.hearAnswer n t1 t2 t3 = { u with clock := u.clock.answered (timeOffset t1 t2 t3 u.clock.now) (timeTrip t1 t2 t3 u.clock.now) } :=
  (if_neg (by simp [huplink, hsent])).trans (if_neg (by rcases hfree with h | h <;> simp [h]))
end

/-- TIME_EXCHANGE asks the parent, in a formed tree whose uplink is up and not lost. -/
theorem exec_timeExchange_of_uplink {s : State} {n : SelynPort} (huplink : s.uplink? = some n) (hasks : (s.regs.treeFormed && (s.link n).up && !s.uplinkLost) = true) :
    exec .timeExchange s =
      .next (({ s with clock := { s.clock with sentT1 := some s.clock.now } } : State).sendControl n 0x04 (toLE 8 s.clock.now.toNat)) := by
  change execTimeExchange s = _
  rw [execTimeExchange, huplink]
  exact congrArg Host.Outcome.next (if_pos hasks)

theorem exec_timeExchange_of_free {s : State} (hfree : s.uplink? = none ∨ s.uplinkLost = true) : exec .timeExchange s = .next s := by
  change execTimeExchange s = _
  unfold execTimeExchange
  cases huplink : s.uplink? with
  | none => rfl
  | some n =>
    have hlost : s.uplinkLost = true := hfree.resolve_left (by simp [huplink])
    exact congrArg Host.Outcome.next (if_neg (by simp [hlost]))

/-- Settles O58: every exchange records its source, and one from the source that governs moves device time by its offset alone. -/
theorem deviceTimeFollows : Obligations.DeviceTimeFollows := by
  intro s
  refine ⟨fun p master trip hlive => ?_, fun n h t1 t2 t3 ha => ?_,
    fun n huplink hformed hup hlost => exec_timeExchange_of_uplink huplink (by simp [hformed, hup, hlost]), exec_timeExchange_of_free⟩
  · intro offset follows jumps
    by_cases hsource : follows
    · refine ⟨_, exec_ptmExchange_of_source hlive master trip hsource, rfl, Clock.source_withSource _ _ _ _, ?_, ?_, fun _ => ⟨rfl, rfl⟩,
        fun h => absurd hsource h⟩
      · by_cases hjump : jumps = true
        · rw [if_pos ⟨hsource, hjump⟩]
          exact (if_pos hjump).trans (add_ofInt_sub master s.clock.now)
        · rw [if_neg fun h => hjump h.2]
          exact if_neg hjump
      · change s.clock.now.toNat ≤ BitVec.toNat (if jumps = true then s.clock.now + BitVec.ofInt 64 offset else s.clock.now)
        split
        case isTrue hjump =>
          obtain ⟨hpos, -⟩ := (steps_iff _ _).mp hjump
          rw [add_ofInt_sub master s.clock.now]
          omega
        case isFalse => exact le_refl _
    · exact ⟨_, exec_ptmExchange_of_other hlive master trip hsource, rfl, Clock.source_withSource _ _ _ _, (if_neg fun h => hsource h.1).symm, le_refl _,
        fun h => absurd h hsource, fun _ => ⟨rfl, rfl⟩⟩
  · have hreq := exec_timeReq ha t1
    have hresp := exec_timeResp ha t1 t2 t3
    generalize heard s n h = u at hreq hresp ⊢
    refine ⟨hreq, fun huplink hsent => ?_, fun hother => hresp.trans (congrArg _ (if_pos hother))⟩
    by_cases hgoverns : u.regs.treeFormed = true ∧ u.uplinkLost = false
    · obtain ⟨hformed, hlost⟩ := hgoverns
      refine ⟨_, hresp.trans (congrArg _ (State.hearAnswer_of_followed huplink hsent hformed hlost)), rfl, rfl,
        ⟨_, Clock.source_withSource _ _ _ _, rfl, rfl⟩, fun _ _ => ⟨rfl, rfl, rfl⟩, fun hfree => ?_⟩
      rcases hfree with h | h
      · exact absurd (h.symm.trans hformed) (by decide)
      · exact absurd (h.symm.trans hlost) (by decide)
    · have hfree : u.regs.treeFormed = false ∨ u.uplinkLost = true := by
        simpa [imp_iff_not_or] using hgoverns
      exact ⟨_, hresp.trans (congrArg _ (State.hearAnswer_of_free huplink hsent hfree)), rfl, rfl,
        ⟨_, Clock.source_withSource _ _ _ _, rfl, rfl⟩, fun hformed hlost => absurd ⟨hformed, hlost⟩ hgoverns, fun _ => ⟨rfl, rfl⟩⟩

end Sys2Proof.Machine
end

section
/-! PROOFS. Pins, the loss of the device's state and Dawn's steps (17_dawn_security_vesper.md, 19_package_and_electrical.md), and the management target. -/

namespace Sys2Proof

/-! ### Memory and tables that a loss keeps a part of -/

namespace Machine

/-- A filter by keys that lets no cell of a key pass leaves that key unlisted. -/
theorem Memory.get_filter_absent {m : Memory} {x : Nat} {p : Nat → Bool} (h : p x = false) : Memory.get (m.filter (fun c => p c.1)) x = Memory.unlisted := by
  refine Memory.get_absent fun c hc hx => ?_
  have hp : p c.1 = true := by simpa using (List.mem_filter.mp hc).2
  rw [hx, h] at hp
  cases hp

/-- The hosts' memories lie below the boot window's keys (log 8). -/
theorem Space.key_host_lt (p : HostPort) (a : Nat) : (Space.host p).key a < Space.boot.key 0 := by
  have hp : p.toNat * spaceSize ≤ 1 * spaceSize := Nat.mul_le_mul_right _ (Nat.lt_succ_iff.mp p.isLt)
  have ha : a % spaceSize < spaceSize := Nat.mod_lt a (by decide)
  simp only [Space.key, Space.index, Nat.zero_mod, Nat.add_zero]
  omega

theorem Space.key_boot_ge (a : Nat) : Space.boot.key 0 ≤ Space.boot.key a := by
  simp only [Space.key, Nat.zero_mod, Nat.add_zero]
  omega

/-! ### The loss of the device's state (R479, R505 to R507) -/

section
variable (s : State) (p : HostPort)

theorem State.port_lose : s.lose.port p = { Port.init with perstN := (s.port p).perstN } := by
  have hmap : s.lose.port p = ((s.ports.get? p.toNat).map (fun t => ({ Port.init with perstN := t.perstN } : Port))).getD Port.init :=
    congrArg (Option.getD · Port.init) (Tab.get?_mapVal s.ports (fun _ t => ({ Port.init with perstN := t.perstN } : Port)) p.toNat)
  rw [hmap, State.port, Tab.getD]
  cases s.ports.get? p.toNat <;> rfl

theorem State.hostRd_lose (a : Nat) : s.lose.hostRd p a 1 = s.hostRd p a 1 := by
  have hkept : Memory.get s.lose.mem ((Space.host p).key a) = Memory.get s.mem ((Space.host p).key a) :=
    Memory.get_filter (p := fun k => decide (k < Space.boot.key 0)) (decide_eq_true (Space.key_host_lt p a))
  simp [State.hostRd, State.get, Memory.read, hkept]

theorem State.get_boot_lose (a : Nat) : s.lose.get .boot a 1 = [Memory.unlisted] := by
  have hlost : Memory.get s.lose.mem (Space.boot.key a) = Memory.unlisted :=
    Memory.get_filter_absent (p := fun k => decide (k < Space.boot.key 0)) (decide_eq_false (Nat.not_lt.mpr (Space.key_boot_ge a)))
  simp [State.get, Memory.read, hlost]

/-- Everything but the fuses, the card, the hosts' memories, PERST#, the queue and the pins is as at reset. -/
theorem State.lose_eq : s.lose = { State.reset with
    pending := s.pending, fresh := s.fresh, mem := s.lose.mem, power := s.lose.power, boot := { Boot.init with fuses := s.boot.fuses }
    vesper := { Vesper.init with socket := s.vesper.socket }, ports := s.lose.ports } := rfl
end

/-- Settles O50: each of the four moves the pins and loses the state. -/
theorem resetLosesState : Obligations.ResetLosesState := by
  intro s hreset i hi hrails
  simp only [List.mem_cons, List.not_mem_nil, or_false] at hi
  rcases hi with rfl | rfl | rfl | rfl
  · exact ⟨_, congrArg Host.Outcome.next (if_neg (by rw [hreset]; decide)), State.lose_eq _, State.port_lose _, State.hostRd_lose _, State.get_boot_lose _,
      rfl, rfl, rfl, rfl, rfl, rfl⟩
  · exact ⟨_, congrArg Host.Outcome.next (if_pos hreset), State.lose_eq _, State.port_lose _, State.hostRd_lose _, State.get_boot_lose _,
      rfl, rfl, rfl, hreset, rfl, rfl⟩
  · exact ⟨_, congrArg Host.Outcome.next (if_neg (by rw [hrails rfl]; decide)), State.lose_eq _, State.port_lose _, State.hostRd_lose _, State.get_boot_lose _,
      rfl, rfl, rfl, hreset, rfl, rfl⟩
  · exact ⟨_, rfl, State.lose_eq _, State.port_lose _, State.hostRd_lose _, State.get_boot_lose _, rfl, rfl, rfl, hreset, rfl, rfl⟩

/-! ### What a report leaves (R384) -/

section
variable {s t : State} (h : reportOnly s t)
include h

theorem reportOnly.power : t.power = s.power := by
  unfold reportOnly at h
  rw [h]

theorem reportOnly.boot : t.boot = s.boot := by
  unfold reportOnly at h
  rw [h]

theorem reportOnly.regs : t.regs = s.regs := by
  unfold reportOnly at h
  rw [h]
end

/-! ### The pins (R505 to R507) -/

section
variable {s : State} {l : Location} {ls : List Location}

/-- A checker that fails its self-test while there is room is entered, and its event queued; nothing else moves (R439). -/
theorem State.selftestFail_of_room (h : s.integ.detected.length < 64) :
    ∃ k : Counter, ∃ q, s.selftestFail l = { s with integ := { s.integ with detected := s.integ.detected ++ [k], queued := q } } :=
  ⟨_, _, if_pos h⟩

/-- Any failing checker moves the counters, and what an event reported moves. -/
theorem State.selftestFail_power (s : State) (l : Location) : (s.selftestFail l).power = s.power := by
  unfold State.selftestFail
  dsimp only
  split_ifs
  · rfl
  · exact (State.devEvent_reportOnly _ _ _).power
  · rfl

theorem foldl_selftestFail_power (ls : List Location) (s : State) : (ls.foldl State.selftestFail s).power = s.power :=
  foldl_frame (fun s t => t.power = s.power) (fun _ => rfl) (fun _ _ _ h h' => h'.trans h) _ State.selftestFail_power ls s

/-- Failing checkers that find room move the counters alone. -/
theorem foldl_selftestFail_mem (ls : List Location) {s : State} (h : ls.length + s.integ.detected.length ≤ 64) : (ls.foldl State.selftestFail s).mem = s.mem := by
  induction ls generalizing s with
  | nil => rfl
  | cons l ls ih =>
    rw [List.length_cons] at h
    obtain ⟨k, q, hfail⟩ := State.selftestFail_of_room (l := l) (show s.integ.detected.length < 64 by omega)
    rw [List.foldl_cons, ih (by rw [hfail, List.length_append, List.length_singleton]; omega), hfail]

end

/-- Settles O49: each command of the pins tests them once, and moves them. -/
theorem pinsFollowSupply : Obligations.PinsFollowSupply := by
  intro s w on
  refine ⟨fun hvin => ⟨rfl, congrArg Host.Outcome.next (if_neg (by rw [hvin]; decide))⟩, fun hvin => congrArg Host.Outcome.next (if_pos hvin),
    fun hvin htrip => congrArg Host.Outcome.next (if_pos (by rw [hvin, htrip]; rfl)), fun htrip => congrArg Host.Outcome.next (if_neg (by rw [htrip]; simp)),
    fun hreset => ⟨congrArg Host.Outcome.next (if_pos (by rw [hreset]; rfl)), ?_, fun failed hpwrgd => ?_, fun failed hpwrgd => ?_⟩,
    fun hearly hpwrgd hreset => congrArg Host.Outcome.next (if_pos (by rw [hearly, hpwrgd, hreset]; rfl)),
    fun hearly => congrArg Host.Outcome.next (if_neg (by rw [hearly]; simp)), fun hrails => congrArg Host.Outcome.next (if_pos (by rw [hrails]; rfl))⟩
  · change execVinLow s = _
    have hpins : on { w with vin := false, rails := false, pwrgd := false, awaitReset := w.resetN, early := false } =
        on { w with vin := false, rails := false, pwrgd := false, awaitReset := false, early := false } := by
      dsimp only [w]
      rw [hreset]
    exact (congrArg Host.Outcome.next (if_neg (by rw [hreset]; decide))).trans (congrArg Host.Outcome.next hpins)
  · have hreleases : exec (.resetRelease failed) s = .next (({ s with power := { s.power with resetN := true } } : State).selfTest failed) :=
      congrArg Host.Outcome.next ((if_neg (by rw [hreset]; decide)).trans (if_pos hpwrgd))
    refine ⟨_, hreleases, rfl, rfl, rfl, ?_, fun hroom => ?_, fun hnone => by rw [hnone]; rfl⟩
    · exact congrArg Power.resetN (foldl_selftestFail_power failed.dedup _)
    · have hle := failed.dedup_sublist.length_le
      exact foldl_selftestFail_mem failed.dedup (by dsimp only; omega)
  · exact congrArg Host.Outcome.next ((if_neg (by rw [hreset]; decide)).trans (if_neg (by rw [hpwrgd]; decide)))

end Machine
end Sys2Proof
end

section
/-! PROOFS. Dawn from W3 to the lock (17_dawn_security_vesper.md). -/

namespace Sys2Proof.Machine

/-! ### Dawn from W3 to the lock (R459 to R464) -/

/-- What a measurement moves: the log of R465 alone. -/
def measureOnly (s t : State) : Prop := t = { s with boot := { s.boot with log := t.boot.log, logTotal := t.boot.logTotal, accumulator := t.boot.accumulator } }

theorem measureOnly.trans {s t u : State} (h : measureOnly s t) (h' : measureOnly t u) : measureOnly s u := by
  unfold measureOnly at *
  rw [h', h]

theorem State.measure_measureOnly (s : State) (kind ctx card : Byte) (id : Nat) (digest : Bytes) : measureOnly s (s.measure kind ctx card id digest) := rfl

theorem foldl_measure_measureOnly (burns : List Bytes) (s : State) : measureOnly s (burns.foldl (fun t d => t.measure 5 0 0 0 d) s) :=
  foldl_frame measureOnly (fun _ => rfl) (fun _ _ _ => measureOnly.trans) _ (fun s d => s.measure_measureOnly 5 0 0 0 d) burns s

section
variable {s t : State} (h : measureOnly s t)
include h

theorem measureOnly.regs : t.regs = s.regs := by
  unfold measureOnly at h
  rw [h]

theorem measureOnly.power : t.power = s.power := by
  unfold measureOnly at h
  rw [h]
end

/-- What the burns of an accepted image move: the fuses, and their digests that wait for the measurement log (R463). -/
def burnOnly (s t : State) : Prop := t = { s with boot := { s.boot with fuses := t.boot.fuses, burns := t.boot.burns } }

theorem State.burn_burnOnly (s : State) (f : Fuses) : burnOnly s (s.burn f) := by
  unfold State.burn
  split <;> rfl

theorem burnOnly.trans {s t u : State} (h : burnOnly s t) (h' : burnOnly t u) : burnOnly s u := by
  unfold burnOnly at *
  rw [h', h]

theorem burnOnly.ite {s t u : State} {c : Prop} [Decidable c] (ht : burnOnly s t) (hu : burnOnly s u) : burnOnly s (if c then t else u) := by
  split
  · exact ht
  · exact hu

theorem State.burnFuses_burnOnly (s : State) : burnOnly s s.burnFuses :=
  have hfloor {f : Fuses} {raise : Prop} [Decidable raise] : burnOnly s (if raise then s.burn f else s) := (s.burn_burnOnly f).ite rfl
  (hfloor.trans (State.burn_burnOnly _ _)).ite hfloor

theorem State.burnFuses_fuses (s : State) : s.burnFuses.boot.fuses = s.burntFuses :=
  congrArg (fun v => v.2.2.2.2.2.2.2.1) s.burnFuses_spine

theorem State.burntFuses_revoked (s : State) : s.burntFuses.revoked =
    if bitAt (s.get .boot 0 32) 10 1 = true ∧ fld (s.get .boot 0 32) 9 1 = 1 then s.boot.fuses.revoked ||| 1 else s.boot.fuses.revoked := by
  unfold State.burntFuses
  dsimp only
  have hfloor : ∀ f : Fuses, f.revoked = s.boot.fuses.revoked →
      (if bitAt (s.get .boot 0 32) 10 1 = true ∧ fld (s.get .boot 0 32) 9 1 = 1 then { f with revoked := f.revoked ||| 1 } else f).revoked =
        if bitAt (s.get .boot 0 32) 10 1 = true ∧ fld (s.get .boot 0 32) 9 1 = 1 then s.boot.fuses.revoked ||| 1 else s.boot.fuses.revoked := by
    intro f hf
    split
    · exact congrArg (· ||| 1) hf
    · exact hf
  refine hfloor _ ?_
  split <;> rfl

/-- A port that starts to train when it is enabled and down (R392). -/
def Link.started (l : Link) : Link := if l.enable && l.state == .down then { l with state := .training, lanes := 0, retrain := none } else l

theorem Link.started_of_down {l : Link} (he : l.enable = true) (hd : l.state = .down) : l.started = { l with state := .training, lanes := 0, retrain := none } :=
  if_pos (by rw [he, hd]; rfl)

theorem Link.started_of_disabled {l : Link} (he : l.enable = false) : l.started = l := if_neg (by rw [he]; simp)

theorem Link.started_started (l : Link) : l.started.started = l.started := by
  by_cases h : (l.enable && l.state == .down) = true
  · rw [show l.started = { l with state := .training, lanes := 0, retrain := none } from if_pos h]
    exact if_neg (by simp)
  · rw [show l.started = l from if_neg h, show l.started = l from if_neg h]

theorem State.startTraining_eq (s : State) (n : SelynPort) : s.startTraining n = s.modLink n Link.started := rfl

theorem foldl_startTraining_eq (ns : List SelynPort) (s : State) : ns.foldl State.startTraining s = { s with links := (ns.foldl State.startTraining s).links } :=
  foldl_frame (fun s t => t = { s with links := t.links }) (fun _ => rfl) (fun _ _ _ h h' => by rw [h', h]) _ (fun _ _ => rfl) ns s

theorem foldl_startTraining_link (ns : List SelynPort) (s : State) (n : SelynPort) :
    (ns.foldl State.startTraining s).link n = if n ∈ ns then (s.link n).started else s.link n := by
  induction ns generalizing s with
  | nil => rfl
  | cons m ns ih =>
    rw [List.foldl_cons, ih, State.startTraining_eq]
    by_cases hm : n = m
    · subst hm
      simp [Link.started_started]
    · simp [State.link_modLink_of_ne s _ hm, hm]

/-- The lock starts each port that may train, and leaves the others (R464). -/
theorem State.link_lock {s : State} {p : HostPort} (h : s.owner? = some p ∧ s.boot.state = 3) (n : SelynPort) : (s.lock p).link n = (s.link n).started := by
  rw [State.lock, if_pos h]
  exact (foldl_startTraining_link _ _ n).trans (if_pos (List.mem_finRange n))

theorem State.lock_eq {s : State} {p : HostPort} (h : s.owner? = some p ∧ s.boot.state = 3) :
    s.lock p = { s with boot := { s.boot with locked := true, state := 4 }, stepUnits := s.regs.stepmem.toNat, links := (s.lock p).links } := by
  rw [State.lock, if_pos h]
  exact foldl_startTraining_eq _ _

/-- Of an accepted image everything moves in the boot block alone (R462, R463). -/
theorem State.acceptImage_boot (s : State) : s.acceptImage = { s with boot := { s.boot with
    status := 0, slot := BitVec.ofNat 1 (fld (s.get .boot 0 32) 9 1), fwid := BitVec.ofNat 64 (fld (s.get .boot 0 32) 16 8)
    fwDigest := shake256 s.firmwareImage 64, firmware := true, verifyAt := none, fuses := s.burntFuses, burns := s.burnFuses.boot.burns
    log := s.acceptImage.boot.log, logTotal := s.acceptImage.boot.logTotal, accumulator := s.acceptImage.boot.accumulator } } := by
  have hburns := s.burnFuses_burnOnly
  have hmeasured : measureOnly { s.burnFuses with boot := { s.burnFuses.boot with
      status := 0, slot := BitVec.ofNat 1 (fld (s.get .boot 0 32) 9 1), fwid := BitVec.ofNat 64 (fld (s.get .boot 0 32) 16 8)
      fwDigest := shake256 s.firmwareImage 64, firmware := true, verifyAt := none } } s.acceptImage := rfl
  rw [← s.burnFuses_fuses]
  generalize s.acceptImage = u at hmeasured ⊢
  generalize s.burnFuses = t at hburns hmeasured ⊢
  unfold burnOnly at hburns
  unfold measureOnly at hmeasured
  rw [hburns] at hmeasured
  exact hmeasured

/-- Settles O51: each step of Dawn tests its state once. -/
theorem dawnSequence : Obligations.DawnSequence := by
  intro s p b
  refine ⟨fun hbm hpwrgd hreset hself hbars => congrArg Host.Outcome.next (if_neg (by rw [hpwrgd, hreset, hself, hbars]; decide)), fun off data ho h1 hlen => ?_,
    fun off data h1 => congrArg Host.Outcome.next (if_neg (fun h => h1 h.2)), fun ho h1 => congrArg Host.Outcome.next (if_pos ⟨ho, h1⟩),
    fun h1 => congrArg Host.Outcome.next (if_neg (fun h => h1 h.2)), fun h2 hfirm => ⟨fun hst => ?_, fun hst => ?_⟩, fun trained dimms socket h2 hfirm => ?_, fun ho h3 => ?_,
    fun hn => congrArg Host.Outcome.next (if_neg hn)⟩
  · have hfits : data.take (bootWindow - off.toNat) = data := List.take_of_length_le (by unfold bootWindow; omega)
    refine ⟨s.put .boot off.toNat data, ?_, s.get_put_same _ _ _, rfl⟩
    exact congrArg Host.Outcome.next ((if_pos ⟨ho, h1⟩).trans (by rw [hfits]))
  · have hverifies : ¬ (s.boot.state ≠ 2 ∨ s.boot.firmware = true) := not_or.mpr ⟨fun h => h h2, by rw [hfirm]; decide⟩
    exact congrArg Host.Outcome.next ((if_neg hverifies).trans (if_neg hst))
  · have hverifies : ¬ (s.boot.state ≠ 2 ∨ s.boot.firmware = true) := not_or.mpr ⟨fun h => h h2, by rw [hfirm]; decide⟩
    refine ⟨_, congrArg Host.Outcome.next (((if_neg hverifies).trans (if_pos hst)).trans s.acceptImage_boot), rfl, rfl, h2, rfl, rfl, rfl, s.burntFuses_revoked, rfl, rfl⟩
  · have hrestores : ¬ (s.boot.state ≠ 2 ∨ (!s.boot.firmware) = true) := not_or.mpr ⟨fun h => h h2, by rw [hfirm]; decide⟩
    refine ⟨_, congrArg Host.Outcome.next (if_neg hrestores), rfl, ?_, ?_, ?_⟩
    · dsimp only
      rw [(foldl_measure_measureOnly _ _).regs]
    · dsimp only
      rw [(foldl_measure_measureOnly _ _).regs]
    · dsimp only
      rw [(foldl_measure_measureOnly _ _).power]
  · have hlock : s.owner? = some p ∧ s.boot.state = 3 := ⟨ho, h3⟩
    have heq := State.lock_eq hlock
    refine ⟨s.lock p, rfl, ?_, ?_, fun n he hd => ?_, fun n he => ?_, ?_⟩
    · rw [heq]
    · rw [heq]
    · rw [State.link_lock hlock, Link.started_of_down he hd]
    · rw [State.link_lock hlock, Link.started_of_disabled he]
    · exact heq.trans (by rw [heq])

end Sys2Proof.Machine
end

section
/-! PROOFS. The management target (19_package_and_electrical.md). -/

namespace Sys2Proof.Machine

/-- The table of R508 holds twelve bytes. -/
theorem State.length_mgmtBytes (s : State) : s.mgmtBytes.length = 12 := by
  simp [State.mgmtBytes]

theorem State.mgmtBytes_eq (s : State) : s.mgmtBytes =
    [0x80, 0x09, 0xB1, s.boot.state.setWidth 8, s.power.current.setWidth 8, s.power.cause.setWidth 8] ++ toLE 2 s.hottest ++ toLE 2 s.avgWatts ++
      [s.vesper.card.setWidth 8, if s.power.thermtrip = true then 1 else 0] := by
  have hid : toLE 2 0x0980 = [0x80, 0x09] := by decide
  rw [State.mgmtBytes, hid]
  simp only [BitVec.ofNat_toNat]
  rfl

/-- Settles O54: a read that the table covers takes no free byte. -/
theorem managementTarget : Obligations.ManagementTarget := by
  intro s
  refine ⟨fun hpwrgd htrip => ?_, fun hpwrgd => ?_, ?_⟩
  · have hsilent : s.mgmtAnswers = false := by rw [State.mgmtAnswers, hpwrgd, htrip, Bool.and_false, Bool.or_false]
    exact ⟨fun x => congrArg Host.Outcome.next (if_neg (by rw [hsilent]; decide)), fun n => congrArg Host.Outcome.next (if_pos (by rw [hsilent]; rfl))⟩
  · have hanswers : s.mgmtAnswers = true := by rw [State.mgmtAnswers, hpwrgd, Bool.true_or]
    refine ⟨fun x => congrArg Host.Outcome.next (if_pos hanswers), fun n hn => ⟨_, congrArg Host.Outcome.next (if_neg (by rw [hanswers]; decide)), ?_, rfl, rfl⟩⟩
    have hlisted : ((s.mgmtBytes.drop s.power.mgmtIndex.toNat).take n.toNat).length = n.toNat := by
      rw [List.length_take, List.length_drop, s.length_mgmtBytes]
      omega
    rw [← s.mgmtBytes_eq]
    dsimp only [State.freeBytes]
    rw [hlisted, Nat.sub_self]
    exact List.append_nil _
  · rw [State.alertLow, Bool.and_eq_true, bne_iff_ne]

end Sys2Proof.Machine
end

section
/-! PROOFS. Levels, trims and device Dusk (16_power_modes.md). -/

namespace Sys2Proof.Machine

/-! ### Levels and trims (R444 to R448) -/

section
variable (s : State)

/-- What a ramp that has just begun has reached: the voltage it began from. -/
theorem rampedMv_start (a b : Nat) : (if a ≤ b then min b (a + 0) else max b (a - 0)) = a := by
  split <;> omega

/-- A ramp of the core begins at the voltage of the moment (R444). -/
theorem State.coreMv_rampStart (w : Power) (h : w.ramp = true) (hstart : w.rampStart = s.clock.now) : ({ s with power := w } : State).coreMv = w.rampFrom := by
  have hmoved : (s.clock.now - w.rampStart).toNat / 100 = 0 := by
    rw [hstart, BitVec.sub_self]
    rfl
  unfold State.coreMv State.now
  dsimp only
  rw [if_pos h, hmoved]
  exact rampedMv_start _ _

/-- The power record of a ramp that has just begun toward a level (R444, R445). -/
def State.ramping (level : BitVec 2) : Power :=
  { s.power with level := level, ramp := true, rampFrom := s.coreMv, rampTo := nominalMv level.toNat, rampStart := s.clock.now
                 cap := if s.coreMv ≤ nominalMv level.toNat then levelCap level.toNat else s.power.cap }

theorem State.requestLevel_of_ramps {level : BitVec 2} (hidle : s.power.ramp = false → level ≠ s.power.current) (hramp : s.power.ramp = true → level ≠ s.power.level) :
    s.requestLevel level = { s with power := s.ramping level } := by
  unfold State.requestLevel
  by_cases h : s.power.ramp = true
  · refine (if_pos h).trans ((if_neg (hramp h)).trans ?_)
    unfold State.ramping
    rw [← h]
    rfl
  · exact (if_neg h).trans (if_neg (hidle (Bool.eq_false_iff.mpr h)))

/-- One field of a trim as a write leaves it: the new value up to 8, else the old one (R455). -/
theorem trimField_toNat (n : Nat) (old : BitVec 4) : (if n % 16 ≤ 8 then BitVec.ofNat 4 (n % 16) else old).toNat = if n % 16 ≤ 8 then n % 16 else old.toNat := by
  split
  · rw [BitVec.toNat_ofNat]
    omega
  · rfl

theorem State.trims_trimTo_same (d : Nat) (t : Trim) : (s.trimTo d t).power.trims.getD d Trim.init = t := Tab.getD_set_same _ _ _ _

theorem State.trims_trimTo_of_ne {d e : Nat} (t : Trim) (h : e ≠ d) : (s.trimTo d t).power.trims.getD e Trim.init = s.power.trims.getD e Trim.init :=
  Tab.getD_set_of_ne _ _ _ h

/-- A changed trim ramps from the voltage its domain has (R447). -/
theorem State.trimMv_trimTo (d e : Nat) (t : Trim) : (s.trimTo d t).trimMv e = s.trimMv e := by
  by_cases h : e = d
  · subst h
    have hramp : (s.trimTo e t).power.trimRamp.get? e = some (s.trimMv e, s.clock.now) := (Tab.get?_set _ _ _ _).trans (if_pos rfl)
    have hmoved : ((s.trimTo e t).now - s.clock.now).toNat / 100 = 0 := by
      rw [show (s.trimTo e t).now = s.clock.now from rfl, BitVec.sub_self]
      rfl
    rw [State.trimMv, hramp]
    dsimp only
    rw [hmoved]
    exact rampedMv_start _ _
  · have hramp : (s.trimTo d t).power.trimRamp.get? e = s.power.trimRamp.get? e := (Tab.get?_set _ _ _ _).trans (if_neg h)
    rw [State.trimMv, hramp, State.trimSteps, s.trims_trimTo_of_ne t h]
    rfl

theorem State.domainMv_trimTo (d e : Nat) (t : Trim) : (s.trimTo d t).domainMv e = s.domainMv e := by
  rw [State.domainMv, s.trimMv_trimTo]
  rfl

/-- A trim below 8 is one step more at the level raised (R448). -/
theorem at_raiseTrim {t : Trim} {level : Nat} (h : t.at level < 8) : (State.raiseTrim t level).at level = t.at level + 1 := by
  have hadd : ∀ b : BitVec 4, b.toNat < 8 → (b + 1).toNat = b.toNat + 1 := by
    intro b hb
    bv_omega
  match level with
  | 0 => exact hadd _ h
  | 1 => exact hadd _ h
  | _ + 2 => exact hadd _ h

end

/-! ### Device Dusk (R453) -/

/-- A context that device Dusk finds at rest: it holds no step and none drains. -/
def Ctx.resting (x : Ctx) : Prop := (x.state = .idle ∨ x.state = .drained) ∧ x.draining = false

theorem Ctx.resting_init : Ctx.init.resting := ⟨.inl rfl, rfl⟩

theorem State.reportLoss_of_none {s : State} {q : HostPort} (h : (s.port q).report = none) : s.reportLoss q = s := by
  rw [State.reportLoss, h]

section
variable {s : State} (h : ∀ e ∈ s.ctxs, e.2.resting)
include h

theorem State.ctx_resting (c : CtxId) : (s.ctx c).resting := by
  classical
  by_contra hc
  have hany := Tab.any_of_getD (t := s.ctxs) (p := fun x => decide ¬ x.resting) (k := c.toNat) (d := Ctx.init)
    (decide_eq_false (not_not.mpr Ctx.resting_init)) (decide_eq_true hc)
  obtain ⟨e, he, hrest⟩ := List.any_eq_true.mp hany
  exact of_decide_eq_true hrest (h e he)

theorem State.beginDusk_of_resting (c : CtxId) : s.beginDusk c = s := by
  obtain ⟨hstate, -⟩ := State.ctx_resting h c
  exact if_neg (by rcases hstate with hs | hs <;> simp [hs])

theorem State.drainOn_of_resting (c : CtxId) : s.drainOn c = s := State.drainOn_of_not_draining (State.ctx_resting h c).2

theorem State.drainAll_of_resting (hreport : ∀ q : HostPort, (s.port q).report = none) : s.drainAll = s := by
  have hdrain : s.ctxs.foldl (fun t e => t.drainOn (BitVec.ofNat 8 e.1)) s = s :=
    List.foldl_fixed' (f := fun (t : State) (e : Nat × Ctx) => t.drainOn (BitVec.ofNat 8 e.1)) (fun _ => State.drainOn_of_resting h _) _
  rw [State.drainAll, hdrain, State.reportLoss_of_none (hreport 0), State.reportLoss_of_none (hreport 1)]

theorem State.duskAll_of_resting (hreport : ∀ q : HostPort, (s.port q).report = none) :
    (s.ctxs.foldl (fun t e => t.beginDusk (BitVec.ofNat 8 e.1)) s).drainAll = s := by
  rw [List.foldl_fixed' (f := fun (t : State) (e : Nat × Ctx) => t.beginDusk (BitVec.ofNat 8 e.1)) (fun _ => State.beginDusk_of_resting h _)]
  exact State.drainAll_of_resting h hreport

/-- With the lane empty and every context at rest, device Dusk only begins (R453). -/
theorem State.startDusk_of_resting (hdusk : s.power.duskState ≠ 1) (hacts : s.acts = []) (hreport : ∀ q : HostPort, (s.port q).report = none) :
    s.startDusk = { s with power := { s.power with duskState := 1 }, vesper := { s.vesper with next := false } } := by
  refine (if_neg hdusk).trans ?_
  have hlane : State.stopBuilds (State.dropAllActs { s with power := { s.power with duskState := 1 }, vesper := { s.vesper with next := false } }) =
      { s with power := { s.power with duskState := 1 }, vesper := { s.vesper with next := false } } := by
    simp [State.dropAllActs, State.stopBuilds, hacts]
  dsimp only
  rw [hlane]
  exact State.duskAll_of_resting h hreport

end

/-- The trims of a domain as a write leaves them (R455). -/
theorem State.trims_setTrims (s : State) (d : Nat) (v : U32) : (s.setTrims d v).power.trims.getD d Trim.init =
    let old := s.power.trims.getD d Trim.init
    { noon := if v.toNat % 16 ≤ 8 then BitVec.ofNat 4 (v.toNat % 16) else old.noon
      afternoon := if v.toNat / 16 % 16 ≤ 8 then BitVec.ofNat 4 (v.toNat / 16 % 16) else old.afternoon
      evening := if v.toNat / 256 % 16 ≤ 8 then BitVec.ofNat 4 (v.toNat / 256 % 16) else old.evening } := by
  refine (s.trims_trimTo_same d _).trans ?_
  simp only [Nat.pow_zero, Nat.div_one, show 2 ^ 4 = 16 from rfl, show 2 ^ 8 = 256 from rfl]

/-- Settles O52: ramps begin at the voltage of the moment, for the core and for each domain. -/
theorem modeBlockCommandsComplete : Obligations.ModeBlockCommandsComplete := by
  refine ⟨?_, fun s p => ⟨fun howner => ⟨fun hdusk => ?_, fun hdusk hacts hrest hreport => ?_⟩, fun hdusk hrest hquiet => ?_, fun hnot => ?_⟩⟩
  · intro s p w
    refine ⟨fun howner => ⟨?_, fun level h3 hramp hcur => ?_, fun level h3 hidle hramp => ?_, fun d v => ?_⟩,
      fun hramp => congrArg Host.Outcome.next (if_neg (by rw [hramp]; decide)), fun hramp => congrArg Host.Outcome.next (if_pos (by rw [hramp]; rfl)),
      fun d hauto hboot hmean hoffset hlast hlow => ?_⟩
    · exact congrArg Host.Outcome.next (if_pos (by simp))
    · refine congrArg Host.Outcome.next ((if_neg (by simpa [howner] using h3)).trans ?_)
      exact (if_neg (by rw [hramp]; decide)).trans (if_pos hcur)
    · refine ⟨{ s with power := s.ramping level }, congrArg Host.Outcome.next ((if_neg (by simpa [howner] using h3)).trans (s.requestLevel_of_ramps hidle hramp)), rfl, rfl, ?_⟩
      exact s.coreMv_rampStart (s.ramping level) rfl rfl
    · refine ⟨s.setTrims d.val v, congrArg Host.Outcome.next (if_pos howner), rfl, fun e he => s.trims_trimTo_of_ne _ (fun h => he (Fin.ext h)), ?_, fun e => s.domainMv_trimTo d.val e _⟩
      rw [s.trims_setTrims]
      exact ⟨trimField_toNat _ _, trimField_toNat _ _, trimField_toNat _ _⟩
    · have hfree : ¬ ((!w.autotrim || decide (s.boot.state.toNat < 3) || decide (95 * w.cap * 10 < s.meanPower 1000) || w.offset != 0 || false ||
          decide (8 ≤ (w.trims.getD d.val Trim.init).at w.current.toNat)) = true) := by
        simp [hauto, hoffset]
        omega
      refine ⟨{ s.trimTo d.val (State.raiseTrim (w.trims.getD d.val Trim.init) w.current.toNat) with
        power := { (s.trimTo d.val (State.raiseTrim (w.trims.getD d.val Trim.init) w.current.toNat)).power with lastTrim := some s.clock.now } }, ?_, rfl, rfl, ?_⟩
      · change execAutotrim d s = _
        unfold execAutotrim
        dsimp only
        rw [hlast]
        exact congrArg Host.Outcome.next (if_neg hfree)
      · exact (congrArg (fun t : Trim => t.at w.current.toNat) (s.trims_trimTo_same d.val _)).trans (at_raiseTrim hlow)
  · exact congrArg Host.Outcome.next ((if_pos howner).trans (if_pos hdusk))
  · exact congrArg Host.Outcome.next ((if_pos howner).trans (State.startDusk_of_resting hrest hdusk hacts hreport))
  · exact congrArg Host.Outcome.next (if_neg (by simp [hdusk, hrest, hquiet]))
  · exact congrArg Host.Outcome.next (if_pos (by simpa [or_assoc] using hnot))

end Sys2Proof.Machine
end

section
/-! PROOFS. The power controller (16_power_modes.md, 19_package_and_electrical.md). -/

namespace Sys2Proof.Machine

/-! ### The events of the controller (R451) -/

/-- A device event reported: what a report moves, with no context moved but in the lag records of the SENDs that wait. -/
def eventOnly (s t : State) : Prop := reportOnly s t ∧ lagsOnly s t

theorem eventOnly_refl (s : State) : eventOnly s s := ⟨rfl, lagsOnly_refl s⟩

theorem eventOnly.trans {s t u : State} (h : eventOnly s t) (h' : eventOnly t u) : eventOnly s u :=
  ⟨reportOnly_trans h.1 h'.1, lagsOnly_trans _ _ _ h.2 h'.2⟩

theorem eventOnly.ite {s t u : State} {c : Prop} [Decidable c] (ht : eventOnly s t) (hu : eventOnly s u) : eventOnly s (if c then t else u) := by
  split
  · exact ht
  · exact hu

theorem hostOnly.lagsOnly {s t : State} (h : hostOnly s t) : lagsOnly s t := fun c => by
  rw [h.ctx c]
  exact ⟨rfl, fun _ => rfl⟩

theorem State.devEvent_eventOnly (s : State) (code : Byte) (detail : Bytes) : eventOnly s (s.devEvent code detail) := by
  refine ⟨s.devEvent_reportOnly code detail, ?_⟩
  have hports : lagsOnly s ((s.attnOn 0 code detail).attnOn 1 code detail) :=
    (hostOnly_trans _ _ _ (s.attnOn_hostOnly 0 code detail) (State.attnOn_hostOnly _ 1 code detail)).lagsOnly
  unfold State.devEvent
  dsimp only
  split_ifs
  · exact lagsOnly_trans _ _ _ hports (State.sendUpOf_egressOnly _ _ _ _).2.1
  · exact hports

theorem State.thermalEvent_eventOnly (s : State) (reason : Byte) : eventOnly s (s.thermalEvent reason) := State.devEvent_eventOnly _ _ _

/-- One event where a throttling begins, another where it ends. -/
theorem eventOnly.thermal {s t : State} (h : eventOnly s t) {begins ends : Prop} [Decidable begins] [Decidable ends] (a b : Byte) :
    eventOnly s (if begins then t.thermalEvent a else if ends then t.thermalEvent b else t) :=
  (h.trans (t.thermalEvent_eventOnly a)).ite ((h.trans (t.thermalEvent_eventOnly b)).ite h)

theorem State.regulateEvents_eventOnly (s : State) (w : Power) (excess thermal power : Bool) : eventOnly s (s.regulateEvents w excess thermal power) :=
  (((s.thermalEvent_eventOnly 6).ite (eventOnly_refl s)).thermal 1 2).thermal 3 4

/-! ### The hottest reading (R450) -/

theorem le_foldl_max (l : List Nat) (a : Nat) : a ≤ l.foldl max a := by
  induction l generalizing a with
  | nil => exact le_rfl
  | cons b l ih => exact (Nat.le_max_left a b).trans (ih (max a b))

theorem le_foldl_max_of_mem {l : List Nat} {x : Nat} (h : x ∈ l) (a : Nat) : x ≤ l.foldl max a := by
  induction l generalizing a with
  | nil => cases h
  | cons b l ih =>
    rcases List.mem_cons.mp h with rfl | h
    · exact (Nat.le_max_right a x).trans (le_foldl_max l _)
    · exact ih h _

theorem State.le_hottest {s : State} {r : U16} (h : r ∈ s.power.sensors) : r.toNat ≤ s.hottest := le_foldl_max_of_mem (List.mem_map_of_mem h) 0

/-- A die's first sensor holds the reading given for it (log 151). -/
theorem State.mem_sensors_readAt {s : State} (h : s.power.sensors.length = 40) (die : BitVec 2) (r : U16) : r ∈ (s.readAt die r).power.sensors := by
  have hfirst : (if die = 0 then 0 else if die = 1 then 16 else if die = 2 then 32 else 36) < s.power.sensors.length := by
    rw [h]
    split_ifs <;> decide
  exact List.mem_set hfirst r

/-! ### The offset (R449, R450) -/

theorem State.offsetStep_bounds (s : State) : -1 ≤ s.offsetStep ∧ s.offsetStep ≤ 1 := by
  unfold State.offsetStep
  dsimp only
  split_ifs <;> decide

theorem State.offsetStep_of_power {s : State} (h : s.power.cap * 1000 < s.meanPower 1000) : s.offsetStep = 1 := by
  unfold State.offsetStep
  dsimp only
  rw [if_pos h]
  split_ifs <;> rfl

theorem State.offsetStep_of_hot {s : State} (h : 4 * s.power.throttle.toNat < s.hottest) : s.offsetStep = 1 := by
  unfold State.offsetStep
  dsimp only
  rw [if_pos h]
  split_ifs <;> rfl

/-- An offset that moves by a step stays between 0 and 255. -/
theorem offset_moved (o : Byte) (d : Int) : ((BitVec.ofNat 8 (min 255 ((o.toNat : Int) + d).toNat)).toNat : Int) = max 0 (min 255 ((o.toNat : Int) + d)) := by
  rw [BitVec.toNat_ofNat]
  omega

theorem causeOf_thermal (thermal power : Bool) : (State.causeOf thermal power).getLsbD 0 = thermal := by
  cases thermal <;> cases power <;> rfl

theorem causeOf_power (thermal power : Bool) : (State.causeOf thermal power).getLsbD 1 = power := by
  cases thermal <;> cases power <;> rfl

/-- The offset that a control period leaves (R449, R450). -/
def State.offsetNext (s : State) : Byte :=
  if s.power.critical && decide (4 * s.power.throttle.toNat ≤ s.hottest) then BitVec.ofNat 8 (max s.power.offset.toNat s.fullOffset)
  else if decide (3000000 < s.meanPower 100) then BitVec.ofNat 8 s.fullOffset
  else BitVec.ofNat 8 (min 255 ((s.power.offset.toNat : Int) + s.offsetStep).toNat)

/-- A control period moves the offset and the throttle's causes, and reports. -/
theorem State.regulate_eq (s : State) : ∃ thermal cause critical overLimit,
    eventOnly { s with power := { s.power with offset := s.offsetNext, thermal := thermal, cause := cause, critical := critical, overLimit := overLimit } } s.regulate :=
  ⟨_, _, _, _, State.regulateEvents_eventOnly _ _ _ _ _⟩

/-- What a critical reading asks at once (R450, R451). -/
def State.criticalPower (s : State) : Power :=
  { s.power with offset := BitVec.ofNat 8 (max s.power.offset.toNat s.fullOffset), critical := true, thermal := true, cause := State.causeOf true (s.power.cause.getLsbD 1) }

theorem State.critical_power (s : State) : s.critical.power = s.criticalPower := by
  unfold State.critical
  dsimp only
  split_ifs
  · rfl
  · exact (State.thermalEvent_eventOnly _ _).1.power

theorem State.junctions_of_cool {s : State} (h : s.hottest < 420 ∨ s.power.resetN = false) (htrip : s.hottest < 460) : s.junctions = s := by
  refine (if_neg (Nat.not_le.mpr htrip)).trans (if_neg ?_)
  rintro ⟨hhot, hreset⟩
  rcases h with h | h
  · exact absurd hhot (Nat.not_le.mpr h)
  · exact Bool.false_ne_true (h.symm.trans hreset)

theorem State.junctions_of_critical {s : State} (h : 420 ≤ s.hottest) (htrip : s.hottest < 460) (hreset : s.power.resetN = true) : s.junctions = s.critical :=
  (if_neg (Nat.not_le.mpr htrip)).trans (if_pos ⟨h, hreset⟩)

theorem State.junctions_of_trip {s : State} (h : 460 ≤ s.hottest) : s.junctions = s.trip := if_pos h

/-- Settles O53: a sample and a critical junction act through the readings they leave, a control period through one step. -/
theorem powerControllerActs : Obligations.PowerControllerActs := by
  intro s w full jumps tripped
  have hjumps : ∀ u : State, u.power.offset = w.offset → u.fullOffset = s.fullOffset → u.power.cause = w.cause → jumps u u.critical := by
    intro u hoffset hfull hcause
    refine ⟨?_, ?_, ?_, ?_, ?_, ?_⟩
    all_goals rw [u.critical_power]
    · exact congrArg (BitVec.ofNat 8) (by rw [hoffset, hfull])
    · rfl
    · exact causeOf_thermal _ _
    · exact (causeOf_power _ _).trans (by rw [hcause])
    · rfl
    · rfl
  refine ⟨fun mw vin sensors hbeyond => exec_powerSample_beyond hbeyond, fun mw vin sensors hwithin hrails hlen => ?_, fun hrails hreset => ?_,
    fun die r hbeyond => exec_junctionCritical_beyond hbeyond, fun die r hcrit hwithin hrails hreset hlen => ?_, fun die r hcool => ?_⟩
  · intro u hot
    have hsampled : s.sampled mw vin sensors = u := by
      unfold State.sampled
      rw [if_pos hlen]
    have hexec : exec (.powerSample mw vin sensors) s = .next u.junctions := by
      rw [exec_powerSample_within hwithin]
      exact congrArg Host.Outcome.next ((if_neg (by rw [hrails]; decide)).trans (congrArg State.junctions hsampled))
    refine ⟨fun hcool htrip => hexec.trans (congrArg Host.Outcome.next (State.junctions_of_cool (s := u) hcool htrip)), fun hcrit htrip hreset => ⟨u.critical, ?_, hjumps u rfl rfl rfl⟩,
      fun htrip => ⟨u.trip, ?_, rfl, rfl, rfl, rfl⟩⟩
    · exact hexec.trans (congrArg Host.Outcome.next (State.junctions_of_critical (s := u) hcrit htrip hreset))
    · exact hexec.trans (congrArg Host.Outcome.next (State.junctions_of_trip (s := u) htrip))
  · obtain ⟨thermal, cause, critical, overLimit, hreport, hlags⟩ := s.regulate_eq
    have hpower := hreport.power
    refine ⟨s.regulate, congrArg Host.Outcome.next (if_pos (by rw [hrails, hreset]; rfl)), ⟨fun hhold => ?_, fun hhold hexcess => ?_, fun hnone => ?_, s.offsetStep_bounds.1, s.offsetStep_bounds.2,
      State.offsetStep_of_power, State.offsetStep_of_hot⟩, hlags, hreport.boot, by rw [hpower], by rw [hpower]⟩
    · exact (congrArg Power.offset hpower).trans (if_pos (by simpa using hhold))
    · exact (congrArg Power.offset hpower).trans ((if_neg (by simpa using hhold)).trans (if_pos (decide_eq_true hexcess)))
    · obtain ⟨hexcess, hhold⟩ := not_or.mp hnone
      have hoffset : s.offsetNext = BitVec.ofNat 8 (min 255 ((s.power.offset.toNat : Int) + s.offsetStep).toNat) :=
        (if_neg (by simpa using hhold)).trans (if_neg (by simpa using hexcess))
      rw [hpower]
      dsimp only
      rw [hoffset]
      exact offset_moved _ _
  · intro u
    have hexec : exec (.junctionCritical die r) s = .next u.junctions := by
      rw [exec_junctionCritical_within hwithin]
      exact congrArg Host.Outcome.next (if_neg (by rw [decide_eq_false (Nat.not_lt.mpr hcrit), hrails, hreset]; decide))
    have hhot : 420 ≤ u.hottest := hcrit.trans (State.le_hottest (State.mem_sensors_readAt hlen die r))
    refine ⟨hhot, fun htrip => ⟨u.critical, hexec.trans (congrArg Host.Outcome.next (State.junctions_of_critical hhot htrip hreset)), hjumps u rfl rfl rfl⟩,
      fun htrip => ⟨u.trip, hexec.trans (congrArg Host.Outcome.next (State.junctions_of_trip htrip)), rfl, rfl, rfl, rfl⟩⟩
  · rw [exec_junctionCritical_within (by omega)]
    exact congrArg Host.Outcome.next (if_pos (by rw [decide_eq_true hcool]; rfl))

end Sys2Proof.Machine
end

section
/-! PROOFS. The Selyn ports (14_selyn_trees.md): what training, retraining, the retry timer and LINK.PORT make of a port. -/

namespace Sys2Proof.Machine

/-! ### What moves one port alone -/

/-- No part of the state moves but one port. -/
def linkOnly (s : State) (n : SelynPort) (t : State) : Prop := t = { s with links := t.links } ∧ ∀ m, m ≠ n → t.link m = s.link m

section
variable (s : State) (n : SelynPort)

theorem State.modLink_linkOnly (f : Link → Link) : linkOnly s n (s.modLink n f) := ⟨rfl, fun _ hm => s.link_modLink_of_ne f hm⟩

/-- A command that moves one port leaves that port as its function makes it. -/
theorem exists_of_modLink {i : Instr} {f : Link → Link} {l : Link} (h : exec i s = .next (s.modLink n f)) (hl : f (s.link n) = l) :
    ∃ t, exec i s = .next t ∧ linkOnly s n t ∧ t.link n = l :=
  ⟨_, h, s.modLink_linkOnly n f, (s.link_modLink_same n f).trans hl⟩

end

/-! ### What frames sent leave of a port's training (R391, R396) -/

/-- A port that is up, down or training as before. -/
def Link.held (l m : Link) : Prop := m.state = l.state ∧ m.retrain = l.retrain

/-- Every port is up, down or training as before. -/
def linksHeld (s t : State) : Prop := ∀ m, (s.link m).held (t.link m)

theorem linksHeld_refl (s : State) : linksHeld s s := fun _ => ⟨rfl, rfl⟩

theorem linksHeld_trans (s t u : State) (h : linksHeld s t) (h' : linksHeld t u) : linksHeld s u := fun m =>
  ⟨(h' m).1.trans (h m).1, (h' m).2.trans (h m).2⟩

theorem linksHeld_of_links {s t : State} (h : t.links = s.links) : linksHeld s t := fun m => by
  have hm : t.link m = s.link m := congrArg (fun links => Tab.getD links m.val Link.init) h
  exact ⟨congrArg Link.state hm, congrArg Link.retrain hm⟩

theorem State.modLink_linksHeld (s : State) (n : SelynPort) {f : Link → Link} (h : ∀ l : Link, l.held (f l)) : linksHeld s (s.modLink n f) := fun m => by
  by_cases hm : m = n
  · subst hm
    rw [s.link_modLink_same]
    exact h _
  · rw [s.link_modLink_of_ne f hm]
    exact ⟨rfl, rfl⟩

theorem Link.keep_held (l : Link) (f : Frame) : l.held (l.keep f) := by
  unfold Link.keep
  split <;> exact ⟨rfl, rfl⟩

theorem Link.carry_held (l : Link) : l.held l.carry := by
  unfold Link.carry
  split <;> exact ⟨rfl, rfl⟩

theorem Link.transmit_held (l : Link) (f : Frame) : l.held (l.transmit f) := l.carry_held

theorem State.sendsGone_links (s : State) (n : SelynPort) : (s.sendsGone n).links = s.links := by
  unfold State.sendsGone
  dsimp only
  exact foldl_frame (fun s t => t.links = s.links) (fun _ => rfl) (fun _ _ _ h h' => h'.trans h) _ (fun _ _ => by rfl) _ _

theorem State.egressRound_linksHeld (s : State) (n : SelynPort) : linksHeld s (s.egressRound n) := by
  have harb : (s.arbitrate (113 + n.val) ((s.link n).ready.map s.frameRequest)).2.links = s.links := by
    rw [s.arbitrate_frame]
  unfold State.egressRound
  generalize s.arbitrate (113 + n.val) ((s.link n).ready.map s.frameRequest) = r at harb ⊢
  obtain ⟨granted, s1⟩ := r
  have hs1 : linksHeld s s1 := linksHeld_of_links harb
  cases granted with
  | none => exact hs1
  | some r =>
    dsimp only
    split
    · exact hs1
    · rename_i f _
      exact linksHeld_trans _ _ _ hs1 (linksHeld_trans _ _ _ (s1.modLink_linksHeld n fun l => Link.transmit_held { l with waitq := l.waitq.erase f } f)
        (linksHeld_of_links (State.sendsGone_links _ n)))

theorem State.pumpLink_linksHeld (s : State) (n : SelynPort) : linksHeld s (s.pumpLink n) :=
  foldl_frame linksHeld linksHeld_refl linksHeld_trans _ (fun s _ => s.egressRound_linksHeld n) _ s

theorem State.giveFrame_linksHeld (s : State) (n : SelynPort) (f : Frame) : linksHeld s (s.giveFrame n f) :=
  linksHeld_trans _ _ _ (s.modLink_linksHeld n fun l => l.keep_held f) (State.pumpLink_linksHeld _ n)

theorem State.sendUpOf_linksHeld (s : State) (origin : Nat) (ty : Byte) (fields : Bytes) : linksHeld s (s.sendUpOf origin ty fields) := by
  unfold State.sendUpOf
  split
  · exact linksHeld_refl s
  · exact State.giveFrame_linksHeld _ _ _

theorem hostOnly.links {s t : State} (h : hostOnly s t) : t.links = s.links := by
  unfold hostOnly at h
  rw [h]

theorem hostOnly.regs {s t : State} (h : hostOnly s t) : t.regs = s.regs := by
  unfold hostOnly at h
  rw [h]

theorem State.attnBoth_hostOnly (s : State) (code : Byte) (detail : Bytes) : hostOnly s ((s.attnOn 0 code detail).attnOn 1 code detail) :=
  hostOnly_trans _ _ _ (s.attnOn_hostOnly 0 code detail) (State.attnOn_hostOnly _ 1 code detail)

theorem State.devEvent_linksHeld (s : State) (code : Byte) (detail : Bytes) : linksHeld s (s.devEvent code detail) := by
  have hports : linksHeld s ((s.attnOn 0 code detail).attnOn 1 code detail) := linksHeld_of_links (s.attnBoth_hostOnly code detail).links
  unfold State.devEvent
  dsimp only
  split_ifs
  · exact linksHeld_trans _ _ _ hports (State.sendUpOf_linksHeld _ _ _ _)
  · exact hports

/-- Outside a formed tree an event reaches the hosts alone (R384, R411). -/
theorem State.devEvent_hostOnly {s : State} (h : s.regs.treeFormed = false) (code : Byte) (detail : Bytes) : hostOnly s (s.devEvent code detail) := by
  unfold State.devEvent
  dsimp only
  rw [if_neg (by rw [h]; decide)]
  exact s.attnBoth_hostOnly code detail

theorem State.linkEvent_linksHeld (s : State) (port reason width lo hi word : Nat) (rest : Bytes) : linksHeld s (s.linkEvent port reason width lo hi word rest) :=
  State.devEvent_linksHeld _ _ _

/-! ### Coming up and going down (R391, R398) -/

theorem linksHeld.link_modLink {s u : State} {n : SelynPort} {f : Link → Link} (h : linksHeld (s.modLink n f) u) : (f (s.link n)).held (u.link n) := by
  have hn := h n
  rwa [s.link_modLink_same] at hn

/-- A port that comes up has the width of its lanes, and retrains no more. -/
theorem State.linkUp_up (s : State) (n : SelynPort) :
    ((s.linkUp n).link n).state = (if (s.link n).lanes = 8 then .up8 else .up4) ∧ ((s.linkUp n).link n).retrain = none := by
  unfold State.linkUp
  dsimp only
  by_cases hwide : (s.link n).lanes = 8
  · simp only [hwide, BEq.rfl, if_true]
    exact (linksHeld_trans _ _ _ (State.pumpLink_linksHeld _ n) (State.linkEvent_linksHeld _ _ _ _ _ _ _ _)).link_modLink
  · simp only [hwide, beq_iff_eq, if_false]
    split
    · exact (State.pumpLink_linksHeld _ n).link_modLink
    · exact (linksHeld_trans _ _ _ (State.pumpLink_linksHeld _ n) (State.linkEvent_linksHeld _ _ _ _ _ _ _ _)).link_modLink

theorem State.freeForwarded_regs (s : State) (fs : List Frame) : (s.freeForwarded fs).regs = s.regs := by
  unfold State.freeForwarded
  refine foldl_frame (fun s t => t.regs = s.regs) (fun _ => rfl) (fun _ _ _ h h' => h'.trans h) _ (fun _ f => ?_) fs s
  split <;> rfl

/-- A port down with its buffers discarded, before the event tells of it (R398). -/
def State.dropLink (s : State) (n : SelynPort) : State :=
  let t := (s.freeForwarded ((s.link n).replay ++ (s.link n).waitq)).modLink n (fun l =>
    { Link.init with enable := l.enable, x4 := l.x4, everUp := l.everUp, child := l.child, lostRange := l.lostRange, stats := l.stats })
  if s.uplink? = some n then t.runFree else t

theorem State.link_runFree (s : State) (n : SelynPort) : s.runFree.link n = s.link n := rfl

theorem State.dropLink_state (s : State) (n : SelynPort) : ((s.dropLink n).link n).state = .down := by
  unfold State.dropLink
  dsimp only
  split
  · rw [State.link_runFree, State.link_modLink_same]
    rfl
  · rw [State.link_modLink_same]
    rfl

theorem State.dropLink_regs (s : State) (n : SelynPort) : (s.dropLink n).regs = s.regs := by
  unfold State.dropLink
  dsimp only
  split <;> exact s.freeForwarded_regs _

/-- Outside a formed tree a port that goes down is down (R398). -/
theorem State.linkDown_down {s : State} (h : s.regs.treeFormed = false) (n : SelynPort) (why : Byte) : ((s.linkDown n why).link n).up = false := by
  have hregs : (s.dropLink n).regs.treeFormed = false := by rw [s.dropLink_regs, h]
  have hevent : hostOnly (s.dropLink n) ((s.dropLink n).linkEvent n.val 3 0 0 0 0 []) := State.devEvent_hostOnly hregs _ _
  have hdown : s.linkDown n why = ((s.dropLink n).linkEvent n.val 3 0 0 0 0 []).modLink n (fun l => { l with child := none }) :=
    if_neg fun hformed => Bool.false_ne_true (((congrArg Regs.treeFormed hevent.regs).trans hregs).symm.trans ((Bool.and_eq_true _ _).mp hformed).2)
  have hstate : (((s.dropLink n).linkEvent n.val 3 0 0 0 0 []).link n).state = .down :=
    (State.linkEvent_linksHeld _ _ _ _ _ _ _ _ n).1.trans (s.dropLink_state n)
  rw [hdown, State.link_modLink_same]
  simp [Link.up, hstate]

/-! ### The commands of a port (R391 to R398) -/

/-- The lanes that a port takes of those that pass equalization (R391). -/
def Link.lanesOf (l : Link) (good : Byte) : Nat :=
  if l.x4 = false ∧ good = 0xFF then 8 else if good.toNat % 16 = 15 ∨ good.toNat / 16 = 15 then 4 else 0

/-- A port that may lock its lanes: one that trains, or one that is down, enabled and past the lock (R391, R464). -/
def State.mayLock (s : State) (n : SelynPort) : Prop :=
  (s.link n).state = .training ∨ ((s.link n).state = .down ∧ (s.link n).enable = true ∧ s.boot.locked = true)

section
variable {s : State} {n : SelynPort} {good : Byte}

theorem State.mayLock_iff :
    (decide ((s.link n).state = .training) || (decide ((s.link n).state = .down) && (s.link n).enable && s.boot.locked)) = true ↔ s.mayLock n := by
  simp [State.mayLock, and_assoc]

/-- A port whose lanes lock: trained down without a width, up again after a retrain, else its training record sent (R391, R392, R398). -/
theorem exec_lanesLocked_of_mayLock (h : s.mayLock n) : exec (.lanesLocked n good) s = .next
    (let s1 := s.modLink n (fun l => { l with lanes := (s.link n).lanesOf good, state := .training })
     if (s.link n).lanesOf good = 0 then (if (s.link n).retrain.isSome then s1 else s1.modLink n (fun l => { l with state := .down }))
     else if (s.link n).retrain.isSome && (s.link n).everUp then (if s.childPorts.contains n then (s1.linkUp n).tryRollcall else s1.linkUp n)
     else s1.modLink n (fun l => { l with record := some (s.trainRecord n) })) := by
  have hlanes : (if (!(s.link n).x4 && good == 0xFF) = true then 8 else if good.toNat % 16 = 15 ∨ good.toNat / 16 = 15 then 4 else 0) = (s.link n).lanesOf good :=
    if_congr (by simp) rfl rfl
  change execLanesLocked n good s = _
  unfold execLanesLocked
  dsimp only
  rw [hlanes]
  exact congrArg Host.Outcome.next (if_neg (by rw [State.mayLock_iff.mpr h]; decide))

theorem exec_lanesLocked_of_not (h : ¬ s.mayLock n) : exec (.lanesLocked n good) s = .next s :=
  congrArg Host.Outcome.next (if_pos (by rw [Bool.eq_false_iff.mpr (mt State.mayLock_iff.mp h)]; rfl))

/-- A port that trains or is down takes its lanes, and sends its record or goes down without any (R391, R392). -/
theorem lanesLocked_trains (h : s.mayLock n) (hretrain : (s.link n).retrain = none) :
    ∃ t, exec (.lanesLocked n good) s = .next t ∧ linkOnly s n t ∧ t.link n = { s.link n with
      lanes := (s.link n).lanesOf good, state := if (s.link n).lanesOf good = 0 then .down else .training
      record := if (s.link n).lanesOf good = 0 then (s.link n).record else some (s.trainRecord n) } := by
  have hexec := exec_lanesLocked_of_mayLock (good := good) h
  by_cases hl : (s.link n).lanesOf good = 0
  · rw [if_pos hl, if_pos hl]
    simp only [if_pos hl, hretrain, Option.isSome_none, Bool.false_eq_true, if_false, State.modLink_modLink] at hexec
    exact exists_of_modLink s n hexec rfl
  · rw [if_neg hl, if_neg hl]
    simp only [if_neg hl, hretrain, Option.isSome_none, Bool.false_and, Bool.false_eq_true, if_false, State.modLink_modLink] at hexec
    exact exists_of_modLink s n hexec rfl

/-- A retraining port that has no lanes or was never up takes them alone, and sends its record with them. -/
theorem lanesLocked_retrains_alone (hstate : (s.link n).state = .training) (hretrain : (s.link n).retrain.isSome = true)
    (h : (s.link n).lanesOf good = 0 ∨ (s.link n).everUp = false) :
    ∃ t, exec (.lanesLocked n good) s = .next t ∧ linkOnly s n t ∧ t.link n = { s.link n with
      lanes := (s.link n).lanesOf good, record := if (s.link n).lanesOf good = 0 then (s.link n).record else some (s.trainRecord n) } := by
  have hexec := exec_lanesLocked_of_mayLock (good := good) (.inl hstate)
  by_cases hl : (s.link n).lanesOf good = 0
  · rw [if_pos hl]
    simp only [if_pos hl, hretrain, if_true] at hexec
    exact exists_of_modLink s n hexec (by rw [← hstate])
  · rw [if_neg hl]
    simp only [if_neg hl, h.resolve_left hl, Bool.and_false, Bool.false_eq_true, if_false, State.modLink_modLink] at hexec
    exact exists_of_modLink s n hexec (by rw [← hstate])

/-- A retraining port that was up before comes up again, and a child's port goes on with forming the tree. -/
theorem lanesLocked_retrains_up (hstate : (s.link n).state = .training) (hretrain : (s.link n).retrain.isSome = true) (hl : (s.link n).lanesOf good ≠ 0)
    (hup : (s.link n).everUp = true) :
    ∃ u, linkOnly s n u ∧ u.link n = { s.link n with lanes := (s.link n).lanesOf good } ∧
      exec (.lanesLocked n good) s = .next (if s.childPorts.contains n = true then (u.linkUp n).tryRollcall else u.linkUp n) := by
  have hexec := exec_lanesLocked_of_mayLock (good := good) (.inl hstate)
  simp only [if_neg hl, hretrain, hup, Bool.and_self, if_true] at hexec
  exact ⟨_, s.modLink_linkOnly n _, (s.link_modLink_same n _).trans (by rw [← hstate]), hexec⟩

end

section
variable {s : State} {n : SelynPort}

/-- A training record that names this member and stepping (R392). -/
abbrev rightEnd (tr : TrainRec) : Prop := tr.member = 0x0980 ∧ tr.stepping = 0xB1

/-- A training record whose tree fields agree with this end of the port (R392). -/
def State.treeAgrees (s : State) (n : SelynPort) (tr : TrainRec) : Prop :=
  tr.treeId = s.regs.treeId ∧ tr.size = s.regs.treeSize ∧
    ((s.uplink? = some n ∧ tr.children.getLsbD tr.port.toNat = true) ∨ (s.childPorts.contains n = true ∧ tr.uplink = tr.port))

theorem endsAgree_iff {tr : TrainRec} :
    ((s.uplink? == some n && tr.children.getLsbD tr.port.toNat) || (s.childPorts.contains n && tr.uplink == tr.port)) = true ↔
      (s.uplink? = some n ∧ tr.children.getLsbD tr.port.toNat = true) ∨ (s.childPorts.contains n = true ∧ tr.uplink = tr.port) := by
  simp

/-- A training record answered by a tree port that trains: it comes up, or goes down with the event (R392). -/
theorem exec_trainingRecord_of_treePort {tr : TrainRec} (hstate : (s.link n).state = .training) (hlanes : (s.link n).lanes ≠ 0) (htree : s.treePort n = true) :
    exec (.trainingRecord n tr) s = .next
      (let refuse := fun (reason : Nat) => (s.modLink n (fun l => { l with state := .down, lanes := 0 })).linkEvent n.val reason 0 0 0 0 []
       if tr.member ≠ 0x0980 ∨ tr.stepping ≠ 0xB1 then refuse 4
       else if tr.treeId ≠ s.regs.treeId ∨ tr.size ≠ s.regs.treeSize then refuse 5
       else if !((s.uplink? == some n && tr.children.getLsbD tr.port.toNat) || (s.childPorts.contains n && tr.uplink == tr.port)) then refuse 5
       else (s.linkUp n).tryRollcall) :=
  congrArg Host.Outcome.next ((if_neg (not_or.mpr ⟨fun h => h hstate, hlanes⟩)).trans (if_neg (by rw [htree]; decide)))

theorem exec_trainingRecord_of_agrees {tr : TrainRec} (hstate : (s.link n).state = .training) (hlanes : (s.link n).lanes ≠ 0) (htree : s.treePort n = true)
    (hright : rightEnd tr) (hagrees : s.treeAgrees n tr) : exec (.trainingRecord n tr) s = .next (s.linkUp n).tryRollcall := by
  obtain ⟨hid, hsize, hends⟩ := hagrees
  rw [exec_trainingRecord_of_treePort hstate hlanes htree]
  dsimp only
  rw [if_neg (not_or.mpr ⟨fun h => h hright.1, fun h => h hright.2⟩), if_neg (not_or.mpr ⟨fun h => h hid, fun h => h hsize⟩), if_neg (by rw [endsAgree_iff.mpr hends]; decide)]

theorem exec_trainingRecord_of_refused {tr : TrainRec} (hstate : (s.link n).state = .training) (hlanes : (s.link n).lanes ≠ 0) (htree : s.treePort n = true)
    (h : ¬ (rightEnd tr ∧ s.treeAgrees n tr)) [Decidable (rightEnd tr)] : exec (.trainingRecord n tr) s = .next
      ((s.modLink n (fun l => { l with state := .down, lanes := 0 })).linkEvent n.val (if rightEnd tr then 5 else 4) 0 0 0 0 []) := by
  rw [exec_trainingRecord_of_treePort hstate hlanes htree]
  dsimp only
  by_cases hright : rightEnd tr
  · rw [if_neg (not_or.mpr ⟨fun h => h hright.1, fun h => h hright.2⟩), if_pos hright]
    by_cases hfields : tr.treeId ≠ s.regs.treeId ∨ tr.size ≠ s.regs.treeSize
    · rw [if_pos hfields]
    · obtain ⟨hid, hsize⟩ := not_or.mp hfields
      have hends : ¬ ((s.uplink? = some n ∧ tr.children.getLsbD tr.port.toNat = true) ∨ (s.childPorts.contains n = true ∧ tr.uplink = tr.port)) := fun hends =>
        h ⟨hright, not_not.mp hid, not_not.mp hsize, hends⟩
      rw [if_neg hfields, if_pos (by rw [Bool.eq_false_iff.mpr (mt endsAgree_iff.mp hends)]; rfl)]
  · rw [if_pos (not_and_or.mp hright), if_neg hright]

theorem Link.not_down_of_up {l : Link} (h : l.up = true) : l.state ≠ .down := fun hdown => by
  simp [Link.up, hdown] at h

theorem State.resend_of_idle (h : (s.link n).up = false ∨ (s.link n).replay = []) : s.resend n = s :=
  if_pos (by rcases h with h | h <;> simp [h])

theorem State.resend_of_open (hup : (s.link n).up = true) (hreplay : (s.link n).replay ≠ []) :
    s.resend n = if (s.link n).tries.any (fun k => decide (8 ≤ k)) then s.retrain n else s.modLink n (fun l => { l with
      tries := (s.link n).tries.map (· + 1), sent := (s.link n).replay.getLast?.map (fun f => (s.link n).wire (if f.data then 1 else 2) (some f))
      stats := { (s.link n).stats with resent := (s.link n).stats.resent + (s.link n).replay.length } }) := by
  have hopen : ¬ ((!(s.link n).up || (s.link n).replay.isEmpty) = true) := by simpa [hup] using hreplay
  exact if_neg hopen

end

/-- A write of LINK.PORT, before what it starts (R394). -/
def State.setPort (s : State) (n : SelynPort) (v : U32) : State := s.modLink n (fun l => { l with enable := v.getLsbD 0, x4 := v.getLsbD 1 })

theorem exec_linkPortWrite {s : State} {p : HostPort} (h : s.ownerMay p = true) (n : SelynPort) (v : U32) : exec (.linkPortWrite p n v) s = .next
    (if (!v.getLsbD 0) = true then
      if ((s.link n).up || (s.link n).retrain.isSome) = true then (s.setPort n v).linkDown n 1
      else (s.setPort n v).modLink n (fun l => { l with state := .down, lanes := 0 })
    else if (s.link n).state = .down then (if s.boot.locked = true then (s.setPort n v).startTraining n else s.setPort n v)
    else if (s.link n).x4 = v.getLsbD 1 then s.setPort n v
    else if (s.link n).up = true then (s.setPort n v).retrain n
    else (s.setPort n v).modLink n (fun l => { l with lanes := 0 })) :=
  congrArg Host.Outcome.next (if_pos h)

/-- Settles O55: each command of a port, by what the port is at. -/
theorem linkPortsTrain : Obligations.LinkPortsTrain := by
  intro s n l only lanes comesUp trains
  have hup : ∀ u, comesUp u := fun u => u.linkUp_up n
  refine ⟨fun good htrains hretrain => lanesLocked_trains htrains hretrain, fun good hstate hretrain => ⟨fun h => lanesLocked_retrains_alone hstate hretrain h, fun hl hever => ?_⟩,
    fun good h => exec_lanesLocked_of_not h, fun tr hstate hlanes htree => ⟨fun hright hagrees => ⟨exec_trainingRecord_of_agrees hstate hlanes htree hright hagrees, hup s⟩, fun h => ?_⟩,
    fun tr hstate hlanes htree => ?_, fun tr h => ?_, fun hl => ⟨?_, fun hreplay htries => ?_, fun hreplay htries => ?_, fun hreplay => ?_⟩, fun hl => ⟨?_, ?_⟩,
    fun farLost hstate hretrain => ⟨?_, fun hformed => State.linkDown_down hformed n _⟩, fun farLost h => ?_, fun p v howner => ⟨fun hon hl hretrain => ?_, fun hon hstate hlocked => ?_, fun hon hl hx4 => ?_⟩⟩
  · obtain ⟨u, honly, hlink, hexec⟩ := lanesLocked_retrains_up hstate hretrain hl hever
    exact ⟨u, honly, hlink, hup u, hexec⟩
  · exact ⟨_, s.modLink_linkOnly n _, s.link_modLink_same n _, exec_trainingRecord_of_refused hstate hlanes htree h⟩
  · refine exists_of_modLink s n (congrArg Host.Outcome.next ((if_neg (not_or.mpr ⟨fun h => h hstate, hlanes⟩)).trans (if_pos (by rw [htree]; rfl)))) rfl
  · exact congrArg Host.Outcome.next (if_pos h)
  · exact exists_of_modLink s n (congrArg Host.Outcome.next (if_pos hl)) rfl
  · have hfew : ¬ ((s.link n).tries.any (fun k => decide (8 ≤ k)) = true) := by
      simpa [List.any_eq_true] using htries
    refine ⟨_, congrArg Host.Outcome.next ((State.resend_of_open hl hreplay).trans (if_neg hfew)), s.modLink_linkOnly n _, ?_⟩
    rw [s.link_modLink_same]
  · have hmany : (s.link n).tries.any (fun k => decide (8 ≤ k)) = true := by
      simpa [List.any_eq_true] using htries
    exact congrArg Host.Outcome.next (((State.resend_of_open hl hreplay).trans (if_pos hmany)).trans (if_pos hl).symm)
  · exact congrArg Host.Outcome.next (State.resend_of_idle (.inr hreplay))
  · exact congrArg Host.Outcome.next (if_neg (by rw [hl]; decide))
  · exact congrArg Host.Outcome.next (State.resend_of_idle (.inl hl))
  · exact congrArg Host.Outcome.next (if_pos ⟨hstate, hretrain⟩)
  · exact congrArg Host.Outcome.next (if_neg h)
  · have hexec := exec_linkPortWrite howner n v
    rw [if_pos (by rw [hon]; rfl), if_neg (by rw [hl, hretrain]; decide), State.setPort, State.modLink_modLink] at hexec
    exact exists_of_modLink s n hexec (by rw [hon])
  · have hexec := exec_linkPortWrite howner n v
    rw [if_neg (by rw [hon]; decide), if_pos hstate, if_pos hlocked, State.setPort, State.startTraining, State.modLink_modLink] at hexec
    exact exists_of_modLink s n hexec ((if_pos (by rw [hon, hstate]; rfl)).trans (by rw [hon]))
  · have hexec := exec_linkPortWrite howner n v
    rw [if_neg (by rw [hon]; decide), if_neg (Link.not_down_of_up hl), if_pos hx4.symm, State.setPort] at hexec
    exact exists_of_modLink s n hexec (by rw [hon, hx4])

end Sys2Proof.Machine
end

section
/-! PROOFS. Frames on a Selyn port (14_selyn_trees.md): in order alone, and data by its index. -/

namespace Sys2Proof.Machine

/-! ### Frames out of order (R397) -/

section
variable {s : State} {n : SelynPort} {h : FrameHdr}

theorem State.receive_of_down (hup : (s.link n).up = false) (f : State → State) : s.receive n h f = s := if_pos (by rw [hup]; rfl)

theorem State.receive_of_outOfOrder (hup : (s.link n).up = true) (hseq : h.seq ≠ (s.link n).expected) (f : State → State) : s.receive n h f = s.badFrame n :=
  (if_neg (by rw [hup]; decide)).trans (if_pos hseq)

theorem State.receive_of_accepts (ha : accepts s n h = true) (f : State → State) : s.receive n h f = f (accepted s n h) := by
  obtain ⟨hup, hseq⟩ : (s.link n).up = true ∧ h.seq = (s.link n).expected := by simpa [accepts] using ha
  exact (if_neg (by rw [hup]; decide)).trans (if_neg (not_not.mpr hseq))

/-- Every command that brings a frame receives it. -/
theorem exec_of_frameOf {i : Instr} (hi : frameOf i = some (n, h)) : ∃ f, exec i s = .next (s.receive n h f) := by
  unfold frameOf at hi
  split at hi
  all_goals cases hi
  all_goals exact ⟨_, rfl⟩

end

/-- A port that has met a failed frame: one that discards already as it is, else with its replay request sent (R397). -/
def Link.failed (l : Link) : Link := if l.discarding then l else { l.emit 3 with discarding := true }

theorem Link.failed_of_discarding {l : Link} (h : l.discarding = true) : l.failed = l := if_pos h

theorem Link.failed_of_taking {l : Link} (h : l.discarding = false) :
    l.failed = { l with giveBack := l.carry.giveBack, sent := some (l.wire 3 none), discarding := true } := by
  refine (if_neg (by rw [h]; decide)).trans ?_
  rw [Link.emit, l.carry_eq]

/-- What a failed frame leaves of a port: it discards and takes nothing, and its request names the last good sequence. -/
theorem Link.failed_frame (l : Link) : l.failed.discarding = true ∧
    (l.discarding = false → ∃ w, l.failed.sent = some w ∧ w.kind = 3 ∧ w.frame = none ∧ w.ack = l.expected - 1) ∧
    l.failed.expected = l.expected ∧ l.failed.replay = l.replay ∧ l.failed.credits = l.credits := by
  cases hd : l.discarding with
  | true =>
    rw [Link.failed_of_discarding hd]
    exact ⟨hd, fun hfalse => absurd hfalse (by decide), rfl, rfl, rfl⟩
  | false =>
    rw [Link.failed_of_taking hd]
    exact ⟨rfl, fun _ => ⟨_, rfl, rfl, rfl, rfl⟩, rfl, rfl, rfl⟩

section
variable {s : State} {n : SelynPort}

theorem State.badFrame_of_up (hup : (s.link n).up = true) : s.badFrame n = s.modLink n Link.failed := if_pos hup

theorem State.badFrame_of_down (hup : (s.link n).up = false) : s.badFrame n = s := if_neg (by rw [hup]; decide)

end

/-! ### Data frames by their index (R401) -/

/-- A data frame as it is passed on: its parcel, with the port that it came in on (R401). -/
def passedFrame (n : SelynPort) (h : FrameHdr) (payload : Bytes) : Frame :=
  { seq := 0, vc := h.vc, data := true, last := h.last, dest := h.dest, ctx := h.ctx, stream := h.stream, payload := slice payload 0 256, src := some n, own := none }

section
variable {s : State} {n : SelynPort} {h : FrameHdr} {payload : Bytes}

theorem exec_dataFrame_of_accepts (ha : accepts s n h = true) : exec (.dataFrame n h payload) s = .next ((accepted s n h).routeData n h payload) :=
  congrArg Host.Outcome.next (State.receive_of_accepts ha _)

theorem State.routeData_here (hdest : h.dest.toNat = s.regs.treeIndex.toNat) :
    s.routeData n h payload = (s.deliver n h (slice payload 0 256)).modLink n (fun l => l.freed h.vc) := if_pos hdest

theorem State.routeData_past (hdest : h.dest.toNat ≠ s.regs.treeIndex.toNat) (htop : s.isTop = true) (hsize : s.regs.treeSize.toNat ≤ h.dest.toNat) :
    s.routeData n h payload = s.modLink n (fun l => ({ l with stats := { l.stats with discarded := l.stats.discarded + 1 } } : Link).freed h.vc) :=
  (if_neg hdest).trans (if_pos (by rw [htop, decide_eq_true hsize]; rfl))

theorem State.routeData_on {m : SelynPort} (hdest : h.dest.toNat ≠ s.regs.treeIndex.toNat) (hsize : s.isTop = true → h.dest.toNat < s.regs.treeSize.toNat)
    (hroute : s.route h.dest.toNat = some m) : s.routeData n h payload = s.giveFrame m (passedFrame n h payload) := by
  have hwithin : ¬ ((s.isTop && decide (s.regs.treeSize.toNat ≤ h.dest.toNat)) = true) := by
    simpa using hsize
  unfold State.routeData
  dsimp only
  rw [if_neg hdest, if_neg hwithin, hroute]
  rfl

end

/-- Settles O56: a frame is received in order or fails, and data goes by its index. -/
theorem framesTakenInOrder : Obligations.FramesTakenInOrder := by
  intro s n bad
  have hbad : (s.link n).up = true → bad (s.badFrame n) := fun hup => by
    rw [State.badFrame_of_up hup]
    obtain ⟨heq, hothers⟩ := s.modLink_linkOnly n Link.failed
    refine ⟨heq, hothers, ?_⟩
    rw [s.link_modLink_same]
    exact (s.link n).failed_frame
  refine ⟨fun i h hi hup => ?_, fun i h hi hup hseq => ?_, fun hup => ⟨_, rfl, hbad hup⟩, fun hup => congrArg Host.Outcome.next (State.badFrame_of_down hup),
    fun hup ack => ⟨congrArg Host.Outcome.next (if_pos hup), fun cvc credits => congrArg Host.Outcome.next (if_pos hup)⟩, fun h payload ha => ?_⟩
  · obtain ⟨f, hexec⟩ := exec_of_frameOf (s := s) hi
    rw [hexec, State.receive_of_down hup]
  · obtain ⟨f, hexec⟩ := exec_of_frameOf (s := s) hi
    exact ⟨_, hexec.trans (congrArg Host.Outcome.next (State.receive_of_outOfOrder hup hseq f)), hbad hup⟩
  · intro u free bs passed
    rw [exec_dataFrame_of_accepts ha]
    exact ⟨fun hdest => congrArg Host.Outcome.next (State.routeData_here hdest), fun hdest htop hsize => congrArg Host.Outcome.next (State.routeData_past hdest htop hsize),
      fun m hdest hsize hroute => congrArg Host.Outcome.next (State.routeData_on hdest hsize hroute)⟩

end Sys2Proof.Machine
end

section
/-! PROOFS. The tree's parcels (14_selyn_trees.md): what each asks of a device that has heard it. -/

namespace Sys2Proof.Machine

section
variable (u : State) (n : SelynPort)

/-- What lies within a range is lost no more once the range is found (R419). -/
theorem State.mem_lostSet_found (low high : U16) (x : U16 × U16) :
    x ∈ (u.found (low, high)).lostSet ↔ x ∈ u.lostSet ∧ ¬ (low.toNat ≤ x.1.toNat ∧ x.2.toNat ≤ high.toNat) := by
  refine List.mem_filter.trans (and_congr_right' ?_)
  rw [Bool.not_eq_true', ← Bool.decide_and, decide_eq_false_iff_not]

theorem State.link_found (r : U16 × U16) : (u.found r).link n = u.link n := rfl

/-- The ranges lost below this device stay lost; those through its uplink are back with a FORMED (R419). -/
def State.regained : State := { u with lostSet := u.lostSet.filter (fun r => decide (u.subtree.1 ≤ r.1.toNat) && decide (r.2.toNat ≤ u.subtree.2)) }

theorem State.mem_lostSet_regained (r : U16 × U16) : r ∈ u.regained.lostSet ↔ r ∈ u.lostSet ∧ u.subtree.1 ≤ r.1.toNat ∧ r.2.toNat ≤ u.subtree.2 := by
  refine List.mem_filter.trans (and_congr_right' ?_)
  rw [Bool.and_eq_true, decide_eq_true_iff, decide_eq_true_iff]

theorem State.spread_egressOnly (but : Option SelynPort) (origin : Nat) (ty : Byte) (fields : Bytes) : egressOnly u (u.spread but origin ty fields) :=
  State.sendOnOf_egressOnly _ _ _ _ _

theorem egressOnly.lostSet {s t : State} (h : egressOnly s t) : t.lostSet = s.lostSet := by
  rw [h.1]

theorem egressOnly.regs {s t : State} (h : egressOnly s t) : t.regs = s.regs := by
  rw [h.1]

/-- A device forms its tree by what it sends on alone (R400). -/
theorem State.setFormed_egressOnly :
    egressOnly { u with regs := { u.regs with treeFormed := true }, clock := { u.clock with treeSet := false } } u.setFormed := State.sendOn_egressOnly _ _ _ _

/-- A FORMED taken: the tree is formed here, and what lies beyond the uplink is back (R400, R419). -/
theorem State.setFormed_regained : u.regained.setFormed.regs.treeFormed = true ∧
    egressOnly { u with regs := { u.regs with treeFormed := true }, clock := { u.clock with treeSet := false }, lostSet := u.regained.setFormed.lostSet } u.regained.setFormed ∧
    ∀ r, r ∈ u.regained.setFormed.lostSet ↔ r ∈ u.lostSet ∧ u.subtree.1 ≤ r.1.toNat ∧ r.2.toNat ≤ u.subtree.2 := by
  have hformed := u.regained.setFormed_egressOnly
  rw [hformed.lostSet]
  exact ⟨by rw [hformed.regs], hformed, u.mem_lostSet_regained⟩

/-- A REJOIN taken: what lies in its range is back, and it goes on (R419). -/
theorem State.spread_found (low high : U16) (origin : Nat) (ty : Byte) (fields : Bytes) :
    egressOnly { u with lostSet := ((u.found (low, high)).spread (some n) origin ty fields).lostSet } ((u.found (low, high)).spread (some n) origin ty fields) ∧
      ∀ x, x ∈ ((u.found (low, high)).spread (some n) origin ty fields).lostSet ↔ x ∈ u.lostSet ∧ ¬ (low.toNat ≤ x.1.toNat ∧ x.2.toNat ≤ high.toNat) := by
  have hspread := (u.found (low, high)).spread_egressOnly (some n) origin ty fields
  rw [hspread.lostSet]
  exact ⟨hspread, u.mem_lostSet_found low high⟩

end

/-! ### Each parcel on a device that accepts its frame -/

section
variable {s : State} {n : SelynPort} {h : FrameHdr} (ha : accepts s n h = true)
include ha

theorem exec_lost_of_accepts (r : RangeFrom) (high : U16) (why : Byte) : exec (.lost n h r high why) s =
    .next (((heard s n h).spread (some n) r.origin.toNat 0x08 (toLE 2 r.low.toNat ++ toLE 2 high.toNat ++ [why])).addLost n (r.low, high)) := by
  change execLost n h r high why s = _
  rw [execLost, State.control_of_accepts ha]

theorem exec_rejoin_of_accepts (r : RangeFrom) (high : U16) : exec (.rejoin n h r high) s =
    .next (((heard s n h).found (r.low, high)).spread (some n) r.origin.toNat 0x09 (toLE 2 r.low.toNat ++ toLE 2 high.toNat)) := by
  change execRejoin n h r high s = _
  rw [execRejoin, State.control_of_accepts ha]

theorem exec_relay_of_uplink {m : SelynPort} (hup : (heard s n h).uplink? = some m) (origin : U16) (code : Byte) (seq : U32) (detail : Bytes) :
    exec (.relay n h origin code seq detail) s =
      .next ((heard s n h).giveFrame m (controlFrame (controlPayload 0x0A origin.toNat ([code, 0, 0, 0] ++ toLE 4 seq.toNat ++ slice detail 0 44)))) := by
  change execRelay n h origin code seq detail s = _
  rw [execRelay, State.control_of_accepts ha, hup]
  rfl

theorem exec_relay_of_top (hup : (heard s n h).uplink? = none) (origin : U16) (code : Byte) (seq : U32) (detail : Bytes) :
    exec (.relay n h origin code seq detail) s =
      .next ((heard s n h).linkEvent n.val 8 ((heard s n h).widthOf n) origin.toNat code.toNat seq.toNat (slice detail 0 32)) := by
  change execRelay n h origin code seq detail s = _
  rw [execRelay, State.control_of_accepts ha, hup]

/-- A FORMED that is not the parent's, or of another tree, has no effect (R400). -/
theorem exec_formed_of_other {treeId size : U16}
    (hother : (heard s n h).uplink? ≠ some n ∨ treeId ≠ (heard s n h).regs.treeId ∨ size ≠ (heard s n h).regs.treeSize.setWidth 16) :
    exec (.formed n h treeId size) s = .next (heard s n h) := by
  change execFormed n h treeId size s = _
  rw [execFormed, State.control_of_accepts ha, if_pos hother]

theorem exec_formed_of_parent {treeId size : U16} (hup : (heard s n h).uplink? = some n) (hid : treeId = (heard s n h).regs.treeId)
    (hsize : size = (heard s n h).regs.treeSize.setWidth 16) : exec (.formed n h treeId size) s = .next (heard s n h).regained.setFormed := by
  change execFormed n h treeId size s = _
  rw [execFormed, State.control_of_accepts ha, if_neg (not_or.mpr ⟨fun h => h hup, not_or.mpr ⟨fun h => h hid, fun h => h hsize⟩⟩)]
  rfl

section
variable {low high : U16} {depth : Byte} {treeId size : U16}

/-- A ROLLCALL from a port that leads to no child has no effect (R400). -/
theorem exec_rollcall_of_stranger (hchild : (heard s n h).childPorts.contains n = false) : exec (.rollcall n h low high depth treeId size) s = .next (heard s n h) := by
  change execRollcall n h low high depth treeId size s = _
  rw [execRollcall, State.control_of_accepts ha, if_pos (by rw [hchild]; rfl)]

variable (hchild : (heard s n h).childPorts.contains n = true)
include hchild

theorem exec_rollcall_of_otherTree (hother : treeId ≠ (heard s n h).regs.treeId ∨ size ≠ (heard s n h).regs.treeSize.setWidth 16) :
    exec (.rollcall n h low high depth treeId size) s = .next ((heard s n h).linkEvent n.val 5 ((heard s n h).widthOf n) 0 0 0 []) := by
  change execRollcall n h low high depth treeId size s = _
  rw [execRollcall, State.control_of_accepts ha, if_neg (by rw [hchild]; decide), if_pos hother]

variable (hid : treeId = (heard s n h).regs.treeId) (hsize : size = (heard s n h).regs.treeSize.setWidth 16)
include hid hsize

theorem exec_rollcall_of_forming (hlost : ((heard s n h).link n).lostRange = none) : exec (.rollcall n h low high depth treeId size) s =
    .next ((heard s n h).modLink n (fun l => { l with child := some (low, high, depth) })).tryRollcall := by
  change execRollcall n h low high depth treeId size s = _
  rw [execRollcall, State.control_of_accepts ha, if_neg (by rw [hchild]; decide), if_neg (not_or.mpr ⟨fun h => h hid, fun h => h hsize⟩), hlost]

theorem exec_rollcall_of_lost {r : U16 × U16} (hlost : ((heard s n h).link n).lostRange = some r) : exec (.rollcall n h low high depth treeId size) s =
    .next ((heard s n h).rejoinChild n (low, high) r depth) := by
  change execRollcall n h low high depth treeId size s = _
  rw [execRollcall, State.control_of_accepts ha, if_neg (by rw [hchild]; decide), if_neg (not_or.mpr ⟨fun h => h hid, fun h => h hsize⟩), hlost]

end
end

/-- A range that its port lost is taken back by its child's ROLLCALL (R419). -/
def State.takenBack (u : State) (n : SelynPort) (low high : U16) (depth : Byte) : State :=
  (u.modLink n (fun l => { l with child := some (low, high, depth), lostRange := none })).found (low, high)

theorem State.takenBack_eq (u : State) (n : SelynPort) (low high : U16) (depth : Byte) :
    u.takenBack n low high depth = { u with links := (u.takenBack n low high depth).links, lostSet := (u.takenBack n low high depth).lostSet } := rfl

theorem State.rejoinChild_of_ne {u : State} {n : SelynPort} {r lost : U16 × U16} (hr : r ≠ lost) (depth : Byte) :
    u.rejoinChild n r lost depth = u.linkEvent n.val 5 (u.widthOf n) 0 0 0 [] := if_neg hr

theorem State.rejoinChild_of_lost (u : State) (n : SelynPort) (low high : U16) (depth : Byte) : u.rejoinChild n (low, high) (low, high) depth =
    let w := (u.takenBack n low high depth).sendControl n 0x07 (toLE 2 u.regs.treeId.toNat ++ toLE 2 u.regs.treeSize.toNat)
    ((w.spread (some n) w.regs.treeIndex.toNat 0x09 (toLE 2 low.toNat ++ toLE 2 high.toNat)).linkEvent n.val 7 (w.widthOf n) low.toNat high.toNat 0 []).tryRollcall :=
  if_pos rfl

/-- Settles O59: each parcel's effect on the state that has heard it, by its tests. -/
theorem treeParcelsComplete : Obligations.TreeParcelsComplete := by
  intro s n h ha u refused back
  refine ⟨fun low high depth treeId size hchild => ⟨fun hother => ?_, fun hid hsize => ⟨fun hlost => ?_,
      fun r hlost hr => ?_, fun hlost => ⟨u.takenBack n low high depth, ?_, ?_, ?_, fun x => ?_, ?_⟩⟩⟩,
    fun low high depth treeId size hchild => ?_,
    fun treeId size => ⟨fun hother => ?_, fun hup hid hsize => ?_⟩,
    fun origin low high why => ?_, fun origin low high => ?_,
    fun origin code seq detail => ⟨fun m hup => ?_, fun hup => ?_⟩⟩
  · exact exec_rollcall_of_otherTree ha hchild hother
  · exact exec_rollcall_of_forming ha hchild hid hsize hlost
  · rw [exec_rollcall_of_lost ha hchild hid hsize hlost, State.rejoinChild_of_ne (Ne.symm hr)]
  · exact u.takenBack_eq n low high depth
  · rw [State.takenBack, State.link_found, State.link_modLink_same]
  · rw [State.takenBack, State.link_found, State.link_modLink_same]
  · exact State.mem_lostSet_found _ low high x
  · rw [exec_rollcall_of_lost ha hchild hid hsize hlost, State.rejoinChild_of_lost]
  · exact exec_rollcall_of_stranger ha hchild
  · exact exec_formed_of_other ha hother
  · exact ⟨_, exec_formed_of_parent ha hup hid hsize, u.setFormed_regained⟩
  · exact exec_lost_of_accepts ha _ high why
  · exact ⟨_, exec_rejoin_of_accepts ha _ high, rfl, u.spread_found n low high _ _ _⟩
  · exact exec_relay_of_uplink ha hup origin code seq detail
  · exact exec_relay_of_top ha hup origin code seq detail

end Sys2Proof.Machine
end

section
/-! PROOFS. Device time on an idle step (13_host_interface.md, R389): what drains on leaves the clock alone, and the tick moves it. -/

namespace Sys2Proof.Machine

/-! ### Device time through the state's operations -/

@[simp] theorem foldl_clock {α : Type} {f : State → α → State} (h : ∀ s a, (f s a).clock = s.clock) (l : List α) (s : State) : (l.foldl f s).clock = s.clock :=
  foldl_frame (fun s t => t.clock = s.clock) (fun _ => rfl) (fun _ _ _ h h' => h'.trans h) f h l s

theorem reportOnly.clock {s t : State} (h : reportOnly s t) : t.clock = s.clock := by
  unfold reportOnly at h
  rw [h]

theorem egressOnly.clock {s t : State} (h : egressOnly s t) : t.clock = s.clock := by
  rw [h.1]

section
variable (s : State) (c : CtxId)

@[simp] theorem State.modCtx_clock (f : Ctx → Ctx) : (s.modCtx c f).clock = s.clock := rfl

@[simp] theorem State.modServing_clock (f : Serving → Serving) : (s.modServing c f).clock = s.clock := rfl

@[simp] theorem State.hostWr_clock (p : HostPort) (a : Nat) (bs : Bytes) : (s.hostWr p a bs).clock = s.clock := (s.hostWr_reportOnly p a bs).clock

@[simp] theorem State.modObj_clock (id : U32) (f : Obj → Obj) : (s.modObj id f).clock = s.clock := by
  unfold State.modObj
  split <;> rfl

@[simp] theorem State.noteVec_clock (p : HostPort) (v : BitVec 6) (k : Nat) : (s.noteVec p v k).clock = s.clock := by
  rw [s.noteVec_hostOnly p v k]

@[simp] theorem State.ringEvent_clock (r : BitVec 2) (reason : Byte) (tail f : U32) (k : U16) : (s.ringEvent c r reason tail f k).clock = s.clock :=
  (s.attnOn_reportOnly _ _ _).clock

@[simp] theorem State.thresholdEvent_clock (b : Bool) (k : Counter) : (s.thresholdEvent b k).clock = s.clock := (s.devEvent_reportOnly _ _).clock

@[simp] theorem State.maintDone_clock (activity : Byte) (outcome : Nat) (c : Option CtxId) (discarded dropped : Bool) (target : U32) (tag result : Nat) :
    (s.maintDone activity outcome c discarded dropped target tag result).clock = s.clock := (s.devEvent_reportOnly _ _).clock

@[simp] theorem State.countLoc_clock (b : Bool) (l : Location) : (s.countLoc b l).clock = s.clock := by
  have hevent : ∀ (t : State) (hit : Bool) (k : Counter), (if hit then t.thresholdEvent b k else t).clock = t.clock := fun t hit k => by
    split
    · exact t.thresholdEvent_clock b k
    · rfl
  unfold State.countLoc
  dsimp only
  split
  · exact hevent _ _ _
  · split
    · exact hevent _ _ _
    · exact hevent _ _ _

/-! ### Locks and counters (R347, R355) -/

@[simp] theorem State.inherit_clock : s.inherit.clock = s.clock := by
  unfold State.inherit
  refine (foldl_clock (fun t e => ?_) _ _).trans (foldl_clock (fun _ _ => by rfl) _ _)
  dsimp only
  split
  · split <;> rfl
  · rfl

@[simp] theorem State.handOver_clock (k : Nat) : (s.handOver k).clock = s.clock := by
  unfold State.handOver
  dsimp only
  have harb : ∀ reqs, (s.arbitrate (0x10000 + k) reqs).2.clock = s.clock := fun reqs => by rw [s.arbitrate_frame]
  split
  · rename_i reqs s1 h
    exact (State.inherit_clock _).trans ((congrArg (fun r => r.2.clock) h).symm.trans (harb _))
  · rename_i reqs r s1 h
    exact (State.inherit_clock _).trans ((congrArg (fun r => r.2.clock) h).symm.trans (harb _))

@[simp] theorem State.store_clock (k : Nat) (w : U32) : (s.store k w).clock = s.clock := by
  unfold State.store
  dsimp only
  split
  · exact State.handOver_clock _ _
  · rfl

/-! ### Completions (R373 to R381) -/

@[simp] theorem State.descSignal_clock (d : Desc) : (s.descSignal d).clock = s.clock := by
  unfold State.descSignal
  dsimp only
  split_ifs <;> simp

@[simp] theorem State.writeEntry_clock (d : Desc) (v : Done) : (s.writeEntry d v).clock = s.clock := by
  unfold State.writeEntry
  dsimp only
  split_ifs <;> simp

@[simp] theorem State.completeOne_clock (d : Desc) (v : Done) (sig : Bool) : (s.completeOne d v sig).clock = s.clock := by
  unfold State.completeOne
  dsimp only
  split_ifs <;> simp

@[simp] theorem State.fenceDone_clock : (s.fenceDone c).clock = s.clock := by
  unfold State.fenceDone
  split
  · split
    · exact s.completeOne_clock _ _ _
    · rfl
  · rfl

@[simp] theorem State.complete_clock (d : Desc) (v : Done) : (s.complete d v).clock = s.clock :=
  (State.fenceDone_clock _ _).trans (s.completeOne_clock d v true)

@[simp] theorem State.completeUnsignalled_clock (d : Desc) (v : Done) : (s.completeUnsignalled d v).clock = s.clock :=
  (State.fenceDone_clock _ _).trans (s.completeOne_clock d v false)

@[simp] theorem State.settle_clock : (s.settle c).clock = s.clock := by
  unfold State.settle
  exact foldl_clock (fun t r => (State.complete_clock _ _ _).trans (t.modCtx_clock c _)) _ _

/-! ### Steps that end (R42, R355, R417) -/

theorem State.lagSend_clock (r : SendRun) : (s.lagSend r).clock = s.clock := by
  unfold State.lagSend
  split <;> rfl

@[simp] theorem State.lagSends_clock (t : State) : (s.lagSends c t).clock = t.clock :=
  (foldl_clock (fun _ _ => by rfl) _ _).trans (foldl_clock State.lagSend_clock _ _)

@[simp] theorem State.endSteps_clock (code : Code) : (s.endSteps c code).clock = s.clock :=
  (foldl_clock (fun _ _ => State.complete_clock _ _ _) _ _).trans (s.lagSends_clock c _)

@[simp] theorem State.stopStep_clock (code : Code) : (s.stopStep c code).clock = s.clock := (State.inherit_clock _).trans (s.endSteps_clock c code)

@[simp] theorem State.endWaiters_clock (locks which : Nat → Bool) : (s.endWaiters c locks which).clock = s.clock :=
  (State.inherit_clock _).trans (foldl_clock (fun t w => t.endSteps_clock w _) _ _)

@[simp] theorem State.abandonOpen_clock (why : Byte) : (s.abandonOpen c why).clock = s.clock := by
  refine foldl_clock (fun t e => ?_) _ _
  dsimp only
  split
  · exact (State.sendUpOf_egressOnly _ _ _ _).clock
  · exact (State.sendOn_egressOnly _ _ _ _).clock

/-! ### Slots, activities and images given up (R33, R251, R293, R360) -/

@[simp] theorem State.hostPart_clock (p : HostPort) (hcrc : Bool) (base total off : Nat) (bs : Bytes) : (s.hostPart p hcrc base total off bs).clock = s.clock := by
  unfold State.hostPart
  dsimp only
  split
  · refine (foldl_clock (fun t _ => t.hostWr_clock p _ _) _ _).trans ?_
    split <;> simp
  · exact s.hostWr_clock p _ _

@[simp] theorem State.discardStream_clock (slot : Nat) : (s.discardStream slot).clock = s.clock := by
  unfold State.discardStream
  dsimp only
  split <;> rfl

@[simp] theorem State.settleSlot_clock (slot : Nat) (code : Code) : (s.settleSlot c slot code).clock = s.clock := by
  have hcomplete : ∀ {α : Type} (d : α → Desc) (v : Done) (l : List α) (t : State), (l.foldl (fun t a => t.complete (d a) v) t).clock = t.clock :=
    fun d v l t => foldl_clock (fun t a => t.complete_clock (d a) v) l t
  unfold State.settleSlot
  dsimp only
  rw [hcomplete, hcomplete, hcomplete, State.modServing_clock]

@[simp] theorem State.endSlot_clock (slot : Nat) (code : Code) (reason : Nat) (discard : Bool) : (s.endSlot c slot code reason discard).clock = s.clock := by
  refine (State.settleSlot_clock _ c slot code).trans ?_
  change (if discard then s.discardStream slot else s).clock = s.clock
  split
  · exact s.discardStream_clock slot
  · rfl

@[simp] theorem State.settleHandoff_clock (h : Handoff) (code : Option Code) : (s.settleHandoff c h code).clock = s.clock := by
  unfold State.settleHandoff
  simp

theorem State.discardDesc_clock (d : Desc) : (s.discardDesc d).clock = s.clock := by
  unfold State.discardDesc
  split
  · exact State.fenceDone_clock _ _
  · rfl

@[simp] theorem State.dropActs_clock : (s.dropActs c).clock = s.clock := by
  refine (foldl_clock (fun t a => ?_) _ _).trans rfl
  refine (State.maintDone_clock _ _ _ _ _ _ _ _ _).trans ?_
  cases a.desc with
  | none => rfl
  | some d => exact t.discardDesc_clock d

@[simp] theorem State.makeAbsent_clock (id : U32) : (s.makeAbsent id).clock = s.clock := by
  unfold State.makeAbsent
  split <;> rfl

@[simp] theorem State.adopt_clock (i : U32) : (s.adopt i).clock = s.clock := by
  refine foldl_clock (fun t e => ?_) _ _
  split <;> rfl

@[simp] theorem State.dropUnnamed_clock : s.dropUnnamed.clock = s.clock := by
  unfold State.dropUnnamed
  dsimp only
  refine foldl_clock (fun t id => ?_) _ _
  exact t.makeAbsent_clock id

@[simp] theorem State.unbind_clock : (s.unbind c).clock = s.clock := by
  change (s.emptyWindows c).clock = s.clock
  unfold State.emptyWindows
  split
  · rfl
  · refine foldl_clock (fun t e => ?_) _ _
    split
    · exact t.modObj_clock _ _
    · rfl

@[simp] theorem State.bind_clock (i : U32) : (s.bind c i).clock = s.clock := by
  unfold State.bind
  simp [State.measure]

@[simp] theorem State.stepEffect_clock (d : Desc) : (s.stepEffect d).clock = s.clock := by
  unfold State.stepEffect
  split
  · unfold State.unbindNow
    dsimp only
    split
    · simp
    · split <;> simp
  · unfold State.bindNow
    dsimp only
    split
    · simp
    · split_ifs <;> simp

/-! ### Dusk goes on (R452, R453) -/

theorem State.cancelOne_clock (e : Desc × Bool) : (s.cancelOne e).clock = s.clock := by
  unfold State.cancelOne
  dsimp only
  split
  · exact State.completeUnsignalled_clock _ _ _
  · rfl

theorem State.cancelWaiting_clock : (s.cancelWaiting c).clock = s.clock := foldl_clock State.cancelOne_clock _ _

theorem State.cancelSteps_clock : (s.cancelSteps c).clock = s.clock := by
  refine (foldl_clock (fun t d => ?_) _ _).trans (State.stopStep_clock _ c _)
  split
  · exact t.stepEffect_clock d
  · exact t.completeUnsignalled_clock d _

theorem State.flushSlots_clock : (s.flushSlots c).clock = s.clock := by
  have hslots : ∀ ks : List Nat, (ks.foldl (fun t k => if t.slotState k = .ended then t else t.endSlot c k .cancelled 0 true) s).clock = s.clock := fun ks => by
    refine foldl_clock (fun t k => ?_) ks s
    split
    · rfl
    · exact t.endSlot_clock c k _ _ _
  unfold State.flushSlots
  dsimp only
  rw [foldl_clock (fun t h => t.settleHandoff_clock c h _), foldl_clock (fun t d => t.complete_clock d _), State.modServing_clock, hslots]

theorem State.drain_clock : (s.drain c).clock = s.clock := by
  have hflushed : ((s.cancelSteps c).flushSlots c).clock = s.clock := (State.flushSlots_clock _ c).trans (s.cancelSteps_clock c)
  unfold State.drain
  dsimp only
  rw [State.inherit_clock, State.dropActs_clock]
  split
  · rw [State.abandonOpen_clock, State.endWaiters_clock, State.modCtx_clock, hflushed]
  · rw [State.endWaiters_clock, State.modCtx_clock, hflushed]

theorem State.drainOn_clock : (s.drainOn c).clock = s.clock := by
  unfold State.drainOn
  dsimp only
  split_ifs
  · exact (State.drain_clock _ c).trans (s.cancelWaiting_clock c)
  · exact s.cancelWaiting_clock c
  · rfl

theorem State.reportLoss_clock (p : HostPort) : (s.reportLoss p).clock = s.clock := by
  unfold State.reportLoss
  split
  · rfl
  · split
    · rfl
    · exact (State.attnOn_reportOnly _ _ _ _).clock

/-- What drains on leaves device time as it is. -/
theorem State.drainAll_clock : s.drainAll.clock = s.clock :=
  (State.reportLoss_clock _ 1).trans ((State.reportLoss_clock _ 0).trans (foldl_clock (fun t _ => t.drainOn_clock _) _ _))

end

/-- The time of a tick: 5,000 ns, one more or less while device time slews (R389; log 5). -/
theorem tick_ns (slew : Int) : 5000 + (if 0 < slew then 1 else if slew < 0 then -1 else 0) = (if 0 < slew then 5001 else if slew < 0 then 4999 else (5000 : Int)) := by
  split_ifs <;> rfl

/-- Settles O2: with nothing waiting, what drains goes on and the clock ticks. -/
theorem idleStepPassesTime : Obligations.IdleStepPassesTime := by
  intro s hs
  have hstep : step s = .next s.drainAll.tick := by
    rw [step, hs]
    rfl
  refine ⟨_, hstep, ?_, ?_⟩
  · exact (congrArg Prod.fst s.drainAll_spine).trans hs
  · change s.drainAll.clock.now + BitVec.ofInt 64 (5000 + _) = _
    rw [s.drainAll_clock, tick_ns]

end Sys2Proof.Machine
end
